-- ==== Sys2Proof/Word.lean ====
section
/-! DEFINITION. The word types of the module: register words, bytes and the widths the manual's tables use. -/

namespace Sys2Proof

/-- A byte of memory. -/
abbrev Byte := BitVec 8
/-- Widths of the manual's tables (R8: registers are 64 bits wide). -/
abbrev U8 := BitVec 8
abbrev U16 := BitVec 16
abbrev U32 := BitVec 32
abbrev U48 := BitVec 48
abbrev U64 := BitVec 64
/-- A digest or a measurement register: 64 bytes (R364). -/
abbrev U512 := BitVec 512

/-- The 64 lanes of a vector register (R123). -/
abbrev LaneVec := Vector U64 64

/-- A table keyed by a number, in one canonical form: keys strictly rising, no entry equal to the value an unlisted
key reads as. -/
abbrev SMap (α : Type) := List (Nat × α)

end Sys2Proof
end

