-- ==== Sys2Proof/Types.lean ====
section
/-! DEFINITION. The manual's own data: enumerations, descriptors, packets, records and stream sections. Every structure
names the table of the manual whose shape it has. -/

namespace Sys2Proof.Machine

/-- The two channels of a module (R19). -/
abbrev ChanId := Fin 2
/-- A logical core, 0 to 127 (R17). -/
abbrev LCore := Fin 128
/-- A vector register v0 to v63 (R123). -/
abbrev VReg := Fin 64
/-- A lane of the vector engine (R123). -/
abbrev Lane := Fin 64
/-- A Warren link, 0 to 47 (R245, R246). -/
abbrev LinkId := Fin 48

/-- CHN_STATUS.STATE, Table 01-10 (R30). -/
inductive ChState where
  | reset | boot | recovery | calibrate | joined | loaded | running | leaving
  deriving DecidableEq, Repr

/-- Task states of Table 02-4 (R40). FREE, COMPLETE, ABORTED and FAULTED hold no task in this model: the slot is released
in the same step. COMMITTED is the flag `Task.committed`, since a committed task also parks and resumes (R40). -/
inductive TaskSt where
  | waiting | ready | running | parked
  deriving DecidableEq, Repr

/-- Why a task is parked (R40, R41, R48, R184, R189, R196). -/
inductive ParkCause where
  | none | response | fence | opLimit | programEnd | page | walk | actReturn | goneRoute
  deriving DecidableEq, Repr

/-- Task descriptor, Table 02-3 (R38), field by field. -/
structure TaskDesc where
  cls : U16 := 0
  kind : U8 := 0
  flags : U8 := 0
  planSeq : U32 := 0
  depCtr : U16 := 0
  depTarget : U16 := 0
  creditQ : U8 := 0
  patience : U8 := 0
  order : U8 := 0
  rsvd : U8 := 0
  arg0 : U64 := 0
  arg1 : U64 := 0
  arg2 : U64 := 0
  arg3 : U64 := 0
  doneSig : U64 := 0
  outTag : U32 := 0
  plist : U32 := 0
  deriving DecidableEq, Repr

/-- Tile record, Table 04-2 (R79), field by field. -/
structure TileRec where
  aEbase : U32 := 0
  aSbase : U32 := 0
  bEbase : U32 := 0
  bSbase : U32 := 0
  aPitch : U16 := 0
  bPitch : U16 := 0
  aRow0 : U16 := 0
  bRow0 : U16 := 0
  kOff : U16 := 0
  kBlocks : U16 := 0
  fmt : U8 := 0
  mode : U8 := 0
  out : U8 := 0
  cFmt : U8 := 0
  outEbase : U32 := 0
  outSbase : U32 := 0
  cBase : U32 := 0
  outPitch : U16 := 0
  outRow0 : U16 := 0
  outCol0b : U16 := 0
  scaleIdx : U16 := 0
  tensorId : U32 := 0
  sliceCtl : U16 := 0
  outBlk0 : U48 := 0
  deriving DecidableEq, Repr

/-- DMA descriptor, Table 13-1 (R284), field by field. -/
structure DmaDesc where
  op : U8 := 0
  flags : U8 := 0
  esize : U8 := 0
  rsvd : U8 := 0
  count : U32 := 0
  src : U64 := 0
  dst : U64 := 0
  srcPitch : U32 := 0
  dstPitch : U32 := 0
  rows : U32 := 0
  rowBytes : U32 := 0
  aux : U64 := 0
  aux2 : U64 := 0
  sigAddr : U64 := 0
  deriving DecidableEq, Repr

/-- Warren packet: the header of Table 12-3 (R253) and its payload. `srcRsvd` is SRC [31:26]. -/
structure Packet where
  op : U8 := 0
  ctlClass : BitVec 3 := 0
  vc : BitVec 2 := 0
  buf : BitVec 2 := 0
  lastIntra : Bool := false
  len : U16 := 0
  srcModule : BitVec 14 := 0
  srcChannel : BitVec 1 := 0
  agent : U8 := 0
  psel : BitVec 3 := 0
  srcRsvd : BitVec 6 := 0
  addr : U64 := 0
  tag : U32 := 0
  seq : U16 := 0
  status : U8 := 0
  arg : U8 := 0
  operand : U64 := 0
  payload : List Byte := []
  deriving DecidableEq, Repr

/-- Completion codes, Table 12-5 (R256). -/
inductive CompCode where
  | ok | gone | lost | routeErr | opErr | addrErr | alignErr | memErr | scaleMismatch
  deriving DecidableEq, Repr

/-- The operations a task can issue, Table 12-4 (R46, R254); FENCE never produces a packet. -/
inductive RemKind where
  | get | put | putAdd | cas | fetchAdd | signal
  deriving DecidableEq, Repr

/-- What a transfer of the exchange carries of a bucket's data at the channel that sends it: the pre-pass bytes with the layout epoch (R222,
R223), the encoded groups (R225), those of them that the second path samples (R236), the summary of a sett (R224), the agreement as the
domain root sends it and as a bucket root sends it on (R224), a running sum of either path with its saturations (R228, R236), and the reduced
groups (R229). -/
inductive ExSrc where
  | prepass | encoded | sampled | summary | verdict (sett : Bool) | running (check : Bool) | reduced
  deriving DecidableEq, Repr

/-- What the fixed program of a task does as a whole, where the manual gives its program: the additions of the exchange of a bucket (R226 to R228,
R236), the steps of its low-rank form (R235), and the update of a statistic tile (R210 to R216). `own` is a program of its own, whose steps
are the vector commands. `check` selects the second path. -/
inductive TaskWork where
  | own
  | settAdd (check : Bool) (bucket : Nat)
  | requantise (check : Bool) (bucket : Nat)
  | chainAdd (check : Bool) (bucket : Nat)
  | lowSum (grad resid sum count : Nat)          -- M′ = M + E: HBM offsets and number of elements
  | lowOrth (bucket : Nat)                       -- P̂ of the pair whose first bucket is named
  | lowEnd (bucket sum resid prev : Nat)         -- E and Q_prev: HBM offsets of M′, E and Q_prev
  | stat (tile : Nat)
  | block (tile : Nat)
  | writeback (tile : Nat)
  deriving DecidableEq, Repr

/-- The end of a task's program: its slot, and the work it has done. -/
structure TaskEnd where
  slot : Nat
  work : TaskWork := .own
  deriving DecidableEq, Repr

/-- Codewords that FEC corrected, and those it could not, in an arriving frame (R248). -/
structure FecCounts where
  corr : Nat := 0
  uncorr : Nat := 0
  deriving DecidableEq, Repr

/-- A lane state that a merge takes: the one of the core's lane, or one that has come in three vector registers (R134). -/
structure LaneSrc where
  lane : Lane
  regs : Option (VReg × VReg × VReg) := none
  deriving DecidableEq, Repr

/-- The lane that a merge changes, and the vector registers that take the merged state out, where there are any (R134). -/
structure LaneDst where
  lane : Lane
  regs : Option (VReg × VReg × VReg) := none
  deriving DecidableEq, Repr

/-- The register of FP32 lanes of a codec command, and the one of packed codes, where there is one (R123, R139, R140). -/
structure CodecRegs where
  lanes : VReg
  packed : Option VReg := none
  deriving DecidableEq, Repr

/-- The end of a permute: the bytes of the moves from other roles, and the t_state values that move with them (R242). -/
structure PermuteEnd where
  ch : ChanId
  incoming : List (List Byte) := []
  counters : List (Nat × U32) := []
  deriving DecidableEq, Repr

/-- A remote operation as a task or an engine issues it (R46, R253). `count` is the byte count of a GET. -/
structure RemOp where
  kind : RemKind := .get
  cls : BitVec 3 := 0
  addr : U64 := 0
  operand : U64 := 0
  arg : U8 := 0
  payload : List Byte := []
  forward : Option (Nat × Nat × Bool) := none  -- transit page that a PUT forwards, and that no later pass needs it (R191)
  bucket : Option Nat := none                  -- bucket of the exchange that a transfer belongs to (R232)
  src : Option (ExSrc × Nat) := none           -- what it carries of that bucket, from an offset on
  prepass : Bool := false                      -- the SIGNAL that ends this channel's pre-pass of the bucket (R233)
  deriving DecidableEq, Repr

/-- Where a request entered its target channel from (R28, R251, R378). -/
inductive Origin where
  | ownCore (core : LCore)                       -- a core of this channel, over the NoC (R251)
  | warren (link : LinkId)                       -- a packet from another channel
  | firmware
  | host (qp : Nat)
  | jtag
  deriving DecidableEq, Repr

/-- Who writes a register (R28, R375, R379). -/
inductive Writer where
  | warren | host | secureHost | firmware | jtag
  deriving DecidableEq, Repr

/-- Link states, Table 12-1 (R247), in the encoding order of WRN_LINK.STATE. -/
inductive LinkSt where
  | down | training | auth | up | retrain | failed
  deriving DecidableEq, Repr

/-- Route entry, Table 12-6 (R259). States: 0 ABSENT, 1 LIVE, 2 DEPARTED, 3 SELF. -/
structure RouteEntry where
  state0 : BitVec 2 := 0
  state1 : BitVec 2 := 0
  inc : U16 := 0
  mask0 : U48 := 0
  mask1 : U48 := 0
  rsvd : BitVec 12 := 0
  deriving DecidableEq, Repr

/-- TIME message, Table 12-18 (R265). -/
structure TimeMsg where
  stratum : U8 := 0
  periodUs : U16 := 0
  tgen : U32 := 0
  t1 : U64 := 0
  t2 : U64 := 0
  t3 : U64 := 0
  utcSec : U32 := 0
  utcAt : U64 := 0
  deriving DecidableEq, Repr

/-- A public key, named by its digest; a signature verdict is the key under which the signature verifies (R355). [DEDUCED, log entry 197] -/
abbrev Key := Nat

/-- ROUTE_UPDATE, Table 12-19 (R266), with the length of the message and the link on which it arrived. `padZero`: every reserved bit of the
entries is zero. -/
structure RouteUpdateMsg where
  kind : U8 := 0
  rsvd : U8 := 0
  gen : U32 := 0
  entries : List (BitVec 14 × RouteEntry) := []
  count : U16 := BitVec.ofNat 16 entries.length
  len : Nat := 8 + 24 * entries.length + 4627
  padZero : Bool := true
  signer : Option Key := none
  srcModule : BitVec 14 := 0
  srcChannel : BitVec 1 := 0
  link : LinkId := 0
  deriving DecidableEq, Repr

/-- The format of a ROUTE_UPDATE holds: KIND, COUNT and the length agree, and reserved fields are zero (R266). -/
def RouteUpdateMsg.formatOk (m : RouteUpdateMsg) : Bool :=
  m.kind == 0 && m.rsvd == 0 && m.padZero && decide (1 ≤ m.count.toNat) && decide (m.count.toNat ≤ 16384)
    && m.count.toNat == m.entries.length && m.len == 8 + 24 * m.count.toNat + 4627

/-- ADOPT, Table 12-19 (R266, R267), with the length of the message and the link on which it arrived. -/
structure AdoptMsg where
  kind : U8 := 0
  rsvd : U8 := 0
  standbyId : BitVec 14 := 0
  failedId : BitVec 14 := 0
  newInc : U16 := 0
  len : Nat := 16 + 4627
  padZero : Bool := true
  signer : Option Key := none
  srcModule : BitVec 14 := 0
  srcChannel : BitVec 1 := 0
  link : LinkId := 0
  deriving DecidableEq, Repr

/-- The format of an ADOPT holds: KIND, the length, and zero in every reserved field (R266). -/
def AdoptMsg.formatOk (m : AdoptMsg) : Bool := m.kind == 0 && m.rsvd == 0 && m.padZero && m.len == 16 + 4627

/-- One fragment of a management message (R265). -/
structure MgmtFrag where
  op : U8 := 0
  tag : U32 := 0
  seq : U16 := 0
  total : Nat := 0
  offset : Nat := 0
  bytes : List Byte := []
  deriving DecidableEq, Repr

/-- Region descriptor, Table 09-1 (R169). -/
structure Region where
  pteBase : BitVec 40 := 0
  pool : U8 := 0
  live : Bool := false
  layer : U8 := 0
  maxPages : U32 := 0
  seq : U32 := 0
  deriving DecidableEq, Repr

/-- Page table entry, Table 09-4 (R174). TIER: 0 HBM, 1 CXL, 2 REMOTE, 3 SHARED. -/
structure Pte where
  valid : Bool := false
  tier : BitVec 2 := 0
  frame : BitVec 36 := 0
  kFmt : BitVec 4 := 0
  vFmt : BitVec 4 := 0
  lastUse : U16 := 0
  deriving DecidableEq, Repr

/-- Frame states, Table 09-5 (R175). -/
inductive FrameSt where
  | free | active | spilling | spilled | fetching | deferredFree
  deriving DecidableEq, Repr

/-- Frame descriptor, Table 09-5 (R175). -/
structure Frame where
  epoch : U16 := 0
  page : BitVec 18 := 0
  owner : BitVec 24 := 0
  pins : U16 := 0
  refcount : U16 := 0
  pool : U8 := 0
  st : FrameSt := .free
  deriving DecidableEq, Repr

/-- Pool parameters, Table 09-3 (R173). TIER: 0 HBM, 1 CXL, 2 REMOTE. -/
structure Pool where
  pool : U8 := 0
  tier : U8 := 0
  shared : Bool := false
  frameKib : U8 := 0
  kDecl : BitVec 4 := 0
  vDecl : BitVec 4 := 0
  back : U8 := 0xFF
  first : Nat := 0
  count : Nat := 0
  base : U64 := 0
  lowWm : U32 := 0
  highWm : U32 := 0
  transitRegion : BitVec 24 := 0xFFFFFF
  freeShown : Nat := 0          -- SQL_POOL.FREE: free frames at the last boundary
  deriving DecidableEq, Repr

/-- Page list entry, Table 09-18 (R185). -/
structure PageEntry where
  region : BitVec 24 := 0
  flags : U8 := 0
  page : U32 := 0
  slot : U16 := 0xFFFF
  fmt : U8 := 0
  rsvd : BitVec 40 := 0
  deriving DecidableEq, Repr

/-- A transit page whose planes have arrived (R191): its format codes, the number of this channel's tasks that read it in this pass, whether a
later channel of the ring needs it (R164), and the layer and block by which KEEP_K names it (R165). [DEDUCED, log entry 219] -/
structure TransitPage where
  region : Nat := 0
  page : Nat := 0
  fmt : U8 := 0
  uses : Nat := 0
  forward : Bool := false
  layer : U16 := 0
  block : U32 := 0
  deriving DecidableEq, Repr

/-- Page descriptor, Table 09-8 (R183). FLAGS: bit 0 WRITE, bit 1 COW, bit 2 TRANSIT. -/
structure PageDesc where
  frameAddr : U64 := 0
  region : BitVec 24 := 0
  page : U32 := 0
  epoch : U16 := 0
  fmt : U8 := 0
  flags : U8 := 0
  slot : U16 := 0xFFFF
  pool : U8 := 0
  frame : BitVec 36 := 0
  tier : BitVec 2 := 0
  taskSlot : BitVec 12 := 0
  core : BitVec 7 := 0
  deriving DecidableEq, Repr

/-- Task class, Table 14-3 (R298). -/
structure TaskClass where
  exec : U8 := 0
  eclass : U8 := 0
  prog : U16 := 0xFFFF
  tailClk : U32 := 0
  attn : U16 := 0xFFFF
  pageList : U16 := 0
  liveRegs : U32 := 0
  argKinds : BitVec 128 := 0
  deriving DecidableEq, Repr

/-- Attention record, Tables 08-1 and 14-4 (R151, R298). -/
structure AttnRec where
  dHead : U16 := 0
  hQ : U16 := 0
  hKv : U16 := 0
  causal : U8 := 0
  qFmt : BitVec 4 := 0
  kFmt : BitVec 4 := 0
  vFmt : BitVec 4 := 0
  pRnd : Bool := false
  seqGroup : U16 := 0
  cSm : U32 := 0
  tidP : U32 := 0
  scaleS : U16 := 0
  scalePv : U16 := 0
  scaleL : U16 := 0
  scaleDq : U16 := 0
  scaleDk : U16 := 0
  scaleDv : U16 := 0
  csV : U32 := 0
  outFmt : BitVec 4 := 0
  gradFmt : BitVec 4 := 0
  transitPool : U8 := 0
  layer : U16 := 0
  deriving DecidableEq, Repr

/-- Coarse-scale table entry as the channel keeps it: RNE32(CS_A × CS_B) and FX_REF (R57, R298). -/
structure ScaleEntry where
  product : U32 := 0
  fxRef : BitVec 12 := 0
  deriving DecidableEq, Repr

/-- Energy class, Table 15-1 (R316). -/
structure EnergyEntry where
  eclass : U8 := 0
  kind : U8 := 0
  fixedNj : U32 := 0
  counts : List U32 := []
  base : Nat := 0               -- base coefficient, nJ, formed at load (R316)
  deriving DecidableEq, Repr

/-- A window of the WINDOW section (R252, R299). -/
structure Window where
  perm : U8 := 0
  first : BitVec 14 := 0
  last : BitVec 14 := 0
  base : Nat := 0
  length : Nat := 0
  index : Nat := 0              -- index among the entries of the section; REMOTE pools name it
  deriving DecidableEq, Repr

/-- A member of a sequence group (R164, R299). -/
structure SeqMember where
  module : BitVec 14 := 0
  channel : BitVec 1 := 0
  firstTok : U32 := 0
  lastTok : U32 := 0
  deriving DecidableEq, Repr

/-- A partition of core SRAM (R280, R299). KIND: 0 CTX, 1 SCRATCH, 2 STAGE, 3 KVCACHE, 4 FOLD. -/
structure SramPart where
  core : U8 := 0xFF
  kind : U8 := 0
  base : U32 := 0
  length : U32 := 0
  deriving DecidableEq, Repr

/-- A NoC route (R299). -/
structure NocRoute where
  route : U16 := 0
  core : U8 := 0
  cls : U8 := 0
  dests : BitVec 128 := 0
  deriving DecidableEq, Repr

/-- A run of the beat plan: the descriptors one core is offered in one template beat (R299). -/
structure PlanRun where
  tmplBeat : U32 := 0
  core : U8 := 0
  lookahead : Bool := false
  descs : List TaskDesc := []
  deriving DecidableEq, Repr

/-- A KEEP_K mark (R165, R299). -/
structure KeepK where
  layer : U16 := 0
  block : U32 := 0
  deriving DecidableEq, Repr

/-- Activation policy of a layer, Tables 10-1 and 14-12 (R195, R300). -/
structure ActEntry where
  layer : U16 := 0
  policy : U8 := 0
  offLead : U8 := 0
  offBase : U64 := 0
  offLen : U64 := 0
  stageBase : U64 := 0
  deriving DecidableEq, Repr

/-- Parameter group, Table 10-3 (R202), with its curve (R209). -/
structure UpdGroup where
  beta1 : U32 := 0
  beta2 : U32 := 0
  eps1 : U32 := 0
  clipD : U32 := 0
  wd : U32 := 0
  curve : List (U32 × U32) := []
  deriving DecidableEq, Repr

/-- Tensor state header, Table 10-4 (R204), with the HBM offset of the header (R300). -/
structure TensorHdr where
  hdrBase : U64 := 0
  tensorId : U32 := 0
  momId : U32 := 0
  rows : U32 := 0
  cols : U32 := 0
  tileR : U16 := 0
  tileC : U16 := 0
  group : U8 := 0
  kL : U8 := 0
  wBase : BitVec 40 := 0
  mBase : BitVec 40 := 0
  rBase : BitVec 40 := 0
  cBase : BitVec 40 := 0
  deriving DecidableEq, Repr

/-- Exchange group (R219, R300): G setts of K contributors in sett rank and position order. -/
structure GxcGroup where
  g : Nat := 0
  k : Nat := 0
  members : List (BitVec 14 × BitVec 1) := []
  deriving DecidableEq, Repr

/-- Exchange bucket of the plan (R220, R225, R300). -/
structure GxcBucketPlan where
  group : U16 := 0
  ng : U32 := 0
  tid : U32 := 0
  hSett : Nat := 2
  hDom : Nat := 2
  rank : U8 := 0
  layerFirst : U16 := 0
  gradBase : U64 := 0
  outBase : U64 := 0
  deriving DecidableEq, Repr

/-- The GXC_PLAN section (R219, R238, R300). -/
structure GxcPlan where
  jobChannels : U32 := 0
  rootModule : BitVec 14 := 0
  rootChannel : BitVec 1 := 0
  rootCore : BitVec 7 := 0
  retainBase : U64 := 0
  retainLen : U64 := 0
  scratchBase : U64 := 0
  groups : List GxcGroup := []
  buckets : List GxcBucketPlan := []
  deriving DecidableEq, Repr

/-- A move of a permute plan (R242, R299). -/
structure PermMove where
  srcRole : U16 := 0
  dstRole : U16 := 0
  src : Nat := 0
  dst : Nat := 0
  length : Nat := 0
  deriving DecidableEq, Repr

/-- An alternate layout's permute plan (R299). -/
structure AltLayout where
  layout : U8 := 0
  scratchBase : Nat := 0
  scratchLen : Nat := 0
  moves : List PermMove := []
  deriving DecidableEq, Repr

/-- The layout-variant sections of one layout (Table 14-2, R296). -/
structure LayoutData where
  layout : U8 := 0
  parts : List SramPart := []
  routes : List NocRoute := []
  periodUs : U16 := 250
  leadinPct : U8 := 0
  templateBeats : Nat := 1
  credits : List U16 := []
  keepK : List KeepK := []
  pageLists : List (List PageEntry) := []
  runs : List PlanRun := []
  windows : List Window := []
  seqGroups : List (Nat × List SeqMember) := []   -- keyed by entry index
  spaBase : Nat := 0
  spaLen : Nat := 0
  actPeak : Nat := 0
  acts : List ActEntry := []
  gxc : Option GxcPlan := none
  regionBase : Nat := 0
  regions : Nat := 0
  pools : List Pool := []
  deriving DecidableEq, Repr

/-- A verified structure stream as the channel keeps it (R294 to R300). -/
structure Stream where
  version : U16 := 0
  role : U16 := 0
  layouts : Nat := 0
  sections : U16 := 0
  seed : U64 := 0
  digest : U512 := 0
  jobId : BitVec 128 := 0
  clusters : List U8 := []          -- cluster of each logical core (R297)
  progs : Nat := 0                  -- programs of the role's VEC_PROG index
  classes : List TaskClass := []
  scales : List ScaleEntry := []
  attns : List AttnRec := []
  energy : List EnergyEntry := []
  paramBase : Nat := 0
  paramLen : Nat := 0
  journalBase : Nat := 0
  groups : List UpdGroup := []
  tensors : List TensorHdr := []
  alts : List AltLayout := []
  variants : List LayoutData := []  -- the base layout (0) and the alternates
  deriving DecidableEq, Repr

/-- An event record, Table 18-7 (R387), before its SEQNO and RETAINED flag are given at posting. `cls` is the event class
of Table 18-6; `detail` is none where the manual leaves DETAIL to the event and does not state it. -/
structure EvRec where
  code : U16 := 0
  cls : Nat := 0
  src : U8 := 0
  completion : Bool := false
  tag : U32 := 0
  beat : U48 := 0
  detail : Option U64 := none
  deriving DecidableEq, Repr

/-- A posted event record with its delivery fields (R387, R388). -/
structure PostedRec where
  ev : EvRec := {}
  seqno : U32 := 0
  loss : Bool := false
  retained : Bool := false
  module : BitVec 14 := 0
  deriving DecidableEq, Repr

/-- Mailbox header, Table 18-3 (R381). STATE: 0 EMPTY, 1 REQUEST, 2 BUSY, 3 RESPONSE, 4 ABORTED. -/
structure MbxHdr where
  st : U8 := 0
  flags : U8 := 0
  opcode : U16 := 0
  seq : U32 := 0
  len : U16 := 0
  status : U16 := 0
  rsvd0c : U32 := 0
  iv : BitVec 96 := 0
  rsvd1c : U32 := 0
  gcmTag : BitVec 128 := 0
  rsvd30 : BitVec 128 := 0
  deriving DecidableEq, Repr

/-- Command entry of a ring, Table 18-5 (R385): its header fields and 48-byte body. -/
structure CmdEntry where
  opcode : U8 := 0
  flags : U8 := 0
  rsvd16 : U16 := 0
  tag : U32 := 0
  rsvd64 : U64 := 0
  body : List Byte := []
  deriving DecidableEq, Repr

/-- Settings, Table 19-4 (R399): the effective value of each TLV. Absent keys are `none`. -/
structure Settings where
  ownerHost : List Key := []
  ownerDebug : Option Key := none
  streamKey : Option Key := none
  streamSigRequired : Bool := false
  domainKey : Option Key := none
  invasiveAllow : Bool := false
  vendorObserve : Bool := false
  netPorts : List (Nat × List Byte) := []
  deriving DecidableEq, Repr

/-- Fault record, Table 16-2 (R350). -/
structure FaultRec where
  code : U16 := 0xFFFF
  source : U8 := 0
  flags : U8 := 0
  unit : U32 := 0
  beatDetect : U48 := 0
  count : U16 := 0
  beatClean : U48 := 0
  cls : U8 := 0
  stepClean : U32 := 0
  stepDetect : U32 := 0
  reporter : U32 := 0
  partners : U32 := 0xFFFF
  outTag : U32 := 0
  taintN : U32 := 0
  taintBase : U64 := 0
  time : U32 := 0
  detail : U32 := 0
  deriving DecidableEq, Repr

/-- A unit that a report can suspect (R345, Table 16-2 UNIT). -/
inductive SuspectUnit where
  | core (p : Nat) | pchan (pc : Nat) | link (l : Nat) | cxlPort (n : Nat)
  | remoteCore (channel core : Nat)                              -- logical core of another channel (module × 2 + channel) (R347)
  deriving DecidableEq, Repr

/-- Lifecycle states (R367). -/
inductive Lifecycle where
  | manufacture | field | return_
  deriving DecidableEq, Repr

/-- Debug levels (R369). -/
inductive DebugLevel where
  | closed | observe | invasive
  deriving DecidableEq, Repr

/-- Power-domain states, Table 15-4 (R326), in the encoding order of PWR_STATE. -/
inductive PwrSt where
  | active | idle | draining | off | waking
  deriving DecidableEq, Repr

/-- A power domain with its pending requests (R327). -/
structure Domain where
  st : PwrSt := .active
  offPending : Bool := false
  wakePending : Bool := false
  deriving DecidableEq, Repr

/-- Where an HBM or SRAM failure was found, MEM_UE_ADDR.SOURCE (R291). -/
inductive UeSource where
  | hbmRead | hbmScrub | sramRead | sramScrub
  deriving DecidableEq, Repr

/-- What the module sends at its boundary (R2), oldest first in `State.out`. -/
inductive Out where
  | packet (ch : ChanId) (link : LinkId) (p : Packet) (trailer : U64)   -- a frame leaves on a link (R248, R253)
  | nocRequest (ch : ChanId) (p : Packet)                        -- an operation to the own channel, on the NoC (R251)
  | nocResponse (ch : ChanId) (p : Packet)
  | nak (ch : ChanId) (link : LinkId) (trailer : U64)            -- a trailer with NAK, without a packet (R248)
  | training (ch : ChanId) (link : LinkId) (slot : BitVec 3)     -- slot, channel and link number, sent while a link trains (R246)
  | authHello (ch : ChanId) (link : LinkId) (nonce : BitVec 256) (identity chain : List Byte) (lifecycle : Lifecycle)
      (level : DebugLevel) (domainKey : Option Key)              -- first messages of mutual authentication (R366)
  | authSign (ch : ChanId) (link : LinkId)                       -- the IDK signature over the transcript (R366)
  | rdmaAck (qp : Nat)
  | rdmaData (qp : Nat) (bytes : List Byte)
  | rdmaNakAccess (qp : Nat)
  | rdmaNakInvalid (qp : Nat)
  | csrData (unit : Fin 3) (value : U64)                         -- to firmware, JTAG or a core; unit 2 is the port die
  | csrStatus (unit : Fin 3) (code : CompCode)
  | record (ch : Option ChanId) (qp : Nat) (addr : U64) (imm : U32) (r : PostedRec)   -- RDMA WRITE with immediate (R387)
  | cmReply (port : Nat) (qp : Nat) (rkey : U32)
  | cmReject (port : Nat) (code : U8)
  | i3cData (value : U16)
  | i3cAck | i3cNack
  | deliver (ch : ChanId) (p : Packet)                           -- a packet for this channel, handed to its operations (R260)
  | permuteData (ch : ChanId) (role : U16) (dst : Nat) (bytes : List Byte)   -- state that a permute moves to another role (R242)
  | stepFlag (ch : ChanId) (root : BitVec 14 × BitVec 1 × BitVec 7) (fail : Bool) (step : U32)   -- SIGNAL to the commit root (R238)
  | stepBroadcast (ch : ChanId) (commit : Bool) (step : U32)     -- the commit root to every channel of the job (R238)
  | fwInterrupt (ch : ChanId) (bits : U32) (secure : Bool)       -- inbound notification (R380)
  deriving DecidableEq, Repr

end Sys2Proof.Machine
end

