-- ==== Sys2Proof/Syntax.lean ====
section
/-! DEFINITION. The commands of the module: one constructor per row of the table of operations and events, in the table's
order. `c` is the channel; an operand that stands for something the manual leaves to the surroundings (a signature verdict,
a measurement, a clock offset) says so. -/

namespace Sys2Proof.Machine

/-- Precision of a vector operation (R126). -/
inductive Prec where
  | f32 | f64
  deriving DecidableEq, Repr

/-- Floating-point and integer comparisons (Table 07-1). -/
inductive CmpOp where
  | eq | lt | le
  deriving DecidableEq, Repr

/-- Conversions of VEC_CONVERT (Table 07-1): FP32, FP64, BF16 and integers of 32 and 64 bits. -/
inductive Conv where
  | f32ToF64 | f64ToF32 | f32ToBf16 | f32ToBf16Sr
  | f32ToI32 | f32ToI64 | f64ToI32 | f64ToI64
  | i32ToF32 | i64ToF32 | i32ToF64 | i64ToF64
  deriving DecidableEq, Repr

/-- Integer shifts (Table 07-1). -/
inductive ShiftOp where
  | left | logicalRight | arithRight
  deriving DecidableEq, Repr

/-- Element types of a vector load or store (R123): 32 bits, 64 bits, or BF16 widened and narrowed. -/
inductive ElemTy where
  | b32 | b64 | bf16
  deriving DecidableEq, Repr

/-- How a narrowing or quantising operation rounds: RNE, or stochastically with a tensor id and the index of its first
element (R64, R139). -/
structure SrArg where
  on : Bool := false
  tensor : Nat := 0
  index : Nat := 0
  deriving DecidableEq, Repr

/-- How the training of a CXL port ended: UP or DOWN, its width and rate, and the capacity of its device in GiB (R277, R292). -/
structure CxlTrain where
  up : Bool := false
  width : BitVec 5 := 0
  rate : BitVec 3 := 0
  capGib : U16 := 0
  deriving DecidableEq, Repr

/-- What a counter a SIGNAL reaches is for, where the manual gives the counter no address of its own. -/
inductive CounterUse where
  | plain
  | creditReturn (queue : Nat)                                   -- R49
  | transit (pool : Nat) (pass : Fin 3) (pages : List TransitPage)  -- pages whose planes of a pass arrived (R191); passes 1, 2 and backward
  | prepassSett (bucket position off : Nat)                      -- R222, R223; `off`: HBM offset at which the PUT's bytes lie
  | prepassDomain (bucket rank off : Nat)                        -- R224
  | finalBitmap (bucket off : Nat)                               -- R224
  | contribution (check : Bool) (bucket position off : Nat)      -- a slot of either path (R226, R236)
  | running (check : Bool) (bucket off : Nat)                    -- a running sum (R228, R236)
  | segment (bucket : Nat)                                       -- the arrival counter (R229)
  | stepOk | stepFail                                            -- R238
  | check (bucket off : Nat) (root : BitVec 14 × BitVec 1) (core own : Nat)   -- the second path's result, its root and the cores of both (R236)
  deriving DecidableEq, Repr

end Sys2Proof.Machine

namespace Sys2Proof

open Sys2Proof.Machine

/-- The commands. -/
inductive Instr where
  | csrWrite (t : Fin 3) (o : Origin) (off len : Nat) (v : U64)
  | rcRead (t : Fin 3) (o : Origin) (off len : Nat)
  | beatBoundary (c : ChanId)
  | beatAdmission (c : ChanId)
  | leadinWindowStart (c : ChanId)
  | beatrefEdge (off0 off1 : Int)
  | beatResume (c : ChanId) (o : Origin) (v : U64)
  | timeRequestTimer (c : ChanId)
  | timeRequest (c : ChanId) (link : LinkId) (m : TimeMsg)
  | timeResponse (c : ChanId) (link : LinkId) (m : TimeMsg) (t4 : U64)
  | timeAnnounce (c : ChanId) (m : TimeMsg) (signer : Option Key)
  | taskDispatch (c : ChanId) (core : LCore)
  | taskComplete (c : ChanId) (core : LCore) (ended : TaskEnd)
  | sampleCopyDone (c : ChanId) (sample : Nat)
  | opIssue (c : ChanId) (core : LCore) (slot : Nat) (op : RemOp)
  | fence (c : ChanId) (core : LCore) (slot : Nat) (mask : U8)
  | remoteResponse (c : ChanId) (p : Packet)
  | get (c : ChanId) (o : Origin) (p : Packet)
  | put (c : ChanId) (o : Origin) (p : Packet)
  | putAdd (c : ChanId) (o : Origin) (p : Packet)
  | cas (c : ChanId) (o : Origin) (p : Packet)
  | fetchAdd64 (c : ChanId) (o : Origin) (p : Packet)
  | signal (c : ChanId) (o : Origin) (p : Packet) (use : CounterUse)
  | rspTimeoutExpiry (c : ChanId) (tag : U32)
  | lostAfterExpiry (c : ChanId) (tag : U32)
  | packetRoute (c : ChanId) (arrival : Option LinkId) (p : Packet)
  | linkFrameRx (c : ChanId) (link : LinkId) (p : Option Packet) (seq ack : BitVec 12) (flags : Byte) (crc : U32) (fec : FecCounts)
  | linkSignalDetect (c : ChanId) (link : LinkId)
  | linkTrainingDone (c : ChanId) (link : LinkId) (peerModule : BitVec 14) (peerChannel : BitVec 1)
      (peerLink : BitVec 6) (peerSett : Nat)
  | linkTrainingTimeout (c : ChanId) (link : LinkId)
  | linkAuth (c : ChanId) (link : LinkId) (verified : Bool) (peerLifecycle : Lifecycle) (peerDomainKey : Option Key)
      (peerInvasive : Bool) (peerStratum : U8)
  | linkAuthTimeout (c : ChanId) (link : LinkId)
  | linkLossOfLock (c : ChanId) (link : LinkId)
  | linkRetrainDone (c : ChanId) (link : LinkId)
  | linkRetrainFail (c : ChanId) (link : LinkId)
  | wrnLinkRestart (c : ChanId) (o : Origin) (link : LinkId)
  | mgmtFragmentRx (c : ChanId) (link : LinkId) (f : MgmtFrag)
  | mgmtPartialTimeout (c : ChanId) (link : LinkId)
  | routeUpdate (c : ChanId) (m : RouteUpdateMsg)
  | adopt (c : ChanId) (m : AdoptMsg)
  | tileDrain (c : ChanId) (core : LCore) (slot : Nat) (wrong : List (Nat × Byte))
  | vecAdd (c : ChanId) (core : LCore) (p : Prec) (d a b : VReg)
  | vecSub (c : ChanId) (core : LCore) (p : Prec) (d a b : VReg)
  | vecMul (c : ChanId) (core : LCore) (p : Prec) (d a b : VReg)
  | vecFma (c : ChanId) (core : LCore) (p : Prec) (d a b x : VReg)
  | vecMin (c : ChanId) (core : LCore) (p : Prec) (d a b : VReg)
  | vecMax (c : ChanId) (core : LCore) (p : Prec) (d a b : VReg)
  | vecAbs (c : ChanId) (core : LCore) (p : Prec) (d a : VReg)
  | vecNeg (c : ChanId) (core : LCore) (p : Prec) (d a : VReg)
  | vecCompare (c : ChanId) (core : LCore) (p : Prec) (op : CmpOp) (d a b : VReg)
  | div32 (c : ChanId) (core : LCore) (d a b : VReg)
  | sqrt32 (c : ChanId) (core : LCore) (d a : VReg)
  | div64 (c : ChanId) (core : LCore) (d a b : VReg)
  | sqrt64 (c : ChanId) (core : LCore) (d a : VReg)
  | vecConvert (c : ChanId) (core : LCore) (k : Conv) (sr : SrArg) (d a : VReg)
  | intAdd (c : ChanId) (core : LCore) (wide : Bool) (d a b : VReg)
  | intSub (c : ChanId) (core : LCore) (wide : Bool) (d a b : VReg)
  | intMulLow (c : ChanId) (core : LCore) (wide : Bool) (d a b : VReg)
  | intShift (c : ChanId) (core : LCore) (wide : Bool) (op : ShiftOp) (d a b : VReg)
  | intAnd (c : ChanId) (core : LCore) (wide : Bool) (d a b : VReg)
  | intOr (c : ChanId) (core : LCore) (wide : Bool) (d a b : VReg)
  | intXor (c : ChanId) (core : LCore) (wide : Bool) (d a b : VReg)
  | intSelect (c : ChanId) (core : LCore) (wide : Bool) (d m a b : VReg)
  | intCompare (c : ChanId) (core : LCore) (wide signed : Bool) (op : CmpOp) (d a b : VReg)
  | exp2 (c : ChanId) (core : LCore) (d a : VReg)
  | log2 (c : ChanId) (core : LCore) (d a : VReg)
  | rcp (c : ChanId) (core : LCore) (d a : VReg)
  | rsqrt (c : ChanId) (core : LCore) (d a : VReg)
  | sqrt (c : ChanId) (core : LCore) (d a : VReg)
  | tanh (c : ChanId) (core : LCore) (d a : VReg)
  | sigmoid (c : ChanId) (core : LCore) (d a : VReg)
  | gelu (c : ChanId) (core : LCore) (d a : VReg)
  | silu (c : ChanId) (core : LCore) (d a : VReg)
  | sin (c : ChanId) (core : LCore) (d a : VReg)
  | cos (c : ChanId) (core : LCore) (d a : VReg)
  | welford (c : ChanId) (core : LCore) (p : Prec) (first : Bool) (active : Nat) (a : VReg)
  | sumsq (c : ChanId) (core : LCore) (p : Prec) (first : Bool) (active : Nat) (a : VReg)
  | merge (c : ChanId) (core : LCore) (p : Prec) (sumsq : Bool) (a : LaneDst) (b : LaneSrc)
  | finish (c : ChanId) (core : LCore) (p : Prec) (sumsq bessel : Bool) (eps : U32) (lane : Lane) (dMean dVar dR : VReg)
  | rowmax (c : ChanId) (core : LCore) (d a b : VReg)
  | expsub (c : ChanId) (core : LCore) (k : U32) (d a m : VReg)
  | xsum (c : ChanId) (core : LCore) (first : Bool) (active : Nat) (a : VReg)
  | smdiv (c : ChanId) (core : LCore) (d p l : VReg)
  | treeAdd (c : ChanId) (core : LCore) (p : Prec) (exact : Bool) (d a : VReg)
  | treeMax (c : ChanId) (core : LCore) (p : Prec) (d a : VReg)
  | treeMerge (c : ChanId) (core : LCore) (p : Prec) (sumsq : Bool)
  | broadcast (c : ChanId) (core : LCore) (d a : VReg) (lane : Lane)
  | quant (c : ChanId) (core : LCore) (slot : Nat) (fmt : Fin 3) (sr : SrArg) (upper : Bool) (eaddr saddr : Nat)
      (a : CodecRegs)
  | blk8Encode (c : ChanId) (core : LCore) (slot : Nat) (mom : Bool) (sr : SrArg) (agreed : Option U8) (upper : Bool)
      (group : Nat) (blk : Fin 4) (a : CodecRegs)
  | blk8Decode (c : ChanId) (core : LCore) (slot : Nat) (upper : Bool) (group : Nat) (blk : Fin 4) (d : CodecRegs)
  | philox (c : ChanId) (core : LCore) (k a b d0 d1 d2 d3 : VReg)
  | vecLoad (c : ChanId) (core : LCore) (slot : Nat) (ty : ElemTy) (addr stride : Nat) (d : VReg)
  | vecLoadTranspose (c : ChanId) (core : LCore) (slot : Nat) (ty : ElemTy) (base pitch col : Nat) (d : VReg)
  | vecStore (c : ChanId) (core : LCore) (slot : Nat) (ty : ElemTy) (sr : SrArg) (addr stride : Nat) (a : VReg)
  | gather (c : ChanId) (core : LCore) (slot : Nat) (size : Fin 4) (base : Nat) (d idx : VReg)
  | srUpd (c : ChanId) (core : LCore) (sr : SrArg) (d w delta : VReg)
  | kvOpen (c : ChanId) (owner : Option (LCore × Nat)) (region layer pool maxPages seq : Nat)
  | kvRelease (c : ChanId) (owner : Option (LCore × Nat)) (region : Nat)
  | kvShare (c : ChanId) (owner : Option (LCore × Nat)) (src dst first count : Nat)
  | pageWalk (c : ChanId) (core : LCore) (slot : Nat)
  | slotFill (c : ChanId) (core : LCore) (slot : Nat)
  | cowFirstWrite (c : ChanId) (core : LCore) (slot : Nat) (region page : Nat)
  | spillCopyDone (c : ChanId) (frame : Nat)
  | fetchCopyDone (c : ChanId) (frame : Nat) (incarnation : U16)
  | prefetch (c : ChanId)
  | lastUseSweep (c : ChanId)
  | cmdStep (c : ChanId) (ring : Fin 8)
  | cmdKvOpen (c : ChanId) (ring : Fin 8)
  | cmdKvRelease (c : ChanId) (ring : Fin 8)
  | cmdKvShare (c : ChanId) (ring : Fin 8)
  | cmdNop (c : ChanId) (ring : Fin 8)
  | updLrWrite (c : ChanId) (o : Origin) (group : Fin 64) (v : U64)
  | settStageDeadline (c : ChanId) (bucket : Nat)
  | domainStageDeadline (c : ChanId) (bucket : Nat)
  | commitWordSignal (c : ChanId) (o : Origin) (step : U32)
  | abandonBroadcast (c : ChanId) (step : U32)
  | reshardGo (c : ChanId) (o : Origin) (v : U64)
  | permuteComplete (m : PermuteEnd)
  | dmaCopy (c : ChanId) (d : DmaDesc) (owner : Option (LCore × Nat × Nat))
  | dmaGather (c : ChanId) (d : DmaDesc) (owner : Option (LCore × Nat × Nat))
  | dmaScatter (c : ChanId) (d : DmaDesc) (owner : Option (LCore × Nat × Nat))
  | dmaStride2d (c : ChanId) (d : DmaDesc) (owner : Option (LCore × Nat × Nat))
  | dmaTranspose (c : ChanId) (d : DmaDesc) (owner : Option (LCore × Nat × Nat))
  | dmaBlkt (c : ChanId) (d : DmaDesc) (owner : Option (LCore × Nat × Nat))
  | dmaPagelist (c : ChanId) (d : DmaDesc) (owner : Option (LCore × Nat × Nat))
  | dmaDescComplete (c : ChanId) (xfer : Nat)
  | hbmPatrolScrubStep (c : ChanId) (bad : Nat)
  | sramScrubStep (c : ChanId) (p : Nat) (bad : Nat)
  | scrubDeadline (c : ChanId)
  | cxlPortLeavesUp (c : ChanId) (port : Fin 2) (failed : Bool)
  | cxlReadTimeout (c : ChanId) (port : Fin 2) (xfer : Nat)
  | cxlWriteTimeout (c : ChanId) (port : Fin 2) (xfer : Nat)
  | pssLoad (c : ChanId) (o : Origin)
  | streamVerifyDone (c : ChanId) (signer : Option Key)
  | pssStart (c : ChanId) (o : Origin)
  | pssUnload (c : ChanId) (o : Origin)
  | ledgLimitWrite (c : ChanId) (o : Origin) (v : U64)
  | ledgCtrlWrite (c : ChanId) (o : Origin) (v : U64)
  | loanOffer (c : ChanId) (arrived : Bool)
  | reconcile (c : ChanId) (valid : Bool) (eIn loss s0 s1 sp : Nat)
  | calKWriteback (c : ChanId)
  | pwrReqOn (c : ChanId) (o : Origin) (domain : Nat)
  | pwrReqOff (c : ChanId) (o : Origin) (domain : Nat)
  | domainDrainDone (c : ChanId) (domain : Nat)
  | domainWakeDone (c : ChanId) (domain : Nat)
  | domainWakeFail (c : ChanId) (domain : Nat)
  | cxlIdleTimeout (c : ChanId) (port : Fin 2)
  | ptdChpwrOn (o : Origin) (c : ChanId) (expired : Bool)
  | ptdChpwrOff (o : Origin) (c : ChanId)
  | owlChunkDone (c : ChanId) (matches_ rerunsOk : Bool)
  | owlPassDeadline (c : ChanId) (p : Nat)
  | bdgReportWrite (c : ChanId) (o : Origin) (v : U64)
  | holdoffExpiry (c : ChanId) (u : SuspectUnit)
  | channelReset (c : ChanId)
  | bootComplete (c : ChanId) (selftestOk : Bool)
  | entropyHealthFail (c : ChanId)
  | entropyRecover (c : ChanId)
  | dbgReq (t : Fin 3) (o : Origin) (v : U64)
  | dbgSubmit (t : Fin 3) (o : Origin) (sigOk : Bool)
  | dbgLock (t : Fin 3) (o : Origin)
  | dbgSessionExpiry (t : Fin 3)
  | mbxQuote (c : ChanId) (box : Fin 10) (plain : Option (List Byte))
  | mbxMrExtend (c : ChanId) (box : Fin 10) (plain : Option (List Byte))
  | sessionHello (c : ChanId) (vendor : Bool) (index : U8)
  | sessionKem (c : ChanId) (sigOk : Bool)
  | sessionFinish (c : ChanId)
  | fwInstall (c : ChanId) (box : Fin 2) (plain : Option (List Byte)) (sigOk : Bool)
  | repairInstall (c : ChanId) (box : Fin 2) (plain : Option (List Byte)) (bad : List Nat) (sigOk : Bool)
  | lifecycleInstall (c : ChanId) (box : Fin 2) (plain : Option (List Byte)) (sigOk : Bool)
  | installWriteDone (c : ChanId)
  | settingsWrite (c : ChanId) (box : Fin 2) (plain : Option (List Byte))
  | mbxFirmwareOpcode (c : ChanId) (box : Fin 8)
  | cmConnectRequest (port : Fin 4) (target : Nat) (secure : Bool)
  | rdmaWrite (qp : Nat) (rkey : U32) (addr : Nat) (data : List Byte)
  | rdmaRead (qp : Nat) (rkey : U32) (addr len : Nat)
  | rdmaUnsupported (qp : Nat)
  | ethPortLinkDown (port : Fin 4)
  | qpError (qp : Nat)
  | dbSet (c : ChanId) (o : Origin) (group : Fin 4) (v : U32)
  | dbClr (c : ChanId) (o : Origin) (group : Fin 4) (v : U32)
  | dbMask (c : ChanId) (o : Origin) (group : Fin 4) (v : U32)
  | mbxRingPiWrite (c : ChanId) (o : Origin) (ring : Fin 8) (v : U64)
  | mbxEqCiWrite (t : Fin 3) (o : Origin) (cls : Fin 16) (v : U64)
  | eventRecordPost (t : Fin 3)
  | watchdogExpiry (c : ChanId)
  | i3cEntdaa (addr : BitVec 7)
  | i3cSlotWrite (v : U16)
  | i3cAlertRead
  | powerUp
  | hbmTrainDone (c : ChanId)
  | cxlTrainDone (c : ChanId) (port0 port1 : CxlTrain)
  | scanStoreCheck (c : ChanId)
  | historyRingLoad (c : ChanId)
  | cfgLeave (c : ChanId) (o : Origin)
  | pwrEnFall
  | tlmUpdate (c : ChanId) (hbm jct : U16)
  | thermTripTimer (c : ChanId)
  | inputOutOfRange (below : Bool)
  | holdupExpiry
  | inputOvervoltage
  | inputOvercurrent
  | autoRestart
  | refclkSysLoss (c : ChanId)
  | ethPortLinkUp (port : Fin 4)
  | congestionNotificationRx (port : Fin 4)
  | cmDisconnect (qp : Nat)
  | inputBackInRange
  | holdupTimerClear
  | refclkSysLock (c : ChanId)
  | converterFault
  | portDieFailure
  deriving DecidableEq, Repr

end Sys2Proof
end

