-- ==== Sys2Proof/Decode.lean ====
section
/-! DEFINITION. The words of the command table. Every row of the table has an empty list of fields and no encoding: commands of
this hardware are register accesses, packets and events, not instruction words (log entry 6). -/

namespace Sys2Proof

/-- No row of the table gives bits, so no word spells a command. [DESIGN CHOICE, log entry 6] -/
def decodeTableWord (_nbits _w : Nat) : Option Instr := none

end Sys2Proof
end

