-- ==== Sys2Proof/Machine/Fp.lean ====
section
/-! DEFINITION. Binary floating point over natural-number codes: exact values, one rounding, and the IEEE 754 operations of
the device (R58, R59, R126, R127). Every result is computed exactly and rounded once. -/

namespace Sys2Proof.Machine

/-- A binary interchange format: exponent and mantissa widths (R58). -/
structure FpFmt where
  eb : Nat
  mb : Nat
  deriving DecidableEq, Repr

def fpF32 : FpFmt := ⟨8, 23⟩
def fpF64 : FpFmt := ⟨11, 52⟩
def fpBf16 : FpFmt := ⟨8, 7⟩

/-- An unpacked value: NaN, an infinity, or the exact number ±m × 2^e. -/
inductive FpVal where
  | nan
  | inf (neg : Bool)
  | fin (neg : Bool) (m : Nat) (e : Int)
  deriving DecidableEq, Repr

/-- How a value is rounded: to nearest even, or stochastically with the 32-bit random number u (R65). -/
inductive Rnd where
  | rne
  | sr (u : Nat)
  deriving DecidableEq, Repr

/-- Exponent of the smallest subnormal of a format. -/
def FpFmt.emin (f : FpFmt) : Int := 2 - (2 ^ (f.eb - 1) : Nat) - f.mb

def FpFmt.infCode (f : FpFmt) : Nat := (2 ^ f.eb - 1) * 2 ^ f.mb
def FpFmt.signBit (f : FpFmt) : Nat := 2 ^ (f.eb + f.mb)
/-- The canonical quiet NaN of a format (R59). -/
def FpFmt.nanCode (f : FpFmt) : Nat := f.infCode + 2 ^ (f.mb - 1)
/-- MAX, the largest finite value (R97). -/
def FpFmt.maxCode (f : FpFmt) : Nat := f.infCode - 1

def FpFmt.signed (f : FpFmt) (neg : Bool) (code : Nat) : Nat := if neg then f.signBit + code else code

/-- The value a code stands for (R58). -/
def fpUnpack (f : FpFmt) (x : Nat) : FpVal :=
  let neg := (x >>> (f.eb + f.mb)) % 2 == 1
  let e := (x >>> f.mb) % 2 ^ f.eb
  let m := x % 2 ^ f.mb
  if e = 2 ^ f.eb - 1 then (if m = 0 then .inf neg else .nan)
  else if e = 0 then .fin neg m f.emin
  else .fin neg (m + 2 ^ f.mb) (f.emin + (e - 1 : Nat))

/-- What an overflow gives: infinity in IEEE mode, MAX in saturate mode (R97, R126). [DEDUCED, log entry 65] -/
def fpOver (f : FpFmt) (sat neg : Bool) : Nat := f.signed neg (if sat then f.maxCode else f.infCode)

/-- Whether the discarded part r of sh bits rounds the kept part q up. -/
def rndUp (r : Rnd) (q rem sh : Nat) : Bool :=
  match r with
  | .rne => 2 * rem > 2 ^ sh || (2 * rem == 2 ^ sh && q % 2 == 1)
  | .sr u => u < rem * 2 ^ 32 / 2 ^ sh

/-- The code of ±m × 2^e rounded once. -/
def fpRound (f : FpFmt) (sat : Bool) (rnd : Rnd) (neg : Bool) (m : Nat) (e : Int) : Nat :=
  if m = 0 then f.signed neg 0
  else
    let lsb := max (e + (Nat.log2 m : Nat) - f.mb) f.emin
    let q := if lsb ≤ e then m * 2 ^ (e - lsb).toNat
      else
        let sh := (lsb - e).toNat
        let q0 := m / 2 ^ sh
        if rndUp rnd q0 (m % 2 ^ sh) sh then q0 + 1 else q0
    let code := (lsb - f.emin).toNat * 2 ^ f.mb + q
    if code < f.infCode then f.signed neg code else fpOver f sat neg

def fpRne (f : FpFmt) (sat neg : Bool) (m : Nat) (e : Int) : Nat := fpRound f sat .rne neg m e

/-- Packs an unpacked value, rounding once. -/
def fpPack (f : FpFmt) (sat : Bool) (rnd : Rnd) : FpVal → Nat
  | .nan => f.nanCode
  | .inf neg => f.signed neg f.infCode
  | .fin neg m e => fpRound f sat rnd neg m e

/-- ±m as an integer. -/
def signedInt (neg : Bool) (m : Nat) : Int := if neg then -(m : Int) else m

/-- Exact sum of two finite values; an exact zero of unlike signs is +0 under RNE (IEEE 754). -/
def fpSumFin (s1 : Bool) (m1 : Nat) (e1 : Int) (s2 : Bool) (m2 : Nat) (e2 : Int) : FpVal :=
  let e := min e1 e2
  let v := signedInt s1 (m1 * 2 ^ (e1 - e).toNat) + signedInt s2 (m2 * 2 ^ (e2 - e).toNat)
  if v = 0 then .fin (s1 && s2) 0 e else .fin (v < 0) v.natAbs e

def fpAddVal : FpVal → FpVal → FpVal
  | .nan, _ => .nan
  | _, .nan => .nan
  | .inf a, .inf b => if a = b then .inf a else .nan
  | .inf a, _ => .inf a
  | _, .inf b => .inf b
  | .fin s1 m1 e1, .fin s2 m2 e2 => fpSumFin s1 m1 e1 s2 m2 e2

def fpMulVal : FpVal → FpVal → FpVal
  | .nan, _ => .nan
  | _, .nan => .nan
  | .inf a, .inf b => .inf (a != b)
  | .inf a, .fin s m _ => if m = 0 then .nan else .inf (a != s)
  | .fin s m _, .inf b => if m = 0 then .nan else .inf (s != b)
  | .fin s1 m1 e1, .fin s2 m2 e2 => .fin (s1 != s2) (m1 * m2) (e1 + e2)

def fpNegVal : FpVal → FpVal
  | .nan => .nan
  | .inf a => .inf (!a)
  | .fin s m e => .fin (!s) m e

def fpAdd (f : FpFmt) (sat : Bool) (a b : Nat) : Nat := fpPack f sat .rne (fpAddVal (fpUnpack f a) (fpUnpack f b))
def fpSub (f : FpFmt) (sat : Bool) (a b : Nat) : Nat :=
  fpPack f sat .rne (fpAddVal (fpUnpack f a) (fpNegVal (fpUnpack f b)))
def fpMul (f : FpFmt) (sat : Bool) (a b : Nat) : Nat := fpPack f sat .rne (fpMulVal (fpUnpack f a) (fpUnpack f b))
/-- a × b + c, rounded once (Table 07-1). -/
def fpFma (f : FpFmt) (sat : Bool) (a b c : Nat) : Nat :=
  fpPack f sat .rne (fpAddVal (fpMulVal (fpUnpack f a) (fpUnpack f b)) (fpUnpack f c))

/-- Correctly rounded quotient (Table 07-1). [DEDUCED, log entry 65] -/
def fpDiv (f : FpFmt) (sat : Bool) (a b : Nat) : Nat :=
  match fpUnpack f a, fpUnpack f b with
  | .nan, _ => f.nanCode
  | _, .nan => f.nanCode
  | .inf _, .inf _ => f.nanCode
  | .inf s, .fin t _ _ => f.signed (s != t) f.infCode
  | .fin s _ _, .inf t => f.signed (s != t) 0
  | .fin s m1 e1, .fin t m2 e2 =>
    if m2 = 0 then (if m1 = 0 then f.nanCode else fpOver f sat (s != t))
    else
      let k := f.mb + 5 + Nat.log2 m2
      let n := m1 * 2 ^ k
      fpRne f sat (s != t) (2 * (n / m2) + (if n % m2 = 0 then 0 else 1)) (e1 - e2 - k - 1)

/-- Integer square root by bits, from the highest. -/
def isqrtAux : Nat → Nat → Nat → Nat
  | 0, _, r => r
  | k + 1, n, r => let t := r + 2 ^ k; isqrtAux k n (if t * t ≤ n then t else r)
def isqrt (n : Nat) : Nat := isqrtAux (Nat.log2 n / 2 + 1) n 0

/-- Correctly rounded square root (Table 07-1). -/
def fpSqrt (f : FpFmt) (sat : Bool) (a : Nat) : Nat :=
  match fpUnpack f a with
  | .nan => f.nanCode
  | .inf s => if s then f.nanCode else f.infCode
  | .fin s m e =>
    if m = 0 then f.signed s 0
    else if s then f.nanCode
    else
      let odd := (e % 2).toNat
      let k := f.mb + 4
      let n := m * 2 ^ (odd + 2 * k)
      let q := isqrt n
      fpRne f sat false (2 * q + (if q * q = n then 0 else 1)) ((e - odd) / 2 - k - 1)

/-- Exact order of two values that are not NaN: less, as IEEE 754 compares them (zeros are equal). -/
def fpLtVal : FpVal → FpVal → Bool
  | .nan, _ => false
  | _, .nan => false
  | .inf a, .inf b => a && !b
  | .inf a, _ => a
  | _, .inf b => !b
  | .fin s1 m1 e1, .fin s2 m2 e2 =>
    let e := min e1 e2
    signedInt s1 (m1 * 2 ^ (e1 - e).toNat) < signedInt s2 (m2 * 2 ^ (e2 - e).toNat)

def fpIsNan (f : FpFmt) (a : Nat) : Bool := fpUnpack f a == .nan
def fpSign (f : FpFmt) (a : Nat) : Bool := (a >>> (f.eb + f.mb)) % 2 == 1
def fpFinite (f : FpFmt) (a : Nat) : Bool := (a >>> f.mb) % 2 ^ f.eb != 2 ^ f.eb - 1
def fpMag (f : FpFmt) (a : Nat) : Nat := a % f.signBit

/-- IEEE comparisons: false when either side is NaN. -/
def fpCmp (f : FpFmt) (op : CmpOp) (a b : Nat) : Bool :=
  let x := fpUnpack f a
  let y := fpUnpack f b
  match op with
  | .lt => fpLtVal x y
  | .le => !(x == .nan) && !(y == .nan) && !fpLtVal y x
  | .eq => !(x == .nan) && !(y == .nan) && !fpLtVal x y && !fpLtVal y x

/-- MIN and MAX of Table 07-1. -/
def fpMin (f : FpFmt) (a b : Nat) : Nat :=
  if fpIsNan f a || fpIsNan f b then f.nanCode
  else if fpMag f a = 0 && fpMag f b = 0 then (if fpSign f a then a else b)
  else if fpLtVal (fpUnpack f b) (fpUnpack f a) then b else a
def fpMax (f : FpFmt) (a b : Nat) : Nat :=
  if fpIsNan f a || fpIsNan f b then f.nanCode
  else if fpMag f a = 0 && fpMag f b = 0 then (if fpSign f a then b else a)
  else if fpLtVal (fpUnpack f a) (fpUnpack f b) then b else a

/-- ABS and NEG; a NaN result is canonical (R59). [DEDUCED, log entry 64] -/
def fpAbs (f : FpFmt) (a : Nat) : Nat := if fpIsNan f a then f.nanCode else fpMag f a
/-- [DEDUCED, log entry 64] -/
def fpNeg (f : FpFmt) (a : Nat) : Nat :=
  if fpIsNan f a then f.nanCode else f.signed (!fpSign f a) (fpMag f a)

/-- Conversion between formats, rounding once (R58). -/
def fpConv (src dst : FpFmt) (sat : Bool) (rnd : Rnd) (a : Nat) : Nat := fpPack dst sat rnd (fpUnpack src a)

/-- Float to a w-bit integer: truncation; out of range or NaN gives the most negative integer (Table 07-1). -/
def fpToInt (f : FpFmt) (w : Nat) (a : Nat) : Nat :=
  match fpUnpack f a with
  | .fin s m e =>
    let t := if 0 ≤ e then m * 2 ^ e.toNat else m / 2 ^ (-e).toNat
    let v := signedInt s t
    if -(2 ^ (w - 1) : Nat) ≤ v ∧ v < (2 ^ (w - 1) : Nat) then (v % (2 ^ w : Nat)).toNat else 2 ^ (w - 1)
  | _ => 2 ^ (w - 1)

/-- A w-bit two's-complement integer to float with RNE. -/
def fpOfInt (f : FpFmt) (w : Nat) (a : Nat) : Nat :=
  if a % 2 ^ w < 2 ^ (w - 1) then fpRne f false false (a % 2 ^ w) 0
  else fpRne f false true (2 ^ w - a % 2 ^ w) 0

end Sys2Proof.Machine
end

