-- ==== Sys2Proof/Machine/Hash.lean ====
section
/-! DEFINITION. The published functions the manual names: SHA3-512 (R355, R364), Philox-4x32-10 (R64), and
CRC-64/ECMA-182 (R338), CRC-32C (R248). -/

namespace Sys2Proof.Machine

/-! ### Bytes and words -/

/-- The number a byte list spells, first byte lowest (R7). -/
def leNat : List Byte → Nat
  | [] => 0
  | b :: r => b.toNat + 256 * leNat r

/-- n bytes of a number, lowest first (R7). -/
def leBytes : Nat → Nat → List Byte
  | 0, _ => []
  | n + 1, v => BitVec.ofNat 8 v :: leBytes n (v / 256)

/-- Cuts a list into pieces of k elements; `fuel` bounds the pieces. -/
def chunks {α : Type} (k : Nat) : Nat → List α → List (List α)
  | 0, _ => []
  | n + 1, l => if l.isEmpty then [] else l.take k :: chunks k n (l.drop k)

/-! ### SHA3-512 -/

/-- One step of the degree-8 feedback register that spells the round constants: x⁸ + x⁶ + x⁵ + x⁴ + 1. -/
def sha3Lfsr (r : Nat) : Nat := if r < 128 then 2 * r else (2 * r) ^^^ 0x171

/-- A round constant and the register after it: the register's low bit of each of seven steps stands at bit 2^j − 1. -/
def sha3Iota (r : Nat) : Nat × Nat :=
  (List.range 7).foldl (fun (s : Nat × Nat) j => (sha3Lfsr s.1, s.2 + s.1 % 2 * 2 ^ (2 ^ j - 1))) (r, 0)

/-- The walk over the 24 lanes off the origin: the lane it leaves, the lane it enters, and how far a word turns on the way
(lane (x, y) is 5 × y + x). -/
def sha3Walk : List (Nat × Nat × Nat) :=
  ((List.range 24).foldl (fun (s : (Nat × Nat) × List (Nat × Nat × Nat)) t =>
    let x := s.1.1
    let y := s.1.2
    let z := (2 * x + 3 * y) % 5
    ((y, z), (5 * y + x, 5 * z + y, (t + 1) * (t + 2) / 2 % 64) :: s.2)) ((1, 0), [])).2

/-- The mixing of columns: every row takes the parities of the two neighbouring columns. -/
def sha3Theta (rows : List (List U64)) : List (List U64) :=
  let parity := rows.foldl (List.zipWith (· ^^^ ·)) (List.replicate 5 0)
  let mix := List.zipWith (· ^^^ ·) (parity.rotateLeft 4) ((parity.rotateLeft 1).map fun w => w.rotateLeft 1)
  rows.map (List.zipWith (· ^^^ ·) mix)

/-- The non-linear step, along each row. -/
def sha3Chi (row : List U64) : List U64 :=
  List.zipWith (· ^^^ ·) row (List.zipWith (fun u v => v &&& ~~~u) (row.rotateLeft 1) (row.rotateLeft 2))

/-- One round on 25 lanes, with the register of the round constants. -/
def sha3Round (s : Nat × List U64) : Nat × List U64 :=
  let mixed := (sha3Theta (chunks 5 5 s.2)).flatten
  let turned := sha3Walk.foldl (fun (l : List U64) m => l.set m.2.1 ((mixed.getD m.1 0).rotateLeft m.2.2)) mixed
  let out := (chunks 5 5 turned).flatMap sha3Chi
  let k := sha3Iota s.1
  (k.1, out.modify 0 fun w => w ^^^ BitVec.ofNat 64 k.2)

/-- The permutation: 24 rounds. -/
def sha3Permute (a : List U64) : List U64 := ((List.range 24).foldl (fun s _ => sha3Round s) (1, a)).2

/-- Pads a message for SHA3-512: rate 72 bytes. -/
def sha3Pad (m : List Byte) : List Byte :=
  let k := 72 - m.length % 72
  if k = 1 then m ++ [0x86] else m ++ [0x06] ++ List.replicate (k - 2) 0 ++ [0x80]

def sha3Absorb (st : List U64) (blk : List Byte) : List U64 :=
  let ws := (chunks 8 9 blk).map fun w => BitVec.ofNat 64 (leNat w)
  sha3Permute (List.zipWith (· ^^^ ·) st (ws ++ List.replicate 16 0))

/-- SHA3-512 of a byte string, its 64 bytes read as a little-endian number. -/
def sha3 (m : List Byte) : U512 :=
  let p := sha3Pad m
  let st := (chunks 72 (p.length / 72) p).foldl sha3Absorb (List.replicate 25 0)
  BitVec.ofNat 512 (leNat ((st.take 8).flatMap fun w => leBytes 8 w.toNat))

/-! ### Philox-4x32-10 -/

/-- One round: counter words c0 to c3 under the key (k0, k1) (R64). -/
def philoxRound (k0 k1 : Nat) (c : Nat × Nat × Nat × Nat) : Nat × Nat × Nat × Nat :=
  let p0 := 0xD2511F53 * c.1
  let p1 := 0xCD9E8D57 * c.2.2.1
  (p1 / 2 ^ 32 ^^^ c.2.1 ^^^ k0, p1 % 2 ^ 32, p0 / 2 ^ 32 ^^^ c.2.2.2 ^^^ k1, p0 % 2 ^ 32)

def philoxRounds : Nat → Nat → Nat → Nat × Nat × Nat × Nat → Nat × Nat × Nat × Nat
  | 0, _, _, c => c
  | n + 1, k0, k1, c =>
    philoxRounds n ((k0 + 0x9E3779B9) % 2 ^ 32) ((k1 + 0xBB67AE85) % 2 ^ 32) (philoxRound k0 k1 c)

/-- The four output words for a 64-bit key and a counter (R64, R141). -/
def philox10 (key : Nat) (c : Nat × Nat × Nat × Nat) : Nat × Nat × Nat × Nat :=
  philoxRounds 10 (key % 2 ^ 32) (key / 2 ^ 32 % 2 ^ 32) c

/-- Random number of element i of a block (R64). -/
def srWord (seed step tensor block sel i : Nat) : Nat :=
  let w := philox10 seed (step % 2 ^ 32, tensor % 2 ^ 32, block % 2 ^ 32,
    (block / 2 ^ 32 % 2 ^ 16) * 2 ^ 16 + sel % 256 * 256 + i / 4 % 8)
  if i % 4 = 0 then w.1 else if i % 4 = 1 then w.2.1 else if i % 4 = 2 then w.2.2.1 else w.2.2.2

/-! ### CRC-64/ECMA-182 -/

/-- One bit of the unreflected CRC register (R338). -/
def crc64Bit (crc : U64) : U64 := if crc.msb then (crc <<< 1) ^^^ 0x42F0E1EBA9EA3693 else crc <<< 1

def crc64Byte (crc : U64) (b : Byte) : U64 :=
  let c := crc ^^^ (b.setWidth 64 <<< 56)
  crc64Bit (crc64Bit (crc64Bit (crc64Bit (crc64Bit (crc64Bit (crc64Bit (crc64Bit c)))))))

/-- The output digest of a tile: initial value zero, unreflected (R338). -/
def crc64 (m : List Byte) : U64 := m.foldl crc64Byte 0

/-! ### CRC-32C -/

/-- One bit of the reflected register of CRC-32C. [PRESUMED, log entry 228] -/
def crc32cBit (x : U32) : U32 := if x.getLsbD 0 then (x >>> 1) ^^^ 0x82F63B78 else x >>> 1

/-- [PRESUMED, log entry 228] -/
def crc32cByte (x : U32) (b : Byte) : U32 := (List.range 8).foldl (fun (y : U32) _ => crc32cBit y) (x ^^^ b.setWidth 32)

/-- CRC-32C of a frame (R248): the register starts and ends inverted. [PRESUMED, log entry 228] -/
def crc32c (m : List Byte) : U32 := ~~~(m.foldl crc32cByte 0xFFFFFFFF)

end Sys2Proof.Machine
end

