-- ==== Sys2Proof/Config.lean ====
section
/-! DEFINITION. What the manual leaves open, as constants without a body: no proof can see their values. -/

namespace Sys2Proof

/-- The n-th free value: a result the manual does not fix. [DESIGN CHOICE, log entry 5] -/
opaque Config.freeValue : Nat → Nat

/-- The n-th word of the DRBG of an island (R357). [DESIGN CHOICE, log entry 5] -/
opaque Config.drbg : Nat → Nat

/-- The coefficient ROM of the special-function unit, seen through the arguments at which the results of a function step up (R128, R131:
the tables are not in the manual): function index of Table 07-2, part of the function, result, first argument that reaches it.
 [DESIGN CHOICE, log entries 5 and 69] -/
opaque Config.sfuStep : Nat → Nat → Nat → Nat

/-- Where GELU's and SILU's x_m lies among the inputs within 2 ulp of the number of R131. [DESIGN CHOICE, log entries 5 and 69] -/
opaque Config.sfuMinimum : Nat → Nat

/-- The layer of a task class that names no attention record (R237: the stream gives it none). [DESIGN CHOICE, log entry 230] -/
opaque Config.classLayer : Nat → Nat

/-- The coefficient ROM for SIN and COS, seen through its results: function index of Table 07-2, FP32 input, FP32 result (R128).
 [DESIGN CHOICE, log entries 5 and 69] -/
opaque Config.sfuRom : Nat → Nat → Nat

/-- t_state of a group as a checkpoint carries it, by the channel, the beat of the restart and the group (R204 to R206).
 [DESIGN CHOICE, log entry 222] -/
opaque Config.checkpointCounter : Nat → Nat → Nat → Nat

/-- What the fixed program of Gram and Schmidt computes beyond the norms that R235 gives: by the step (projection coefficient, its subtraction,
division by the norm) and its FP32 operands. [DESIGN CHOICE, log entry 223] -/
opaque Config.gramStep : Nat → List Nat → Nat

/-- Whether a Type-3 device keeps the poison of a line that a write covers or touches (R278 leaves it to the device).
 [DESIGN CHOICE, log entries 5 and 19] -/
opaque Config.cxlKeepsPoison : Nat → Bool

/-- Whether the program checker accepts a vector program, given by the number its bytes spell (R124: the encoding is private to
the toolchain). [DESIGN CHOICE, log entries 5 and 142] -/
opaque Config.programAccepted : Nat → Bool

/-- Whether the signature of a debug token, given by the number its bytes spell, verifies under the key its SIGNER names, where a plain
register write submits it (R370). [DESIGN CHOICE, log entry 5] -/
opaque Config.signatureOk : Nat → Bool

/-- Which of a pool's FREE frames is taken, as the offset at which the search begins: by the pool, the time, and the frames of its list
(R177 names none). [DESIGN CHOICE, log entry 18] -/
opaque Config.framePick : Nat → Nat → List Nat → Nat

end Sys2Proof
end

