-- ==== Sys2Proof/Machine/State.lean ====
section
/-! DEFINITION. The state of a module: its two channels, the port die, the supply, what it has sent, and the queue of
commands that wait. Every field's default value is its value at reset (R8: the Reset column; where the manual gives no
value, the assumption log names it). -/

namespace Sys2Proof.Machine

/-- Faults of a step. No command of this model raises one: where the manual turns an access away it says so with a
completion code, a NAK or a refusal, which are next states. -/
inductive Fault where
  /-- Raised by no command (safe: the model never stops with it). -/
  | noCommand
  deriving DecidableEq, Repr

/-- Refusals of a step. -/
inductive Refusal where
  /-- Raised only by an arm of exec whose command has no meaning yet (safe: the model stops). -/
  | notModelled (mnemonic : String)
  deriving DecidableEq, Repr

/-! ### CHN, BEAT and TSK -/

/-- CHN block (R29, Tables 01-7 to 01-11); PART, SIL_REV and CHN_CAP are constants. -/
structure Chn where
  moduleId : BitVec 14 := 0
  lastFault : U16 := 0
  supplyOk : Bool := false
  state : ChState := .reset
  good : U8 := 0
  bound : U8 := 0
  spare : U8 := 0
  fenced : U8 := 0
  owl : U8 := 0
  deriving DecidableEq, Repr

/-- BEAT block (R52) and the beat machinery behind it (R35, R37, R41, R309). -/
structure Beat where
  ovrLimit : U8 := 4
  urgentPct : U8 := 2
  beatrefEn : Bool := false
  resume : Bool := false               -- RESUME written, to be applied at the next boundary
  leadinPct : U8 := 0
  periodUs : BitVec 11 := 250
  number : U48 := 0
  time : U64 := 0
  errNs : U16 := 0
  lost : Bool := false
  beatrefSeen : Bool := false
  creditStall : U16 := 0
  defer : U16 := 0
  overrun : U16 := 0
  paused : Bool := false
  offset : Int := 0                    -- offset from domain time still to be corrected, clk (R35)
  lostPending : Bool := false          -- BEAT_ALIGN_LOST found; foreground is held from the next boundary
  inBand : Bool := true                -- the offset has stayed within ±40 ns since the last boundary
  edgeSeen : Bool := false             -- a usable BEATREF edge since the last boundary
  admitted : Bool := false             -- BEAT_ADMISSION of the current beat has been made
  leadin : Bool := false               -- the lead-in window of the current beat has opened (R37)
  startAt : Option Nat := none         -- beat at whose boundary RUNNING begins (R309)
  tmplStart : Nat := 0                 -- beat from which template beats are counted (R299, R311)
  raised : List U16 := []              -- event codes already raised in this beat (R51 and the other event rules)
  raisedStep : List U16 := []          -- event codes already raised in this step (R217)
  deriving DecidableEq, Repr

/-- A credit queue (R49, Table 02-14): `returned` are credits first available at the next beat start. -/
structure Credit where
  capacity : U16 := 0
  available : U16 := 0
  shown : U16 := 0                     -- AVAILABLE: credits free at the last beat start
  returned : Nat := 0
  deriving DecidableEq, Repr

/-- TSK_CORE_STAT of a logical core, as sampled at T + 2,048 clk (R53). -/
structure CoreSample where
  free : BitVec 13 := 0x1000
  parked : BitVec 13 := 0
  ready : BitVec 13 := 0
  deriving DecidableEq, Repr

/-- A change of references that a task makes at its COMPLETE (R43, R179, R182). [DEDUCED, log entry 216] -/
inductive KvAct where
  | release (region : Nat)
  | share (src dst first count : Nat)
  deriving DecidableEq, Repr

/-- A task that holds a slot (R38, R40), with what the task unit, the array, Squirrel and the DMA engine keep for it. -/
structure Task where
  core : Nat := 0
  slot : Nat := 0
  desc : TaskDesc := {}
  exec : Nat := 0                      -- EXEC of its class (Table 14-3)
  step : U32 := 0                      -- step number of its stochastic rounding (R64, R237)
  lookahead : Bool := false            -- it came from a LOOKAHEAD run (R237)
  plan : Nat := 0                      -- beat it was planned for (R37)
  st : TaskSt := .ready
  committed : Bool := false
  carried : Bool := false              -- COMMITTED across a boundary (R44)
  carryCharged : Bool := false         -- charged again against the current beat (R319)
  hasRun : Bool := false               -- it has run in this beat (R41)
  started : Nat := 0                   -- its place among the dispatches of the channel (R82)
  cause : ParkCause := .none
  programEnded : Bool := false
  overruns : Nat := 0                  -- consecutive overruns (R41)
  urgent : Bool := false
  beat : Nat := 0                      -- beat of admission
  creditTaken : Bool := false
  fenceMask : U8 := 0
  retry : List RemOp := []             -- operations a committed task retries after GONE (R48)
  held : Option RemOp := none          -- the operation whose issue parked the task at 64 outstanding ones (R48)
  answer : List Byte := []             -- bytes of the last response delivered to the program (R48)
  answerCode : U8 := 0                 -- its completion code (R258: SCALE_MISMATCH is reported to the program)
  tileRec : Option TileRec := none     -- tile record as read at admission (R79)
  pageFmt : Option (BitVec 4) := none  -- page code that wins over the expected B format (Table 08-3)
  dmaDescs : List DmaDesc := []        -- descriptors as read at admission (R283)
  dmaDone : List Nat := []             -- descriptors completed
  dmaWrote : List (Nat × Nat) := []    -- global addresses and lengths that its completed descriptors wrote (R43, R289)
  pages : List PageDesc := []          -- page descriptors emitted for it, each one pin (R183)
  waitPages : Bool := false            -- its page walk is not finished
  walked : Bool := false               -- its list has been walked (R184)
  kvActs : List KvAct := []            -- what it does to references at its COMPLETE (R43)
  waitCause : ParkCause := .walk       -- what it parks for while it is not
  written : List (Nat × Nat) := []     -- core-SRAM ranges (address within the SRAM of all cores, length) it has written
  sample : Option Nat := none          -- sampled original: its sample (R335)
  dup : Option Nat := none             -- duplicate or third execution: the sample it runs (R338, R346)
  deriving DecidableEq, Repr

/-- A task that waits to be admitted: a planned one, one not admitted before, or one to be re-admitted (R36, R50). -/
structure Offer where
  core : Nat := 0
  desc : TaskDesc := {}
  beat : Nat := 0                      -- beat it was planned for
  readmitted : Bool := false
  overruns : Nat := 0
  patience : Nat := 0
  urgent : Bool := false
  lookahead : Bool := false
  step : Option U32 := none            -- step it belongs to, once that is fixed (R45, R237)
  missed : Bool := false               -- offered in this beat and not admitted (R50)
  secondChance : Bool := false         -- deferred for energy in the previous beat (R319)
  dup : Option Nat := none             -- duplicate or third execution of a sample (R338, R346)
  deriving DecidableEq, Repr

/-- TSK block (R53) and the task unit. -/
structure Tsk where
  coreSel : BitVec 7 := 0
  sample : SMap CoreSample := []
  goneDefer : U16 := 0
  badDesc : U8 := 0
  commitCarry : U8 := 0
  completed : U32 := 0
  faulted : U32 := 0
  lastCode : U16 := 0
  credits : SMap Credit := []
  starts : Nat := 0                    -- dispatches so far
  tasks : List Task := []
  offers : List Offer := []
  deriving DecidableEq, Repr

/-! ### ARR and VEC -/

/-- Per-core counts of the last beat and of the running beat (ARR_CORE, VEC_CORE; R91, R148). For the array `now` counts tiles: a
tile's clk overlap with its neighbours', so a beat in which tiles ran shows a free value. [DESIGN CHOICE, log entry 33] -/
structure CoreCount where
  last : U32 := 0
  now : U32 := 0
  deriving DecidableEq, Repr

/-- ARR block (R91, R121). `ovfNext` is the value that takes effect at the next boundary (R89). -/
structure Arr where
  ovfMode : Bool := false
  ovfNext : Bool := false
  coreSel : BitVec 7 := 0
  badTile : Bool := false
  fxUfl : Bool := false
  fxOvf : Bool := false
  tiles : U32 := 0
  skipped : U32 := 0
  busy : SMap CoreCount := []
  feedStall : SMap CoreCount := []
  badCause : U8 := 0
  badCore : BitVec 7 := 0
  badClass : U16 := 0
  badSeq : U32 := 0
  sliceTiles : U32 := 0
  fallbackElems : U32 := 0
  deriving DecidableEq, Repr

/-- A lane state of the statistics operations (R133): count, mean, M2 (or S in `m2` for SUMSQ) and the poison flag; `wide`
for the FP64 variants. -/
structure LaneState where
  n : U32 := 0
  mean : U64 := 0
  m2 : U64 := 0
  poison : Bool := false
  deriving DecidableEq, Repr

/-- An XSUM accumulator (R138): the 320-bit unsigned sum in units of 2^−149, and its two marks. -/
structure Xacc where
  sum : BitVec 320 := 0
  ovf : Bool := false
  nan : Bool := false
  deriving DecidableEq, Repr

/-- VEC block (R148) and the vector engines: registers keyed core × 64 + register, lane states and XSUM accumulators keyed
by core, saved contexts by core and task slot, with the context area that holds them (R124). -/
structure Vec where
  ovfMode : Bool := false
  ovfNext : Bool := false
  coreSel : BitVec 7 := 0
  scaleMismatch : Bool := false
  xsumOvf : Bool := false
  gatherOor : Bool := false
  blk8Sat : U32 := 0
  gatherOorCnt : U16 := 0
  scaleMismatchCnt : U16 := 0
  busy : SMap CoreCount := []
  putadd : SMap CoreCount := []
  regs : SMap LaneVec := []
  lanes : SMap (Vector LaneState 64) := []
  xacc : SMap (Vector Xacc 64) := []
  saved : List (Nat × Nat × Option Nat × List LaneVec) := []   -- (core, task slot, place of its context area in the core's SRAM, registers) (R124)
  deriving DecidableEq, Repr

/-! ### SQL, UPD and GXC -/

/-- A spill or fetch copy that is running (R177, R187, R188). -/
structure Move where
  hbmFrame : Nat := 0
  backFrame : Nat := 0
  backTier : BitVec 2 := 1
  region : Nat := 0
  page : Nat := 0
  useBeat : Nat := 0                   -- fetch: beat of first declared use
  retry : List (Nat × RemOp) := []     -- parts that completed GONE, with their offset in the frame (R190)
  released : Bool := false             -- fetch: the page was released meanwhile (R177)
  deriving DecidableEq, Repr

/-- A key-block slot of a core's KV frame cache (R150, R183). -/
structure KvSlot where
  core : Nat := 0
  slot : Nat := 0
  descs : List PageDesc := []
  users : List Nat := []               -- task slots that reference it
  filled : Bool := false
  deriving DecidableEq, Repr

/-- What a transit page on this channel still serves: tasks that have not read it, and a channel to which it is to be forwarded; a page under
KEEP_K stays until pass 2 (R165, R191). [DEDUCED, log entry 219] -/
structure TransitUse where
  uses : Nat := 0
  forward : Bool := false
  keep : Bool := false
  deriving DecidableEq, Repr

/-- A page write declared in this beat (R180, R181). -/
structure WriteDecl where
  core : Nat := 0
  taskSlot : Nat := 0
  region : Nat := 0
  page : Nat := 0
  frame : Nat := 0                     -- frame written into
  source : Option Nat := none          -- COW source frame
  reserved : Bool := false             -- the frame is a reservation that no PTE names yet
  copied : Bool := false
  fmt : U8 := 0
  beat : Nat := 0                      -- beat of the declaration
  live : Bool := true                  -- its task has not ended
  deriving DecidableEq, Repr

/-- A page-list-mode list that was walked (R192, R288). -/
structure WalkedList where
  region : Nat := 0
  pool : Nat := 0
  baseFrame : Nat := 0
  pages : List Nat := []
  deriving DecidableEq, Repr

/-- SQL block (R194) and Squirrel's private structures (R169). PTEs are keyed region × 2^18 + page; `hbm` and `back` are
the two frame numberings (R173). -/
structure Sql where
  ahead : BitVec 4 := 2
  spillEn : Bool := true
  walk : Bool := false
  walkNext : Option Bool := none
  strictFmt : Bool := false
  modeBusy : Bool := false
  backLost : Bool := false
  stale : Bool := false
  poolEmpty : Bool := false
  backFull : Bool := false
  missBeats : U16 := 0
  fmtMismatch : U16 := 0
  walkLate : U16 := 0
  cow : U16 := 0
  spilled : U32 := 0
  fetched : U32 := 0
  prefetchMax : U16 := 0x400
  spillMax : U16 := 0x400
  regionsNum : BitVec 24 := 0
  regionBase : BitVec 40 := 0
  poolSel : U8 := 0
  pools : List Pool := []
  regions : SMap Region := []
  ptes : SMap Pte := []
  hbm : SMap Frame := []
  back : SMap Frame := []
  spills : List Move := []
  fetches : List Move := []
  fetchedNow : Nat := 0                -- fetches begun by prefetch in this beat
  slots : List KvSlot := []
  writes : List WriteDecl := []
  lost : List (Nat × Nat) := []        -- (region, page) marked lost (R190)
  walked : List WalkedList := []
  transit : SMap TransitUse := []      -- transit pages held, keyed as PTEs (R191)
  incs : SMap U16 := []                -- incarnation with which a REMOTE backing frame was stamped (R190)
  deriving DecidableEq, Repr

/-- A step descriptor as accepted (R205, Table 10-5). -/
structure StepDesc where
  sJob : U32 := 0
  restart : Bool := false
  epoch : U16 := 0
  deriving DecidableEq, Repr

/-- What the STAT and BLOCK tasks of a tile have staged (R210): r, c and mean_r, the new weights and the new MOM8 blocks by update block, and
the blocks clipped. -/
structure TileStage where
  step : U32 := 0
  hasStat : Bool := false
  r : List Nat := []
  c : List Nat := []
  mean : Nat := 0
  hasBlocks : Bool := false
  weights : List (List Nat) := []      -- BF16 codes of each update block
  moments : List (Nat × List Byte) := []   -- exponent byte and elements of each update block
  deriving DecidableEq, Repr

/-- UPD block (R218). -/
structure Upd where
  sched : Bool := false
  schedNow : Bool := false             -- the source in effect since the last acceptance (R208)
  lastCommit : U32 := 0
  sJob : U32 := 0
  actLost : Bool := false
  lrReused : Bool := false
  stepBad : Bool := false
  stepSkew : Bool := false
  skewGroup : BitVec 6 := 0
  inStep : Bool := false
  pending : Option StepDesc := none
  skewT : U32 := 0
  skewS : U32 := 0
  blocks : U32 := 0
  clipped : U32 := 0
  missBeats : U16 := 0
  lost : U16 := 0
  offloadKib : U32 := 0
  lr : SMap U32 := []
  fresh : SMap Bool := []
  tState : SMap U32 := []
  latched : SMap U32 := []             -- step size of each group for the step in progress
  actPending : List (Nat × Nat × Nat) := []   -- return copies not completed: layer, HBM offset, length (R196)
  actGone : List (Nat × Nat × Nat) := []      -- activations lost: layer, HBM offset, length (R197)
  barred : Bool := false               -- the step that was abandoned at its acceptance admits none of its tasks (R241)
  aheadSram : List (Nat × Nat) := []   -- what completed look-ahead tasks of the next step have written: address in the SRAM of all cores, length
  aheadWrote : List (Nat × Nat) := []  -- and by their DMA: global address, length (R237)
  staged : SMap TileStage := []        -- what the update has staged of a tile, by tile (R210)
  deriving DecidableEq, Repr

/-- One path of the addition of a segment at its root (R226 to R229, R236): the HBM offsets of the slots that have arrived, by position; the
sett partial, requantised in place; the message with the running sum that has arrived; and the sum so far. `sat` are the groups in which an
addition saturated. -/
structure SegSum where
  slots : List (Nat × Nat) := []
  part : List Byte := []
  added : Bool := false                -- the sett partial has been formed
  scaled : Bool := false               -- it has been requantised
  incoming : Option Nat := none
  sum : List Byte := []
  summed : Bool := false
  sat : List Nat := []
  deriving DecidableEq, Repr

/-- What a reduced bucket is retained with (R229): its final bitmap, the step's latched step sizes and t_state values. -/
structure Retained where
  bitmap : List Nat := []
  lr : SMap U32 := []
  tState : SMap U32 := []
  deriving DecidableEq, Repr

/-- What a channel holds of one bucket in the step (R223 to R232). Bitmaps and arrival sets are lists of indices without
repeats, rising. -/
structure Bucket where
  started : Bool := false              -- this channel has sent its pre-pass
  settBeat : Option Nat := none        -- beat in which the sett stage started at this root
  settArr : List (Nat × List U8) := [] -- (position, pre-pass bytes) of the arrivals
  settClosed : Bool := false
  settMap : List Nat := []             -- sett bitmap: included positions
  settExp : List U8 := []              -- s_sett of each block
  settMax : List U8 := []              -- m_s of each block
  domBeat : Option Nat := none
  domArr : List (Nat × List Nat × List U8) := []  -- (sett rank, its bitmap, its m_s bytes)
  domClosed : Bool := false
  domMap : List Nat := []              -- final bitmap: contributor indices
  domExp : List U8 := []               -- s_dom of each block
  first : SegSum := {}                 -- its segment on the primary path
  second : SegSum := {}                -- the sampled groups of its segment on the second path
  arrived : Nat := 0                   -- arrival counter (R229)
  reduced : Bool := false
  failed : Bool := false
  deriving DecidableEq, Repr

/-- GXC block (R244) and the exchange state. `deadline` to `late` are the written values; `act…` those in effect since
the last acceptance. -/
structure Gxc where
  deadline : U8 := 4
  checkEn : Bool := true
  checkLog2 : BitVec 4 := 0xA
  late : Bool := false
  actDeadline : U8 := 4
  actCheckEn : Bool := true
  actCheckLog2 : BitVec 4 := 0xA
  actLate : Bool := false
  abandoned : Bool := false
  epochBad : Bool := false
  bucketFail : Bool := false
  lateSt : Bool := false
  checkFail : Bool := false
  sat : U32 := 0
  excluded : U16 := 0
  carried : U16 := 0
  compared : U32 := 0
  skippedSat : U16 := 0
  failedCnt : U16 := 0
  nb : BitVec 13 := 0
  last : U32 := 0
  flagged : U32 := 0
  reqLayout : U8 := 0
  permuting : Option U8 := none        -- layout a running permute moves to
  queued : Option U8 := none           -- layout of a queued request
  requested : Option U8 := none        -- request that starts at the next boundary
  layout : U8 := 0
  epoch : U16 := 0
  lateStep : U32 := 0
  lateBucket : BitVec 13 := 0
  lateContrib : BitVec 15 := 0
  buckets : SMap Bucket := []
  retained : SMap (Option Retained) := []   -- buckets whose reduced groups are retained in HBM, and with what (R229)
  carriedBuckets : SMap (Option (List Byte)) := []   -- buckets whose late gradient is carried, and the gradient in FP32 (R231)
  lows : SMap (List Nat) := []         -- P̂ of a low-rank pair, by its first bucket (R235)
  failFlag : Bool := false             -- this channel must signal FAIL for the step (R238)
  flaggedStep : Bool := false          -- it has signalled OK or FAIL for the step
  okCount : Nat := 0                   -- at the commit root
  failCount : Nat := 0
  deriving DecidableEq, Repr

/-! ### WRN, MEM, CXL and DMA -/

/-- A partial management message on a link (R265). -/
structure MgmtPartial where
  op : U8 := 0
  tag : U32 := 0
  seq : U16 := 0                       -- of the last fragment
  total : Nat := 0
  got : List (Nat × Byte) := []
  deriving DecidableEq, Repr

/-- A Warren link: WRN_LINK and WRN_LINK_ERR (R271) and its link layer (R247, R248, R249, R261). -/
structure Link where
  st : LinkSt := .down
  peerModule : BitVec 14 := 0
  peerChannel : BitVec 1 := 0
  peerLink : BitVec 6 := 0
  retrains : U16 := 0
  fecCorr : U32 := 0
  fecUncorr : U16 := 0
  replay : U16 := 0
  eligible : Bool := false             -- UP or RETRAIN at the last ROUTE_UPDATE and never FAILED or DOWN since
  attempts : Nat := 0                  -- failed retraining attempts
  peerStratum : U8 := 0xFF
  txSeq : BitVec 12 := 0               -- sequence number of the next frame
  rxSeq : BitVec 12 := 0               -- sequence number expected next
  replayBuf : List (BitVec 12 × Packet) := []
  replayRuns : Nat := 0                -- consecutive replays of the oldest frame
  queue : List Packet := []            -- packets that wait for the link
  used : SMap Nat := []                -- credits in use, keyed VC × 4 + class
  partMsg : Option MgmtPartial := none
  deriving DecidableEq, Repr

/-- Who issued an outstanding request. -/
inductive ReqOwner where
  | task (core slot : Nat) | dma (xfer : Nat) | squirrel | fetch (frame : Nat) | spill (frame : Nat)
  | badger (u : SuspectUnit)
  | orphan                                                       -- its task has ended
  deriving DecidableEq, Repr

/-- An outstanding request (R257). -/
structure Request where
  tag : U32 := 0
  owner : ReqOwner := .squirrel
  agent : U8 := 0
  module : BitVec 14 := 0
  channel : BitVec 1 := 0
  op : RemOp := {}
  timeoutUs : U16 := 1000
  lostAfterMs : U16 := 100
  held : Bool := false
  dmaOff : Nat := 0                    -- DMA GET: offset of its data within the transfer
  pinned : Option Nat := none          -- frame that a forwarding PUT pins until it completes (R191)
  deriving DecidableEq, Repr

/-- WRN block (R271), the route table (R259), the links and the domain time (R265). -/
structure Wrn where
  lostAfter : U16 := 0x64
  rspTimeout : U16 := 0x3E8
  adaptEn : Bool := true
  incarnation : U16 := 0
  slotValid : Bool := false
  slot : BitVec 3 := 0
  gen : U32 := 0
  mgmtBad : Bool := false
  miswire : Bool := false
  authFail : Bool := false
  linkDown : Bool := false
  routeErr : Bool := false
  lost : Bool := false
  goneCnt : U16 := 0
  lostCnt : U16 := 0
  routeErrCnt : U16 := 0
  refused : U16 := 0
  issueStall : U32 := 0
  lateRsp : U16 := 0
  linkSel : BitVec 6 := 0
  routeSel : BitVec 14 := 0
  links : SMap Link := []
  routes : SMap RouteEntry := []
  reqs : List Request := []
  waiting : List Request := []         -- operations whose issue waits, oldest first (R269)
  lostTags : List U32 := []            -- requests completed LOST whose response may still arrive (R257)
  nextTag : U32 := 0
  seqs : SMap U16 := []                -- next SEQ of each flow (R253)
  psels : SMap (BitVec 3) := []        -- PSEL of each flow (R261)
  tgen : U32 := 0
  stratum : U8 := 0xFF
  isRoot : Bool := false
  utcSec : U32 := 0
  utcAt : U64 := 0
  deriving DecidableEq, Repr

/-- MEM block (R291), HBM and core SRAM with their check state. SRAM of physical core p lies at p × 2^22; HBM poison is
keyed by line (offset / 64), SRAM poison by word (address / 8). -/
structure Mem where
  scrubHours : U8 := 0x18
  ceLimit : U16 := 0x400
  scrubLate : Bool := false
  ceStorm : Bool := false
  sramUe : Bool := false
  hbmUe : Bool := false
  ce : U32 := 0
  ue : U16 := 0
  sramCe : U16 := 0
  ueValid : Bool := false
  ueSource : UeSource := .hbmRead
  uePcore : U8 := 0
  ueOffset : BitVec 38 := 0
  passes : U16 := 0
  pos : BitVec 38 := 0
  hbm : SMap Byte := []
  sram : SMap Byte := []
  hbmPoison : SMap Bool := []
  sramPoison : SMap Bool := []
  hbmErr : SMap Nat := []              -- latent bad symbols of a line (R273)
  sramErr : SMap Nat := []             -- latent bad bits of a word (R282)
  ceHour : SMap (Nat × Nat × Bool) := []   -- hour, its corrections, and whether they stormed, of each pseudo-channel (R273)
  sramPos : SMap Nat := []             -- SRAM scrub position of each physical core
  deriving DecidableEq, Repr

/-- A CXL port (R292) with its device's memory (R276 to R278). STATE: 0 DOWN, 1 TRAINING, 2 UP, 3 FAILED. -/
structure CxlPort where
  st : BitVec 4 := 0
  width : BitVec 5 := 0
  rate : BitVec 3 := 0
  capGib : U16 := 0
  poisonCnt : U16 := 0
  timeout : U16 := 0
  deriving DecidableEq, Repr

/-- CXL block (R292); `mem` holds the aperture's bytes, keyed by aperture offset, as the Type-3 devices keep them, and
`poison` the 64-byte lines poisoned there. -/
structure Cxl where
  portEn : BitVec 2 := 3
  port0 : CxlPort := {}
  port1 : CxlPort := {}
  ilvGib : U16 := 0
  linGib : U16 := 0
  linPort : BitVec 1 := 0
  mem : SMap Byte := []
  poison : SMap Bool := []
  deriving DecidableEq, Repr

/-- Who issued a DMA descriptor (R283). -/
inductive DmaOwner where
  | task (core slot : Nat) (idx : Nat)
  | planned (core beat seq : Nat) (idx : Nat)    -- a lead-in descriptor of a task planned for a beat (R37)
  | control
  deriving DecidableEq, Repr

/-- A transfer of the DMA engine (R283, R286): its writes become visible when it completes. -/
structure Xfer where
  id : Nat := 0
  owner : DmaOwner := .control
  desc : DmaDesc := {}
  writes : List (U64 × List Byte) := []   -- (global address, bytes)
  cxlReads : List (Nat × Nat) := []       -- ranges of the CXL aperture that it reads: offset, length
  bytes : Nat := 0
  cause : U8 := 0                         -- Table 13-3; 0 while it has not failed
  outstanding : Nat := 0                  -- remote parts not completed
  leadin : Bool := false
  walked : Option WalkedList := none
  retry : List (Nat × RemOp) := []        -- parts that completed GONE and wait for the route (R48)
  deriving DecidableEq, Repr

/-- DMA block (R293). -/
structure Dma where
  blktMix : Bool := false
  memUe : Bool := false
  fault : Bool := false
  descs : U32 := 0
  faults : U16 := 0
  blktMixCnt : U16 := 0
  bytes : U64 := 0
  errCause : U8 := 0
  errOp : U8 := 0
  errCtrl : Bool := false
  errCore : BitVec 7 := 0
  errSeq : U32 := 0
  xfers : List Xfer := []
  early : List (Nat × Nat × Nat × Nat) := []   -- lead-in descriptors completed before their task's admission: core, planned beat,
                                          -- PLAN_SEQ, index
  nextId : Nat := 0
  deriving DecidableEq, Repr

/-! ### PSS, LEDG and PWR -/

/-- PSS_STATUS.PHASE (R313). -/
inductive Phase where
  | empty | verifying | loaded | running | unloading
  deriving DecidableEq, Repr

/-- PSS block (R313), the loaded and the pending stream and the core binding (R307). -/
structure Pss where
  src : BitVec 38 := 0
  len : BitVec 31 := 0
  startBeat : U48 := 0
  code : U8 := 0
  section_ : BitVec 12 := 0xFFF
  detail : U32 := 0
  degraded : Bool := false
  swapPending : Bool := false
  startLate : Bool := false
  phase : Phase := .empty
  stream : Option Stream := none
  pendingStream : Option Stream := none
  verifyFrom : Phase := .empty         -- phase in which the LOAD was written (R303, R306)
  layout : Option LayoutData := none   -- the layout in effect (R296, R311)
  loadSettings : Settings := {}        -- the settings in effect at the LOAD (R400)
  winOpen : Bool := false              -- windows are open (R252, R305)
  withdrawn : Bool := false            -- windows withdrawn on leaving (R252, R406)
  binding : SMap (Option Nat) := []    -- physical core of each logical core (R307)
  unloadReq : Bool := false            -- UNLOAD written, takes effect at the next boundary
  stopping : Bool := false             -- admission stopped, committed tasks complete
  deriving DecidableEq, Repr

/-- A register write that waits for its boundary: the beat at whose boundary it takes effect (R315, R332). -/
structure Delayed where
  beat : Nat := 0
  value : U64 := 0
  deriving DecidableEq, Repr

/-- LEDG block (R332) and the ledger. -/
structure Ledg where
  lendMaxW : U8 := 0x64
  reservePct : BitVec 4 := 3
  refineEn : Bool := true
  borrowEn : Bool := true
  lendEn : Bool := true
  ctrlNow : U64 := 0x64030007          -- LEDG_CTRL value in effect
  ctrlWait : List Delayed := []
  limitW : BitVec 10 := 600
  limitNow : Nat := 600                -- requested limit in effect
  limitWait : List Delayed := []
  grantedW : BitVec 10 := 600
  admissible : Int := 0
  admitted : Nat := 0
  bgAdmitted : Nat := 0                -- background charges of the beat
  urgentAdmitted : Nat := 0
  loanIn : Nat := 0
  loanOut : Nat := 0
  nextLoanIn : Nat := 0
  nextLoanOut : Nat := 0
  offered : Nat := 0                   -- offer whose acceptance has not arrived (R324)
  measured : U32 := 0
  charged : U32 := 0
  reconBeat : U16 := 0
  debt : Nat := 0
  debts : List (Nat × Nat) := []       -- (beat, debt) to come (R321)
  lastCharged : Nat := 0               -- foreground charge of the beat to reconcile
  lastBg : Nat := 0
  lastLimit : Nat := 0                 -- its limit energy
  lastAdmissible : Int := 0
  k : BitVec 18 := 0x10000
  kWait : List (Nat × Nat) := []       -- (beat, K) to come (R322)
  energyDefer : U16 := 0
  overdraw : U16 := 0
  meterBad : U16 := 0
  carryCharge : U16 := 0
  kLimit : Bool := false
  meterBadSt : Bool := false
  loanLost : Bool := false
  overdrawSt : Bool := false
  deriving DecidableEq, Repr

/-- PWR block (R333): domains keyed by domain id (Table 15-3), absent meaning `{}`. -/
structure Pwr where
  spareOff : Bool := false
  sel : U8 := 0
  domains : SMap Domain := []
  refused : U16 := 0
  wakeFail : U16 := 0
  lastRefuse : U8 := 0
  deriving DecidableEq, Repr

/-! ### BDG, OWL and SEC -/

/-- A sampled tile (R335 to R338). -/
structure Sample where
  id : Nat := 0
  core : Nat := 0                      -- logical core n of the original
  pcore : Nat := 0
  partner : Nat := 0                   -- logical core p
  beat : Nat := 0                      -- beat of the original
  ob : Nat := 1                        -- o_b (R336)
  desc : TaskDesc := {}
  tile : TileRec := {}
  ovfMode : Bool := false
  sJob : U32 := 0
  digest : U64 := 0
  data : List (Nat × List Byte) := []  -- operand and C bytes copied to the duplicate area: (offset within it, bytes)
  phase : Nat := 0                     -- 0 chosen, 1 copying, 2 copied, 3 compared, 4 arbitrating
  dupDigest : Option U64 := none
  third : Option Nat := none
  outTag : U32 := 0
  stepAt : U32 := 0                    -- s_job at the beat of the original (R342)
  deriving DecidableEq, Repr

/-- An incident (R345, R346). -/
structure Incident where
  unit : SuspectUnit := .core 0
  pair : Option (Nat × Nat) := none    -- physical cores of a pair incident
  arb : Bool := false                  -- a pair incident under arbitration
  opened : Nat := 0                    -- beat of the opening
  count : Nat := 1
  source : U8 := 0
  cls : U8 := 0                        -- 0 OPEN, 1 TRANSIENT, 2 PERMANENT, 3 UNRESOLVED
  secondPath : Option Nat := none      -- logical core named by a second-path report
  closed : Bool := false
  record : FaultRec := {}
  deriving DecidableEq, Repr

/-- What the Badger holds for a physical core (R342, R343, R349, R353). -/
structure CoreHealth where
  beatClean : U48 := 0
  stepClean : U32 := 0
  taint : List (U32 × U32) := []       -- (OUT_TAG, beat), oldest first
  taintOvf : Bool := false
  bad : Bool := false                  -- bad in the repair map
  permanent : Bool := false
  retest : Bool := false
  retestFromPair : Bool := false
  fencePending : Bool := false         -- fenced at the next boundary (R348)
  transients : List U32 := []          -- UTC seconds of transients (0: no time)
  sampleAll : Nat := 0                 -- beat until which every tile is sampled (R347)
  owlNext : U8 := 0                    -- next chunk of the current pass
  owlBeat : U48 := 0                   -- beat of the last full pass
  owlUrgent : Bool := false            -- an urgent chunk is scheduled (R347)
  deriving DecidableEq, Repr

/-- BDG block (R353) and the Badger. `ctrlWait` and `dupWait` take effect at the next boundary. -/
structure Bdg where
  windowDays : U8 := 0x1E
  holdoff : U8 := 0x10
  k : BitVec 4 := 3
  dupPatience : U8 := 8
  dupLog2 : BitVec 4 := 8
  flagEn : Bool := true
  arbEn : Bool := true
  dupEn : Bool := true
  ctrlWait : Option U64 := none
  dupSize : BitVec 6 := 8
  dupBase : BitVec 22 := 0x370000
  dupWait : Option U64 := none
  dupOff : Bool := false
  intakeDrop : Bool := false
  reportUndelivered : Bool := false
  permanent : Bool := false
  taintOvf : Bool := false
  incident : Bool := false
  flagged : Bool := false
  reports : U16 := 0
  dropped : U16 := 0
  coalesced : U16 := 0
  incidentsCnt : U16 := 0
  compared : U32 := 0
  skipped : U16 := 0
  mismatch : U16 := 0
  thirdRuns : U16 := 0
  unresolved : U16 := 0
  attributed : U16 := 0
  coreSel : U8 := 0
  lastRec : FaultRec := {}             -- most recent fault record (BDG_LASTn)
  hasRec : Bool := false
  intake : Nat := 0                    -- reports stored in this beat
  incidents : List Incident := []
  unitHist : List (SuspectUnit × U32) := []   -- UTC second of each incident of a pseudo-channel, link or CXL port (R349)
  samples : List Sample := []
  nextSample : Nat := 0
  cores : SMap CoreHealth := []
  deriving DecidableEq, Repr

/-- OWL block (R354). -/
structure Owl where
  passHours : U8 := 0x18
  en : Bool := true
  storeRev : U16 := 0
  storeOk : Bool := false              -- the pattern cache has been copied and checked
  storeBad : Bool := false
  late : Bool := false
  fail : Bool := false
  active : Bool := false
  chunksRun : U32 := 0
  passes : U16 := 0
  fails : U16 := 0
  pcore : U8 := 0
  chunk : U8 := 0
  sel : U8 := 0
  claimLeft : Nat := 0                 -- beats left of the current claim
  busy : Bool := false                 -- the chunk is being applied
  deriving DecidableEq, Repr

/-- A secure session (R383, R384): 0 none, 1 HELLO answered, 2 KEM accepted, 3 bound. -/
structure Session where
  stage : Nat := 0
  qp : Nat := 0
  key : Option Key := none             -- key that signs for the host; none when unclaimed (R401)
  vendor : Bool := false
  unclaimed : Bool := false
  ivIn : Nat := 0
  ivOut : Nat := 1
  deriving DecidableEq, Repr

/-- Why a channel is in RECOVERY, SEC_STATUS.RECOVERY_CAUSE (R361, R375). -/
inductive RecCause where
  | none | image | rollback | puf | repair | lifecycle | counter
  deriving DecidableEq, Repr

/-- SEC block (R375) and the security island (R355 to R373); the port-die island has the same state (R373). -/
structure Sec where
  cause : RecCause := .none
  selftestFail : Bool := false
  entropyFail : Bool := false
  pufGated : Bool := false
  dbgLevel : DebugLevel := .closed
  lifecycle : Lifecycle := .field
  imageSvn : U32 := 0
  dbgCause : U8 := 0
  remainS : U32 := 0
  reqLevel : Option DebugLevel := none
  reqInvasive : Bool := false          -- INVASIVE_ALLOW and VENDOR_OBSERVE as they stood at the REQ (R400)
  reqVendor : Bool := false
  nonce : Option (BitVec 256) := none
  keys : Bool := false                 -- IDK, RPK and SMK are present (Table 17-2)
  idkHash : U512 := 0
  mrSel : BitVec 3 := 0
  mr : SMap U512 := []
  dbgOpens : U16 := 0
  dbgRefused : U16 := 0
  quotes : U16 := 0
  installBad : U16 := 0
  token : SMap Byte := []
  session : Session := {}
  settings : Settings := {}            -- the settings in effect
  recKeyOk : Bool := false             -- RECOVERY: the lifecycle record verified (R362)
  deriving DecidableEq, Repr

/-! ### MBX, CFG, TLM and serial memory -/

/-- A doorbell (R379). -/
structure Doorbell where
  val : U32 := 0
  mask : U32 := 0
  deriving DecidableEq, Repr

/-- A command ring (R385). -/
structure Ring where
  en : Bool := false
  log2 : BitVec 4 := 0
  base : BitVec 38 := 0
  pi : U16 := 0
  ci : U16 := 0
  deriving DecidableEq, Repr

/-- A command taken from a ring that has not completed (R386): ring, count and entry. -/
structure RingCmd where
  ring : Nat := 0
  count : U16 := 0
  entry : CmdEntry := {}
  deriving DecidableEq, Repr

/-- An event queue (R387, R388). -/
structure EvQueue where
  addr : U64 := 0
  en : Bool := false
  log2 : BitVec 4 := 0
  qpn : BitVec 12 := 0
  rkey : U32 := 0
  pi : U32 := 0
  ci : U32 := 0
  retained : List EvRec := []
  loss : Bool := false
  deriving DecidableEq, Repr

/-- A mailbox: its header, payload and the QP that wrote REQUEST (R381, R389). -/
structure Mailbox where
  hdr : MbxHdr := {}
  payload : SMap Byte := []
  qp : Option Nat := none
  object : List Byte := []             -- fragments received of a fragmented object (R382)
  objOp : U16 := 0                     -- its opcode
  nextFrag : Option U32 := none        -- SEQ of its next fragment; none when no object is being received
  deriving DecidableEq, Repr

/-- MBX block (R392). Doorbell groups: 0 non-secure in, 1 non-secure out, 2 secure in, 3 secure out. -/
structure Mbx where
  eqDrop : U16 := 0
  spurious : U16 := 0
  discarded : U16 := 0
  dbRefused : U8 := 0
  phaseWait : U8 := 0
  db0 : Doorbell := {}
  db1 : Doorbell := {}
  db2 : Doorbell := {}
  db3 : Doorbell := {}
  rings : SMap Ring := []
  cmds : List RingCmd := []
  queues : SMap EvQueue := []
  boxes : SMap Mailbox := []
  deriving DecidableEq, Repr

/-- CFG block (R408). -/
structure Cfg where
  left : Bool := false
  settingsBad : Bool := false
  settingsOld : Bool := false
  calBad : Bool := false
  histBad : Bool := false
  storeCopied : Bool := false
  selfRx : Bool := false
  timeRx : Bool := false
  cxlDone : Bool := false
  hbmReady : Bool := false
  setSeq : U32 := 0
  setSlot : Bool := false
  calMs : U16 := 0
  joinMs : U16 := 0xFFFF
  leaveReq : Bool := false             -- LEAVE waits for the next boundary (R406)
  deriving DecidableEq, Repr

/-- TLM block (R409). -/
structure Tlm where
  hbmMax : U16 := 0
  jctMax : U16 := 0
  jctPcore : U8 := 0
  railMw : U32 := 0
  inputMw : U32 := 0
  vin : U16 := 0
  iin : U16 := 0
  deriving DecidableEq, Repr

/-- A settings slot (R398, R402). -/
structure SettingsSlot where
  valid : Bool := false
  seq : U32 := 0
  settings : Settings := {}
  digest : U512 := 0
  deriving DecidableEq, Repr

/-- A calibration slot (R398, Table 19-3). [DESIGN CHOICE, log entry 4] -/
structure CalSlot where
  valid : Bool := false
  seq : U32 := 0
  units : List Nat := []               -- c_0 to c_7, pJ; empty when the record holds none
  other : List (Nat × List Byte) := [] -- training, equalisation and sensor TLVs (0x0103 to 0x0105)
  k : Option Nat := none
  digest : U512 := 0
  deriving DecidableEq, Repr

/-- The firmware image in serial memory, as the boot ROM's checks see it (R360, R361). -/
structure ImageSlot where
  headerOk : Bool := true              -- certificate, MAGIC, TARGET_PART, MIN_SIL_REV and DIGEST
  signatureOk : Bool := true
  svn : U32 := 0
  version : U16 := 0
  bodyDigest : U512 := 0
  headerDigest : U512 := 0
  deriving DecidableEq, Repr

/-- The lifecycle record in serial memory (R367, R368). -/
structure LcRecord where
  lc : Lifecycle := .field
  seq : U32 := 0
  idkHash : U512 := 0
  signatureOk : Bool := true
  digest : U512 := 0
  deriving DecidableEq, Repr

/-- The vendor certificate chain and the identity certificate in serial memory (R358, Table 19-2), which nothing writes after manufacture;
the manual gives no contents. [DESIGN CHOICE, log entry 4] -/
structure CertArea where
  chain : List Byte := []
  identity : List Byte := []
  deriving DecidableEq, Repr

/-- The repair map (R17, R361). -/
structure RepairMap where
  bad : List Nat := []
  signatureOk : Bool := true
  digest : U512 := 0
  deriving DecidableEq, Repr

/-- What is being written to serial memory (R362): a firmware image, or another recovery object. -/
inductive Install where
  | none | image (i : ImageSlot) | other
  deriving DecidableEq, Repr

/-- Serial memory of a channel (R397): survives a channel reset and a power cycle. -/
structure Serial where
  image : ImageSlot := {}
  repair : RepairMap := {}
  pufOk : Bool := true                 -- the PUF seed can be reconstructed (R358, R359)
  pufDigest : U512 := 0
  pufIdk : U512 := 0                   -- SHA3-512 of the identity key the PUF gives
  regionOk : Bool := true              -- the replay-protected region's response authenticates (R363)
  fwSvn : U32 := 0
  lcSeq : U32 := 0
  setSeq : U32 := 0
  calA : CalSlot :=                    -- written at manufacture (R3, R397)
    { valid := true, seq := 1, units := [1160, 1010, 870, 310, 28, 23400, 36700, 48000], k := some 0x10000 }
  calB : CalSlot := {}
  setA : SettingsSlot := { valid := true }
  setB : SettingsSlot := {}
  lc : LcRecord := {}
  certs : CertArea := {}               -- vendor certificate chain and identity certificate (R3, R358)
  ring : SMap FaultRec := []           -- records of the fault-history ring by slot (R403)
  ringHead : BitVec 18 := 0            -- slot of the next record
  ringBad : Bool := false              -- no erased sector, or two erased runs
  storeRev : U16 := 0
  storeOk : Bool := true               -- the scan store matches its digest (R339)
  installing : Install := .none        -- a verified object that is being written (R362)
  deriving DecidableEq, Repr

/-- A channel: one compute die with its blocks of registers (Table 01-6) and what stands behind them. `fw` is the control
complex's event FIFO. -/
structure Channel where
  chn : Chn := {}
  beat : Beat := {}
  tsk : Tsk := {}
  arr : Arr := {}
  vec : Vec := {}
  sql : Sql := {}
  gxc : Gxc := {}
  wrn : Wrn := {}
  mem : Mem := {}
  cxl : Cxl := {}
  dma : Dma := {}
  pss : Pss := {}
  ledg : Ledg := {}
  bdg : Bdg := {}
  owl : Owl := {}
  sec : Sec := {}
  mbx : Mbx := {}
  cfg : Cfg := {}
  pwr : Pwr := {}
  upd : Upd := {}
  tlm : Tlm := {}
  ser : Serial := {}
  events : List EvRec := []            -- events raised and not yet posted (R388)
  dead : Bool := false                 -- control-complex watchdog expired (R389)
  domain : Domain := { st := .off }    -- power domain 0xFF, held by the port die (R325)
  thermalCap : Nat := 650              -- W (R415, R416)
  thermDerate : Bool := false          -- the last reading lay at or above the derate level
  thermClear : Bool := true            -- the last reading lay below the clear level
  tripLock : Bool := false             -- PTD_CHPWR ON is refused for 10 s after a trip (R417)
  refclkOk : Bool := true              -- REFCLK_SYS present and locked (R421)
  deriving DecidableEq, Repr

/-! ### Port die and supply -/

/-- A queue pair (R377, R378, R383). -/
structure Qp where
  num : Nat := 0
  port : Nat := 0
  target : Nat := 0                    -- 0 channel 0, 1 channel 1, 2 port die
  secure : Bool := false
  rkey : U32 := 0
  error : Bool := false
  bound : Bool := false
  deriving DecidableEq, Repr

/-- A host Ethernet port (R376, R393). -/
structure EthPort where
  linkUp : Bool := false
  fecUncorr : U16 := 0
  cnpRx : U16 := 0
  rate : Nat := 100                    -- sending rate in percent, reduced on congestion notification (R376)
  deriving DecidableEq, Repr

/-- The port die: PTD block (R393), host port, module management controller and I3C target (R390). -/
structure Ptd where
  slotValid : Bool := false
  slot : BitVec 3 := 0
  ports : SMap EthPort := []
  qps : List Qp := []
  nextQp : Nat := 2
  cmReject : U16 := 0
  qpDiscard : U16 := 0
  aborted : U16 := 0
  accessNak : U16 := 0
  sec : Sec := {}
  queues : SMap EvQueue := []          -- the port die's event queues (R389, R414)
  events : List EvRec := []
  i3cAddr : Option (BitVec 7) := none  -- dynamic address taken by ENTDAA
  slotTaken : Bool := false            -- the slot was accepted since power-up (R390)
  alertTemp : Bool := false
  alertInput : Bool := false
  alertHotswap : Bool := false
  failed : Bool := false               -- the port die has failed (R21)
  up : Bool := false                   -- out of reset and ready (Table 19-1)
  stored : List EvRec := []            -- events recorded while the port die had no power (R414)
  ser : Serial := {}
  deriving DecidableEq, Repr

/-- The shared supply (R19, R404, R412, R413). -/
structure Supply where
  pwrEn : Bool := false
  inRange : Bool := true               -- input within 46–58 V
  below : Bool := false                -- input below 46 V
  holdupUs : Nat := 0                  -- hold-up timer, µs
  outputOn : Bool := false
  lockout : Bool := false              -- turned off for overcurrent until PWR_EN cycles
  converterOk : Bool := true
  vin : U16 := 0
  iin : U16 := 0
  deriving DecidableEq, Repr

/-- The whole module, what it has sent (oldest first), the count of free values taken, and the commands that wait, first
in first out. -/
structure State where
  ch0 : Channel := {}
  ch1 : Channel := {}
  ptd : Ptd := {}
  sup : Supply := {}
  out : List Out := []
  free : Nat := 0
  pending : List Instr := []
  deriving DecidableEq, Repr

/-- The module right after reset: every field at the value the manual's Reset columns give; the values no column gives are
those of the assumption log (entries 1 to 4). -/
def State.reset : State := {}

end Sys2Proof.Machine
end

