-- ==== Sys2Proof/Machine/Ops.lean ====
section
/-! DEFINITION. The operations every command is written over: tables in canonical form, counters, access to a channel,
raising an event, free values, and what leaves the module. -/

namespace Sys2Proof.Machine

/-- What a command answers: the state after it. -/
abbrev Result := Host.Outcome State Fault Refusal

/-! ### Tables in canonical form -/

/-- Reads a table; an unlisted key reads as `d`. -/
def smGet {α : Type} (d : α) : SMap α → Nat → α
  | [], _ => d
  | (j, v) :: r, k => if j = k then v else smGet d r k

/-- Lists an entry, keeping the keys strictly rising. -/
def smIns {α : Type} (k : Nat) (v : α) : SMap α → SMap α
  | [] => [(k, v)]
  | (j, w) :: r => if k < j then (k, v) :: (j, w) :: r else if k = j then (k, v) :: r else (j, w) :: smIns k v r

/-- Removes the entry of a key. -/
def smDel {α : Type} (k : Nat) : SMap α → SMap α
  | [] => []
  | (j, w) :: r => if j = k then smDel k r else (j, w) :: smDel k r

/-- Writes a table: writing the value an unlisted key reads as removes the entry. -/
def smSet {α : Type} [DecidableEq α] (d : α) (m : SMap α) (k : Nat) (v : α) : SMap α :=
  if v = d then smDel k m else smIns k v m

def smMod {α : Type} [DecidableEq α] (d : α) (m : SMap α) (k : Nat) (f : α → α) : SMap α :=
  smSet d m k (f (smGet d m k))

/-- Keys strictly rising from `lo`, and no entry equal to the unlisted value. -/
def smWfFrom {α : Type} [DecidableEq α] (d : α) : Nat → SMap α → Bool
  | _, [] => true
  | lo, (k, v) :: r => decide (lo ≤ k) && decide (v ≠ d) && smWfFrom d (k + 1) r

/-- The canonical form of a table. -/
def smWf {α : Type} [DecidableEq α] (d : α) (m : SMap α) : Bool := smWfFrom d 0 m

/-- Removes every entry with a key in [a, a + n). -/
def smClear {α : Type} (a n : Nat) (m : SMap α) : SMap α := m.filter fun e => !(a ≤ e.1 && e.1 < a + n)

/-- Writes consecutive keys. -/
def smSetAll {α : Type} [DecidableEq α] (d : α) : SMap α → Nat → List α → SMap α
  | m, _, [] => m
  | m, k, v :: r => smSetAll d (smSet d m k v) (k + 1) r

/-- Reads n consecutive keys. -/
def smGetAll {α : Type} (d : α) (m : SMap α) (k n : Nat) : List α := (List.range n).map fun i => smGet d m (k + i)

/-! ### Counters -/

/-- A counter that saturates at all ones. -/
def satAdd {w : Nat} (x : BitVec w) (n : Nat) : BitVec w :=
  if x.toNat + n < 2 ^ w then BitVec.ofNat w (x.toNat + n) else BitVec.allOnes w

/-- A counter that wraps. -/
def wrapAdd {w : Nat} (x : BitVec w) (n : Nat) : BitVec w := BitVec.ofNat w (x.toNat + n)

/-! ### Bit fields -/

/-- Bits [hi:lo] of a register value. -/
def bits (v : U64) (hi lo : Nat) : Nat := v.toNat / 2 ^ lo % 2 ^ (hi + 1 - lo)
def bit (v : U64) (i : Nat) : Bool := v.toNat / 2 ^ i % 2 == 1
def b2n (b : Bool) : Nat := if b then 1 else 0

/-! ### Channels -/

def State.ch (s : State) (c : ChanId) : Channel := if c = 0 then s.ch0 else s.ch1
def State.setCh (s : State) (c : ChanId) (k : Channel) : State := if c = 0 then { s with ch0 := k } else { s with ch1 := k }
/-- Changes one channel. -/
def State.onCh (s : State) (c : ChanId) (f : Channel → Channel) : State := s.setCh c (f (s.ch c))
def sibling (c : ChanId) : ChanId := if c = 0 then 1 else 0

/-- What leaves the module (R2). -/
def State.emit (s : State) (o : Out) : State := { s with out := s.out ++ [o] }
def State.emitAll (s : State) (l : List Out) : State := { s with out := s.out ++ l }

/-! ### Free values -/

/-- The value the manual leaves open, and the state in which the next one is another. [DESIGN CHOICE, log entry 5] -/
def State.freeVal (s : State) : Nat := Config.freeValue s.free
/-- [DESIGN CHOICE, log entry 5] -/
def State.tookFree (s : State) (n : Nat) : State := { s with free := s.free + n }

/-! ### Channel states and power domains -/

/-- CALIBRATE or later (R247). [DESIGN CHOICE, log entry 166] -/
def Channel.calibrated (ch : Channel) : Bool :=
  match ch.chn.state with
  | .reset => false
  | .boot => false
  | .recovery => false
  | _ => true
/-- The boot ROM has ended: until then a channel's status shows its Reset values (R8). [DESIGN CHOICE, log entry 1] -/
def Channel.started (ch : Channel) : Bool := ch.chn.state != .reset && ch.chn.state != .boot
/-- JOINED or later (R252, R396). -/
def Channel.joined (ch : Channel) : Bool := ch.calibrated && ch.chn.state != .calibrate

/-- A power domain of Table 15-3 other than the channel's own. -/
def Channel.domainOf (ch : Channel) (d : Nat) : Domain := smGet {} ch.pwr.domains d
def Channel.onDomain (ch : Channel) (d : Nat) (f : Domain → Domain) : Channel :=
  { ch with pwr := { ch.pwr with domains := smMod {} ch.pwr.domains d f } }
/-- Ids of the domains of a core, a CXL port and a link group (Table 15-3). -/
def portDomain (p : Nat) : Nat := 0x90 + p
def groupDomain (link : Nat) : Nat := 0xA0 + link / 6

/-! ### Task slots -/

def Channel.task? (ch : Channel) (core slot : Nat) : Option Task :=
  ch.tsk.tasks.find? fun t => t.core == core && t.slot == slot

/-- Rewrites the task that holds a slot. -/
def Channel.onTask (ch : Channel) (core slot : Nat) (f : Task → Task) : Channel :=
  { ch with tsk := { ch.tsk with tasks := ch.tsk.tasks.map fun t => if t.core == core && t.slot == slot then f t else t } }

/-- Releases a slot. -/
def Channel.dropTask (ch : Channel) (core slot : Nat) : Channel :=
  { ch with tsk := { ch.tsk with tasks := ch.tsk.tasks.filter fun t => !(t.core == core && t.slot == slot) } }

/-! ### Events -/

/-- Event class of a code, Table 18-6; codes of class 0xA other than MBX_ABORTED and DB_RAISED are class 7, and a mailbox
response is class 1. -/
def eventClass (code : Nat) : Nat :=
  if code = 0xA001 ∨ code = 0xA006 then 1
  else match code / 0x1000 with
    | 1 => 2
    | 5 => 2
    | 3 => 3
    | 4 => 4
    | 6 => 5
    | 2 => 6
    | 7 => 6
    | _ => 7

/-- Beats run while the channel is RUNNING. -/
def Channel.running (ch : Channel) : Bool := ch.chn.state == .running

/-- Beat of an event: 0 before beats run (Table 18-7). [DEDUCED, log entry 45] -/
def Channel.evBeat (ch : Channel) : U48 := if ch.running then ch.beat.number else 0

/-- Source of a channel's records (Table 18-7 SRC). -/
def chanSrc (c : ChanId) : U8 := BitVec.ofNat 8 c.val

/-- A record that reports an event (Table 18-7). [DESIGN CHOICE, log entry 46] -/
def mkEvent (code : Nat) (src : U8) (beat : U48) (detail : Option Nat) (tag : Nat) : EvRec where
  code := BitVec.ofNat 16 code
  cls := eventClass code
  src := src
  tag := BitVec.ofNat 32 tag
  beat := beat
  detail := detail.map (BitVec.ofNat 64)

/-- Raises an event whatever was raised before. [DEDUCED, log entries 45 and 174] -/
def Channel.raiseEach (ch : Channel) (c : ChanId) (code : Nat) (detail : Option Nat := none) (tag : Nat := 0) : Channel :=
  { ch with events := ch.events ++ [mkEvent code (chanSrc c) ch.evBeat detail tag] }

/-- Events that the manual does not limit to one per beat: R51 limits BEAT_OVERRUN and TASK_GONE only. [DEDUCED, log entry 45] -/
def everyTime (code : Nat) : Bool := decide (0x4002 ≤ code) && decide (code ≤ 0x4006)

/-- Raises an event at most once per channel per beat (R51, R71, R90, R110, R122, R147, R167, R193, R243, R270, R290, R312,
R331, R352, R374, R391, R407); while beats do not run, each occurrence is raised. [DEDUCED, log entry 45] -/
def Channel.raise (ch : Channel) (c : ChanId) (code : Nat) (detail : Option Nat := none) (tag : Nat := 0) : Channel :=
  if ch.running && !everyTime code && ch.beat.raised.contains (BitVec.ofNat 16 code) then ch
  else
    let k := ch.raiseEach c code detail tag
    { k with beat := { k.beat with raised := BitVec.ofNat 16 code :: k.beat.raised } }

/-- Raises an event at most once per channel per step (R217). -/
def Channel.raiseStep (ch : Channel) (c : ChanId) (code : Nat) (detail : Option Nat := none) : Channel :=
  if ch.upd.inStep && ch.beat.raisedStep.contains (BitVec.ofNat 16 code) then ch
  else
    let k := ch.raiseEach c code detail
    { k with beat := { k.beat with raisedStep := BitVec.ofNat 16 code :: k.beat.raisedStep } }

/-- Raises an event of the port die (SRC 2). -/
def Ptd.raise (p : Ptd) (code : Nat) (detail : Option Nat := none) (tag : Nat := 0) : Ptd :=
  { p with events := p.events ++ [mkEvent code 2 0 detail tag] }

/-- Records the code of the most recent fault in CHN_STATUS.LAST_FAULT (Table 01-9). [DEDUCED, log entry 43] -/
def Channel.lastFault (ch : Channel) (code : Nat) : Channel :=
  { ch with chn := { ch.chn with lastFault := BitVec.ofNat 16 code } }

/-! ### Beats -/

/-- Beat period in clk (R10, R52). -/
def Channel.periodClk (ch : Channel) : Nat := ch.beat.periodUs.toNat * 2700

/-- The number of elements of a list that satisfy p. -/
def countIf {α : Type} (p : α → Bool) (l : List α) : Nat := (l.filter p).length

/-- Inserts a number into a rising list without repeats. -/
def insertNat (k : Nat) : List Nat → List Nat
  | [] => [k]
  | j :: r => if k < j then k :: j :: r else if k = j then j :: r else j :: insertNat k r

end Sys2Proof.Machine
end

