-- ==== Sys2Proof/Machine/Incident.lean ====
section
/-! DEFINITION. The Badger's intake: reports, incidents and fault records (R345, R350), and the bindings of cores (R307). -/

namespace Sys2Proof.Machine

/-! ### Core binding -/

/-- Physical core bound to a logical core (R307); none when it is unbound. -/
def Channel.pcoreOf (ch : Channel) (l : Nat) : Option Nat := smGet none ch.pss.binding l
/-- Physical core whose SRAM a command of a logical core acts on; a logical core that is not bound acts on the physical core
of its own number. [DESIGN CHOICE, log entry 17] -/
def Channel.pcore (ch : Channel) (l : Nat) : Nat := (ch.pcoreOf l).getD l
def Channel.isBound (ch : Channel) (l : Nat) : Bool := (ch.pcoreOf l).isSome
def Channel.boundCores (ch : Channel) : List Nat := (List.range 128).filter ch.isBound
/-- Logical core a physical core is bound to. -/
def Channel.lcoreOf (ch : Channel) (p : Nat) : Option Nat := (List.range 128).find? fun l => ch.pcoreOf l == some p

def Channel.health (ch : Channel) (p : Nat) : CoreHealth := smGet {} ch.bdg.cores p
def Channel.onHealth (ch : Channel) (p : Nat) (f : CoreHealth → CoreHealth) : Channel :=
  { ch with bdg := { ch.bdg with cores := smMod {} ch.bdg.cores p f } }
/-- A physical core that the Badger has fenced, for retest or as permanent (R31). -/
def Channel.fencedCore (ch : Channel) (p : Nat) : Bool := (ch.health p).permanent || (ch.health p).retest
def Channel.goodCore (ch : Channel) (p : Nat) : Bool := !(ch.health p).bad

/-! ### Time of day -/

/-- UTC second from the last TIME message; 0 before one was received (R265, R350). [DESIGN CHOICE, log entry 128] -/
def Channel.utcNow (ch : Channel) : Nat :=
  if ch.wrn.stratum = 0xFF then 0
  else ch.wrn.utcSec.toNat + (ch.beat.time.toNat - ch.wrn.utcAt.toNat) / 2700000000

/-! ### Fault records -/

/-- UNIT of Table 16-2. -/
def unitCode : SuspectUnit → Nat
  | .core p => p
  | .pchan pc => 0x10000000 + pc
  | .link l => 0x20000000 + l
  | .cxlPort n => 0x30000000 + n
  | .remoteCore _ l => l

/-- Appends a record to the fault-history ring; a record that fills a sector erases the next one (R350, R403).
 [DEDUCED, log entries 43 and 99] -/
def Channel.appendRecord (ch : Channel) (r : FaultRec) : Channel :=
  let slot := ch.ser.ringHead.toNat
  let next := (slot + 1) % 262144
  let ring := smSet {} ch.ser.ring slot r
  { ch with
    ser := { ch.ser with
      ringHead := BitVec.ofNat 18 next
      ring := if next % 1024 = 0 then smClear next 1024 ring else ring }
    bdg := { ch.bdg with lastRec := r, hasRec := true }
    chn := { ch.chn with lastFault := r.code } }

/-- A record in the state of the channel at the decision (Table 16-2). -/
def Channel.mkRecord (ch : Channel) (code : Nat) (source : U8) (u : SuspectUnit) (cls : U8) (count : Nat) : FaultRec :=
  let h := match u with
    | .core p => ch.health p
    | _ => {}
  { code := BitVec.ofNat 16 code, source := source, unit := BitVec.ofNat 32 (unitCode u), beatDetect := ch.evBeat,
    count := BitVec.ofNat 16 (min count 0xFFFF), beatClean := h.beatClean, cls := cls, stepClean := h.stepClean,
    stepDetect := ch.upd.sJob, time := BitVec.ofNat 32 ch.utcNow }

/-! ### Intake (R345) -/

/-- An incident still in hold-off: HOLDOFF beats from its opening. [DEDUCED, log entry 97; DESIGN CHOICE, log entry 232] -/
def Channel.inHoldoff (ch : Channel) (i : Incident) : Bool :=
  decide (ch.beat.number.toNat < i.opened + ch.bdg.holdoff.toNat)

/-- An incident that takes in further reports: in hold-off, or a pair incident still under arbitration (R345, R346).
 [DEDUCED, log entry 97] -/
def Channel.takesIn (ch : Channel) (i : Incident) : Bool := ch.inHoldoff i || i.arb

/-- Whether an incident stands for a suspect: the unit itself, either core of a pair incident under arbitration, or the logical core that a
second-path report named (R346, R347). [DEDUCED, log entry 97] -/
def incidentNames (i : Incident) (u : SuspectUnit) (second : Option Nat) : Bool :=
  i.unit == u
    || i.arb && (match i.pair, u with
        | some (a, b), .core p => a == p || b == p
        | _, _ => false)
    || (second.isSome && i.secondPath == second)

/-- Coalesces one report into the first incident that stands for it. -/
def coalesceInto (p : Incident → Bool) : List Incident → List Incident
  | [] => []
  | i :: r => if p i then { i with count := i.count + 1 } :: r else i :: coalesceInto p r

/-- Takes a report: drops it beyond 256 in the beat, coalesces it, counts it only, or opens an incident (R345). [DEDUCED, log entry 97] -/
def Channel.report (ch : Channel) (c : ChanId) (code : Nat) (source : U8) (u : SuspectUnit) (second : Option Nat := none)
    (pair : Option (Nat × Nat) := none) (fill : FaultRec → FaultRec := id) : Channel :=
  if 256 ≤ ch.bdg.intake then
    { ch with bdg := { ch.bdg with dropped := satAdd ch.bdg.dropped 1, intakeDrop := true } }.raise c 0x7008
  else
    let k := { ch with bdg := { ch.bdg with intake := ch.bdg.intake + 1, reports := satAdd ch.bdg.reports 1 } }
    let hit (i : Incident) : Bool := k.takesIn i && incidentNames i u second
    if k.bdg.incidents.any hit then
      { k with bdg := { k.bdg with incidents := coalesceInto hit k.bdg.incidents, coalesced := satAdd k.bdg.coalesced 1 } }
    else
      let fenced := match u with
        | .core p => k.fencedCore p
        | _ => false
      if fenced then k
      else
        let r := fill (k.mkRecord code source u 0 1)
        let i : Incident :=
          { unit := u, pair := pair, arb := pair.isSome, opened := k.beat.number.toNat, source := source, secondPath := second, record := r }
        let hist := match u with
          | .core _ => k.bdg.unitHist
          | .remoteCore _ _ => k.bdg.unitHist
          | _ => k.bdg.unitHist ++ [(u, BitVec.ofNat 32 k.utcNow)]
        let live := k.bdg.incidents.filter fun j => k.inHoldoff j || !j.closed
        let b :=
          { k.bdg with
            incidents := live ++ [i]
            incident := true
            incidentsCnt := satAdd k.bdg.incidentsCnt 1
            unitHist := hist }
        (({ k with bdg := b }).appendRecord r).raise c 0x7002

/-- Whether a UTC second lies within WINDOW_DAYS of now; 0 (no time) counts as inside (R350). [DESIGN CHOICE, log entries 128 and 232] -/
def Channel.inWindow (ch : Channel) (t : U32) : Bool :=
  t == 0 || decide (ch.utcNow < t.toNat + ch.bdg.windowDays.toNat * 86400)

/-- Transients of a core within the window (R349). -/
def Channel.transientsIn (ch : Channel) (p : Nat) : Nat := countIf ch.inWindow (ch.health p).transients

end Sys2Proof.Machine
end

