-- ==== Sys2Proof/Machine/RawMem.lean ====
section
/-! DEFINITION. The bytes of a channel's memories below their readers: HBM, core SRAM and the CXL tier, with their poison
(R272 to R282), and the places of the channel window (Table 12-2). -/

namespace Sys2Proof.Machine

def hbmSize : Nat := 192 * 2 ^ 30
def sramSize : Nat := 2 ^ 22
/-- First byte of the Badger area (R334). -/
def badgerArea : Nat := 0x2FF0000000
/-- First byte of a core's system area, and of its landing lists (R280). -/
def systemArea : Nat := 0x3F0000
def landingArea : Nat := 0x3F8000

/-- Pseudo-channel of an HBM offset (R272). -/
def pseudoChannel (off : Nat) : Nat := (off / 2 ^ 8 % 128) ^^^ (off / 2 ^ 15 % 128)

/-! ### Writes under poison -/

/-- Whether [a, a + n) covers line k of u bytes whole. -/
def coversLine (u a n k : Nat) : Bool := decide (a ≤ k * u) && decide ((k + 1) * u ≤ a + n)
/-- Whether [a, a + n) touches line k of u bytes. -/
def touchesLine (u a n k : Nat) : Bool := decide (k * u < a + n) && decide (a < (k + 1) * u)

/-- Bytes of a write that take effect: those outside poisoned lines that the write covers only in part (R274). [DEDUCED, log entry 114] -/
def writeUnder (u : Nat) (poison : SMap Bool) (mem : SMap Byte) (a : Nat) (bytes : List Byte) : SMap Byte :=
  let stuck := (poison.filter fun e => touchesLine u a bytes.length e.1 && !coversLine u a bytes.length e.1).map (·.1)
  if stuck.isEmpty then smSetAll 0 mem a bytes
  else (bytes.zipIdx).foldl (fun m (e : Byte × Nat) => if stuck.contains ((a + e.2) / u) then m else smSet 0 m (a + e.2) e.1) mem

/-- Entries of a table of lines that a write leaves: a line covered whole is good again (R274, R282). -/
def uncovered {α : Type} (u a n : Nat) (t : SMap α) : SMap α := t.filter fun e => !coversLine u a n e.1

def Channel.hbmWrite (ch : Channel) (a : Nat) (bytes : List Byte) : Channel :=
  { ch with mem := { ch.mem with
      hbm := writeUnder 64 ch.mem.hbmPoison ch.mem.hbm a bytes
      hbmPoison := uncovered 64 a bytes.length ch.mem.hbmPoison
      hbmErr := uncovered 64 a bytes.length ch.mem.hbmErr } }

/-- Address of an offset of a physical core's SRAM within the SRAM of all cores. -/
def sramAt (p off : Nat) : Nat := p * 2 ^ 22 + off

def Channel.sramWrite (ch : Channel) (p off : Nat) (bytes : List Byte) : Channel :=
  let a := sramAt p off
  { ch with mem := { ch.mem with
      sram := writeUnder 8 ch.mem.sramPoison ch.mem.sram a bytes
      sramPoison := uncovered 8 a bytes.length ch.mem.sramPoison
      sramErr := uncovered 8 a bytes.length ch.mem.sramErr } }

/-- Bytes as they stand, without a check. -/
def Channel.hbmBytes (ch : Channel) (a n : Nat) : List Byte := smGetAll 0 ch.mem.hbm a n
def Channel.sramBytes (ch : Channel) (p off n : Nat) : List Byte := smGetAll 0 ch.mem.sram (sramAt p off) n
def Channel.cxlBytes (ch : Channel) (a n : Nat) : List Byte := smGetAll 0 ch.cxl.mem a n

/-- A write to CXL memory as the device keeps it; whether the device drops a line's poison is its own choice (R278).
 [DESIGN CHOICE, log entry 19] -/
def Channel.cxlWrite (ch : Channel) (a : Nat) (bytes : List Byte) : Channel :=
  { ch with cxl := { ch.cxl with
      mem := smSetAll 0 ch.cxl.mem a bytes
      poison := ch.cxl.poison.filter fun e => !touchesLine 64 a bytes.length e.1 || Config.cxlKeepsPoison e.1 } }

/-! ### Bytes the manual leaves undefined -/

/-- n free bytes, from the free value `k`. -/
def freeBytes (k n : Nat) : List Byte := (List.range n).map fun i => BitVec.ofNat 8 (Config.freeValue k / 256 ^ i)

/-- Makes ranges of the SRAM of all cores undefined (R43). [DEDUCED, log entry 61] -/
def State.scrambleSram (s : State) (c : ChanId) (l : List (Nat × Nat)) : State :=
  l.foldl (fun (t : State) (e : Nat × Nat) =>
    (t.onCh c fun ch => ch.sramWrite (e.1 / 2 ^ 22) (e.1 % 2 ^ 22) (freeBytes t.free e.2)).tookFree 1) s

/-! ### The channel window (Table 12-2) -/

/-- Where a range of the channel window lies: a whole range inside one region, each SRAM slot a region (R252). -/
inductive Place where
  | hbm (off : Nat)
  | cxl (off : Nat)
  | sram (slot off : Nat)
  | csr (off : Nat)
  deriving DecidableEq, Repr

def sramBase : Nat := 0x100000000000
def cxlBase : Nat := 0x010000000000
def csrBase : Nat := 0x180000000000

/-- Place of the n bytes at window offset `off`; none when unoccupied or across regions. -/
def placeOf (off n : Nat) : Option Place :=
  if off + n ≤ hbmSize then some (.hbm off)
  else if cxlBase ≤ off ∧ off + n ≤ cxlBase + 2 ^ 42 then some (.cxl (off - cxlBase))
  else if sramBase ≤ off ∧ off < sramBase + 136 * 2 ^ 22 then
    let o := (off - sramBase) % 2 ^ 22
    if o + n ≤ 2 ^ 22 then some (.sram ((off - sramBase) / 2 ^ 22) o) else none
  else if csrBase ≤ off ∧ off + n ≤ csrBase + 2 ^ 24 then some (.csr (off - csrBase))
  else none

/-- Parts of a global address (R250). -/
def gaModule (a : Nat) : Nat := a / 2 ^ 50 % 2 ^ 14
def gaChannel (a : Nat) : Nat := a / 2 ^ 49 % 2
def gaOffset (a : Nat) : Nat := a % 2 ^ 49

/-- Whether a global address names this channel. -/
def Channel.isOwn (ch : Channel) (c : ChanId) (a : Nat) : Bool :=
  gaModule a == ch.chn.moduleId.toNat && gaChannel a == c.val

/-- The system area admits only operations on counter words and PUT to landing lists (R280): whether a plain write of n
bytes at SRAM offset `off` is turned away; `landing` for a PUT, which may write landing lists. [DESIGN CHOICE, log entry 23] -/
def systemBlocked (landing : Bool) (off n : Nat) : Bool :=
  decide (systemArea < off + n) && !(landing && decide (landingArea ≤ off))

/-! ### The CXL map (R277) -/

/-- Port and occupancy of an aperture offset: none when the map never assigned it. -/
def Channel.cxlPortOf (ch : Channel) (a : Nat) : Option (Fin 2) :=
  let ilv := ch.cxl.ilvGib.toNat * 2 ^ 30
  let lin := ch.cxl.linGib.toNat * 2 ^ 30
  if a < ilv then (if a / 4096 % 2 = 0 then some 0 else some 1)
  else if a < ilv + lin then (if ch.cxl.linPort = 0 then some 0 else some 1)
  else none

def Channel.cxlPort (ch : Channel) (p : Fin 2) : CxlPort := if p = 0 then ch.cxl.port0 else ch.cxl.port1
def Channel.onCxlPort (ch : Channel) (p : Fin 2) (f : CxlPort → CxlPort) : Channel :=
  if p = 0 then { ch with cxl := { ch.cxl with port0 := f ch.cxl.port0 } }
  else { ch with cxl := { ch.cxl with port1 := f ch.cxl.port1 } }
def CxlPort.isUp (p : CxlPort) : Bool := p.st == 2

/-- The whole range is mapped. -/
def Channel.cxlMapped (ch : Channel) (a n : Nat) : Bool :=
  decide (a + n ≤ (ch.cxl.ilvGib.toNat + ch.cxl.linGib.toNat) * 2 ^ 30)

/-- Ports that back a range. -/
def Channel.cxlPortsOf (ch : Channel) (a n : Nat) : List (Fin 2) :=
  let grains := (List.range ((a + n - 1) / 4096 + 1 - a / 4096)).map fun i => max a ((a / 4096 + i) * 4096)
  let used (p : Fin 2) : Bool := grains.any fun g => ch.cxlPortOf g == some p
  (if used 0 then [0] else []) ++ (if used 1 then [1] else [])

end Sys2Proof.Machine
end

