-- ==== Sys2Proof/Machine/Fabric.lean ====
section
/-! DEFINITION. The router and the links of a channel: credits, candidates, the output queues, and how a request leaves its
source (R246 to R264). -/

namespace Sys2Proof.Machine

/-! ### Links -/

def Channel.link (ch : Channel) (l : Nat) : Link := smGet {} ch.wrn.links l
def Channel.linkSt (ch : Channel) (l : LinkId) : LinkSt := (ch.link l.val).st
def Channel.onLink (ch : Channel) (l : Nat) (f : Link → Link) : Channel :=
  { ch with wrn := { ch.wrn with links := smMod {} ch.wrn.links l f } }
def Channel.setLinkSt (ch : Channel) (l : LinkId) (st : LinkSt) : Channel := ch.onLink l.val fun k => { k with st := st }

/-- A link enters TRAINING, and sends its slot, channel and link number (R246). -/
def State.trainLink (s : State) (c : ChanId) (l : LinkId) : State :=
  (s.onCh c fun ch => ch.setLinkSt l .training).emit (.training c l (s.ch c).wrn.slot)

/-- WRN_LINK.RESTART starts training of a FAILED link (R247). -/
def State.restartLink (s : State) (c : ChanId) (l : LinkId) : State := if (s.ch c).linkSt l = .failed then s.trainLink c l else s

/-- Links 0 to 29 are intra-sett links (R246). [DESIGN CHOICE, log entry 1] -/
def isIntra (l : Nat) : Bool := decide (l < 30)
/-- Sett index: slot × 2 + channel (R246). -/
def Channel.settIndex (ch : Channel) (c : ChanId) : Nat := if ch.wrn.slotValid then ch.wrn.slot.toNat * 2 + c.val else 0

/-- Key of a flow: agent, destination channel and ordering class. -/
def flowKey (agent m c cls : Nat) : Nat := ((agent * 2 ^ 14 + m) * 2 + c) * 8 + cls

/-- Table of links with a key per VC and class. -/
def vcKey (vc cls : Nat) : Nat := vc * 4 + cls
/-- 64-byte credits that a frame takes: header, payload and trailer (R249). [DEDUCED, log entry 107] -/
def frameCredits (p : Packet) : Nat := (32 + p.payload.length + 8 + 63) / 64
/-- [DEDUCED, log entry 107] -/
def frameBytes (p : Packet) : Nat := 32 + p.payload.length + 8

/-- Credits of the receive buffer beyond the dedicated shares: 96 KiB less 13 × 65 credits. [DEDUCED, log entry 107] -/
def sharedCredits : Nat := 691
/-- Free credits of a VC and class: what is left of its share of 65 and of the shared rest (R249). [DEDUCED, log entry 107] -/
def Link.freeCredits (k : Link) (vc cls : Nat) : Nat :=
  let spilt := (k.used.map fun e => e.2 - 65).foldl (· + ·) 0
  (65 - smGet 0 k.used (vcKey vc cls)) + (sharedCredits - spilt)

/-- Buffer class of a packet on a link; MGT has one class (R249). -/
def Packet.cls (p : Packet) : Nat := if p.vc = 3 then 0 else p.buf.toNat
/-- Its VC and class. -/
def Packet.lane (p : Packet) : Nat := vcKey p.vc.toNat p.cls

/-- Header of a packet, Table 12-3 (R253). -/
def Packet.header (p : Packet) : List Byte :=
  leBytes 1 p.op.toNat
    ++ leBytes 1 (p.ctlClass.toNat + p.vc.toNat * 2 ^ 3 + p.buf.toNat * 2 ^ 5 + b2n p.lastIntra * 2 ^ 7)
    ++ leBytes 2 p.len.toNat
    ++ leBytes 4 (p.srcModule.toNat + p.srcChannel.toNat * 2 ^ 14 + p.agent.toNat * 2 ^ 15 + p.psel.toNat * 2 ^ 23 + p.srcRsvd.toNat * 2 ^ 26)
    ++ leBytes 8 p.addr.toNat ++ leBytes 4 p.tag.toNat ++ leBytes 2 p.seq.toNat ++ leBytes 1 p.status.toNat ++ leBytes 1 p.arg.toNat
    ++ leBytes 8 p.operand.toNat

/-- A packet as it travels: its header and its payload (R253). -/
def Packet.bytes (p : Packet) : List Byte := p.header ++ p.payload

/-- Trailer of a frame: its sequence number, the acknowledgement, NAK, and CRC-32C over the packet and bits [31:0] (R248). -/
def frameTrailer (packet : List Byte) (seq ack : BitVec 12) (nak : Bool) : U64 :=
  let low := seq.toNat + ack.toNat * 2 ^ 12 + b2n nak * 2 ^ 24
  BitVec.ofNat 64 (low + (crc32c (packet ++ leBytes 4 low)).toNat * 2 ^ 32)

/-- The CRC of a frame holds. -/
def frameOk (packet : List Byte) (t : U64) : Bool := t.toNat / 2 ^ 32 == (crc32c (packet ++ leBytes 4 (t.toNat % 2 ^ 32))).toNat

/-- A frame with its trailer: the acknowledgement names the last frame accepted (R248). [DEDUCED, log entry 106] -/
def Link.frameOut (k : Link) (c : ChanId) (l : LinkId) (e : BitVec 12 × Packet) : Out :=
  .packet c l e.2 (frameTrailer e.2.bytes e.1 (k.rxSeq - 1) false)

/-- Sends one packet as a frame (R248). -/
def Link.sendFrame (k : Link) (p : Packet) : Link :=
  { k with
    txSeq := k.txSeq + 1
    replayBuf := k.replayBuf ++ [(k.txSeq, p)]
    used := smMod 0 k.used p.lane fun n => n + frameCredits p }

/-- Whether a frame may leave now: the link is UP, its VC and class have credits, and the replay buffer of 128 KiB has room. -/
def Link.canSend (k : Link) (p : Packet) : Bool :=
  k.st == .up && decide (frameCredits p ≤ k.freeCredits p.vc.toNat p.cls)
    && decide ((k.replayBuf.map fun e => frameBytes e.2).foldl (· + ·) 0 + frameBytes p ≤ 131072)

/-- Sends what can leave, in queue order within each VC and class; a VC without credit blocks no other (R249). The answer is the link, the
frames sent and the packets left. -/
def drainQueue : Link → List Nat → List Packet → Link × List (BitVec 12 × Packet) × List Packet
  | k, _, [] => (k, [], [])
  | k, stuck, p :: r =>
    if !stuck.contains p.lane && k.canSend p then
      let q := drainQueue (k.sendFrame p) stuck r
      (q.1, (k.txSeq, p) :: q.2.1, q.2.2)
    else
      let q := drainQueue k (p.lane :: stuck) r
      (q.1, q.2.1, p :: q.2.2)

/-- Sends what a link's queue holds as far as it can. -/
def State.sendLink (s : State) (c : ChanId) (l : LinkId) : State :=
  let k := (s.ch c).link l.val
  let q := drainQueue k [] k.queue
  (s.onCh c fun ch => ch.onLink l.val fun _ => { q.1 with queue := q.2.2 }).emitAll (q.2.1.map (k.frameOut c l))

/-- Puts a packet into a link's output queue. -/
def State.enqueue (s : State) (c : ChanId) (l : LinkId) (p : Packet) : State :=
  (s.onCh c fun ch => ch.onLink l.val fun k => { k with queue := k.queue ++ [p] }).sendLink c l

/-! ### The route table (R259 to R261) -/

def Channel.route (ch : Channel) (m : Nat) : RouteEntry := smGet {} ch.wrn.routes m
/-- State of a channel in the table: 0 ABSENT, 1 LIVE, 2 DEPARTED, 3 SELF. -/
def Channel.routeState (ch : Channel) (m c : Nat) : Nat := if c = 0 then (ch.route m).state0.toNat else (ch.route m).state1.toNat
def Channel.routeMask (ch : Channel) (m c : Nat) : U48 := if c = 0 then (ch.route m).mask0 else (ch.route m).mask1

/-- An eligible link: UP or in RETRAIN, and so since the last ROUTE_UPDATE (R261). -/
def Link.isEligible (k : Link) : Bool := k.eligible && (k.st == .up || k.st == .retrain)

/-- Eligible links of the mask toward a channel, in ascending number. -/
def Channel.candidates (ch : Channel) (m c : Nat) : List LinkId :=
  (List.finRange 48).filter fun l => (ch.routeMask m c).getLsbD l.val && (ch.link l.val).isEligible

/-- The candidate with the most free credits, the lower link on ties. -/
def Channel.freest (ch : Channel) (vc cls : Nat) (l : List LinkId) : Option LinkId :=
  l.foldl (fun best k => match best with
    | none => some k
    | some b => if (ch.link b.val).freeCredits vc cls < (ch.link k.val).freeCredits vc cls then some k else best) none

/-- Operation codes of Tables 12-3 and 12-4. -/
def opCode : RemKind → Nat
  | .get => 1
  | .put => 2
  | .putAdd => 3
  | .cas => 4
  | .fetchAdd => 5
  | .signal => 6

/-- DATA, ACK and OLD (R253). -/
def Packet.isResponse (p : Packet) : Bool := p.op == 0x81 || p.op == 0x82 || p.op == 0x84
/-- TIME, ROUTE_UPDATE, ADOPT and AUTH (Table 12-4). -/
def Packet.isMgmt (p : Packet) : Bool := decide (0xC0 ≤ p.op.toNat) && decide (p.op.toNat ≤ 0xC3)
/-- Destination of a packet: ADDR of a request, SRC of a response (R260). -/
def Packet.dest (p : Packet) : Nat × Nat :=
  if p.isResponse then (p.srcModule.toNat, p.srcChannel.toNat) else (gaModule p.addr.toNat, gaChannel p.addr.toNat)

/-- Output link of a packet: by PSEL and agent for a request or a management message, the freest for a response (R261). -/
def Channel.outLink (ch : Channel) (p : Packet) : Option LinkId :=
  let cand := ch.candidates p.dest.1 p.dest.2
  if p.isResponse then ch.freest p.vc.toNat p.cls cand
  else
    let sel := if p.isMgmt then 0 else p.psel.toNat
    cand[(sel + p.agent.toNat) % cand.length]?

/-- Whether a link would break the buffer-class rule (R262). -/
def breaksClassRule (p : Packet) (l : LinkId) : Bool := if isIntra l.val then p.lastIntra else p.buf == 3

/-- A packet after crossing a link (R262). [DEDUCED, log entry 107] -/
def Packet.crossed (p : Packet) (l : LinkId) : Packet :=
  if isIntra l.val then { p with lastIntra := true } else { p with buf := p.buf + 1, lastIntra := false }

/-! ### Responses (R253, R256) -/

/-- Value of a completion code (Table 12-5). -/
def CompCode.val : CompCode → Nat
  | .ok => 0
  | .gone => 1
  | .lost => 2
  | .routeErr => 3
  | .opErr => 4
  | .addrErr => 5
  | .alignErr => 6
  | .memErr => 7
  | .scaleMismatch => 8

def compOf (n : Nat) : CompCode :=
  match n with
  | 0 => .ok
  | 1 => .gone
  | 2 => .lost
  | 3 => .routeErr
  | 4 => .opErr
  | 5 => .addrErr
  | 6 => .alignErr
  | 7 => .memErr
  | _ => .scaleMismatch

/-- Operation code of the response to an operation: DATA, ACK or OLD. -/
def rspOp (op : U8) : U8 := if op == 1 then 0x81 else if op == 4 || op == 5 then 0x84 else 0x82

/-- The response to a request (R253): its payload only with code OK. -/
def Packet.response (p : Packet) (code : CompCode) (payload : List Byte) : Packet :=
  let pl := if code = .ok then payload else []
  { p with
    op := rspOp p.op, vc := 1, buf := 0, lastIntra := false, len := BitVec.ofNat 16 pl.length
    status := BitVec.ofNat 8 code.val, arg := 0, operand := 0, payload := pl }

/-! ### Sending -/

/-- Records a packet that this router drops under R262. -/
def Channel.routeErr (ch : Channel) (c : ChanId) : Channel :=
  { ch with wrn := { ch.wrn with routeErrCnt := satAdd ch.wrn.routeErrCnt 1, routeErr := true } }.raise c 0x3006

/-- Sends a response from this channel into the fabric, or onto the NoC when its source is this channel. A response with no
eligible link, or toward a departed channel, is dropped (R260, R264). -/
def State.sendResponse (s : State) (c : ChanId) (p : Packet) : State :=
  let ch := s.ch c
  if p.srcModule == ch.chn.moduleId && p.srcChannel.toNat == c.val then s.emit (.nocResponse c p)
  else if ch.routeState p.dest.1 p.dest.2 ≠ 1 then s
  else match ch.outLink p with
    | none => s
    | some l => if breaksClassRule p l then s.onCh c fun k => k.routeErr c else s.enqueue c l p

/-- Answers a request with a code from where it met its end. -/
def State.answer (s : State) (c : ChanId) (p : Packet) (code : CompCode) (payload : List Byte) : State :=
  if p.isResponse || p.isMgmt then s else s.sendResponse c (p.response code payload)

/-- Counts a request that this channel answered with OP_ERR, ADDR_ERR or ALIGN_ERR (Table 12-14). -/
def Channel.refusedOne (ch : Channel) : Channel := { ch with wrn := { ch.wrn with refused := satAdd ch.wrn.refused 1 } }

/-- Moves a packet into the output queue of its link `l`, or ends it: GONE toward a departed channel or without an eligible link,
ROUTE_ERR under the buffer-class rule (R260 to R264). A request toward an ABSENT channel is answered ADDR_ERR. [DEDUCED, log entry 105] -/
def State.forwardOn (s : State) (c : ChanId) (p : Packet) (out : Option LinkId) (put : LinkId → State) : State :=
  match (s.ch c).routeState p.dest.1 p.dest.2 with
  | 2 => s.answer c p .gone []
  | 0 => (if p.isResponse || p.isMgmt then s else s.onCh c fun k => k.refusedOne).answer c p .addrErr []
  | _ => match out with
    | none => s.answer c p .gone []
    | some l => if breaksClassRule p l then (s.onCh c fun k => k.routeErr c).answer c p .routeErr [] else put l

/-- Moves a packet on along the route table. -/
def State.forward (s : State) (c : ChanId) (p : Packet) : State := s.forwardOn c p ((s.ch c).outLink p) fun l => s.enqueue c l p

/-- The code with which a packet in transit would end here before its own fields are looked at (R256). [DEDUCED, log entry 109] -/
def Channel.transitCode (ch : Channel) (p : Packet) : Option CompCode :=
  let st := ch.routeState p.dest.1 p.dest.2
  if st = 2 then some .gone
  else if st = 0 then none
  else match ch.outLink p with
    | none => some .gone
    | some l => if breaksClassRule p l then some .routeErr else none

/-! ### Management messages (R249, R265) -/

/-- Agent of the control complex in SRC. [DESIGN CHOICE, log entry 229] -/
def mgmtAgent : Nat := 0x80

/-- Packets of a management message: 4,096 bytes each, on MGT, with one TAG, ascending SEQ, and the total length and the offset in
OPERAND (R265). -/
def Channel.mgmtPackets (ch : Channel) (c : ChanId) (op : U8) (m : BitVec 14) (cc : BitVec 1) (bytes : List Byte) : List Packet :=
  let seq : U16 := smGet 0 ch.wrn.seqs (flowKey mgmtAgent m.toNat cc.toNat 0)
  (chunks 4096 (bytes.length / 4096 + 1) bytes).zipIdx.map fun e =>
    { op := op, vc := 3, len := BitVec.ofNat 16 e.1.length, srcModule := ch.chn.moduleId, srcChannel := BitVec.ofNat 1 c.val
      agent := BitVec.ofNat 8 mgmtAgent, addr := BitVec.ofNat 64 (m.toNat * 2 ^ 50 + cc.toNat * 2 ^ 49), tag := ch.wrn.nextTag
      seq := seq + BitVec.ofNat 16 e.2, operand := BitVec.ofNat 64 (bytes.length + e.2 * 4096 * 2 ^ 32), payload := e.1 }

/-- Sends a management message to a channel, on a link of its own choice or along the route table with PSEL 0.
 [DEDUCED, log entry 124; DESIGN CHOICE, log entry 229] -/
def State.sendMgmt (s : State) (c : ChanId) (link : Option LinkId) (op : U8) (m : BitVec 14) (cc : BitVec 1) (bytes : List Byte) : State :=
  let ps := (s.ch c).mgmtPackets c op m cc bytes
  let s1 := s.onCh c fun k => { k with wrn := { k.wrn with
    nextTag := k.wrn.nextTag + 1
    seqs := smMod 0 k.wrn.seqs (flowKey mgmtAgent m.toNat cc.toNat 0) fun q => q + BitVec.ofNat 16 ps.length } }
  ps.foldl (fun (r : State) p => match link with
    | some l => r.enqueue c l p
    | none => r.forward c p) s1

/-! ### Issue at the source (R253, R257, R260, R261) -/

def Request.flow (r : Request) : Nat := flowKey r.agent.toNat r.module.toNat r.channel.toNat r.op.cls.toNat

/-- VC of a request: REQ for ordering classes 0 to 3, COL for 4 to 7 (R249). -/
def reqVc (cls : BitVec 3) : BitVec 2 := if cls.toNat < 4 then 0 else 2

/-- PSEL with which a flow's next request leaves: with ADAPT_EN, an idle flow takes the PSEL whose first link has the most free
credits, the lower on ties (R261). -/
def Channel.choosePsel (ch : Channel) (agent m c : Nat) (cls : BitVec 3) : BitVec 3 :=
  let key := flowKey agent m c cls.toNat
  let old : BitVec 3 := smGet 0 ch.wrn.psels key
  if ch.wrn.adaptEn && !(ch.wrn.reqs.any fun r => r.flow == key) then
    let cand := ch.candidates m c
    let credits (p : Nat) : Nat := match cand[(p + agent) % cand.length]? with
      | some l => (ch.link l.val).freeCredits (reqVc cls).toNat 0
      | none => 0
    BitVec.ofNat 3 ((List.range 8).foldl (fun b p => if credits b < credits p then p else b) 0)
  else old

/-- Limits that take effect (Table 12-10). [DEDUCED, log entry 85] -/
def Channel.rspTimeoutUs (ch : Channel) : U16 := if ch.wrn.rspTimeout.toNat < 10 then 10 else ch.wrn.rspTimeout
/-- [DEDUCED, log entry 85] -/
def Channel.lostAfterMs (ch : Channel) : U16 := if ch.wrn.lostAfter = 0 then 1 else ch.wrn.lostAfter

/-- The request packet of an operation. -/
def Channel.mkRequest (ch : Channel) (c : ChanId) (agent : Nat) (psel : BitVec 3) (op : RemOp) : Packet :=
  let m := gaModule op.addr.toNat
  { op := BitVec.ofNat 8 (opCode op.kind)
    ctlClass := op.cls
    vc := reqVc op.cls
    len := BitVec.ofNat 16 op.payload.length
    srcModule := ch.chn.moduleId
    srcChannel := BitVec.ofNat 1 c.val
    agent := BitVec.ofNat 8 agent
    psel := psel
    addr := op.addr
    tag := ch.wrn.nextTag
    seq := smGet 0 ch.wrn.seqs (flowKey agent m (gaChannel op.addr.toNat) op.cls.toNat)
    arg := op.arg
    operand := op.operand
    payload := op.payload }

/-- The channel holds at most 16,384 outstanding requests (R269). [DEDUCED, log entries 57 and 58] -/
def Channel.issueFull (ch : Channel) : Bool := decide (16384 ≤ ch.wrn.reqs.length)

/-- Issues an operation now. The answer is none while its request is outstanding, and the code with which it completed at once
otherwise (R260). [DEDUCED, log entry 58] -/
def State.issueNow (s : State) (c : ChanId) (owner : ReqOwner) (agent : Nat) (op : RemOp) (dmaOff : Nat := 0) :
    State × Option CompCode :=
  let ch := s.ch c
  let m := gaModule op.addr.toNat
  let cc := gaChannel op.addr.toNat
  let own := ch.isOwn c op.addr.toNat
  if !own && ch.routeState m cc == 2 then (s, some .gone)
  else if !own && ch.routeState m cc == 0 then (s, some .addrErr)
  else
    let psel := if own then 0 else ch.choosePsel agent m cc op.cls
    let p := ch.mkRequest c agent psel op
    if !own && (ch.outLink p).isNone then (s, some .gone)
    else
      let key := flowKey agent m cc op.cls.toNat
      let r : Request :=
        { tag := p.tag, owner := owner, agent := BitVec.ofNat 8 agent, module := BitVec.ofNat 14 m
          channel := BitVec.ofNat 1 cc, op := op, timeoutUs := ch.rspTimeoutUs, lostAfterMs := ch.lostAfterMs
          dmaOff := dmaOff }
      let s1 := s.onCh c fun k => { k with wrn := { k.wrn with
        reqs := k.wrn.reqs ++ [r]
        nextTag := k.wrn.nextTag + 1
        seqs := smMod 0 k.wrn.seqs key fun q => q + 1
        psels := smSet 0 k.wrn.psels key psel } }
      if own then (s1.emit (.nocRequest c p), none)
      else match ch.outLink p with
        | some l => if breaksClassRule p l then (s1.onCh c fun k => k.routeErr c, none) else (s1.enqueue c l p, none)
        | none => (s1, none)

/-- Issues an operation; beyond 16,384 outstanding requests of the channel its issue waits and counts (R269). [DEDUCED, log entry 58] -/
def State.issue (s : State) (c : ChanId) (owner : ReqOwner) (agent : Nat) (op : RemOp) (dmaOff : Nat := 0) :
    State × Option CompCode :=
  if (s.ch c).issueFull then
    (s.onCh c fun k => { k with wrn := { k.wrn with
      issueStall := satAdd k.wrn.issueStall 1
      waiting := k.wrn.waiting ++ [{ owner := owner, agent := BitVec.ofNat 8 agent, op := op, dmaOff := dmaOff }] } }, none)
  else s.issueNow c owner agent op dmaOff

/-- Counts a completion (Table 12-14). [DEDUCED, log entry 60] -/
def Channel.countCode (ch : Channel) (c : ChanId) (code : CompCode) : Channel :=
  match code with
  | .gone => { ch with wrn := { ch.wrn with goneCnt := satAdd ch.wrn.goneCnt 1 } }
  | .lost => { ch with wrn := { ch.wrn with lostCnt := satAdd ch.wrn.lostCnt 1, lost := true } }.raise c 0x3004
  | _ => ch

/-- Issues an operation whose completion nobody waits for; a code with which it completes at once is counted. -/
def State.sendOp (s : State) (c : ChanId) (owner : ReqOwner) (agent : Nat) (op : RemOp) : State :=
  let r := s.issue c owner agent op
  match r.2 with
  | none => r.1
  | some code => r.1.onCh c fun ch => ch.countCode c code

end Sys2Proof.Machine
end

