-- ==== Sys2Proof/Machine/KvOps.lean ====
section
/-! DEFINITION. Squirrel's structures: frames, pins, references, pools, page table entries and what a task's end does to them
(R168 to R183). -/

namespace Sys2Proof.Machine

/-! ### Pools (R173) -/

def Channel.pool? (ch : Channel) (id : Nat) : Option Pool := ch.sql.pools.find? fun p => p.pool.toNat == id
def Pool.isHbm (p : Pool) : Bool := p.tier == 0
/-- TIER that a PTE shows for a frame of a pool (Table 09-4). -/
def Pool.pteTier (p : Pool) : BitVec 2 :=
  if p.tier = 0 then (if p.shared then 3 else 0) else if p.tier = 1 then 1 else 2
/-- Address of a frame of a pool: BASE + (f − FIRST) × FRAME_KIB × 1,024. -/
def Pool.frameAddr (p : Pool) (n : Nat) : Nat := p.base.toNat + (n - p.first) * p.frameKib.toNat * 1024
def Pool.hasFrame (p : Pool) (n : Nat) : Bool := decide (p.first ≤ n) && decide (n < p.first + p.count)
/-- Pool that holds a frame of the HBM numbering or of the backing numbering. -/
def Channel.poolOf (ch : Channel) (hbm : Bool) (n : Nat) : Option Pool :=
  ch.sql.pools.find? fun p => p.isHbm == hbm && p.hasFrame n

/-! ### Frames (R175 to R177) -/

/-- A frame's descriptor; its POOL is the pool of KV_POOLS that holds it (R175). -/
def Channel.hbmFrame (ch : Channel) (n : Nat) : Frame :=
  { smGet {} ch.sql.hbm n with pool := ((ch.poolOf true n).map (·.pool)).getD (smGet ({} : Frame) ch.sql.hbm n).pool }
def Channel.backFrame (ch : Channel) (n : Nat) : Frame :=
  { smGet {} ch.sql.back n with pool := ((ch.poolOf false n).map (·.pool)).getD (smGet ({} : Frame) ch.sql.back n).pool }
def Channel.onHbmFrame (ch : Channel) (n : Nat) (f : Frame → Frame) : Channel :=
  { ch with sql := { ch.sql with hbm := smMod {} ch.sql.hbm n f } }
def Channel.onBackFrame (ch : Channel) (n : Nat) (f : Frame → Frame) : Channel :=
  { ch with sql := { ch.sql with back := smMod {} ch.sql.back n f } }

/-- A frame enters FREE: its EPOCH increments modulo 2^16 (R175). -/
def Frame.toFree (f : Frame) : Frame := { f with st := .free, epoch := f.epoch + 1, pins := 0, refcount := 0 }

/-- The state of an HBM frame decided after every change of a clk (Table 09-6). -/
def Frame.settle (f : Frame) : Frame :=
  match f.st with
  | .active => if f.refcount = 0 then (if f.pins = 0 then f.toFree else { f with st := .deferredFree }) else f
  | _ => f

/-- Signed change of a 16-bit count, never below 0. -/
def adjust (x : U16) (d : Int) : U16 := BitVec.ofNat 16 ((x.toNat : Int) + d).toNat

/-- Changes of pins and references to HBM frames in one clk: all of them, then the new states (R177). -/
def Channel.frameAdjust (ch : Channel) (l : List (Nat × Int × Int)) : Channel :=
  let k := l.foldl (fun (h : Channel) (e : Nat × Int × Int) =>
    h.onHbmFrame e.1 fun f => { f with pins := adjust f.pins e.2.1, refcount := adjust f.refcount e.2.2 }) ch
  l.foldl (fun (h : Channel) (e : Nat × Int × Int) => h.onHbmFrame e.1 Frame.settle) k

/-- A pin or a write reservation that reaches a SPILLING frame cancels the spill: the frame is ACTIVE again and the backing
frame FREE (Table 09-6). [DEDUCED, log entry 82] -/
def Channel.cancelSpill (ch : Channel) (n : Nat) : Channel :=
  match ch.sql.spills.find? fun m => m.hbmFrame == n with
  | none => ch
  | some m =>
    let k := { ch with sql := { ch.sql with spills := ch.sql.spills.filter fun x => x.hbmFrame != n } }
    (k.onHbmFrame n fun f => { f with st := .active }).onBackFrame m.backFrame Frame.toFree

/-- Takes a pin on an HBM frame. -/
def Channel.pin (ch : Channel) (n : Nat) : Channel :=
  (ch.cancelSpill n).onHbmFrame n fun f => { f with pins := adjust f.pins 1 }

/-! ### Free frames -/

/-- Frames of a pool that are FREE. -/
def Channel.freeFrames (ch : Channel) (p : Pool) : Nat :=
  let m := if p.isHbm then ch.sql.hbm else ch.sql.back
  p.count - countIf (fun e => p.hasFrame e.1 && e.2.st != .free) m

/-- A FREE frame of a pool, if there is one: which is free (R177, R178 name none), the search goes round the pool from a free offset.
 [DESIGN CHOICE, log entry 18] -/
def Channel.freeFrame? (ch : Channel) (p : Pool) : Option Nat :=
  let m := if p.isHbm then ch.sql.hbm else ch.sql.back
  let start := Config.framePick p.pool.toNat ch.beat.time.toNat (m.map (·.1))
  ((List.range (min p.count (m.length + 1))).map fun i => p.first + (start + i) % p.count).find? fun n => (smGet {} m n).st == .free

/-! ### Regions and page table entries (R169, R174) -/

/-- [DEDUCED, log entry 81] -/
def Channel.region (ch : Channel) (r : Nat) : Region := smGet {} ch.sql.regions r
def Channel.setRegion (ch : Channel) (r : Nat) (v : Region) : Channel :=
  { ch with sql := { ch.sql with regions := smSet {} ch.sql.regions r v } }
def pteKey (r p : Nat) : Nat := r * 2 ^ 18 + p
def Channel.pte (ch : Channel) (r p : Nat) : Pte := smGet {} ch.sql.ptes (pteKey r p)
def Channel.setPte (ch : Channel) (r p : Nat) (v : Pte) : Channel :=
  { ch with sql := { ch.sql with ptes := smSet {} ch.sql.ptes (pteKey r p) v } }

/-- The transit region of a pool: the region id that KV_POOLS declares for it (R191). [DEDUCED, log entry 81] -/
def Channel.transitPool? (ch : Channel) (r : Nat) : Option Pool :=
  ch.sql.pools.find? fun p => p.transitRegion.toNat == r && p.transitRegion != 0xFFFFFF

/-- Home pool of a page: the region's POOL, or the transit pool of a transit region (R188). -/
def Channel.homePool? (ch : Channel) (r : Nat) : Option Pool :=
  match ch.transitPool? r with
  | some p => some p
  | none => ch.pool? (ch.region r).pool.toNat

/-- Bits [15:0] of the current beat. -/
def Channel.beat16 (ch : Channel) : U16 := ch.beat.number.setWidth 16

/-! ### The end of a task (R178, R180, R183) -/

/-- The pins go that a task alone holds, and those of the slots that lose their last user with it, in one clk with the changes `l` of its
reservations, references or repoints (R177). -/
def Channel.releasePins (ch : Channel) (t : Task) (l : List (Nat × Int × Int)) : Channel :=
  let own := t.pages.map fun d => (d.frame.toNat, (-1 : Int), (0 : Int))
  let slots := ch.sql.slots.map fun s => if s.core == t.core then { s with users := s.users.filter (· != t.slot) } else s
  let freed := (slots.filter fun s => s.users.isEmpty).flatMap fun s => s.descs.map fun d => (d.frame.toNat, (-1 : Int), (0 : Int))
  let k := { ch with sql := { ch.sql with slots := slots.filter fun s => !s.users.isEmpty } }
  k.frameAdjust (l ++ own ++ freed)

def declOf (t : Task) (w : WriteDecl) : Bool := w.live && w.core == t.core && w.taskSlot == t.slot

/-- A task's declarations are over. -/
def Channel.endWrites (ch : Channel) (t : Task) : Channel :=
  { ch with sql := { ch.sql with writes := ch.sql.writes.map fun w => if declOf t w then { w with live := false } else w } }

/-- References that go with the reservations of a task that does not complete (R178). -/
def Channel.withdrawn (ch : Channel) (t : Task) : List (Nat × Int × Int) :=
  (ch.sql.writes.filter fun w => declOf t w && w.reserved).map fun w => (w.frame, (0 : Int), (-1 : Int))

/-- The page writes of a task that take effect at its COMPLETE; a page of a transit region waits for its arrival SIGNAL instead (R191). -/
def Channel.endingWrites (ch : Channel) (t : Task) : List WriteDecl :=
  ch.sql.writes.filter fun w => declOf t w && (ch.transitPool? w.region).isNone

/-- References that the sources of a task's copied pages lose at its COMPLETE (R180). -/
def Channel.copySources (ch : Channel) (t : Task) : List (Nat × Int × Int) :=
  (ch.endingWrites t).filterMap fun w => w.source.map fun f => (f, (0 : Int), (-1 : Int))

/-- What COMPLETE makes of a task's page writes: each PTE is rewritten to name the written frame, with the task's format
codes and the current LAST_USE (R180). -/
def Channel.repointWrites (ch : Channel) (t : Task) : Channel :=
  (ch.endingWrites t).foldl (fun (h : Channel) (w : WriteDecl) =>
    let tier := match h.poolOf true w.frame with
      | some p => p.pteTier
      | none => 0
    h.setPte w.region w.page
      { valid := true, tier := tier, frame := BitVec.ofNat 36 w.frame, kFmt := w.fmt.setWidth 4,
        vFmt := (w.fmt >>> 4).setWidth 4, lastUse := h.beat16 }) (ch.endWrites t)

end Sys2Proof.Machine
end

