-- ==== Sys2Proof/Machine/Formats.lean ====
section
/-! DEFINITION. The number formats of the device: element codes, block scales, quantisation, stochastic rounding and the
BLK8 codec (R54 to R68). -/

namespace Sys2Proof.Machine

/-! ### Element codes (Table 03-1) -/

/-- An element format: exponent and mantissa bits and bias. -/
structure ElFmt where
  eb : Nat
  mb : Nat
  bias : Nat
  deriving DecidableEq, Repr

/-- FP4, FP6a or FP6b by format code (Table 03-4); other codes read as FP6b and are refused before use. -/
def elFmt (code : Nat) : ElFmt :=
  match code with
  | 0 => ⟨2, 1, 1⟩
  | 1 => ⟨2, 3, 1⟩
  | _ => ⟨3, 2, 3⟩

def ElFmt.bits (f : ElFmt) : Nat := 1 + f.eb + f.mb
/-- Exponent of the largest binade. -/
def ElFmt.emax (f : ElFmt) : Int := (2 ^ f.eb - 1 : Nat) - (f.bias : Int)
/-- Exponent of the smallest step. -/
def ElFmt.emin (f : ElFmt) : Int := 1 - (f.bias : Int) - f.mb
/-- Largest magnitude code. -/
def ElFmt.maxMag (f : ElFmt) : Nat := 2 ^ (f.eb + f.mb) - 1

/-- Sign, integer significand and exponent of an element code (R54). -/
def elDecode (f : ElFmt) (code : Nat) : Bool × Nat × Int :=
  let neg := code / 2 ^ (f.eb + f.mb) % 2 == 1
  let e := code / 2 ^ f.mb % 2 ^ f.eb
  let m := code % 2 ^ f.mb
  if e = 0 then (neg, m, f.emin) else (neg, m + 2 ^ f.mb, f.emin + (e - 1 : Nat))

/-- Rounds ±m × 2^e to the element grid, the largest magnitude standing for anything above it (R63, steps 4 and 5). -/
def elRound (f : ElFmt) (rnd : Rnd) (neg : Bool) (m : Nat) (e : Int) : Nat :=
  let sign := if neg then 2 ^ (f.eb + f.mb) else 0
  if m = 0 then sign
  else
    let lsb := max (e + (Nat.log2 m : Nat) - f.mb) f.emin
    let q := if lsb ≤ e then m * 2 ^ (e - lsb).toNat
      else
        let sh := (lsb - e).toNat
        if rndUp rnd (m / 2 ^ sh) (m % 2 ^ sh) sh then m / 2 ^ sh + 1 else m / 2 ^ sh
    sign + min ((lsb - f.emin).toNat * 2 ^ f.mb + q) f.maxMag

/-! ### Quantisation (R63) -/

/-- floor(log2 |x|) of the largest finite magnitude of a list of FP32 codes; none when every one is zero. -/
def amaxExp (xs : List Nat) : Option Int :=
  match xs.foldl (fun a x => max a (fpMag fpF32 x)) 0 with
  | 0 => none
  | a => match fpUnpack fpF32 a with
    | .fin _ m e => some (e + (Nat.log2 m : Nat))
    | _ => none

/-- The scale exponent E of R63, step 3, clamped. -/
def quantExp (f : ElFmt) (top : Int) : Int := max (-127) (min 127 (top - f.emax))

/-- One block: its fine scale and its element codes; `rnd i` is the rounding of element i (R63). -/
def quantBlock (f : ElFmt) (rnd : Nat → Rnd) (xs : List Nat) : Nat × List Nat :=
  if xs.any fun x => !fpFinite fpF32 x then (0xFF, xs.map fun _ => 0)
  else match amaxExp xs with
    | none => (0x00, xs.map fun x => if fpSign fpF32 x then 2 ^ (f.eb + f.mb) else 0)
    | some top =>
      let e := quantExp f top
      ((e + 127).toNat, xs.mapIdx fun i x =>
        match fpUnpack fpF32 x with
        | .fin s m ex => elRound f (rnd i) s m (ex - e)
        | _ => 0)

/-! ### Planes (R61) -/

/-- Packs the codes of one block: FP4 two to a byte, FP6 four to three bytes. -/
def packCodes (f : ElFmt) (codes : List Nat) : List Byte :=
  if f.bits = 4 then
    (chunks 2 codes.length codes).map fun c => BitVec.ofNat 8 (c.getD 0 0 + 16 * c.getD 1 0)
  else
    (chunks 4 codes.length codes).flatMap fun c =>
      leBytes 3 (c.getD 0 0 + 2 ^ 6 * c.getD 1 0 + 2 ^ 12 * c.getD 2 0 + 2 ^ 18 * c.getD 3 0)

/-- Bytes of a 32-element block. -/
def ElFmt.blockBytes (f : ElFmt) : Nat := 4 * f.bits

/-- Code i of a packed block. -/
def blockCode (f : ElFmt) (block : List Byte) (i : Nat) : Nat :=
  if f.bits = 4 then (block.getD (i / 2) 0).toNat / 16 ^ (i % 2) % 16
  else leNat ((block.drop (3 * (i / 4))).take 3) / 2 ^ (6 * (i % 4)) % 64

/-- Replaces code i of a packed block. -/
def setBlockCode (f : ElFmt) (block : List Byte) (i code : Nat) : List Byte :=
  packCodes f ((List.range 32).map fun j => if j = i then code else blockCode f block j)

/-! ### BLK8 and MOM8 (R66 to R68, R140) -/

/-- Exponent byte of a block without an agreed one: from the largest finite magnitude (R67). -/
def blk8Exp (xs : List Nat) : Nat :=
  match amaxExp (xs.filter fun x => fpFinite fpF32 x) with
  | none => 0
  | some top => (max 0 (min 0xFE (top + 127))).toNat

/-- Integer nearest to ±m × 2^e under a rounding, as a magnitude. -/
def roundInt (rnd : Rnd) (m : Nat) (e : Int) : Nat :=
  if 0 ≤ e then m * 2 ^ e.toNat
  else
    let sh := (-e).toNat
    if rndUp rnd (m / 2 ^ sh) (m % 2 ^ sh) sh then m / 2 ^ sh + 1 else m / 2 ^ sh

/-- m × 2^e is n or more. -/
def reaches (m : Nat) (e : Int) (n : Nat) : Bool := if 0 ≤ e then decide (n ≤ m * 2 ^ e.toNat) else decide (n * 2 ^ (-e).toNat ≤ m)

/-- One element byte and whether it saturated: poison for NaN and infinities (R67, R140). Under an agreed exponent a magnitude of 127 or more
saturates (R225). -/
def blk8Elem (agreed : Bool) (rnd : Rnd) (s x : Nat) : Byte × Bool :=
  match fpUnpack fpF32 x with
  | .fin neg m e =>
    let q := roundInt rnd m (e + 133 - s)
    (BitVec.ofInt 8 (signedInt neg (min q 127)), decide (127 < q) || (agreed && reaches m (e + 133 - s) 127))
  | _ => (0x80, false)

/-- Encodes a block under an exponent byte: the element bytes and the number of saturated elements. -/
def blk8Encode (agreed : Bool) (rnd : Nat → Rnd) (s : Nat) (xs : List Nat) : List Byte × Nat :=
  let r := xs.mapIdx fun i x => blk8Elem agreed (rnd i) s x
  (r.map (·.1), (r.filter (·.2)).length)

/-- Decodes one element byte to FP32 (R66, R140). -/
def blk8Decode (s : Nat) (q : Byte) : Nat :=
  if s = 0xFF ∨ q = 0x80 then fpF32.nanCode
  else fpRne fpF32 false (q.toInt < 0) q.toInt.natAbs ((s : Int) - 133)

/-- One element of a BLK8 addition and whether it saturated (R145). -/
def blk8AddElem (t x : Byte) : Byte × Bool :=
  if t = 0x80 ∨ x = 0x80 then (0x80, false)
  else
    let v := t.toInt + x.toInt
    (BitVec.ofInt 8 (max (-127) (min 127 v)), decide (v < -127 ∨ 127 < v))

/-- What one block of a BLK8 PUT_ADD does: the target's new exponent and elements, saturations, and whether it was left
unchanged for unequal exponents (R145). -/
def blk8AddBlock (ts : Nat) (tq : List Byte) (xs : Nat) (xq : List Byte) : Nat × List Byte × Nat × Bool :=
  if ts = 0xFF ∨ xs = 0xFF then (0xFF, tq, 0, false)
  else if ts = xs then
    let r := (tq.zip xq).map fun p => blk8AddElem p.1 p.2
    (ts, r.map (·.1), (r.filter (·.2)).length, false)
  else (ts, tq, 0, true)

/-! ### Stochastic rounding (R64) -/

/-- Selectors of R64. -/
def selQuant : Nat := 0
def selBlk8 : Nat := 1
def selBf16 : Nat := 2

/-- Rounding of element i of a block, stochastic or to nearest even. -/
def rndOf (sr : Bool) (seed step tensor block sel i : Nat) : Rnd :=
  if sr then .sr (srWord seed step tensor block sel i) else .rne

end Sys2Proof.Machine
end

