-- ==== Sys2Proof/Machine/TileRec.lean ====
section
/-! DEFINITION. Tile records: their layout, the addresses a tile reads and writes, and the checks of admission (R78, R79, R83,
R111, R112). -/

namespace Sys2Proof.Machine

/-- n bytes of a record from offset o, as a number. -/
def field (l : List Byte) (o n : Nat) : Nat := leNat ((l.drop o).take n)

/-- Reads a tile record, Table 04-2. -/
def parseTile (l : List Byte) : TileRec where
  aEbase := BitVec.ofNat 32 (field l 0x00 4)
  aSbase := BitVec.ofNat 32 (field l 0x04 4)
  bEbase := BitVec.ofNat 32 (field l 0x08 4)
  bSbase := BitVec.ofNat 32 (field l 0x0C 4)
  aPitch := BitVec.ofNat 16 (field l 0x10 2)
  bPitch := BitVec.ofNat 16 (field l 0x12 2)
  aRow0 := BitVec.ofNat 16 (field l 0x14 2)
  bRow0 := BitVec.ofNat 16 (field l 0x16 2)
  kOff := BitVec.ofNat 16 (field l 0x18 2)
  kBlocks := BitVec.ofNat 16 (field l 0x1A 2)
  fmt := BitVec.ofNat 8 (field l 0x1C 1)
  mode := BitVec.ofNat 8 (field l 0x1D 1)
  out := BitVec.ofNat 8 (field l 0x1E 1)
  cFmt := BitVec.ofNat 8 (field l 0x1F 1)
  outEbase := BitVec.ofNat 32 (field l 0x20 4)
  outSbase := BitVec.ofNat 32 (field l 0x24 4)
  cBase := BitVec.ofNat 32 (field l 0x28 4)
  outPitch := BitVec.ofNat 16 (field l 0x2C 2)
  outRow0 := BitVec.ofNat 16 (field l 0x2E 2)
  outCol0b := BitVec.ofNat 16 (field l 0x30 2)
  scaleIdx := BitVec.ofNat 16 (field l 0x32 2)
  tensorId := BitVec.ofNat 32 (field l 0x34 4)
  sliceCtl := BitVec.ofNat 16 (field l 0x38 2)
  outBlk0 := BitVec.ofNat 48 (field l 0x3A 6)

/-! ### Fields -/

def TileRec.fmtA (t : TileRec) : Nat := t.fmt.toNat % 16
def TileRec.fmtB (t : TileRec) : Nat := t.fmt.toNat / 16
/-- ACC_MODE: 0 FP32, 1 FX96, 2 NIRT. -/
def TileRec.acc (t : TileRec) : Nat := t.mode.toNat % 4
def TileRec.feed (t : TileRec) : Nat := t.mode.toNat / 4 % 4
def TileRec.isSlice (t : TileRec) : Bool := t.feed == 1
def TileRec.outFmt (t : TileRec) : Nat := t.out.toNat % 16
def TileRec.rndSr (t : TileRec) : Bool := t.out.toNat / 16 % 2 == 1
def TileRec.cEn (t : TileRec) : Bool := t.out.toNat / 32 % 2 == 1
def TileRec.slices (t : TileRec) : Nat := t.sliceCtl.toNat / 2 ^ 12
def TileRec.fallback (t : TileRec) : Bool := t.sliceCtl.toNat / 2 ^ 11 % 2 == 1
def TileRec.blockOut (t : TileRec) : Bool := decide (t.outFmt ≤ 2)

/-- Bytes of 32 elements of a format: a block of codes, or a group of elements. -/
def fmtBytes32 (code : Nat) : Nat :=
  match code with
  | 0 => 16
  | 1 => 24
  | 2 => 24
  | 3 => 64
  | 4 => 128
  | 5 => 256
  | _ => 0

/-! ### Addresses (R79) -/

/-- Live positions of a mask. -/
def livePos (m : Nat) : List Nat := (List.range 64).filter fun i => m / 2 ^ i % 2 == 1

/-- Element bytes of A row i, and its scale bytes. -/
def TileRec.aElems (t : TileRec) (i : Nat) : Nat × Nat :=
  let r := (t.aRow0.toNat + i) * t.aPitch.toNat + t.kOff.toNat
  (t.aEbase.toNat + r * fmtBytes32 t.fmtA, t.kBlocks.toNat * fmtBytes32 t.fmtA)
def TileRec.aScales (t : TileRec) (i : Nat) : Nat × Nat :=
  (t.aSbase.toNat + (t.aRow0.toNat + i) * t.aPitch.toNat + t.kOff.toNat, t.kBlocks.toNat)
def TileRec.bElems (t : TileRec) (j : Nat) : Nat × Nat :=
  let r := (t.bRow0.toNat + j) * t.bPitch.toNat + t.kOff.toNat
  (t.bEbase.toNat + r * fmtBytes32 t.fmtB, t.kBlocks.toNat * fmtBytes32 t.fmtB)
def TileRec.bScales (t : TileRec) (j : Nat) : Nat × Nat :=
  (t.bSbase.toNat + (t.bRow0.toNat + j) * t.bPitch.toNat + t.kOff.toNat, t.kBlocks.toNat)

/-- Index, in 32-element units, of the first unit of output row i. -/
def TileRec.outUnit (t : TileRec) (i : Nat) : Nat := (t.outRow0.toNat + i) * t.outPitch.toNat + t.outCol0b.toNat

/-- Address of element (i, j) of a plane addressed as the output, `code` being its format. -/
def TileRec.elemAt (t : TileRec) (base code i j : Nat) : Nat :=
  base + t.outUnit i * fmtBytes32 code + j * (fmtBytes32 code / 32)

/-- Address of block h of output row i, and of its scale byte. -/
def TileRec.outBlockAt (t : TileRec) (i h : Nat) : Nat := t.outEbase.toNat + (t.outUnit i + h) * fmtBytes32 t.outFmt
def TileRec.outScaleAt (t : TileRec) (i h : Nat) : Nat := t.outSbase.toNat + t.outUnit i + h

/-- Live 32-column halves of a mask (R83): a refused record alone has a half that is neither. -/
def liveHalves (n : Nat) : List Nat := (List.range 2).filter fun h => n / 2 ^ (32 * h) % 2 ^ 32 != 0

/-- Operand ranges that a tile reads under its masks. -/
def TileRec.operandRanges (t : TileRec) (m n : Nat) : List (Nat × Nat) :=
  let rows := livePos m
  let cols := livePos n
  rows.map t.aElems ++ cols.map t.bElems
    ++ (if t.isSlice then [] else rows.map t.aScales ++ cols.map t.bScales)

/-- C elements that a tile reads. -/
def TileRec.cRanges (t : TileRec) (m n : Nat) : List (Nat × Nat) :=
  if t.cEn then
    (livePos m).flatMap fun i => (livePos n).map fun j =>
      (t.elemAt t.cBase.toNat t.cFmt.toNat i j, fmtBytes32 t.cFmt.toNat / 32)
  else []

/-- Output bytes that a tile writes, in write order: row by row, in a block format each block before its scale. -/
def TileRec.outRanges (t : TileRec) (m n : Nat) : List (Nat × Nat) :=
  (livePos m).flatMap fun i =>
    if t.blockOut then
      (liveHalves n).flatMap fun h => [(t.outBlockAt i h, fmtBytes32 t.outFmt), (t.outScaleAt i h, 1)]
    else (livePos n).map fun j => (t.elemAt t.outEbase.toNat t.outFmt i j, fmtBytes32 t.outFmt / 32)

/-- The output of a tile meets its C region or its operands, which the array does not check (R80). [DEDUCED, log entry 71] -/
def TileRec.selfOverlap (t : TileRec) (m n : Nat) : Bool :=
  (t.outRanges m n).any fun o => (t.operandRanges m n ++ t.cRanges m n).any fun r =>
    decide (o.1 < r.1 + r.2) && decide (r.1 < o.1 + o.2)

/-- A tile with an empty mask reads and writes nothing (R84). [DEDUCED, log entry 72] -/
def fullyMasked (d : TaskDesc) : Bool := d.arg1 == 0 || d.arg2 == 0

/-! ### The checks of Table 04-3 and R111 -/

def inSram (l : List (Nat × Nat)) : Bool := l.all fun e => decide (e.1 + e.2 ≤ sramSize)

def TileRec.badFmt (t : TileRec) : Bool :=
  if t.isSlice then !(([4, 5].contains t.fmtA) && ([4, 5].contains t.fmtB)) else !(decide (t.fmtA ≤ 2) && decide (t.fmtB ≤ 2))

def TileRec.badMode (t : TileRec) : Bool :=
  t.acc == 3 || decide (2 ≤ t.feed)
    || (t.isSlice && (t.acc != 1 || t.slices == 0 || t.slices == 15 || t.sliceCtl.toNat % 2 ^ 11 != 0
      || t.aSbase != 0 || t.bSbase != 0))
    || (t.feed == 0 && t.sliceCtl != 0)

def TileRec.badOut (t : TileRec) : Bool :=
  decide (6 ≤ t.outFmt) || (t.outFmt == 5 && t.acc != 1)
    || (t.cEn && !(t.cFmt.toNat % 16 == 3 || t.cFmt.toNat % 16 == 4 || (t.cFmt.toNat % 16 == 5 && t.outFmt == 5)))

/-- [DEDUCED, log entry 72] -/
def TileRec.badRange (t : TileRec) (d : TaskDesc) : Bool :=
  let m := d.arg1.toNat
  let n := d.arg2.toNat
  let k := t.kOff.toNat + t.kBlocks.toNat
  t.kBlocks == 0 || decide (t.aPitch.toNat < k) || decide (t.bPitch.toNat < k)
    || decide (t.outPitch.toNat < t.outCol0b.toNat + 2)
    || (!fullyMasked d && !(inSram (t.operandRanges m n) && inSram (t.cRanges m n) && inSram (t.outRanges m n)))

def halfOk (n : Nat) : Bool := n == 0 || n == 2 ^ 32 - 1

def TileRec.badSplit (t : TileRec) (d : TaskDesc) : Bool :=
  t.blockOut && !(halfOk (d.arg2.toNat % 2 ^ 32) && halfOk (d.arg2.toNat / 2 ^ 32))

def TileRec.badRsvd (t : TileRec) (d : TaskDesc) : Bool :=
  t.mode.toNat / 16 != 0 || t.out.toNat / 64 != 0 || t.cFmt.toNat / 16 != 0
    || d.arg0.toNat / 2 ^ 22 != 0 || d.arg3 != 0 || d.arg0.toNat % 64 != 0
    || (t.outSbase != 0 && !t.blockOut) || (!t.cEn && (t.cBase != 0 || t.cFmt != 0))

def TileRec.badAlign (t : TileRec) : Bool :=
  [t.aEbase, t.aSbase, t.bEbase, t.bSbase, t.outEbase].any (fun b => b.toNat % 64 != 0)
    || (t.blockOut && t.outSbase.toNat % 64 != 0) || (t.cEn && t.cBase.toNat % 64 != 0)

/-- The refusal cause of a record; the lowest where several apply. [DEDUCED, log entry 20] -/
def TileRec.cause (t : TileRec) (d : TaskDesc) (scales : Nat) : Option Nat :=
  if t.badFmt then some 1
  else if t.badMode then some 2
  else if t.badOut then some 3
  else if t.badRange d then some 4
  else if t.badSplit d then some 5
  else if scales ≤ t.scaleIdx.toNat then some 6
  else if t.badRsvd d then some 7
  else if t.badAlign then some 8
  else none

/-! ### Timing (R73, R81, R82, R116, R120) -/

/-- Array cycles per block, 32 / m. -/
def TileRec.blockClk (t : TileRec) : Nat :=
  let fp4 := t.fmtA == 0 && t.fmtB == 0
  match t.acc with
  | 0 => if fp4 then 8 else 16
  | 1 => 32
  | _ => if fp4 then 32 else 64

/-- Kc. -/
def TileRec.kc (t : TileRec) : Nat :=
  if t.isSlice then 32 * t.kBlocks.toNat * (t.slices * (t.slices + 1) / 2) else t.blockClk * t.kBlocks.toNat

/-- L: latency from dispatch to COMPLETE. -/
def TileRec.latency (t : TileRec) : Nat := 126 + t.kc + 6 + 64 + 12 + (if t.acc = 1 then 4 else 0)

/-- Interval to the next independent tile. -/
def TileRec.interval (t : TileRec) : Nat :=
  if t.isSlice && t.fallback then t.kc + 196 else max t.kc ((t.kc + 197) / 2)

end Sys2Proof.Machine
end

