-- ==== Sys2Proof/Machine/Tile.lean ====
section
/-! DEFINITION. The arithmetic of a tile: block partials, the three accumulate modes, slice feed, the final stage and the bytes
the drain writes (R72 to R74, R92 to R107, R112 to R119). -/

namespace Sys2Proof.Machine

/-! ### Operand blocks -/

/-- One block of a row of A or a column of B as a cell sees it: element e is ±mag × 2^ex, NaN when the marker is set. -/
structure OpBlk where
  nan : Bool := false
  ex : Int := 0
  el : List (Bool × Nat) := []
  deriving DecidableEq, Repr

/-- A block of codes with its fine scale (R54, R56, R73). -/
def codeBlk (code s : Nat) (bytes : List Byte) : OpBlk :=
  let f := elFmt code
  { nan := s == 0xFF
    ex := (s : Int) - 127 + f.emin
    el := (List.range 32).map fun i =>
      let d := elDecode f (blockCode f bytes i)
      (d.1, d.2.1 * 2 ^ (d.2.2 - f.emin).toNat) }

/-- FP32 or FP64 element e of a group. -/
def groupCode (code : Nat) (bytes : List Byte) (e : Nat) : Nat :=
  if code = 4 then leNat ((bytes.drop (4 * e)).take 4) else leNat ((bytes.drop (8 * e)).take 8)

def floatFmt (code : Nat) : FpFmt := if code = 5 then fpF64 else if code = 3 then fpBf16 else fpF32

/-- Alignment exponent of a group: floor(log2(amax)); 0 when every element is zero (R113). -/
def groupExp (f : FpFmt) (xs : List Nat) : Int :=
  match fpUnpack f (xs.foldl (fun a x => max a (fpMag f x)) 0) with
  | .fin _ m e => if m = 0 then 0 else e + (Nat.log2 m : Nat)
  | _ => 0

/-- Digit of weight 2^w of a magnitude m × 2^e: its four bits from 2^(w + 3) down to 2^w. -/
def digitAt (m : Nat) (e w : Int) : Nat :=
  if w ≤ e then m * 2 ^ (e - w).toNat % 16 else m / 2 ^ (w - e).toNat % 16

/-- Slices 1 to n of a 32-element group (R113, R114). -/
def sliceBlks (n code : Nat) (bytes : List Byte) : List OpBlk :=
  let f := floatFmt code
  let xs := (List.range 32).map (groupCode code bytes)
  let bad := xs.any fun x => !fpFinite f x
  let top := groupExp f xs
  (List.range n).map fun (k : Nat) =>
    let w : Int := top - 4 * (k : Int) - 3
    { nan := bad, ex := w
      el := xs.map fun x =>
        match fpUnpack f x with
        | .fin s m e => (s, digitAt m e w)
        | _ => (false, 0) }

/-- Blocks of one row of A or column of B, with the slices of each (one in NORMAL feed). -/
def rowBlocks (slice : Bool) (n code : Nat) (elems scales : List Byte) (k : Nat) : List (List OpBlk) :=
  (List.range k).map fun b =>
    let bytes := (elems.drop (b * fmtBytes32 code)).take (fmtBytes32 code)
    if slice then sliceBlks n code bytes else [codeBlk code (scales.getD b 0).toNat bytes]

/-! ### Block partials (R93, R94) -/

/-- An exact partial ±p × 2^ex; `negZero` when it is −0. -/
structure Part where
  nan : Bool := false
  p : Int := 0
  ex : Int := 0
  negZero : Bool := false
  deriving DecidableEq, Repr

/-- Product of two elements, and whether it is −0. -/
def prodOf (a b : Bool × Nat) : Int × Bool :=
  (signedInt (a.1 != b.1) (a.2 * b.2), (a.1 != b.1) && (a.2 == 0 || b.2 == 0))

def partOf (nan : Bool) (ex : Int) (ps : List (Int × Bool)) : Part :=
  { nan := nan, p := ps.foldl (fun s x => s + x.1) 0, ex := ex, negZero := ps.all (·.2) }

/-- Block partial of two operand blocks (R73). -/
def blockPart (a b : OpBlk) : Part := partOf (a.nan || b.nan) (a.ex + b.ex) (a.el.zipWith prodOf b.el)

/-- The 16 pair partials of a block (R106). -/
def pairParts (a b : OpBlk) : List Part :=
  (chunks 2 16 (a.el.zipWith prodOf b.el)).map (partOf (a.nan || b.nan) (a.ex + b.ex))

/-- m × 2^e reaches 2^128 − 2^103. -/
def overF32 (m : Nat) (e : Int) : Bool :=
  if 103 ≤ e then decide (2 ^ 25 - 1 ≤ m * 2 ^ (e - 103).toNat) else decide ((2 ^ 25 - 1) * 2 ^ (103 - e).toNat ≤ m)

/-- m × 2^e reaches 2^t. -/
def overPow (m : Nat) (e t : Int) : Bool := m != 0 && decide (t ≤ e + (Nat.log2 m : Nat))

def Part.val (p : Part) : FpVal := .fin (decide (p.p < 0) || p.negZero) p.p.natAbs p.ex

/-! ### FP32 accumulation (R95 to R98) -/

/-- What a partial brings to the FP32 merge: NaN, an overflow as infinity or MAX, or its exact value (R93, R97). -/
def partF32 (sat : Bool) (p : Part) : FpVal :=
  if p.nan then .nan
  else if overF32 p.p.natAbs p.ex then
    (if sat then fpUnpack fpF32 (fpF32.signed (p.p < 0) fpF32.maxCode) else .inf (p.p < 0))
  else p.val

/-- Merge of Table 05-2; the first partial is taken directly. -/
def mergeF32 (sat : Bool) (acc : Option Nat) (p : Part) : Option Nat :=
  match acc with
  | none => some (fpPack fpF32 sat .rne (partF32 sat p))
  | some a => some (fpPack fpF32 sat .rne (fpAddVal (fpUnpack fpF32 a) (partF32 sat p)))

/-- A pair value of Nirt-compatible mode, rounded once to FP32 (R106). -/
def nirtPair (sat : Bool) (p : Part) : Part :=
  if p.nan || overF32 p.p.natAbs p.ex then p
  else
    match fpUnpack fpF32 (fpPack fpF32 sat .rne p.val) with
    | .fin s m e => { p := signedInt s m, ex := e, negZero := s && m == 0 }
    | _ => p

/-! ### FX96 accumulation (R99 to R102) -/

inductive FxTag where
  | fin | inf (neg : Bool) | nan
  deriving DecidableEq, Repr

structure FxAcc where
  n : Int := 0
  tag : FxTag := .fin
  ufl : Bool := false
  sat : Bool := false
  zneg : Bool := false
  first : Bool := true
  deriving DecidableEq, Repr

def fxMax : Int := 2 ^ 95 - 1

/-- Adds an integer count to N (R100, steps 2 and 3). -/
def FxAcc.add (sat : Bool) (a : FxAcc) (k : Int) : FxAcc :=
  let v := a.n + k
  if v.natAbs ≤ 2 ^ 95 - 1 then { a with n := v }
  else if sat then { a with n := (if v < 0 then -fxMax else fxMax), sat := true }
  else { a with tag := .inf (v < 0) }

/-- An overflowing partial (R100, step 2). -/
def FxAcc.over (sat : Bool) (a : FxAcc) (neg : Bool) : FxAcc :=
  if sat then { (a.add true (if neg then -fxMax else fxMax)) with sat := true }
  else match a.tag with
    | .fin => { a with tag := .inf neg }
    | .inf b => if b = neg then a else { a with tag := .nan }
    | .nan => a

/-- Merge of one partial under reference exponent r (R100). A partial counts as −0 where every product of its digits is −0, which is how R94
takes the sign of a zero partial, also for the digit products of a slice (R114). [DEDUCED, log entry 204] -/
def FxAcc.merge (sat : Bool) (r : Int) (a0 : FxAcc) (p : Part) : FxAcc :=
  let neg0 := !p.nan && p.negZero && p.p == 0
  let a := { a0 with zneg := neg0 && (a0.first || a0.zneg), first := false }
  if p.nan then { a with tag := .nan }
  else if overPow p.p.natAbs p.ex (r + 31) then a.over sat (p.p < 0)
  else if a.tag ≠ .fin then a
  else
    let sh := p.ex - (r - 64)
    if 0 ≤ sh then a.add sat (p.p * 2 ^ sh.toNat)
    else
      let d : Int := 2 ^ (-sh).toNat
      let b := if p.p % d = 0 then a else { a with ufl := true }
      b.add sat (p.p / d)

/-- Value of an FX96 accumulator at drain. -/
def FxAcc.val (r : Int) (a : FxAcc) : FpVal :=
  match a.tag with
  | .nan => .nan
  | .inf b => .inf b
  | .fin => .fin (if a.n = 0 then a.zneg else decide (a.n < 0)) a.n.natAbs (r - 64)

/-! ### The final stage (R103, R104) -/

def finalY (dst : FpFmt) (sat : Bool) (acc cs : FpVal) (cv : Option FpVal) : Nat :=
  match cv with
  | none => fpPack dst sat .rne (fpMulVal acc cs)
  | some v => fpPack dst sat .rne (fpAddVal (fpMulVal acc cs) v)

/-! ### One output element -/

structure ElemOut where
  y : Nat := 0
  ufl : Bool := false
  sat : Bool := false
  fell : Bool := false                 -- taken from the shadow accumulator (R119)
  deriving DecidableEq, Repr

/-- Slice pairs of a block in merge order (R115); one pair in NORMAL feed. -/
def blockPairs (a b : List OpBlk) : List (OpBlk × OpBlk) :=
  (a.zipIdx).flatMap fun (x : OpBlk × Nat) => (b.take (a.length - x.2)).map fun y => (x.1, y)

/-- Output element of a row and a column: the chain of Table 05-1 to stage 4. -/
def tileElem (t : TileRec) (sat : Bool) (cs : FpVal) (r : Int) (a b : List (List OpBlk)) (cv : Option FpVal) : ElemOut :=
  let dst := if t.outFmt = 5 then fpF64 else fpF32
  let pairs := (a.zip b).flatMap fun (x : List OpBlk × List OpBlk) => blockPairs x.1 x.2
  let f32 (ps : List Part) : FpVal := fpUnpack fpF32 ((ps.foldl (mergeF32 sat) none).getD 0)
  match t.acc with
  | 1 =>
    let ps := pairs.map fun x => blockPart x.1 x.2
    let fx := ps.foldl (FxAcc.merge sat r) {}
    let fell := t.isSlice && t.fallback && fx.tag != .nan && (fx.tag != .fin || fx.sat)
    let acc := if fell then f32 ps else fx.val r
    { y := finalY dst sat acc cs cv, ufl := fx.ufl, sat := fx.sat, fell := fell }
  | 2 => { y := finalY dst sat (f32 (pairs.flatMap fun x => (pairParts x.1 x.2).map (nirtPair sat))) cs cv }
  | _ => { y := finalY dst sat (f32 (pairs.map fun x => blockPart x.1 x.2)) cs cv }

/-! ### The tile -/

/-- What a drained tile leaves: bytes by SRAM offset in write order, its flags and its fallback count. -/
structure TileOut where
  writes : List (Nat × List Byte) := []
  ufl : Bool := false
  sat : Bool := false
  fell : Nat := 0
  deriving DecidableEq, Repr

/-- What a tile takes from its channel besides memory. -/
structure TileEnv where
  sat : Bool := false
  cs : Nat := 0x3F800000
  r : Int := 0
  seed : Nat := 0
  step : Nat := 0
  deriving DecidableEq, Repr

/-- Stage 5 for one row: the bytes written (R86, R105). -/
def rowWrites (t : TileRec) (env : TileEnv) (n i : Nat) (ys : List (Nat × Nat)) : List (Nat × List Byte) :=
  let blk (b : Nat) : Nat := t.outBlk0.toNat + i * t.outPitch.toNat + b
  let y (j : Nat) : Nat := ((ys.find? fun e => e.1 == j).map (·.2)).getD 0
  if t.blockOut then
    (liveHalves n).flatMap fun h =>
      let rnd (e : Nat) : Rnd := rndOf t.rndSr env.seed env.step t.tensorId.toNat (blk h) selQuant e
      let q := quantBlock (elFmt t.outFmt) rnd ((List.range 32).map fun e => y (32 * h + e))
      [(t.outBlockAt i h, packCodes (elFmt t.outFmt) q.2), (t.outScaleAt i h, [BitVec.ofNat 8 q.1])]
  else
    ys.map fun e =>
      let at_ := t.elemAt t.outEbase.toNat t.outFmt i e.1
      match t.outFmt with
      | 3 =>
        let rnd := rndOf t.rndSr env.seed env.step t.tensorId.toNat (blk (e.1 / 32)) selBf16 (e.1 % 32)
        (at_, leBytes 2 (fpConv fpF32 fpBf16 env.sat rnd e.2))
      | 5 => (at_, leBytes 8 e.2)
      | _ => (at_, leBytes 4 e.2)

/-- Writes that follow one another without a gap, as one write: the drain presents a row per clk (R81). -/
def joinWrites : List (Nat × List Byte) → List (Nat × List Byte)
  | [] => []
  | e :: r => match joinWrites r with
    | [] => [e]
    | f :: t => if e.1 + e.2.length = f.1 then (e.1, e.2 ++ f.2) :: t else e :: f :: t

/-- Runs a tile over an SRAM read function. [DEDUCED, log entry 71] -/
def runTile (t : TileRec) (env : TileEnv) (m n : Nat) (rd : Nat → Nat → List Byte) : TileOut :=
  let k := t.kBlocks.toNat
  let get (e : Nat × Nat) : List Byte := rd e.1 e.2
  let aOf (i : Nat) := rowBlocks t.isSlice t.slices t.fmtA (get (t.aElems i)) (if t.isSlice then [] else get (t.aScales i)) k
  let bOf (j : Nat) := rowBlocks t.isSlice t.slices t.fmtB (get (t.bElems j)) (if t.isSlice then [] else get (t.bScales j)) k
  let cols := (livePos n).map fun j => (j, bOf j)
  let cs := fpUnpack fpF32 env.cs
  let cCode := t.cFmt.toNat
  let cAt (i j : Nat) : Option FpVal :=
    if t.cEn then some (fpUnpack (floatFmt cCode) (leNat (rd (t.elemAt t.cBase.toNat cCode i j) (fmtBytes32 cCode / 32))))
    else none
  let rows := (livePos m).map fun i =>
    let a := aOf i
    (i, cols.map fun e => (e.1, tileElem t env.sat cs env.r a e.2 (cAt i e.1)))
  let all := rows.flatMap fun e => e.2.map (·.2)
  { writes := rows.flatMap fun e => joinWrites (rowWrites t env n e.1 (e.2.map fun x => (x.1, x.2.y)))
    ufl := all.any (·.ufl)
    sat := all.any (·.sat)
    fell := countIf (·.fell) all }

/-- The output digest: CRC-64 over the written bytes in write order (R338). -/
def TileOut.digest (o : TileOut) : U64 := crc64 (o.writes.flatMap (·.2))

end Sys2Proof.Machine
end

