-- ==== Sys2Proof/Machine/TaskOps.lean ====
section
/-! DEFINITION. How a task leaves its slot without completing: abort and fault, and what each gives back (R40, R41, R43,
R48, R49, R88, R178). -/

namespace Sys2Proof.Machine

/-! ### Ranges by global address -/

/-- Makes the bytes at a local address of this channel undefined (R43, R286). -/
def State.scrambleAt (s : State) (c : ChanId) (a n : Nat) : State :=
  let ch := s.ch c
  let bytes := freeBytes s.free n
  if !ch.isOwn c a then s
  else match placeOf (gaOffset a) n with
    | some (.hbm o) => (s.onCh c fun k => k.hbmWrite o bytes).tookFree 1
    | some (.cxl o) => (s.onCh c fun k => k.cxlWrite o bytes).tookFree 1
    | some (.sram slot o) => (s.onCh c fun k => k.sramWrite (k.pcore slot) o bytes).tookFree 1
    | _ => s

/-! ### Pieces of the end of a task -/

def xferOf (core slot : Nat) (x : Xfer) : Bool :=
  match x.owner with
  | .task k l _ => k == core && l == slot
  | .planned _ _ _ _ => false
  | .control => false

/-- Rows of a plane of a BLKT tile: address and length, from the base, the pitch in units of `unit` bytes and the row's length (R287). -/
def blktRows (base : U64) (pitch : U32) (unit n : Nat) : List (Nat × Nat) :=
  (List.range 64).map fun i => (base.toNat + i * pitch.toNat * unit, n)

/-- Ranges that a transfer writes or, from a remote tile, will write. -/
def Xfer.ranges (x : Xfer) : List (Nat × Nat) :=
  (x.writes.map fun e => (e.1.toNat, e.2.length))
    ++ if x.desc.op = 6 then blktRows x.desc.dst x.desc.dstPitch (fmtBytes32 x.desc.esize.toNat) (2 * fmtBytes32 x.desc.esize.toNat) else []

/-- Stops the transfers of a task: the bytes they were writing are undefined (R289). -/
def State.stopXfers (s : State) (c : ChanId) (t : Task) : State :=
  let mine := (s.ch c).dma.xfers.filter (xferOf t.core t.slot)
  let s1 := s.onCh c fun ch => { ch with dma := { ch.dma with xfers := ch.dma.xfers.filter fun x => !xferOf t.core t.slot x } }
  (mine.flatMap Xfer.ranges).foldl (fun (r : State) (e : Nat × Nat) => r.scrambleAt c e.1 e.2) s1

/-- Requests of a task that are outstanding or wait for their issue (R48, R269). -/
def Channel.opsOf (ch : Channel) (core slot : Nat) : List Request :=
  (ch.wrn.reqs ++ ch.wrn.waiting).filter fun r => r.owner == .task core slot

/-- Requests of a task that has ended: their responses find no task, and those that wait are not issued. -/
def Channel.orphanReqs (ch : Channel) (core slot : Nat) : Channel :=
  let f (r : Request) : Request := if r.owner = .task core slot then { r with owner := .orphan } else r
  { ch with wrn := { ch.wrn with
      reqs := ch.wrn.reqs.map f, waiting := ch.wrn.waiting.filter fun r => r.owner != .task core slot } }

/-- A producer that does not complete gives its credit back, first available at the next beat start (R49). [DEDUCED, log entry 183] -/
def Channel.creditBack (ch : Channel) (t : Task) : Channel :=
  if t.creditTaken then
    { ch with tsk := { ch.tsk with credits := smMod {} ch.tsk.credits t.desc.creditQ.toNat fun q =>
      { q with returned := q.returned + 1 } } }
  else ch

/-- Drops a sample and counts it (R338). -/
def Channel.dropSample (ch : Channel) (id : Option Nat) : Channel :=
  match id with
  | none => ch
  | some i =>
    if ch.bdg.samples.any (·.id == i) then
      { ch with bdg := { ch.bdg with samples := ch.bdg.samples.filter (·.id != i), skipped := satAdd ch.bdg.skipped 1 } }
    else ch

/-- Releases the slot, the pins, the context area and the requests of a task, with the changes `l` of references in the same clk. -/
def Channel.leaveSlot (ch : Channel) (t : Task) (l : List (Nat × Int × Int) := []) : Channel :=
  let k := ((ch.releasePins t l).orphanReqs t.core t.slot).dropTask t.core t.slot
  { k with vec := { k.vec with saved := k.vec.saved.filter fun e => !(e.1 == t.core && e.2.1 == t.slot) } }

/-- What a task that does not complete gives back: its write reservations, its credit, its slot and pins. -/
def Channel.giveUp (ch : Channel) (t : Task) : Channel := ((ch.endWrites t).creditBack t).leaveSlot t (ch.withdrawn t)

/-! ### A tile as its channel runs it (R88, R102, R119) -/

/-- SRAM of core p as a tile reads it. -/
def Channel.tileRead (ch : Channel) (p : Nat) (a n : Nat) : List Byte := ch.sramBytes p a n

/-- What the channel gives a tile: overflow mode, coarse scale, window reference, seed and step. -/
def Channel.tileEnv (ch : Channel) (tr : TileRec) (sat : Bool) (step : Nat) : TileEnv :=
  let e : ScaleEntry := match ch.pss.stream with
    | some st => (st.scales[tr.scaleIdx.toNat]?).getD {}
    | none => {}
  { sat := sat, cs := e.product.toNat, r := e.fxRef.toInt
    seed := match ch.pss.stream with
      | some st => st.seed.toNat
      | none => 0
    step := step }

/-- A record with the format with which its pages win over B's expected code (Table 08-3). -/
def TileRec.withPageFmt (t : TileRec) (f : Option (BitVec 4)) : TileRec :=
  match f with
  | some b => { t with fmt := (b ++ t.fmt.setWidth 4 : BitVec 8) }
  | none => t

/-- What a tile task computes in the channel as it stands. -/
def Channel.tileResult (ch : Channel) (t : Task) (tr : TileRec) : TileOut :=
  let tr := tr.withPageFmt t.pageFmt
  runTile tr (ch.tileEnv tr ch.arr.ovfMode t.step.toNat) t.desc.arg1.toNat t.desc.arg2.toNat (ch.tileRead (ch.pcore t.core))

/-- FX_OVF and FX_UFL of rows that drain, and their events when they were clear (R102, R110). Where both rise in one drain their
records come in this order. [DESIGN CHOICE, log entry 198] -/
def Channel.fxFlags (ch : Channel) (c : ChanId) (ovf ufl : Bool) : Channel :=
  let k := { ch with arr := { ch.arr with fxUfl := ch.arr.fxUfl || ufl, fxOvf := ch.arr.fxOvf || ovf } }
  let k := if ovf && !ch.arr.fxOvf then k.raise c 0x1003 else k
  if ufl && !ch.arr.fxUfl then k.raise c 0x1004 else k

/-- Counts of a tile in slice feed (R119, R121, R122). -/
def Channel.sliceCounts (ch : Channel) (c : ChanId) (tr : TileRec) (fell : Nat) : Channel :=
  let k := { ch with arr := { ch.arr with
    sliceTiles := if tr.isSlice then wrapAdd ch.arr.sliceTiles 1 else ch.arr.sliceTiles
    fallbackElems := satAdd ch.arr.fallbackElems fell } }
  if 0 < fell then k.raise c 0x1005 else k

/-- Adds n clk to a core's count of the running beat. -/
def addClk (m : SMap CoreCount) (core n : Nat) : SMap CoreCount := smMod {} m core fun k => { k with now := satAdd k.now n }

/-- The bytes of a drain as free values, from the k-th on. [DEDUCED, log entry 71] -/
def freeRows (k : Nat) (l : List (Nat × List Byte)) : List (Nat × List Byte) :=
  l.zipIdx.map fun (e : (Nat × List Byte) × Nat) => (e.1.1, freeBytes (k + e.2) e.1.2.length)

/-- A tile that runs when it is aborted: its output is undefined (R43), and which of its rows had drained is open, so a flag that its rows
would set may have been set (R88). A duplicate writes no output of its own. [DESIGN CHOICE, log entry 199] -/
def State.cutTile (s : State) (c : ChanId) (t : Task) : State :=
  let ch := s.ch c
  match t.tileRec with
  | none => s
  | some tr =>
    if t.st ≠ .running ∨ t.dup.isSome then s
    else
      let o := ch.tileResult t tr
      let v := s.freeVal
      let l := freeRows (s.free + 1) o.writes
      (s.onCh c fun k => (l.foldl (fun (h : Channel) e => h.sramWrite (k.pcore t.core) e.1 e.2) k).fxFlags c
        (o.sat && v % 2 == 1) (o.ufl && v / 2 % 2 == 1)).tookFree (1 + l.length)

/-! ### Abort -/

/-- The offer with which an aborted task comes back, at the next beat start; it keeps its step, so that it rounds as it did (R36, R41,
R45, R50, R64). -/
def Task.reoffer (t : Task) (overruns : Nat) : Offer where
  core := t.core
  desc := t.desc
  beat := t.beat
  readmitted := true
  overruns := overruns
  lookahead := t.lookahead
  step := some t.step
  patience := t.desc.patience.toNat
  urgent := t.dup.isSome && t.urgent
  dup := t.dup

/-- Aborts a task: its slot and pins are released, its local writes, those of its completed descriptors among them, are undefined, and
it is offered again (R41, R43, R289).
 [DEDUCED, log entry 61] -/
def State.abortTask (s : State) (c : ChanId) (t : Task) (overruns : Nat := 0) : State :=
  let s1 := ((s.stopXfers c t).scrambleSram c t.written).cutTile c t
  let s2 := t.dmaWrote.foldl (fun (r : State) e => r.scrambleAt c e.1 e.2) s1
  s2.onCh c fun ch =>
    let k := (ch.giveUp t).dropSample t.sample
    { k with tsk := { k.tsk with offers := k.tsk.offers ++ [t.reoffer overruns] } }

/-- A RESTART discards what look-ahead tasks of the abandoned step have written, and such tasks themselves; the plan offers them again (R43,
R237). [DEDUCED, log entry 119] -/
def State.discardAhead (s : State) (c : ChanId) : State :=
  let s1 := ((s.ch c).tsk.tasks.filter fun t => t.lookahead && !t.committed).foldl (fun (r : State) t => r.abortTask c t) s
  let s2 := s1.scrambleSram c (s.ch c).upd.aheadSram
  let s3 := (s.ch c).upd.aheadWrote.foldl (fun (r : State) e => r.scrambleAt c e.1 e.2) s2
  s3.onCh c fun ch => { ch with tsk := { ch.tsk with offers := ch.tsk.offers.filter fun o => !o.lookahead } }

/-! ### Fault -/

/-- A task reaches FAULTED: released, counted, never re-admitted (R40). The event is raised where the fault is found.
 [DEDUCED, log entry 61] -/
def State.faultTask (s : State) (c : ChanId) (t : Task) (code : Nat) : State :=
  let s1 := s.stopXfers c t
  s1.onCh c fun ch =>
    let k := ((ch.giveUp t).dropSample t.sample).dropSample t.dup
    ({ k with tsk := { k.tsk with
        faulted := satAdd k.tsk.faulted 1
        lastCode := BitVec.ofNat 16 code } }).lastFault code

/-- Faults every task of a list that still holds its slot. -/
def State.faultAll (s : State) (c : ChanId) (code : Nat) (l : List Task) : State :=
  l.foldl (fun (r : State) (t : Task) => match (r.ch c).task? t.core t.slot with
    | some u => r.faultTask c u code
    | none => r) s

end Sys2Proof.Machine
end

