-- ==== Sys2Proof/Machine/Memory.lean ====
section
/-! DEFINITION. Checked reads and writes of HBM, core SRAM and the CXL tier: correction, poison, and what a failure records
(R273, R274, R278, R282). -/

namespace Sys2Proof.Machine

/-! ### What a failure records -/

/-- Hour of the channel's domain time. [DESIGN CHOICE, log entry 22] -/
def Channel.hourNow (ch : Channel) : Nat := ch.beat.time.toNat / (2700000000 * 3600)

/-- One HBM correction: the counter, and the storm check of its pseudo-channel (R273). [DESIGN CHOICE, log entry 22] -/
def Channel.hbmCorrected (ch : Channel) (c : ChanId) (off : Nat) : Channel :=
  let pc := pseudoChannel off
  let old := smGet (0, 0, false) ch.mem.ceHour pc
  let same := decide (old.1 = ch.hourNow)
  let n := if same then old.2.1 + 1 else 1
  let told := same && old.2.2
  let beyond := decide (ch.mem.ceLimit.toNat < n)
  let k := { ch with mem := { ch.mem with
      ce := satAdd ch.mem.ce 1
      ceHour := smSet (0, 0, false) ch.mem.ceHour pc (ch.hourNow, n, told || beyond)
      hbmErr := smDel (off / 64) ch.mem.hbmErr } }
  if beyond && !told then
    (({ k with mem := { k.mem with ceStorm := true } }).raise c 0x2002).report c 0x2002 4 (.pchan pc) none none
      fun r => { r with detail := BitVec.ofNat 32 (off / 64) }
  else k

/-- An uncorrectable HBM line at `off`: poisoned, recorded, reported (R274). [DEDUCED, log entry 43] -/
def Channel.hbmFailed (ch : Channel) (c : ChanId) (off : Nat) (src : UeSource) : Channel :=
  let k := { ch with
    mem := { ch.mem with
      ue := satAdd ch.mem.ue 1
      hbmUe := true
      ueValid := true
      ueSource := src
      uePcore := 0
      ueOffset := BitVec.ofNat 38 off
      hbmPoison := smSet false ch.mem.hbmPoison (off / 64) true
      hbmErr := smDel (off / 64) ch.mem.hbmErr }
    chn := { ch.chn with lastFault := 0x2001 } }
  (k.raise c 0x2001).report c 0x2001 4 (.pchan (pseudoChannel off)) none none
    fun r => { r with detail := BitVec.ofNat 32 (off / 64) }

/-- One SRAM correction (R282). -/
def Channel.sramCorrected (ch : Channel) (word : Nat) : Channel :=
  { ch with mem := { ch.mem with sramCe := satAdd ch.mem.sramCe 1, sramErr := smDel word ch.mem.sramErr } }

/-- An uncorrectable SRAM word (R282). [DEDUCED, log entry 43] -/
def Channel.sramFailed (ch : Channel) (c : ChanId) (word : Nat) (src : UeSource) : Channel :=
  let p := word / 2 ^ 19
  let off := word % 2 ^ 19 * 8
  let k := { ch with
    mem := { ch.mem with
      ue := satAdd ch.mem.ue 1
      sramUe := true
      ueValid := true
      ueSource := src
      uePcore := BitVec.ofNat 8 p
      ueOffset := BitVec.ofNat 38 off
      sramPoison := smSet false ch.mem.sramPoison word true
      sramErr := smDel word ch.mem.sramErr }
    chn := { ch.chn with lastFault := 0x2001 } }
  (k.raise c 0x2001).report c 0x2001 5 (.core p) none none fun r => { r with detail := BitVec.ofNat 32 (off / 64) }

def TaskDesc.dep (d : TaskDesc) : Bool := d.flags.getLsbD 0

/-- A dependency-counter word that is poisoned faults every task that waits on it (R282). [DEDUCED, log entry 63] -/
def State.counterPoisoned (s : State) (c : ChanId) (word : Nat) : State :=
  let ch := s.ch c
  let off := word % 2 ^ 19 * 8
  if systemArea ≤ off ∧ off < landingArea then
    match ch.lcoreOf (word / 2 ^ 19) with
    | none => s
    | some l =>
      s.faultAll c 0x2001 (ch.tsk.tasks.filter fun t =>
        t.core == l && t.st == .waiting && t.desc.dep && t.desc.depCtr.toNat == (off - systemArea) / 8)
  else s

/-! ### Reads of lines and words -/

/-- Reads one HBM line with its check symbols: one bad symbol is corrected, more poison it (R273, R274). Whether the read
succeeded. [DEDUCED, log entry 115] -/
def State.readLine (s : State) (c : ChanId) (src : UeSource) (line : Nat) : State × Bool :=
  let ch := s.ch c
  let bad := smGet 0 ch.mem.hbmErr line
  if smGet false ch.mem.hbmPoison line || decide (2 ≤ bad) then (s.onCh c fun k => k.hbmFailed c (line * 64) src, false)
  else if bad = 1 then (s.onCh c fun k => k.hbmCorrected c (line * 64), true)
  else (s, true)

/-- Reads one SRAM word with its check bits (R282). [DEDUCED, log entry 115] -/
def State.readWord (s : State) (c : ChanId) (src : UeSource) (word : Nat) : State × Bool :=
  let ch := s.ch c
  let bad := smGet 0 ch.mem.sramErr word
  let poisoned := smGet false ch.mem.sramPoison word
  if poisoned || decide (2 ≤ bad) then
    let t := s.onCh c fun k => k.sramFailed c word src
    (if poisoned then t else t.counterPoisoned c word, false)
  else if bad = 1 then (s.onCh c fun k => k.sramCorrected word, true)
  else (s, true)

/-- Lines of u bytes of [a, a + n) that the two tables list, in ascending order. -/
def touchedLines (u a n : Nat) (p : SMap Bool) (e : SMap Nat) : List Nat :=
  ((p.map (·.1)) ++ (e.map (·.1))).foldl (fun l k => if touchesLine u a n k then insertNat k l else l) []

/-- Checks every HBM line of a range; whether the whole read succeeded. -/
def State.checkHbm (s : State) (c : ChanId) (a n : Nat) : State × Bool :=
  let m := (s.ch c).mem
  (touchedLines 64 a n m.hbmPoison m.hbmErr).foldl (fun (r : State × Bool) line =>
    let q := r.1.readLine c .hbmRead line
    (q.1, r.2 && q.2)) (s, true)

/-- Checks every SRAM word of a range of core p. -/
def State.checkSram (s : State) (c : ChanId) (p off n : Nat) : State × Bool :=
  let m := (s.ch c).mem
  (touchedLines 8 (sramAt p off) n m.sramPoison m.sramErr).foldl (fun (r : State × Bool) word =>
    let q := r.1.readWord c .sramRead word
    (q.1, r.2 && q.2)) (s, true)

/-- Checks several SRAM ranges of one core. [DEDUCED, log entry 63] -/
def State.checkRanges (s : State) (c : ChanId) (p : Nat) (l : List (Nat × Nat)) : State × Bool :=
  l.foldl (fun (r : State × Bool) e =>
    let q := r.1.checkSram c p e.1 e.2
    (q.1, r.2 && q.2)) (s, true)

/-! ### The CXL tier -/

/-- A CXL access that fails at a port (R278). -/
def Channel.cxlFailed (ch : Channel) (c : ChanId) (p : Fin 2) : Channel :=
  (ch.raise c 0x2004).report c 0x2004 7 (.cxlPort p.val)

/-- Checks a mapped range: a port that has left UP fails it; for a read, so does each poisoned line. A request wakes a port whose link
is in L1 (Table 15-4). -/
def State.checkCxl (s : State) (c : ChanId) (read : Bool) (a n : Nat) : State × Bool :=
  let ch := s.ch c
  let down := (ch.cxlPortsOf a n).filter fun p => !(ch.cxlPort p).isUp
  if down ≠ [] then (s.onCh c fun k => down.foldl (fun h p => h.cxlFailed c p) k, false)
  else
    let bad := if read then (ch.cxl.poison.filter fun e => touchesLine 64 a n e.1).map (·.1) else []
    let hit (h : Channel) (line : Nat) : Channel :=
      match h.cxlPortOf (line * 64) with
      | some p => (h.onCxlPort p fun k => { k with poisonCnt := satAdd k.poisonCnt 1 }).cxlFailed c p
      | none => h
    let wake (h : Channel) (p : Fin 2) : Channel :=
      h.onDomain (portDomain p.val) fun d => if d.st = .idle then { d with st := .active } else d
    (s.onCh c fun k => (ch.cxlPortsOf a n).foldl wake (bad.foldl hit k), bad.isEmpty)

/-! ### Places of the channel window -/

/-- Reads a place other than a register: the completion code and the bytes. [DEDUCED, log entry 113] -/
def State.readPlace (s : State) (c : ChanId) (pl : Place) (n : Nat) : State × CompCode × List Byte :=
  let ch := s.ch c
  match pl with
  | .hbm o => let r := s.checkHbm c o n
    (r.1, if r.2 then .ok else .memErr, ch.hbmBytes o n)
  | .cxl o =>
    if ch.cxlMapped o n then
      let r := s.checkCxl c true o n
      (r.1, if r.2 then .ok else .memErr, ch.cxlBytes o n)
    else (s, .addrErr, [])
  | .sram slot o => let r := s.checkSram c (ch.pcore slot) o n
    (r.1, if r.2 then .ok else .memErr, ch.sramBytes (ch.pcore slot) o n)
  | .csr _ => (s, .addrErr, [])

/-- A write that covers part of a poisoned line or word (R274). [DEDUCED, log entry 114] -/
def Channel.partlyPoisoned (ch : Channel) (pl : Place) (n : Nat) : Bool :=
  let stuck (u a : Nat) (t : SMap Bool) : Bool := t.any fun e => touchesLine u a n e.1 && !coversLine u a n e.1
  match pl with
  | .hbm o => stuck 64 o ch.mem.hbmPoison
  | .sram slot o => stuck 8 (sramAt (ch.pcore slot) o) ch.mem.sramPoison
  | _ => false

/-- Writes a place other than a register. [DEDUCED, log entry 113] -/
def State.writePlace (s : State) (c : ChanId) (pl : Place) (bytes : List Byte) : State × CompCode :=
  match pl with
  | .hbm o => (s.onCh c fun k => k.hbmWrite o bytes, .ok)
  | .cxl o =>
    if (s.ch c).cxlMapped o bytes.length then
      let r := s.checkCxl c false o bytes.length
      if r.2 then (r.1.onCh c fun k => k.cxlWrite o bytes, .ok) else (r.1, .memErr)
    else (s, .addrErr)
  | .sram slot o => (s.onCh c fun k => k.sramWrite (k.pcore slot) o bytes, .ok)
  | .csr _ => (s, .addrErr)

end Sys2Proof.Machine
end

