-- ==== Sys2Proof/Machine/Plan.lean ====
section
/-! DEFINITION. What the loaded stream says of a task: its class, its attention record, its page list, and the plan of a beat
(R38, R185, R298, R299). -/

namespace Sys2Proof.Machine

def Channel.classOf (ch : Channel) (d : TaskDesc) : Option TaskClass :=
  match ch.pss.stream with
  | none => none
  | some st => st.classes[d.cls.toNat]?

/-- EXEC of a task's class: 0 tile, 1 vector, 2 DMA-only, 3 attention fold, 4 Squirrel, 5 update. -/
def Channel.execOf (ch : Channel) (d : TaskDesc) : Option Nat := (ch.classOf d).map (·.exec.toNat)
def Channel.isTile (ch : Channel) (d : TaskDesc) : Bool := ch.execOf d == some 0

def Channel.attnOf (ch : Channel) (d : TaskDesc) : Option AttnRec :=
  match ch.pss.stream, ch.classOf d with
  | some st, some k => if k.attn = 0xFFFF then none else st.attns[k.attn.toNat]?
  | _, _ => none

/-- Page list that PLIST names; list 0 is the empty list (R185). -/
def Channel.pageList (ch : Channel) (d : TaskDesc) : List PageEntry :=
  match ch.pss.layout, ch.classOf d with
  | some l, some k => if k.pageList = 1 ∧ d.plist ≠ 0 then l.pageLists.getD d.plist.toNat [] else []
  | _, _ => []

/-- Template beat of beat b (R299). -/
def Channel.templateBeat (ch : Channel) (b : Nat) : Nat :=
  match ch.pss.layout with
  | some l => (b - ch.beat.tmplStart) % l.templateBeats
  | none => 0

/-- The descriptors planned for beat b, with their core and the LOOKAHEAD flag of their run. -/
def Channel.planOf (ch : Channel) (b : Nat) : List (Nat × Bool × TaskDesc) :=
  match ch.pss.layout with
  | none => []
  | some l => (l.runs.filter fun r => r.tmplBeat.toNat == ch.templateBeat b).flatMap fun r =>
      r.descs.map fun d => (r.core.toNat, r.lookahead, d)

/-- Inserts by a key, ascending, after equal keys. -/
def insertBy {α : Type} (key : α → Nat) (x : α) : List α → List α
  | [] => [x]
  | y :: r => if key x < key y then x :: y :: r else y :: insertBy key x r

/-- Stable sort by a key, ascending. -/
def sortBy {α : Type} (key : α → Nat) (l : List α) : List α := l.foldl (fun acc x => insertBy key x acc) []

/-- Partition of a kind on a core (R280). -/
def Channel.partOf (ch : Channel) (core kind : Nat) : Option SramPart :=
  match ch.pss.layout with
  | none => none
  | some l => l.parts.find? fun p => p.kind.toNat == kind && (p.core == 0xFF || p.core.toNat == core)

end Sys2Proof.Machine
end

