-- ==== Sys2Proof/Machine/Squirrel.lean ====
section
/-! DEFINITION. What Squirrel does to regions, pages and frames: opening, release, sharing, fetches, spills and the evaluation at
a boundary (R168 to R192). -/

namespace Sys2Proof.Machine

/-- A key-value fault: its event, and the task that faults with it; a host command runs as a task of channel firmware, which
faults without a slot (R170, R193). -/
def State.kvFault (s : State) (c : ChanId) (owner : Option (LCore × Nat)) (code : Nat) : State :=
  let s1 := s.onCh c fun ch => ch.raise c code
  let t? := match owner with
    | some o => (s1.ch c).task? o.1.val o.2
    | none => none
  match t? with
  | some t => s1.faultTask c t code
  | none => s1.onCh c fun ch =>
      ({ ch with tsk := { ch.tsk with faulted := satAdd ch.tsk.faulted 1, lastCode := BitVec.ofNat 16 code } }).lastFault code

/-- The first non-idempotent operation of a task makes it COMMITTED (R40, R42). -/
def Channel.commit (ch : Channel) (owner : Option (LCore × Nat)) : Channel :=
  match owner with
  | some o => ch.onTask o.1.val o.2 fun t => { t with committed := true }
  | none => ch

/-! ### Regions (R168 to R170, R179, R182) -/

/-- [DESIGN CHOICE, log entry 24] -/
def round64 (n : Nat) : Nat := (n + 63) / 64 * 64

/-- The frame numbers that a descriptor table holds: those of the pools of HBM, or of the backing tiers (R173, R175). -/
def frameSpan (hbm : Bool) (pools : List Pool) : Nat × Nat :=
  match pools.filter fun p => p.isHbm == hbm with
  | [] => (0, 0)
  | p :: r => (r.foldl (fun m q => min m q.first) p.first, r.foldl (fun m q => max m (q.first + q.count)) (p.first + p.count))

/-- Base of the frame descriptors of HBM, base of those of the backing tiers, and first byte after them: they follow the region descriptors.
 [DESIGN CHOICE, log entry 24] -/
def frameTables (l : LayoutData) : Nat × Nat × Nat :=
  let h := frameSpan true l.pools
  let b := frameSpan false l.pools
  let t0 := l.regionBase + 16 * l.regions
  let t1 := t0 + 16 * (h.2 - h.1)
  (t0, t1, t1 + 16 * (b.2 - b.1))

/-- The page-table space of the Squirrel-private area: what the region descriptors and the frame descriptors leave of it.
 [DESIGN CHOICE, log entry 24] -/
def Channel.tableSpace (ch : Channel) : Nat × Nat :=
  match ch.pss.layout with
  | none => (0, 0)
  | some l => (round64 (frameTables l).2.2, l.spaBase + l.spaLen)

/-! ### The structures as they lie in HBM (R169, R174, R175) -/

/-- A region descriptor, Table 09-1. -/
def Region.bytes (r : Region) : List Byte :=
  leBytes 5 r.pteBase.toNat ++ leBytes 1 r.pool.toNat ++ leBytes 1 (b2n r.live) ++ leBytes 1 r.layer.toNat ++ leBytes 4 r.maxPages.toNat
    ++ leBytes 4 r.seq.toNat

/-- A page table entry, Table 09-4. -/
def Pte.word (p : Pte) : Nat :=
  b2n p.valid * 2 ^ 63 + p.tier.toNat * 2 ^ 61 + p.frame.toNat * 2 ^ 25 + p.kFmt.toNat * 2 ^ 21 + p.vFmt.toNat * 2 ^ 17 + p.lastUse.toNat * 2

/-- Code of a frame's STATE (Table 09-5). -/
def FrameSt.code : FrameSt → Nat
  | .free => 0
  | .active => 1
  | .spilling => 2
  | .spilled => 3
  | .fetching => 4
  | .deferredFree => 5

/-- A frame descriptor, Table 09-5. -/
def Frame.word (f : Frame) : Nat :=
  f.epoch.toNat * 2 ^ 96 + f.page.toNat * 2 ^ 72 + f.owner.toNat * 2 ^ 48 + f.pins.toNat * 2 ^ 32 + f.refcount.toNat * 2 ^ 16
    + f.pool.toNat * 2 ^ 8 + f.st.code

/-- The byte that Squirrel's structures have at an HBM offset, where they have one. [DESIGN CHOICE, log entry 24] -/
def Channel.spaByte (ch : Channel) (a : Nat) : Option Byte :=
  match ch.pss.layout with
  | none => none
  | some l =>
    let ft := frameTables l
    if a < l.regionBase then none
    else if a < ft.1 then some (((ch.region ((a - l.regionBase) / 16)).bytes).getD ((a - l.regionBase) % 16) 0)
    else if a < ft.2.1 then
      some ((leBytes 16 (ch.hbmFrame ((frameSpan true l.pools).1 + (a - ft.1) / 16)).word).getD ((a - ft.1) % 16) 0)
    else if a < ft.2.2 then
      some ((leBytes 16 (ch.backFrame ((frameSpan false l.pools).1 + (a - ft.2.1) / 16)).word).getD ((a - ft.2.1) % 16) 0)
    else
      (ch.sql.regions.find? fun e => e.2.live && decide (0 < e.2.pteBase.toNat) && decide (e.2.pteBase.toNat ≤ a)
          && decide (a < e.2.pteBase.toNat + 8 * e.2.maxPages.toNat)).map fun e =>
        (leBytes 8 (ch.pte e.1 ((a - e.2.pteBase.toNat) / 8)).word).getD ((a - e.2.pteBase.toNat) % 8) 0

/-- Bytes read from HBM offset a as a reader of the Squirrel-private area meets them (R169). [DESIGN CHOICE, log entry 24] -/
def Channel.spaView (ch : Channel) (a : Nat) (l : List Byte) : List Byte := l.mapIdx fun i b => (ch.spaByte (a + i)).getD b

/-- Page tables in use: base and end. [DESIGN CHOICE, log entry 24] -/
def Channel.tablesInUse (ch : Channel) : List (Nat × Nat) :=
  (ch.sql.regions.filter fun e => e.2.live && e.2.pteBase != 0).map fun e =>
    (e.2.pteBase.toNat, e.2.pteBase.toNat + round64 (8 * e.2.maxPages.toNat))

/-- Lowest place for a page table of n bytes. [DESIGN CHOICE, log entry 24] -/
def Channel.tablePlace (ch : Channel) (n : Nat) : Option Nat :=
  let sp := ch.tableSpace
  let used := ch.tablesInUse
  let starts := sortBy id (sp.1 :: used.map (·.2))
  starts.find? fun a => decide (sp.1 ≤ a) && decide (a + round64 n ≤ sp.2)
    && used.all fun u => decide (a + round64 n ≤ u.1) || decide (u.2 ≤ a)

/-- Place of the page table that a KV_OPEN allocates; none when the KV_OPEN fails (R170), also for an id beyond SQL_REGION.REGIONS.
 [DEDUCED, log entry 212] -/
def Channel.openPlace (ch : Channel) (r pool pages : Nat) : Option Nat :=
  let hbm := match ch.pool? pool with
    | some p => p.isHbm
    | none => false
  if (ch.region r).live || pages == 0 || decide (262144 < pages) || !hbm || decide (ch.sql.regionsNum.toNat ≤ r) then none
  else ch.tablePlace (8 * pages)

/-- Opens a region at its page table. -/
def Channel.openRegion (ch : Channel) (base r layer pool pages seq : Nat) : Channel :=
  let k := ch.setRegion r
    { pteBase := BitVec.ofNat 40 base, pool := BitVec.ofNat 8 pool, live := true, layer := BitVec.ofNat 8 layer
      maxPages := BitVec.ofNat 32 pages, seq := BitVec.ofNat 32 seq }
  { k with sql := { k.sql with
      ptes := smClear (pteKey r 0) pages k.sql.ptes
      lost := k.sql.lost.filter fun e => e.1 != r } }

/-- KV_OPEN, and whether it opened the region. -/
def State.kvOpen (s : State) (c : ChanId) (owner : Option (LCore × Nat)) (r layer pool pages seq : Nat) : State × Bool :=
  match (s.ch c).openPlace r pool pages with
  | none => (s.kvFault c owner 0x5008, false)
  | some base => (s.onCh c fun k => k.openRegion base r layer pool pages seq, true)

/-- One reference of a backing frame is released; a frame that is being fetched is released when the fetch completes (R177). -/
def Channel.releaseBack (ch : Channel) (n : Nat) : Channel :=
  match (ch.backFrame n).st with
  | .fetching =>
    let f (m : Move) : Move := if m.backFrame = n then { m with released := true } else m
    { ch with sql := { ch.sql with fetches := ch.sql.fetches.map f } }
  | _ => ch.onBackFrame n Frame.toFree

/-- Every frame that the PTEs of a list name loses one reference, in one clk. -/
def Channel.dropRefs (ch : Channel) (l : List Pte) : Channel :=
  let near := l.filter fun p => p.tier == 0 || p.tier == 3
  let far := l.filter fun p => !(p.tier == 0 || p.tier == 3)
  let k := near.foldl (fun h p => h.cancelSpill p.frame.toNat) ch
  let k := far.foldl (fun h p => h.releaseBack p.frame.toNat) k
  k.frameAdjust (near.map fun p => (p.frame.toNat, (0 : Int), (-1 : Int)))

/-- The PTE of a transit page becomes invalid: its frame loses the reference (R177, R191). -/
def Channel.invalidatePte (ch : Channel) (r p : Nat) : Channel :=
  let e := ch.pte r p
  if e.valid then (ch.setPte r p {}).dropRefs [e] else ch

/-- A transit page has served once more; once no task of the pass is still to read it and no later channel needs it, Squirrel invalidates its
PTE, but for a page that KEEP_K holds for pass 2 (R164, R165, R191). [DEDUCED, log entry 219] -/
def Channel.transitServed (ch : Channel) (r p : Nat) (f : TransitUse → TransitUse) : Channel :=
  match ch.sql.transit.find? fun e => e.1 == pteKey r p with
  | none => ch
  | some e =>
    let u := f e.2
    if u.uses = 0 ∧ !u.forward ∧ !u.keep then
      ({ ch with sql := { ch.sql with transit := smDel (pteKey r p) ch.sql.transit } }).invalidatePte r p
    else { ch with sql := { ch.sql with transit := smIns (pteKey r p) u ch.sql.transit } }

/-- The transit pages that a task's list reads have served it (R191). -/
def Channel.transitRead (ch : Channel) (t : Task) : Channel :=
  ((ch.pageList t.desc).filter fun e => e.flags.getLsbD 1 && !e.flags.getLsbD 0).foldl (fun (k : Channel) e =>
    k.transitServed e.region.toNat e.page.toNat fun u => { u with uses := u.uses - 1 }) ch

/-- Valid PTEs of a region, in ascending page order. -/
def Channel.validPtes (ch : Channel) (r : Nat) : List (Nat × Pte) :=
  ((ch.sql.ptes.filter fun e => e.1 / 2 ^ 18 == r && e.2.valid).map fun e => (e.1 % 2 ^ 18, e.2))

/-- KV_RELEASE at its COMPLETE (R182). -/
def Channel.releaseRegion (ch : Channel) (r : Nat) : Channel :=
  let l := (ch.validPtes r).map (·.2)
  let k := { ch with sql := { ch.sql with
      ptes := smClear (pteKey r 0) (2 ^ 18) ch.sql.ptes
      lost := ch.sql.lost.filter fun e => e.1 != r } }
  (k.setRegion r {}).dropRefs l

/-- Does to references what an operation asks: at once for a host command, at its COMPLETE for a task's (R43, R182). -/
def Channel.kvAct (ch : Channel) (owner : Option (LCore × Nat)) (a : KvAct) (f : Channel → Channel) : Channel :=
  match owner with
  | some o => (ch.commit owner).onTask o.1.val o.2 fun t => { t with kvActs := t.kvActs ++ [a] }
  | none => f ch

/-- A release of a region that is not LIVE faults as a walk of it does. [DEDUCED, log entries 26 and 216] -/
def State.kvRelease (s : State) (c : ChanId) (owner : Option (LCore × Nat)) (r : Nat) : State × Bool :=
  if (s.ch c).transitPool? r = none ∧ ((s.ch c).region r).live then
    (s.onCh c fun k => k.kvAct owner (.release r) fun h => h.releaseRegion r, true)
  else (s.kvFault c owner 0x5008, false)

/-- Whether a KV_SHARE may go ahead (R179); in page-list mode there is no sharing (R192). -/
def Channel.mayShare (ch : Channel) (src dst first count : Nat) : Bool :=
  !ch.sql.walk && (ch.region dst).live && decide (first + count ≤ (ch.region dst).maxPages.toNat)
    && (List.range count).all fun i =>
      let p := ch.pte src (first + i)
      p.valid && p.tier == 3 && !(ch.pte dst (first + i)).valid
        && decide ((ch.hbmFrame p.frame.toNat).refcount.toNat
            + countIf (fun j => (ch.pte src (first + j)).frame == p.frame) (List.range count) ≤ 65535)

def Channel.share (ch : Channel) (src dst first count : Nat) : Channel :=
  (List.range count).foldl (fun (h : Channel) i =>
    let p := h.pte src (first + i)
    (h.setPte dst (first + i) p).frameAdjust [(p.frame.toNat, (0 : Int), (1 : Int))]) ch

/-- What a task's KV_RELEASE and KV_SHARE operations do at its COMPLETE, in their order; one that no longer may does nothing.
 [DEDUCED, log entry 216] -/
def Channel.runKvActs (ch : Channel) (l : List KvAct) : Channel :=
  l.foldl (fun (k : Channel) a => match a with
    | .release r => if (k.region r).live then k.releaseRegion r else k
    | .share src dst first count => if k.mayShare src dst first count then k.share src dst first count else k) ch

/-- [DEDUCED, log entries 83 and 216] -/
def State.kvShare (s : State) (c : ChanId) (owner : Option (LCore × Nat)) (src dst first count : Nat) : State × Bool :=
  if (s.ch c).mayShare src dst first count then 
    (s.onCh c fun k => k.kvAct owner (.share src dst first count) fun h => h.share src dst first count, true)
  else (s.kvFault c owner 0x5006, false)

/-! ### Addresses of frames (R173, R300) -/

/-- Global address of a frame of a REMOTE pool: the window entry that BASE names gives the module and its base, and the channel
is this channel's number. [DEDUCED, log entry 25] -/
def Channel.remoteAddr (ch : Channel) (c : ChanId) (p : Pool) (n : Nat) : Nat :=
  let w : Option Window := match ch.pss.layout with
    | some l => l.windows.find? fun w => w.index == p.base.toNat / 2 ^ 56
    | none => none
  let off := p.base.toNat % 2 ^ 49 + (n - p.first) * p.frameKib.toNat * 1024
  match w with
  | some w => w.first.toNat * 2 ^ 50 + c.val * 2 ^ 49 + (w.base + off) % 2 ^ 49
  | none => off

/-- Incarnation of the module that holds a REMOTE pool's frames (R190). -/
def Channel.remoteInc (ch : Channel) (c : ChanId) (p : Pool) (n : Nat) : U16 := (ch.route (gaModule (ch.remoteAddr c p n))).inc

/-- Parts of at most 4,096 bytes of n bytes. -/
def parts4k (n : Nat) : List (Nat × Nat) := (List.range ((n + 4095) / 4096)).map fun i => (i * 4096, min 4096 (n - i * 4096))

/-- Issues operations of the control complex (agent 0x88, R284) for a move; one that completes GONE at once is retried in the
next beat (R190). -/
def State.issueMove (s : State) (c : ChanId) (spill : Bool) (frame : Nat) (ops : List (Nat × RemOp)) : State :=
  ops.foldl (fun (t : State) (e : Nat × RemOp) =>
    let r := t.issue c (if spill then .spill frame else .fetch frame) 0x88 e.2 e.1
    match r.2 with
    | none => r.1
    | some _ =>
      let keep (m : Move) : Move := if m.hbmFrame = frame then { m with retry := m.retry ++ [e] } else m
      r.1.onCh c fun ch => { ch with sql := { ch.sql with
        spills := if spill then ch.sql.spills.map keep else ch.sql.spills
        fetches := if spill then ch.sql.fetches else ch.sql.fetches.map keep } }) s

/-! ### Fetch (R177, R188 to R190) -/

/-- Starts the fetch of a page that lies in a backing frame, into its home pool; POOL_EMPTY when that has no free frame. -/
def State.startFetch (s : State) (c : ChanId) (r p useBeat : Nat) : State × Bool :=
  let ch := s.ch c
  let pte := ch.pte r p
  let n := pte.frame.toNat
  let b := ch.backFrame n
  if b.st ≠ .spilled then (s, false)
  else
    let dest := match ch.homePool? b.owner.toNat with
      | some home => (ch.freeFrame? home).map fun f => (home, f)
      | none => none
    match dest with
    | none =>
      (s.onCh c fun k => { k with sql := { k.sql with poolEmpty := true } }.raise c 0x5002, false)
    | some (home, f) =>
      let s1 := s.onCh c fun k =>
        let k := k.onHbmFrame f fun x => { x with
          st := .fetching, refcount := 1, pins := 0, owner := b.owner, page := b.page, pool := home.pool }
        let k := k.onBackFrame n fun x => { x with st := .fetching }
        { k with sql := { k.sql with fetches := k.sql.fetches ++ [
            { hbmFrame := f, backFrame := n, backTier := pte.tier, region := r, page := p, useBeat := useBeat }] } }
      match ch.poolOf false n with
      | none => (s1, true)
      | some bp =>
        if bp.tier = 2 then
          let a := ch.remoteAddr c bp n
          let ops := (parts4k (bp.frameKib.toNat * 1024)).map fun e =>
            (e.1, ({ kind := .get, addr := BitVec.ofNat 64 (a + e.1), operand := BitVec.ofNat 64 e.2 } : RemOp))
          (s1.issueMove c false f ops, true)
        else (s1, true)

/-- Marks a page lost (R190): its fetch ends, its PTE still names the backing frame. A page released meanwhile is gone with it (R177).
 [DEDUCED, log entry 215] -/
def Channel.pageLost (ch : Channel) (c : ChanId) (m : Move) : Channel :=
  let k := (ch.onHbmFrame m.hbmFrame Frame.toFree).onBackFrame m.backFrame fun f => if m.released then f.toFree else { f with st := .spilled }
  if m.released then { k with sql := { k.sql with fetches := k.sql.fetches.filter fun x => x.hbmFrame != m.hbmFrame } }
  else { k with sql := { k.sql with
      fetches := k.sql.fetches.filter fun x => x.hbmFrame != m.hbmFrame
      lost := if k.sql.lost.contains (m.region, m.page) then k.sql.lost else k.sql.lost ++ [(m.region, m.page)]
      backLost := true } }.raise c 0x5007

/-- A fetch copy has completed: the frames change state and the PTE names the HBM frame (R177). -/
def Channel.fetchArrived (ch : Channel) (m : Move) : Channel :=
  let k := (ch.onHbmFrame m.hbmFrame fun f => { f with st := .active }).onBackFrame m.backFrame Frame.toFree
  let k := { k with sql := { k.sql with
    fetches := k.sql.fetches.filter fun x => x.hbmFrame != m.hbmFrame, fetched := wrapAdd k.sql.fetched 1 } }
  if m.released then k.frameAdjust [(m.hbmFrame, (0 : Int), (-1 : Int))]
  else k.setPte m.region m.page { k.pte m.region m.page with
    tier := 0, frame := BitVec.ofNat 36 m.hbmFrame, lastUse := BitVec.ofNat 16 m.useBeat }

/-- FETCH_COPY_DONE: from CXL the bytes are copied now; from a REMOTE pool they have arrived by GET (R284), and an incarnation
other than that of the reservation loses the page. [DEDUCED, log entry 82] -/
def State.fetchDone (s : State) (c : ChanId) (frame : Nat) (inc : U16) : State :=
  let ch := s.ch c
  match ch.sql.fetches.find? fun m => m.hbmFrame == frame with
  | none => s
  | some m =>
    if ((ch.wrn.reqs ++ ch.wrn.waiting).any fun r => r.owner == .fetch frame) || !m.retry.isEmpty then s
    else match ch.poolOf false m.backFrame, ch.poolOf true frame with
      | some bp, some hp =>
        if bp.tier = 2 then
          if smGet 0 ch.sql.incs m.backFrame = inc then s.onCh c fun k => k.fetchArrived m
          else s.onCh c fun k => k.pageLost c m
        else
          let n := bp.frameKib.toNat * 1024
          let a := bp.frameAddr m.backFrame
          let r := s.checkCxl c true a n
          if r.2 then r.1.onCh c fun k => (k.hbmWrite (hp.frameAddr frame) (k.cxlBytes a n)).fetchArrived m
          else r.1.onCh c fun k => k.pageLost c m
      | _, _ => s

/-! ### Spill (R187) -/

/-- Pages named by the tasks planned for this beat and the next AHEAD beats. -/
def Channel.pagesAhead (ch : Channel) : List (Nat × Nat) :=
  (List.range (ch.sql.ahead.toNat + 1)).flatMap fun i =>
    (ch.planOf (ch.beat.number.toNat + i)).flatMap fun e => (ch.pageList e.2.2).map fun x => (x.region.toNat, x.page.toNat)

/-- Age of a frame in beats, from the LAST_USE of its page. -/
def Channel.ageOf (ch : Channel) (f : Frame) : Nat := (ch.beat16 - (ch.pte f.owner.toNat f.page.toNat).lastUse).toNat

/-- Spill candidates of a pool, oldest first, the lower frame number on ties. -/
def Channel.spillCandidates (ch : Channel) (p : Pool) : List Nat :=
  let ahead := ch.pagesAhead
  let l := ch.sql.hbm.filter fun e => p.hasFrame e.1 && e.2.st == .active && e.2.refcount == 1 && e.2.pins == 0
    && !ahead.contains (e.2.owner.toNat, e.2.page.toNat) && (ch.pte e.2.owner.toNat e.2.page.toNat).valid
  (sortBy (fun e => 65535 - ch.ageOf e.2) l).map (·.1)

/-- Starts the spill of a frame into its backing pool; BACK_FULL when that has no free frame. -/
def State.startSpill (s : State) (c : ChanId) (p : Pool) (n : Nat) : State × Bool :=
  let ch := s.ch c
  let dest := match ch.pool? p.back.toNat with
    | some bp => (ch.freeFrame? bp).map fun f => (bp, f)
    | none => none
  match dest with
  | none => (s.onCh c fun k => { k with sql := { k.sql with backFull := true } }.raise c 0x5003, false)
  | some (bp, b) =>
    let f := ch.hbmFrame n
    let s1 := s.onCh c fun k =>
      let k := k.onHbmFrame n fun x => { x with st := .spilling }
      let k := k.onBackFrame b fun x => { x with
        st := .spilling, owner := f.owner, page := f.page, refcount := 1, pool := bp.pool }
      { k with sql := { k.sql with
          spills := k.sql.spills ++ [{ hbmFrame := n, backFrame := b, backTier := bp.pteTier
                                       region := f.owner.toNat, page := f.page.toNat }]
          incs := if bp.tier = 2 then smSet 0 k.sql.incs b (ch.remoteInc c bp b) else k.sql.incs } }
    if bp.tier = 2 then
      let a := ch.remoteAddr c bp b
      let ops := (parts4k (bp.frameKib.toNat * 1024)).map fun e =>
        (e.1, ({ kind := .put, addr := BitVec.ofNat 64 (a + e.1)
                 payload := ch.hbmBytes (p.frameAddr n + e.1) e.2 } : RemOp))
      (s1.issueMove c true n ops, true)
    else (s1, true)

/-- Spills at a boundary: pools below LOW_WM, up to HIGH_WM free frames and SPILL_MAX frames in the beat (R187). -/
def State.spillSelect (s : State) (c : ChanId) : State :=
  let ch := s.ch c
  if !ch.sql.spillEn || ch.sql.walk then s
  else
    (ch.sql.pools.foldl (fun (r : State × Nat) (p : Pool) =>
      let free := (r.1.ch c).freeFrames p
      if p.isHbm && !p.shared && p.back != 0xFF && decide (free < p.lowWm.toNat) then
        let moving := countIf (fun m => p.hasFrame m.hbmFrame) (r.1.ch c).sql.spills
        let want := min (p.highWm.toNat - (free + moving)) r.2
        let go := (((r.1.ch c).spillCandidates p).take want).foldl
          (fun (q : State × Nat × Bool) n =>
            if q.2.2 then
              let t := q.1.startSpill c p n
              (t.1, if t.2 then q.2.1 - 1 else q.2.1, t.2)
            else q) (r.1, r.2, true)
        (go.1, go.2.1)
      else r) (s, ch.sql.spillMax.toNat)).1

/-- SPILL_COPY_DONE (R177): the PTE names the backing frame. A write that the backing tier does not take cancels the spill.
 [DEDUCED, log entry 82] -/
def State.spillDone (s : State) (c : ChanId) (frame : Nat) : State :=
  let ch := s.ch c
  match ch.sql.spills.find? fun m => m.hbmFrame == frame with
  | none => s
  | some m =>
    if ((ch.wrn.reqs ++ ch.wrn.waiting).any fun r => r.owner == .spill frame) || !m.retry.isEmpty then s
    else match ch.poolOf false m.backFrame, ch.poolOf true frame with
      | some bp, some hp =>
        let n := bp.frameKib.toNat * 1024
        let r := if bp.tier = 2 then (s, true) else s.checkCxl c false (bp.frameAddr m.backFrame) n
        if !r.2 then r.1.onCh c fun k => k.cancelSpill frame
        else r.1.onCh c fun k =>
          let k := if bp.tier = 2 then k else k.cxlWrite (bp.frameAddr m.backFrame) (k.hbmBytes (hp.frameAddr frame) n)
          let k := (k.onHbmFrame frame Frame.toFree).onBackFrame m.backFrame fun f => { f with st := .spilled }
          let k := k.setPte m.region m.page { k.pte m.region m.page with
            tier := m.backTier, frame := BitVec.ofNat 36 m.backFrame }
          { k with sql := { k.sql with
              spills := k.sql.spills.filter fun x => x.hbmFrame != frame, spilled := wrapAdd k.sql.spilled 1 } }
      | _, _ => s

/-! ### At a boundary -/

/-- Retries the parts of moves that completed GONE (R190). -/
def State.retryMoves (s : State) (c : ChanId) : State :=
  let go (spill : Bool) (t : State) (m : Move) : State :=
    let clear (x : Move) : Move := if x.hbmFrame = m.hbmFrame then { x with retry := [] } else x
    let t1 := t.onCh c fun ch => { ch with sql := { ch.sql with
      spills := if spill then ch.sql.spills.map clear else ch.sql.spills
      fetches := if spill then ch.sql.fetches else ch.sql.fetches.map clear } }
    t1.issueMove c spill m.hbmFrame m.retry
  let s1 := ((s.ch c).sql.spills.filter fun m => !m.retry.isEmpty).foldl (go true) s
  ((s1.ch c).sql.fetches.filter fun m => !m.retry.isEmpty).foldl (go false) s1

/-- The evaluation of DEFERRED_FREE frames at T + 256 clk (R177). -/
def Channel.deferredFree (ch : Channel) : Channel :=
  let due := (ch.sql.hbm.filter fun e => e.2.st == .deferredFree && e.2.pins == 0).map (·.1)
  due.foldl (fun k n => k.onHbmFrame n Frame.toFree) ch

/-- PTEs rebuilt from the lists walked in page-list mode (R192); a page so restored is no longer lost (R190). A page keeps the format codes of its
old PTE. [DESIGN CHOICE, log entry 217] -/
def Channel.rebuildPtes (ch : Channel) : Channel :=
  let k := ch.sql.walked.foldl (fun (h : Channel) (w : WalkedList) =>
    w.pages.foldl (fun (q : Channel) p =>
      let f := w.baseFrame + p
      let old := q.pte w.region p
      (q.setPte w.region p { old with valid := true, tier := 0, frame := BitVec.ofNat 36 f, lastUse := q.beat16 }).onHbmFrame f
        fun x => { x with
          st := .active, refcount := 1, owner := BitVec.ofNat 24 w.region, page := BitVec.ofNat 18 p
          pool := BitVec.ofNat 8 w.pool }) h) ch
  { k with sql := { k.sql with
      walked := []
      lost := k.sql.lost.filter fun e => !ch.sql.walked.any fun w => w.region == e.1 && w.pages.contains e.2 } }

/-- A pending write of WALK takes effect, or has none and sets MODE_BUSY while a page descriptor or a page-list transfer is
outstanding (R192). -/
def Channel.walkSwitch (ch : Channel) : Channel :=
  match ch.sql.walkNext with
  | none => ch
  | some w =>
    let k := { ch with sql := { ch.sql with walkNext := none } }
    let busy := (ch.tsk.tasks.any fun t => !t.pages.isEmpty) || !ch.sql.slots.isEmpty
      || ch.dma.xfers.any fun x => x.desc.op == 7
    if w = ch.sql.walk then k
    else if busy then { k with sql := { k.sql with modeBusy := true } }
    else
      let k := { k with sql := { k.sql with walk := w } }
      if w then k else k.rebuildPtes

/-- Free frames of each pool as SQL_POOL.FREE shows them until the next boundary. -/
def Channel.showFree (ch : Channel) : Channel :=
  { ch with sql := { ch.sql with pools := ch.sql.pools.map fun p => { p with freeShown := ch.freeFrames p } } }

end Sys2Proof.Machine
end

