-- ==== Sys2Proof/Machine/Layout.lean ====
section
/-! DEFINITION. What a layout of the stream puts into the registers, and the state of a job's exchange that lies in HBM
(R239, R240, R305, R311). -/

namespace Sys2Proof.Machine

/-- Squirrel's own regions: the transit region of each pool is LIVE while its layout is in effect (R191). [DEDUCED, log entry 81] -/
def Channel.openTransit (ch : Channel) : Channel :=
  (ch.sql.pools.filter fun p => p.transitRegion != 0xFFFFFF).foldl (fun (k : Channel) p =>
    k.setRegion p.transitRegion.toNat { k.region p.transitRegion.toNat with live := true, pool := p.pool, maxPages := 262144 }) ch

/-- The sections of a layout take effect: the plan with its period and credit capacities, the windows, partitions and routes,
the pools, and the template beat count (R305, R311). [DEDUCED, log entry 189] -/
def Channel.applyLayout (ch : Channel) (l : LayoutData) : Channel :=
  let credits := (l.credits.zipIdx).foldl (fun (m : SMap Credit) (e : U16 × Nat) =>
    smSet {} m e.2 { capacity := e.1, available := e.1, shown := e.1 }) []
  let k := { ch with
    pss := { ch.pss with layout := some l, winOpen := true, withdrawn := false }
    beat := { ch.beat with
      periodUs := BitVec.ofNat 11 l.periodUs.toNat, leadinPct := l.leadinPct, tmplStart := ch.beat.number.toNat }
    tsk := { ch.tsk with credits := credits }
    sql := { ch.sql with
      pools := l.pools, regionsNum := BitVec.ofNat 24 l.regions, regionBase := BitVec.ofNat 40 l.regionBase }
    gxc := { ch.gxc with nb := BitVec.ofNat 13 ((l.gxc.map fun (g : GxcPlan) => g.buckets.length).getD 0) } }
  k.openTransit.showFree

/-- The variant of a layout id; 0 is the base layout (R296). -/
def Channel.variant? (ch : Channel) (id : Nat) : Option LayoutData :=
  match ch.pss.stream with
  | some st => st.variants.find? fun l => l.layout.toNat == id
  | none => none

/-! ### Statistic tiles and update blocks (R203, R220) -/

/-- A statistic tile: its tensor's index in the plan, its first row and column, and its live rows and columns. -/
structure UpdTile where
  tensor : Nat := 0
  row : Nat := 0
  rows : Nat := 0
  col : Nat := 0
  cols : Nat := 0
  deriving DecidableEq, Repr

/-- Cuts n rows or columns into pieces of z: where each begins and how long it is. -/
def cuts (n z : Nat) : List (Nat × Nat) :=
  if z = 0 then [] else (List.range ((n + z - 1) / z)).map fun i => (i * z, min z (n - i * z))

/-- Tiles of tensor k, row by row. -/
def TensorHdr.tiles (t : TensorHdr) (k : Nat) : List UpdTile :=
  (cuts t.rows.toNat t.tileR.toNat).flatMap fun r => (cuts t.cols.toNat t.tileC.toNat).map fun x =>
    { tensor := k, row := r.1, rows := r.2, col := x.1, cols := x.2 }

/-- Tiles of the shard, in the order of their journal entries. [DESIGN CHOICE, log entry 220] -/
def Stream.tiles (st : Stream) : List UpdTile := st.tensors.zipIdx.flatMap fun e => e.1.tiles e.2

/-- An update block: its row, its first column, and its live elements. -/
structure UpdBlock where
  row : Nat := 0
  col : Nat := 0
  live : Nat := 0
  deriving DecidableEq, Repr

/-- The update blocks of a tile, row by row; the last of a row may be short (R203). -/
def UpdTile.blocks (t : UpdTile) : List UpdBlock :=
  (List.range t.rows).flatMap fun i => (cuts t.cols 32).map fun x => { row := t.row + i, col := t.col + x.1, live := x.2 }

/-- Blocks in a row of a tensor as it is stored: whole blocks (R203). -/
def TensorHdr.rowBlocks (t : TensorHdr) : Nat := (t.cols.toNat + 31) / 32

/-- Index of an update block within its tensor. -/
def TensorHdr.blockIndex (t : TensorHdr) (b : UpdBlock) : Nat := b.row * t.rowBlocks + b.col / 32

/-! ### Tiles in buckets (R203, R220, R235) -/

def Channel.gxcPlan (ch : Channel) : GxcPlan :=
  match ch.pss.layout with
  | some l => l.gxc.getD {}
  | none => {}

/-- Where the gradient of a tile lies: its bucket and its first block there, or a low-rank pair, named by its second bucket. -/
structure TilePlace where
  bucket : Nat := 0
  block : Nat := 0
  low : Bool := false
  deriving DecidableEq, Repr

/-- The first dense bucket that has room for n blocks, `used` of the first one being taken. [DESIGN CHOICE, log entry 220] -/
def findRoom : List (GxcBucketPlan × Nat) → Nat → Nat → Option TilePlace
  | [], _, _ => none
  | e :: r, used, n =>
    if e.1.rank = 0 ∧ used + n ≤ 4 * e.1.ng.toNat then some { bucket := e.2, block := used } else findRoom r 0 n

/-- The low-rank pair that a tensor meets before a dense bucket with room for its first tile of n blocks. [DESIGN CHOICE, log entry 220] -/
def findPair : List (GxcBucketPlan × Nat) → Nat → Nat → Option Nat
  | [], _, _ => none
  | e :: r, used, n =>
    if e.1.rank = 0 then (if used + n ≤ 4 * e.1.ng.toNat then none else findPair r 0 n)
    else if used = 0 then some e.2 else findPair r 0 n

/-- A packing under way: the bucket it has reached, the blocks used there, and the places so far. -/
structure Packing where
  bucket : Nat := 0
  used : Nat := 0
  places : List (Option TilePlace) := []
  deriving DecidableEq, Repr

/-- [DESIGN CHOICE, log entry 220] -/
def Packing.tile (plan : List (GxcBucketPlan × Nat)) (p : Packing) (n : Nat) : Packing :=
  match findRoom (plan.drop p.bucket) p.used n with
  | some a => { bucket := a.bucket, used := a.block + n, places := p.places ++ [some a] }
  | none => { p with places := p.places ++ [none] }

/-- Places a tensor's tiles, given by their numbers of blocks. [DESIGN CHOICE, log entry 220] -/
def Packing.tensor (plan : List (GxcBucketPlan × Nat)) (p : Packing) (sizes : List Nat) : Packing :=
  match findPair (plan.drop p.bucket) p.used (sizes.headD 0) with
  | some b => { bucket := b + 2, used := 0, places := p.places ++ sizes.map fun _ => some { bucket := b + 1, low := true } }
  | none => sizes.foldl (Packing.tile plan) p

/-- Where each tile of the shard lies: whole tiles in bucket order, the buckets filled in the order of the tensors; a low-rank pair takes one
tensor. [DESIGN CHOICE, log entry 220] -/
def Channel.tilePlaces (ch : Channel) : List (Option TilePlace) :=
  match ch.pss.stream with
  | some st => (st.tensors.zipIdx.foldl (fun (p : Packing) e =>
      p.tensor ch.gxcPlan.buckets.zipIdx ((e.1.tiles e.2).map fun t => t.blocks.length)) {}).places
  | none => []

/-! ### The journal (R239, R240) -/

/-- Journal entries of the shard. -/
def Channel.journalCount (ch : Channel) : Nat :=
  match ch.pss.stream with
  | some st => st.tiles.length
  | none => 0

/-- HBM offset of the journal entry of tile n. -/
def Channel.journalAt (ch : Channel) (n : Nat) : Nat := ((ch.pss.stream.map (·.journalBase)).getD 0) + 16 * n

/-- Tile n is APPLIED at step s, as its entry in HBM says. -/
def Channel.tileApplied (ch : Channel) (n : Nat) (s : U32) : Bool :=
  leNat (ch.hbmBytes (ch.journalAt n) 4) == s.toNat && leNat (ch.hbmBytes (ch.journalAt n + 6) 1) == 2

/-- A journal entry as it lies in HBM (Table 11-1): STEP, STATE and BUCKET. -/
structure Journal where
  step : Nat
  st : Nat
  bucket : Nat
  deriving DecidableEq, Repr

def Channel.journal (ch : Channel) : List Journal :=
  match ch.pss.stream with
  | some _ => (List.range ch.journalCount).map fun i =>
      let a := ch.journalAt i
      { step := leNat (ch.hbmBytes a 4), st := leNat (ch.hbmBytes (a + 6) 1), bucket := leNat (ch.hbmBytes (a + 8) 4) }
  | none => []

/-- Whether every statistic tile of a bucket, by the plan, is APPLIED at a step: the bucket is committed (R237, R239). -/
def bucketCommitted (j : List Journal) (places : List (Option TilePlace)) (step b : Nat) : Bool :=
  (j.zip places).all fun e => (e.2.map (·.bucket)) != some b || (e.1.st == 2 && e.1.step == step)

/-- Buckets of the step in progress that are committed on this channel (R237). -/
def Channel.committedBuckets (ch : Channel) : List Nat :=
  let j := ch.journal
  let places := ch.tilePlaces
  (List.range ch.gxc.nb.toNat).filter fun b => bucketCommitted j places ch.upd.sJob.toNat b

/-- Step up to which a tile has been applied: an entry in WRITING counts for the step before its own. [DEDUCED, log entry 28] -/
def Journal.applied (e : Journal) : Nat := if e.st = 2 then e.step else if e.st = 1 then e.step - 1 else 0

/-- GXC_SHARD: LAST_APPLIED, PARTIAL and TORN (R240). [DEDUCED, log entry 28] -/
def Channel.shard (ch : Channel) : Nat × Bool × Bool :=
  let j := ch.journal
  let last := match j with
    | [] => 0
    | e :: r => r.foldl (fun m x => min m x.applied) e.applied
  (last, j.any fun e => e.st == 2 && e.step == last + 1, j.any fun e => e.st == 1)

end Sys2Proof.Machine
end

