-- ==== Sys2Proof/Machine/Update.lean ====
section
/-! DEFINITION. Steps: acceptance of a step descriptor, step sizes, commit and abandonment (R205 to R209, R238, R241). -/

namespace Sys2Proof.Machine

/-! ### Step sizes (R208, R209) -/

/-- Step size of a curve at a step; between points the products and quotients are taken from left to right in FP64.
 [DEDUCED, log entry 74] -/
def curveAt : List (U32 × U32) → Nat → Nat
  | [], _ => 0
  | [p], _ => p.2.toNat
  | a :: b :: r, s =>
    if s ≤ a.1.toNat then a.2.toNat
    else if s < b.1.toNat then
      let w (x : U32) : Nat := fpConv fpF32 fpF64 false .rne x.toNat
      let n (x : Nat) : Nat := fpOfInt fpF64 64 x
      let slope := fpDiv fpF64 false (fpMul fpF64 false (fpSub fpF64 false (w b.2) (w a.2)) (n (s - a.1.toNat)))
        (n (b.1.toNat - a.1.toNat))
      fpConv fpF64 fpF32 false .rne (fpAdd fpF64 false (w a.2) slope)
    else curveAt (b :: r) s

def Channel.updGroups (ch : Channel) : List UpdGroup :=
  match ch.pss.stream with
  | some st => st.groups
  | none => []

def Channel.tState (ch : Channel) (n : Nat) : U32 := smGet 0 ch.upd.tState n

/-- Groups whose counter plus one is not S_JOB (R206). -/
def Channel.skewed (ch : Channel) (sJob : Nat) : List Nat :=
  (List.range ch.updGroups.length).filter fun n => (ch.tState n).toNat + 1 != sJob

/-- The step size of a group that a step latches. [DEDUCED, log entry 74] -/
def Channel.stepSize (ch : Channel) (table : Bool) (sJob n : Nat) : U32 :=
  if table then BitVec.ofNat 32 (curveAt ((ch.updGroups[n]?.map (·.curve)).getD []) sJob) else smGet 0 ch.upd.lr n

/-! ### The end of a step (R238, R241) -/

/-- Abandonment: t_state and the retained buckets stay, a pending step is discarded, a queued re-shard starts at the next
boundary (R205, R238, R242). [DEDUCED, log entry 119] -/
def Channel.abandonStep (ch : Channel) (c : ChanId) : Channel :=
  let k := { ch with
    upd := { ch.upd with inStep := false, pending := none }
    gxc := { ch.gxc with
      abandoned := true
      requested := match ch.gxc.queued with
        | some l => some l
        | none => ch.gxc.requested } }
  k.raise c 0x600C

/-! ### Acceptance (R205, R206, R208, R241, R244) -/

/-- The step counters are compared at acceptance (R206). -/
def Channel.checkSkew (ch : Channel) (c : ChanId) (sJob : U32) : Channel :=
  match ch.skewed sJob.toNat with
  | [] => ch
  | g :: _ =>
    { ch with upd := { ch.upd with
        stepSkew := true, skewGroup := BitVec.ofNat 6 g, skewT := ch.tState g, skewS := sJob } }.raiseStep c 0x6001

/-- A HOST step size that was not rewritten (R208). -/
def Channel.checkFresh (ch : Channel) (c : ChanId) : Channel :=
  if !ch.upd.sched && (List.range ch.updGroups.length).any fun n => !smGet false ch.upd.fresh n then
    { ch with upd := { ch.upd with lrReused := true } }.raiseStep c 0x6003
  else ch

/-- The counters of the groups as the checkpoint carries them that a RESTART begins from (R204, R205): what it holds is not the channel's.
 [DESIGN CHOICE, log entry 222] -/
def Channel.restoredCounters (ch : Channel) (c : ChanId) : SMap U32 :=
  (List.range ch.updGroups.length).foldl (fun (m : SMap U32) n =>
    smSet 0 m n (BitVec.ofNat 32 (Config.checkpointCounter (ch.chn.moduleId.toNat * 2 + c.val) ch.beat.number.toNat n))) []

/-- A descriptor becomes the step in progress. [DEDUCED, log entry 88; DESIGN CHOICE, log entry 222] -/
def Channel.acceptStep (ch : Channel) (c : ChanId) (d : StepDesc) : Channel :=
  let sizes := (List.range ch.updGroups.length).foldl (fun (m : SMap U32) n =>
    smSet 0 m n (ch.stepSize ch.upd.sched d.sJob.toNat n)) []
  let k := { ch with
    upd := { ch.upd with
      inStep := true, sJob := d.sJob, pending := none, schedNow := ch.upd.sched, latched := sizes
      actGone := if d.restart then [] else ch.upd.actGone
      tState := if d.restart then ch.restoredCounters c else ch.upd.tState
      barred := d.epoch != ch.gxc.epoch, aheadSram := [], aheadWrote := [], staged := [] }
    beat := { ch.beat with raisedStep := [] }
    gxc := { ch.gxc with
      actDeadline := ch.gxc.deadline, actCheckEn := ch.gxc.checkEn, actCheckLog2 := ch.gxc.checkLog2
      actLate := ch.gxc.late, buckets := [], lows := [], failFlag := false, flaggedStep := false
      retained := if d.restart then [] else ch.gxc.retained } }
  let k := (k.checkSkew c d.sJob).checkFresh c
  let k := { k with upd := { k.upd with fresh := [] } }
  if d.epoch = k.gxc.epoch then k
  else ({ k with gxc := { k.gxc with epochBad := true } }.raise c 0x6008).abandonStep c

/-- Takes a step descriptor, whose S_JOB is 1 or greater (Table 10-5); whether it was accepted. [DEDUCED, log entry 88] -/
def Channel.stepDescriptor (ch : Channel) (c : ChanId) (d : StepDesc) (wellFormed : Bool) : Channel × Bool :=
  let s := d.sJob.toNat
  let wellFormed := wellFormed && d.sJob != 0
  if wellFormed && !ch.upd.inStep && (d.restart || decide (s = ch.upd.lastCommit.toNat + 1)) then (ch.acceptStep c d, true)
  else if wellFormed && ch.upd.inStep && ch.upd.pending.isNone && !d.restart && decide (s = ch.upd.sJob.toNat + 1) then
    ({ ch with upd := { ch.upd with pending := some d } }, true)
  else ({ ch with upd := { ch.upd with stepBad := true } }.raiseStep c 0x6002, false)

/-- A step commits: counters advance, the retained buckets of the step are released, and the pending step becomes the step in
progress (R205, R207, R238). -/
def Channel.commitStep (ch : Channel) (c : ChanId) (step : U32) : Channel :=
  if !ch.upd.inStep || ch.upd.sJob != step then ch
  else
    let ts := (List.range ch.updGroups.length).foldl (fun (m : SMap U32) n => smMod 0 m n fun t => satAdd t 1) ch.upd.tState
    let k := { ch with
      upd := { ch.upd with inStep := false, tState := ts, lastCommit := step, pending := none }
      gxc := { ch.gxc with
        last := step, retained := []
        requested := match ch.gxc.queued with
          | some l => some l
          | none => ch.gxc.requested } }
    let k := k.raise c 0x600B
    match ch.upd.pending with
    | some d => k.acceptStep c d
    | none => k

/-! ### UPD_LRn (R208, R218) -/

/-- The value a write of LR takes effect as: negative, infinite and NaN values as +0. [DEDUCED, log entry 75] -/
def lrValue (v : Nat) : U32 :=
  if fpSign fpF32 v || !fpFinite fpF32 v then 0 else BitVec.ofNat 32 v

/-- [DEDUCED, log entry 75] -/
def Channel.writeLr (ch : Channel) (n : Nat) (v : U64) : Channel :=
  { ch with upd := { ch.upd with
      lr := smSet 0 ch.upd.lr n (lrValue (bits v 31 0)), fresh := smSet false ch.upd.fresh n true } }

end Sys2Proof.Machine
end

