-- ==== Sys2Proof/Machine/Exchange.lean ====
section
/-! DEFINITION. The gradient exchange of a channel: the stages of agreeing the scales, arrivals, failures, flags, and the re-shard
requests (R219 to R242). -/

namespace Sys2Proof.Machine

/-! ### The plan -/

def Channel.bucketPlan (ch : Channel) (b : Nat) : Option GxcBucketPlan := ch.gxcPlan.buckets[b]?

/-- Exchange group of a bucket. -/
def Channel.bucketGroup (ch : Channel) (b : Nat) : GxcGroup :=
  match ch.bucketPlan b with
  | some p => (ch.gxcPlan.groups[p.group.toNat]?).getD {}
  | none => {}

/-- Contributor index of this channel in a group: sett rank × k + position (R219). -/
def Channel.contribIndex (ch : Channel) (c : ChanId) (g : GxcGroup) : Option Nat :=
  g.members.findIdx? fun m => m.1 == ch.chn.moduleId && m.2.toNat == c.val

/-- Sett rank and position of this channel in the group of a bucket (R219). -/
def Channel.rankPos (ch : Channel) (c : ChanId) (b : Nat) : Option (Nat × Nat) :=
  let g := ch.bucketGroup b
  (ch.contribIndex c g).map fun i => (i / max g.k 1, i % max g.k 1)

/-! ### The roles of a bucket (R221) -/

/-- Position of the bucket root. -/
def bucketRoot (g : GxcGroup) (b : Nat) : Nat := b % max g.k 1
/-- Position of the check root of segment i; the segment root of segment i is position i. -/
def checkRoot (g : GxcGroup) (i : Nat) : Nat := (i + 1) % max g.k 1
/-- The segment whose check root is at a position. -/
def checkedSegment (g : GxcGroup) (p : Nat) : Nat := (p + max g.k 1 - 1) % max g.k 1

/-- This channel is the root of a bucket in its sett. -/
def Channel.isBucketRoot (ch : Channel) (c : ChanId) (b : Nat) : Bool :=
  (ch.rankPos c b).map (·.2) == some (bucketRoot (ch.bucketGroup b) b)
/-- It is the domain root: the bucket root of sett rank 0. -/
def Channel.isDomainRoot (ch : Channel) (c : ChanId) (b : Nat) : Bool := ch.rankPos c b == some (0, bucketRoot (ch.bucketGroup b) b)

def Channel.bucket (ch : Channel) (b : Nat) : Bucket := smGet {} ch.gxc.buckets b
def Channel.onBucket (ch : Channel) (b : Nat) (f : Bucket → Bucket) : Channel :=
  { ch with gxc := { ch.gxc with buckets := smMod {} ch.gxc.buckets b f } }

/-! ### The gradient of a bucket (R222, R231) -/

/-- FP32 codes of a list of bytes. -/
def floatsOf (l : List Byte) : List Nat := (chunks 4 (l.length / 4) l).map leNat

/-- HBM range of a bucket's FP32 gradient: 128 elements to a group. -/
def Channel.gradRange (ch : Channel) (b : Nat) : Nat × Nat :=
  ((ch.bucketPlan b).map fun p => (p.gradBase.toNat, 512 * p.ng.toNat)).getD (0, 0)

/-- The FP32 gradient of a bucket; one that is carried is added to it with rn per element (R231). [DEDUCED, log entry 93] -/
def Channel.gradient (ch : Channel) (b : Nat) : List Nat :=
  let r := ch.gradRange b
  let now := floatsOf (ch.hbmBytes r.1 r.2)
  match smGet none ch.gxc.carriedBuckets b with
  | some old => (now.zip (floatsOf old)).map fun e => fpAdd fpF32 ch.vec.ovfMode e.1 e.2
  | none => now

/-- The pre-pass begins: what was carried has become part of the gradient. [DEDUCED, log entry 93] -/
def Channel.addCarried (ch : Channel) (b : Nat) : Channel :=
  match smGet none ch.gxc.carriedBuckets b with
  | some _ =>
    let k := ch.hbmWrite (ch.gradRange b).1 ((ch.gradient b).flatMap (leBytes 4))
    { k with gxc := { k.gxc with carriedBuckets := smDel b k.gxc.carriedBuckets } }
  | none => ch

/-! ### Exclusion and carrying (R231) -/

/-- Records n exclusions, the last of contributor x. [DEDUCED, log entry 91] -/
def Channel.exclude (ch : Channel) (c : ChanId) (b n x : Nat) : Channel :=
  { ch with gxc := { ch.gxc with
      lateSt := true, excluded := satAdd ch.gxc.excluded n, lateStep := ch.upd.sJob
      lateBucket := BitVec.ofNat 13 b, lateContrib := BitVec.ofNat 15 x } }.raise c 0x6006

/-- What the final bitmap means for this channel's own gradient: a late contributor records its exclusion, unless it did so as the root that
excluded it, and keeps the gradient for the next step under CARRY. [DEDUCED, log entries 91 and 93] -/
def Channel.settleOwn (ch : Channel) (c : ChanId) (b : Nat) (bitmap : List Nat) (told : Bool) : Channel :=
  match ch.contribIndex c (ch.bucketGroup b) with
  | none => ch
  | some i =>
    if bitmap.contains i then ch
    else
      let k := if told then ch else ch.exclude c b 1 i
      if ch.gxc.actLate then k
      else { k with gxc := { k.gxc with
          carriedBuckets := smIns b (some ((ch.gradient b).flatMap (leBytes 4))) k.gxc.carriedBuckets, carried := satAdd k.gxc.carried 1 } }

/-! ### Pairs of low-rank buckets (R235) -/

/-- The first bucket of the low-rank pair whose second one is b: low-rank buckets follow one another in pairs. [DEDUCED, log entry 95] -/
def Channel.pairOf (ch : Channel) (b : Nat) : Option Nat :=
  let second := (ch.gxcPlan.buckets.take b).foldl (fun odd p => p.rank != 0 && !odd) false
  if second && ((ch.bucketPlan b).map (·.rank)).getD 0 != 0 then some (b - 1) else none

/-- Positions of this sett from which the sett stage awaits a pre-pass: all, or in the second bucket of a pair those that the first one's
final bitmap includes. [DEDUCED, log entry 95] -/
def Channel.settNeed (ch : Channel) (c : ChanId) (b : Nat) : List Nat :=
  let g := ch.bucketGroup b
  let rank := ((ch.rankPos c b).map (·.1)).getD 0
  match ch.pairOf b with
  | some a => if (ch.bucket a).domClosed then (List.range g.k).filter fun p => (ch.bucket a).domMap.contains (rank * g.k + p) else List.range g.k
  | none => List.range g.k

/-- Sett ranks whose summary the domain stage awaits. [DEDUCED, log entry 95] -/
def Channel.domNeed (ch : Channel) (b : Nat) : List Nat :=
  let g := ch.bucketGroup b
  match ch.pairOf b with
  | some a =>
    if (ch.bucket a).domClosed then (List.range g.g).filter fun r => (ch.bucket a).domMap.any fun i => i / max g.k 1 == r else List.range g.g
  | none => List.range g.g

/-! ### The stages (R223, R224) -/

/-- Bytewise maximum of pre-pass vectors. -/
def maxBytes : List (List U8) → List U8
  | [] => []
  | a :: r => r.foldl (fun m x => (m.zip x).map fun e => if e.1.toNat < e.2.toNat then e.2 else e.1) a

/-- min(0xFE, m + H). -/
def headroom (h : Nat) (m : U8) : U8 := BitVec.ofNat 8 (min 0xFE (m.toNat + h))

/-- Closes the sett stage at its root. [DEDUCED, log entry 91] -/
def Channel.closeSett (ch : Channel) (c : ChanId) (b : Nat) : Channel :=
  let g := ch.bucketGroup b
  let h := ((ch.bucketPlan b).map (·.hSett)).getD 2
  let k := ch.bucket b
  let inn := (k.settArr.map (·.1)).foldl (fun l p => insertNat p l) []
  let m := maxBytes (k.settArr.map (·.2))
  let rank := ((ch.rankPos c b).map (·.1)).getD 0
  let out := (ch.settNeed c b).filter fun p => !inn.contains p
  let ch1 := ch.onBucket b fun x => { x with settClosed := true, settMap := inn, settMax := m, settExp := m.map (headroom h) }
  let ch2 := match out.getLast? with
    | some p => ch1.exclude c b out.length (rank * g.k + p)
    | none => ch1
  if g.g ≤ 1 then
    (ch2.onBucket b fun x => { x with domClosed := true, domMap := inn, domExp := x.settExp }).settleOwn c b inn true
  else ch2

/-- Closes the domain stage at the domain root. [DEDUCED, log entry 91] -/
def Channel.closeDomain (ch : Channel) (c : ChanId) (b : Nat) : Channel :=
  let g := ch.bucketGroup b
  let h := ((ch.bucketPlan b).map (·.hDom)).getD 2
  let k := ch.bucket b
  let ranks := k.domArr.map (·.1)
  let map := (k.domArr.flatMap fun e => e.2.1.map fun p => e.1 * g.k + p).foldl (fun l i => insertNat i l) []
  let out := (ch.domNeed b).filter fun r => !ranks.contains r
  let ch1 := ch.onBucket b fun x => { x with
    domClosed := true, domMap := map, domExp := (maxBytes (k.domArr.map fun e => e.2.2)).map (headroom h) }
  let ch2 := match out.getLast? with
    | some r => ch1.exclude c b (out.length * g.k) (r * g.k)
    | none => ch1
  ch2.settleOwn c b map true

/-- Whether the deadline of a stage of a bucket that started in beat B has come: boundary (B + D) × P; D = 0 waits for all, and the second
bucket of a low-rank pair has no deadline (R223, R235). [DEDUCED, log entries 92 and 95] -/
def Channel.stageDue (ch : Channel) (b : Nat) (start : Option Nat) : Bool :=
  match start with
  | none => false
  | some x => (ch.pairOf b).isNone && ch.gxc.actDeadline != 0 && decide (x + ch.gxc.actDeadline.toNat ≤ ch.beat.number.toNat)

/-- Closes the stages of a bucket whose deadline has come: what arrives on that boundary is late (R34, R223, R224).
 [DEDUCED, log entry 92] -/
def Channel.closeDue (ch : Channel) (c : ChanId) (b : Nat) : Channel :=
  let k := if !(ch.bucket b).settClosed && ch.stageDue b (ch.bucket b).settBeat then ch.closeSett c b else ch
  if !(k.bucket b).domClosed && k.stageDue b (k.bucket b).domBeat then k.closeDomain c b else k

/-- A pre-pass arrives at the bucket root; one of another epoch is treated as not arrived (R221, R223, R241). [DEDUCED, log entry 92] -/
def Channel.prepassArrives (ch : Channel) (c : ChanId) (b pos : Nat) (epoch : U16) (bytes : List U8) : Channel :=
  let ch := ch.closeDue c b
  if !ch.isBucketRoot c b then ch
  else if epoch ≠ ch.gxc.epoch then { ch with gxc := { ch.gxc with epochBad := true } }.raise c 0x6008
  else
    let k := ch.bucket b
    if k.settClosed || !(ch.settNeed c b).contains pos || k.settArr.any (·.1 == pos) then ch
    else
      let ch1 := ch.onBucket b fun x => { x with
        settArr := x.settArr ++ [(pos, bytes)]
        settBeat := match x.settBeat with
          | some y => some y
          | none => some ch.beat.number.toNat }
      if (ch1.settNeed c b).all fun p => (ch1.bucket b).settArr.any (·.1 == p) then ch1.closeSett c b else ch1

/-- The summary of a sett arrives at the domain root (R221, R224). [DEDUCED, log entry 92] -/
def Channel.summaryArrives (ch : Channel) (c : ChanId) (b rank : Nat) (map : List Nat) (bytes : List U8) : Channel :=
  let ch := ch.closeDue c b
  let k := ch.bucket b
  if !ch.isDomainRoot c b || k.domClosed || !(ch.domNeed b).contains rank || k.domArr.any (·.1 == rank) then ch
  else
    let ch1 := ch.onBucket b fun x => { x with
      domArr := x.domArr ++ [(rank, map, bytes)]
      domBeat := match x.domBeat with
        | some y => some y
        | none => some ch.beat.number.toNat }
    if (ch1.domNeed b).all fun r => (ch1.bucket b).domArr.any (·.1 == r) then ch1.closeDomain c b else ch1

/-- The final bitmap and the domain exponents arrive, at a contributor with the sett exponents of its sett (R224). -/
def Channel.finalArrives (ch : Channel) (c : ChanId) (b : Nat) (map : List Nat) (dom sett : List U8) : Channel :=
  if (ch.bucket b).domClosed then ch
  else
    let k := ch.bucket b
    let told := k.settClosed && !(((ch.rankPos c b).map fun e => k.settMap.contains e.2).getD true)
    (ch.onBucket b fun x => { x with
      domClosed := true, domMap := map, domExp := dom, settExp := if x.settClosed then x.settExp else sett }).settleOwn c b map told

/-- [DEDUCED, log entry 95] -/
def execSettStageDeadline (c : ChanId) (bucket : Nat) (s : State) : Result :=
  let k := (s.ch c).bucket bucket
  if !k.settClosed && (s.ch c).stageDue bucket k.settBeat then .next (s.onCh c fun ch => ch.closeSett c bucket) else .next s

/-- [DEDUCED, log entry 95] -/
def execDomainStageDeadline (c : ChanId) (bucket : Nat) (s : State) : Result :=
  let k := (s.ch c).bucket bucket
  if !k.domClosed && (s.ch c).stageDue bucket k.domBeat then .next (s.onCh c fun ch => ch.closeDomain c bucket) else .next s

/-! ### Arrival, failure and flags (R229, R232, R236, R238) -/

/-- A final segment SIGNALs the arrival counter: at k the channel holds the reduced bucket, and keeps with it the final bitmap and what the
step has latched (R229). [DEDUCED, log entry 93] -/
def Channel.segmentArrives (ch : Channel) (b : Nat) : Channel :=
  let g := ch.bucketGroup b
  let k := ch.onBucket b fun x => { x with arrived := x.arrived + 1 }
  if (k.bucket b).arrived = g.k then
    let q := k.onBucket b fun x => { x with reduced := true }
    { q with gxc := { q.gxc with
      retained := smIns b (some { bitmap := (q.bucket b).domMap, lr := q.upd.latched, tState := q.upd.tState }) q.gxc.retained } }
  else k

/-- Contributors of a reduced bucket, n_c (R229). -/
def Channel.contributors (ch : Channel) (b : Nat) : Nat := ((smGet none ch.gxc.retained b).map fun r => r.bitmap.length).getD 0

/-- Signals the commit root for the step in progress, once (R238). [DEDUCED, log entry 89; DESIGN CHOICE, log entry 90] -/
def State.flagStep (s : State) (c : ChanId) (fail : Bool) : State :=
  let ch := s.ch c
  if !ch.upd.inStep || ch.gxc.flaggedStep then s
  else
    let p := ch.gxcPlan
    (s.onCh c fun k => { k with gxc := { k.gxc with flaggedStep := true, flagged := k.upd.sJob } }).emit
      (.stepFlag c (p.rootModule, p.rootChannel, p.rootCore) fail ch.upd.sJob)

/-- The channel must signal FAIL for the step. [DEDUCED, log entry 89] -/
def State.flagFail (s : State) (c : ChanId) : State :=
  if (s.ch c).upd.inStep then (s.onCh c fun k => { k with gxc := { k.gxc with failFlag := true } }).flagStep c true else s

/-- Every bucket of the step has committed here and nothing failed (R238). [DEDUCED, log entry 89] -/
def Channel.stepOkDue (ch : Channel) : Bool :=
  ch.upd.inStep && !ch.gxc.failFlag && decide (0 < ch.gxc.nb.toNat) && decide (ch.committedBuckets.length = ch.gxc.nb.toNat)

/-- Then the channel flags OK; a replacement whose shard has come to the step flags the same way (R238, R240). [DEDUCED, log entry 89] -/
def State.flagOk (s : State) (c : ChanId) : State := if (s.ch c).stepOkDue then s.flagStep c false else s

/-- A bucket whose segment root has departed fails (R232). -/
def State.failBucket (s : State) (c : ChanId) (b : Nat) : State :=
  if ((s.ch c).bucket b).failed then s
  else (s.onCh c fun ch =>
    ({ ch.onBucket b fun x => { x with failed := true } with gxc := { (ch.onBucket b fun x => { x with failed := true }).gxc with
      bucketFail := true } }).raise c 0x6007).flagFail c

/-- Agent of the control complex (R284). [DEDUCED, log entry 188] -/
def controlAgent : Nat := 0x88

/-- Global address of the BDG_REPORT register of a channel (Tables 01-6 and 16-6). [DEDUCED, log entry 188] -/
def bdgReportAddr (m c : Nat) : Nat := csrBase + 0x0D0100 + (c * 2 ^ 49 + m * 2 ^ 50)

/-- A report as a word of BDG_REPORT (Table 16-6). [DEDUCED, log entry 188] -/
def reportWord (group bucket channel m core : Nat) : Nat :=
  group % 2 ^ 30 * 2 ^ 34 + bucket % 2 ^ 12 * 2 ^ 22 + channel % 2 * 2 ^ 21 + m % 2 ^ 14 * 2 ^ 7 + core % 128

/-- Reports a root to its own Badger by an 8-byte PUT (R347). [DEDUCED, log entry 188] -/
def State.reportRoot (s : State) (c : ChanId) (bucket group m cc core : Nat) : State :=
  let ch := s.ch c
  let op : RemOp :=
    { kind := .put, addr := BitVec.ofNat 64 (bdgReportAddr m cc)
      payload := leBytes 8 (reportWord group bucket c.val ch.chn.moduleId.toNat core) }
  s.sendOp c (.badger (.remoteCore (m * 2 + cc) core)) controlAgent op

/-- The outcome of a second-path comparison of one sampled group (R236): 0 equal, 1 different, 2 not compared. A difference is reported for both
roots: the check root on channel cc of module m, and this channel's own. -/
def State.checkOutcome (s : State) (c : ChanId) (bucket group m cc core own : Nat) (outcome : Nat) : State :=
  if outcome = 2 then
    s.onCh c fun ch => { ch with gxc := { ch.gxc with skippedSat := satAdd ch.gxc.skippedSat 1 } }
  else
    let s1 := s.onCh c fun ch => { ch with gxc := { ch.gxc with compared := wrapAdd ch.gxc.compared 1 } }
    if outcome = 0 then s1
    else
      let s2 := s1.onCh c fun ch =>
        { ch with gxc := { ch.gxc with checkFail := true, failedCnt := satAdd ch.gxc.failedCnt 1 } }.raise c 0x6005
      ((s2.reportRoot c bucket group m cc core).reportRoot c bucket group (s2.ch c).chn.moduleId.toNat c.val own).flagFail c

/-- A channel's OK or FAIL arrives at the commit root, which broadcasts when every channel is OK or any has failed (R238).
 [DESIGN CHOICE, log entry 90] -/
def State.rootCounts (s : State) (c : ChanId) (fail : Bool) : State :=
  let ch := s.ch c
  let ok := ch.gxc.okCount + if fail then 0 else 1
  let clear (k : Channel) : Channel := { k with gxc := { k.gxc with okCount := 0, failCount := 0 } }
  if fail then
    if ch.gxc.failCount = 0 then
      (s.onCh c fun k => { k with gxc := { k.gxc with failCount := 1, okCount := 0 } }).emit (.stepBroadcast c false ch.upd.sJob)
    else s.onCh c fun k => { k with gxc := { k.gxc with failCount := k.gxc.failCount + 1 } }
  else if ok = ch.gxcPlan.jobChannels.toNat then (s.onCh c clear).emit (.stepBroadcast c true ch.upd.sJob)
  else s.onCh c fun k => { k with gxc := { k.gxc with okCount := ok } }

def execCommitWordSignal (c : ChanId) (_o : Origin) (step : U32) (s : State) : Result :=
  .next (s.onCh c fun ch => ch.commitStep c step)

/-- A broadcast of another step than the one in progress abandons nothing; the root's FAIL count starts again. -/
def execAbandonBroadcast (c : ChanId) (step : U32) (s : State) : Result :=
  let ch := s.ch c
  if ch.upd.inStep && ch.upd.sJob == step then
    .next (s.onCh c fun k =>
      let k := k.abandonStep c
      { k with gxc := { k.gxc with failCount := 0, okCount := 0 } })
  else .next s

/-! ### Re-sharding (R242, R311) -/

/-- A request for a layout: ignored when it names the current one, or none of the stream; queued behind a step in progress,
otherwise it starts at the next boundary. [DEDUCED, log entry 86] -/
def Channel.reshardGo (ch : Channel) (c : ChanId) (layout : U8) : Channel :=
  if layout = ch.gxc.layout ∨ (ch.variant? layout.toNat).isNone then ch
  else if ch.upd.inStep then
    { ch with gxc := { ch.gxc with queued := some layout } }.raise c 0x6009
  else if ch.gxc.queued.isSome then
    { ch with gxc := { ch.gxc with queued := some layout, requested := some layout } }
  else { ch with gxc := { ch.gxc with requested := some layout } }

/-- GXC_RESHARD: LAYOUT is written, and GO submits the request. [DEDUCED, log entry 86] -/
def Channel.writeReshard (ch : Channel) (c : ChanId) (v : U64) : Channel :=
  let l := BitVec.ofNat 8 (bits v 15 8)
  let k := { ch with gxc := { ch.gxc with reqLayout := l } }
  if bit v 16 then k.reshardGo c l else k

/-- The moves of a permute that touch this channel's role, in the order of the plan. -/
def Channel.moves (ch : Channel) (layout : Nat) : List PermMove :=
  match ch.pss.stream with
  | none => []
  | some st => ((st.alts.filter fun a => a.layout.toNat == layout).flatMap (·.moves)).filter fun m => m.srcRole == st.role || m.dstRole == st.role

/-- The moves of a permute: every source is read, the bytes for another role leave the channel, and those for this role are written, from this
channel or, in the order of the plan, from what other channels have sent (R242, R299). A read that meets poison gives free bytes.
 [DEDUCED, log entry 87] -/
def State.permuteMoves (s : State) (c : ChanId) (layout : Nat) (incoming : List (List Byte)) : State :=
  let role := ((s.ch c).pss.stream.map (·.role)).getD 0
  let all := (s.ch c).moves layout
  let read := (all.filter fun m => m.srcRole == role).foldl (fun (r : State × List (PermMove × List Byte)) m =>
    let q := r.1.checkHbm c m.src m.length
    if q.2 then (q.1, r.2 ++ [(m, (s.ch c).hbmBytes m.src m.length)])
    else (q.1.tookFree 1, r.2 ++ [(m, freeBytes q.1.free m.length)])) (s, [])
  let sent := read.2.filter fun e => e.1.dstRole != role
  let others := ((all.filter fun m => m.srcRole != role).zip incoming).map fun (e : PermMove × List Byte) => (e.1, e.2.take e.1.length)
  let here := read.2.filter (fun e => e.1.dstRole == role) ++ others
  (here.foldl (fun (t : State) e => t.onCh c fun k => k.hbmWrite e.1.dst e.2) read.1).emitAll
    (sent.map fun e => .permuteData c e.1.dstRole e.1.dst e.2)

/-- The permute completes: the epoch advances, carried gradients are discarded, and the new layout's sections take effect.
 [DEDUCED, log entry 87] -/
def execPermuteComplete (m : PermuteEnd) (s : State) : Result :=
  let c := m.ch
  match (s.ch c).gxc.permuting with
  | none => .next s
  | some l =>
    let s1 := s.permuteMoves c l.toNat m.incoming
    .next (s1.onCh c fun ch =>
      let k := { ch with
        gxc := { ch.gxc with permuting := none, layout := l, epoch := ch.gxc.epoch + 1, carriedBuckets := [] }
        upd := { ch.upd with tState := m.counters.foldl (fun (x : SMap U32) (e : Nat × U32) => smSet 0 x e.1 e.2) ch.upd.tState } }
      let k := match k.variant? l.toNat with
        | some v => k.applyLayout v
        | none => k
      k.raise c 0x600A)

end Sys2Proof.Machine
end

