-- ==== Sys2Proof/Machine/Badger.lean ====
section
/-! DEFINITION. The Badger: verification and taint, cores at fault, fencing and rebinding, retests and classification, and the
reports of second paths (R334, R342 to R350). -/

namespace Sys2Proof.Machine

/-! ### Clean verification and taint (R342, R343) -/

/-- Whether a logged beat (bits [31:0]) is at or before a clean beat. -/
def atOrBefore (e : U32) (clean : U48) : Bool := decide ((clean.setWidth 32 - e).toNat < 2 ^ 31)

/-- Raises BEAT_CLEAN of a physical core, never backward, with the step of that beat. -/
def Channel.advanceClean (ch : Channel) (p beat : Nat) (step : U32) : Channel :=
  ch.onHealth p fun h =>
    if h.beatClean.toNat < beat then
      { h with
        beatClean := BitVec.ofNat 48 beat, stepClean := step, taintOvf := false
        taint := h.taint.filter fun e => !atOrBefore e.2 (BitVec.ofNat 48 beat) }
    else h

/-- Logs the output of a completed task in the taint log of its core. -/
def Channel.logTaint (ch : Channel) (p : Nat) (tag : U32) : Channel :=
  let full := decide (16384 ≤ (ch.health p).taint.length)
  let k := ch.onHealth p fun h => { h with
    taint := (if full then h.taint.drop 1 else h.taint) ++ [(tag, ch.beat.number.setWidth 32)]
    taintOvf := h.taintOvf || full }
  if full then { k with bdg := { k.bdg with taintOvf := true } } else k

/-! ### Core at fault (R344) -/

/-- Rewrites the open incident of a unit. -/
def Channel.onIncident (ch : Channel) (p : Incident → Bool) (f : Incident → Incident) : Channel :=
  { ch with bdg := { ch.bdg with incidents := ch.bdg.incidents.map fun i => if p i then f i else i } }

def ofCore (p : Nat) (i : Incident) : Bool := !i.closed && i.unit == .core p

/-- Bytes of a taint snapshot. -/
def taintBytes (l : List (U32 × U32)) : List Byte := l.flatMap fun e => leBytes 4 e.1.toNat ++ leBytes 4 e.2.toNat

/-- A core is at fault: it is fenced at the next boundary; its taint log is snapshot into the Badger area, at a place the manual
leaves open, and a tainted step is flagged FAIL. [DEDUCED, log entry 103; DESIGN CHOICE, log entry 30] -/
def State.coreAtFault (s : State) (c : ChanId) (p : Nat) : State :=
  let ch := s.ch c
  let h := ch.health p
  let n := h.taint.length
  let base := if n = 0 then 0 else badgerArea + s.freeVal % 2 ^ 15 * 4096
  let flag := ch.bdg.flagEn && decide (0 < n) && ch.upd.inStep
  let s1 := s.onCh c fun k =>
    let k := (k.onHealth p fun x => { x with fencePending := true }).onIncident (ofCore p) fun i => { i with
      record := { i.record with
        beatDetect := ch.evBeat, beatClean := h.beatClean, stepClean := h.stepClean, stepDetect := ch.upd.sJob
        taintN := BitVec.ofNat 32 n, taintBase := BitVec.ofNat 64 base
        flags := i.record.flags ||| (if h.taintOvf then 4 else 0) ||| (if flag then 8 else 0) } }
    let k := if n = 0 then k else k.hbmWrite base (taintBytes h.taint)
    if flag then { k with bdg := { k.bdg with flagged := true } }.raise c 0x7007 else k
  let s2 := if n = 0 then s1 else s1.tookFree 1
  if flag then s2.flagFail c else s2

/-! ### Classification (R349, Table 16-1) -/

/-- Closes the open incident of a unit with a class: the closed record is appended again (R350). [DEDUCED, log entry 98] -/
def Channel.classify (ch : Channel) (c : ChanId) (u : SuspectUnit) (cls : U8) : Channel :=
  let mine (i : Incident) : Bool := !i.closed && i.unit == u
  let k := match ch.bdg.incidents.find? mine with
    | some i => (ch.appendRecord { i.record with cls := cls, count := BitVec.ofNat 16 (min i.count 0xFFFF) }).onIncident mine
        fun j => { j with closed := true, cls := cls }
    | none => ch
  if cls = 2 then { k with bdg := { k.bdg with permanent := true } }.raise c 0x7004
  else if cls = 1 then k.raise c 0x7005 else k

/-- A core's retest has ended. [DESIGN CHOICE, log entry 104] -/
def Channel.retestEnds (ch : Channel) (c : ChanId) (p : Nat) (clean : Bool) : Channel :=
  let n := ch.transientsIn p
  let perm := !clean || decide (ch.bdg.k.toNat < n + 1)
  let k := ch.onHealth p fun h => { h with
    retest := false, retestFromPair := false, permanent := perm
    transients := if perm then h.transients else h.transients ++ [BitVec.ofNat 32 ch.utcNow] }
  k.classify c (.core p) (if perm then 2 else 1)

/-- Incidents of a pseudo-channel, a link or a CXL port within the window. [DEDUCED, log entry 98] -/
def Channel.unitIncidents (ch : Channel) (u : SuspectUnit) : Nat :=
  countIf (fun e => e.1 == u && ch.inWindow e.2) ch.bdg.unitHist

/-- The hold-off of a unit's incident has passed: memory, links and ports are classified by their incidents in the window; a core
that its own work has not incriminated closes as transient (R347, R349). [DEDUCED, log entries 97 and 98] -/
def execHoldoffExpiry (c : ChanId) (u : SuspectUnit) (s : State) : Result :=
  let ch := s.ch c
  match ch.bdg.incidents.find? fun i => !i.closed && i.unit == u with
  | none => .next s
  | some i =>
    if ch.inHoldoff i then .next s
    else .next (s.onCh c fun k => match u with
      | .core p =>
        let h := k.health p
        if i.pair.isSome || h.fencePending || h.retest || h.permanent then k
        else (k.onHealth p fun x => { x with transients := x.transients ++ [BitVec.ofNat 32 k.utcNow] }).classify c u 1
      | .remoteCore _ _ => k.onIncident (fun j => !j.closed && j.unit == u) fun j => { j with closed := true }
      | _ => k.classify c u (if k.bdg.k.toNat < k.unitIncidents u then 2 else 1))

/-! ### Reports of second paths (R347) -/

/-- Whether a report on a unit opens an incident: it is within the beat's intake, no incident in hold-off stands for it, and it names no
fenced core (R345). -/
def Channel.opensIncident (ch : Channel) (u : SuspectUnit) (second : Option Nat) : Bool :=
  let fenced := match u with
    | .core p => ch.fencedCore p
    | _ => false
  decide (ch.bdg.intake < 256) && !(ch.bdg.incidents.any fun i => ch.takesIn i && incidentNames i u second) && !fenced

/-- A write of BDG_REPORT: the suspect logical core, or the physical core bound to it now; its tiles are all sampled for HOLDOFF
beats and an urgent Owl chunk is scheduled. -/
def Channel.secondPath (ch : Channel) (c : ChanId) (v : U64) : Channel :=
  let l := bits v 6 0
  let p := ch.pcore l
  let far := !(bits v 20 7 == ch.chn.moduleId.toNat && bits v 21 21 == c.val)
  let k := ch.report c 0x7002 3 (.core p) (some l) none fun r => { r with
    flags := if far then 1 else 0
    reporter := BitVec.ofNat 32 (bits v 20 7 + bits v 21 21 * 2 ^ 14)
    detail := BitVec.ofNat 32 (bits v 33 22 + bits v 63 34 * 2 ^ 12) }
  if !ch.opensIncident (.core p) (some l) then k
  else k.onHealth p fun h => { h with sampleAll := ch.beat.number.toNat + ch.bdg.holdoff.toNat, owlUrgent := true }

/-- A report PUT completed with ADDR_ERR: the incident is opened here, naming the remote core. -/
def Channel.reportUndelivered (ch : Channel) (c : ChanId) (u : SuspectUnit) (word : Nat) : Channel :=
  let v := BitVec.ofNat 64 word
  let k := ch.report c 0x7009 3 u none none fun r => { r with
    flags := 1, detail := BitVec.ofNat 32 (bits v 33 22 + bits v 63 34 * 2 ^ 12) }
  { k with bdg := { k.bdg with reportUndelivered := true } }.raise c 0x7009

/-! ### Fencing and rebinding (R307, R308, R348) -/

/-- Mesh distance of two physical cores (R14, R308). -/
def meshDistance (a b : Nat) : Nat :=
  let d (x y : Nat) : Nat := (x - y) + (y - x)
  d (a % 8) (b % 8) + d (a / 8) (b / 8)

/-- The field spare pool: good cores that are neither fenced nor bound, and not about to be fenced. -/
def Channel.spares (ch : Channel) : List Nat :=
  (List.range 136).filter fun p =>
    ch.goodCore p && !ch.fencedCore p && !(ch.health p).fencePending && (ch.lcoreOf p).isNone

/-- The nearest core of a list, the lower number on ties. -/
def nearest (p : Nat) : List Nat → Option Nat
  | [] => none
  | a :: r => some (r.foldl (fun b x => if meshDistance p x < meshDistance p b then x else b) a)

/-- Copies the whole SRAM of a core, poison and bad words included (R282, R308). -/
def Channel.copySram (ch : Channel) (src dst : Nat) : Channel :=
  let move {α : Type} (u : Nat) (t : SMap α) : SMap α :=
    let lo := src * 2 ^ 22 / u
    let d := dst * 2 ^ 22 / u
    let rest := t.filter fun e => !(d ≤ e.1 && e.1 < d + 2 ^ 22 / u)
    (t.filter fun e => lo ≤ e.1 && e.1 < lo + 2 ^ 22 / u).foldl (fun m e => smIns (e.1 - lo + d) e.2 m) rest
  { ch with mem := { ch.mem with
      sram := move 1 ch.mem.sram, sramPoison := move 8 ch.mem.sramPoison, sramErr := move 8 ch.mem.sramErr } }

def Channel.bind (ch : Channel) (l : Nat) (p : Option Nat) : Channel :=
  { ch with pss := { ch.pss with binding := smSet none ch.pss.binding l p } }

/-- DEGRADED while fewer than 128 cores are bound. -/
def Channel.showDegraded (ch : Channel) : Channel :=
  { ch with pss := { ch.pss with degraded := decide (ch.boundCores.length < 128) } }

/-- A core that waits to be fenced, when no committed task remains on its logical core. -/
def Channel.mayFence (ch : Channel) (l : Nat) : Bool := !ch.tsk.tasks.any fun t => t.core == l && t.committed

/-- Fences a bound core p of logical core l, rebinding it to the nearest spare, or to the core of the highest bound logical
core when no spare is left. A spare that is OFF is woken first, and the fence waits for it (R326). -/
def Channel.fence (ch : Channel) (c : ChanId) (p l : Nat) : Channel :=
  let off (q : Nat) : Bool := let d := ch.domainOf q; d.st == .off || d.st == .waking || d.st == .draining
  let done (k : Channel) : Channel := k.onHealth p fun h => { h with
    fencePending := false, retest := true, retestFromPair := ch.bdg.incidents.any fun i => ofCore p i && i.pair.isSome }
  match nearest p ch.spares with
  | some q =>
    if off q then
      if (ch.domainOf q).st = .off then ch.onDomain q fun d => { d with st := .waking }
      else if (ch.domainOf q).st = .draining then ch.onDomain q fun d => { d with wakePending := true }
      else ch
    else (((done (ch.copySram p q)).bind l (some q)).raise c 0x400B).raise c 0x7003
  | none =>
    let top := ch.boundCores.getLast?.getD l
    if top = l then
      ((((done ch).bind l none).showDegraded).raise c 0x7003).raise c 0x700B
    else if !ch.mayFence top then ch
    else
      let q := ch.pcore top
      ((((((done (ch.copySram p q)).bind l (some q)).bind top none).showDegraded).raise c 0x400B).raise c 0x7003).raise c 0x700B

/-- Fences that take effect at a boundary; an unbound core is fenced in its place. [DEDUCED, log entry 103] -/
def Channel.applyFences (ch : Channel) (c : ChanId) : Channel :=
  (List.range 136).foldl (fun (k : Channel) p =>
    if (k.health p).fencePending then
      match k.lcoreOf p with
      | some l => if k.mayFence l then k.fence c p l else k
      | none => (k.onHealth p fun h => { h with fencePending := false, retest := true }).raise c 0x7003
    else k) ch

/-- While the channel is degraded, a core back in the spare pool is bound to the lowest unbound logical core (R349). -/
def Channel.bindReturned (ch : Channel) : Channel :=
  if !ch.pss.degraded || ch.pss.stream.isNone then ch
  else
    let free := (List.range 128).filter fun l => !ch.isBound l
    let ready := ch.spares.filter fun p => !((ch.domainOf p).st == .off || (ch.domainOf p).st == .waking || (ch.domainOf p).st == .draining)
    ((free.zip ready).foldl (fun (k : Channel) e => k.bind e.1 (some e.2)) ch).showDegraded

/-- CHN_CORES, updated at a boundary (R31). [DEDUCED, log entry 44] -/
def Channel.showCores (ch : Channel) : Channel :=
  let good := countIf ch.goodCore (List.range 136)
  let fenced := countIf (fun p => ch.goodCore p && ch.fencedCore p) (List.range 136)
  { ch with chn := { ch.chn with
      good := BitVec.ofNat 8 good
      bound := BitVec.ofNat 8 ch.boundCores.length
      spare := BitVec.ofNat 8 (good - fenced - ch.boundCores.length)
      fenced := BitVec.ofNat 8 fenced
      owl := if ch.owl.active then 1 else 0 } }

/-- Duplicate area of a core: base and size (R337, R353). [DEDUCED, log entry 85] -/
def Channel.dupArea (ch : Channel) : Nat × Nat := (ch.bdg.dupBase.toNat, min ch.bdg.dupSize.toNat 16 * 65536)

/-- Whether a partition of the loaded stream, in any of its layouts, overlaps the duplicate area; with no stream loaded, what the last one left
stands (R337). -/
def Channel.dupOverlaps (ch : Channel) : Bool :=
  let a := ch.dupArea
  let clash (p : SramPart) : Bool := decide (p.base.toNat < a.1 + a.2) && decide (a.1 < p.base.toNat + p.length.toNat)
  match ch.pss.stream with
  | some st => st.variants.any fun l => l.parts.any clash
  | none => ch.bdg.dupOff

/-- Checks the duplicate area against the loaded stream (R337). -/
def Channel.checkDup (ch : Channel) (c : ChanId) : Channel :=
  let off := ch.dupOverlaps
  let k := { ch with bdg := { ch.bdg with dupOff := off } }
  if off && !ch.bdg.dupOff then k.raise c 0x700A else k

/-- Writes of BDG_CTRL and BDG_DUP take effect (R353). [DESIGN CHOICE, log entry 232] -/
def Channel.bdgApply (ch : Channel) (c : ChanId) : Channel :=
  let k := match ch.bdg.ctrlWait with
    | none => ch
    | some v => { ch with bdg := { ch.bdg with
        windowDays := BitVec.ofNat 8 (bits v 47 40), holdoff := BitVec.ofNat 8 (bits v 39 32), k := BitVec.ofNat 4 (bits v 31 28)
        dupPatience := BitVec.ofNat 8 (bits v 27 20), dupLog2 := BitVec.ofNat 4 (bits v 19 16)
        flagEn := bit v 2, arbEn := bit v 1, dupEn := bit v 0, ctrlWait := none } }
  match k.bdg.dupWait with
  | none => k
  | some v =>
    { k with bdg := { k.bdg with
        dupSize := BitVec.ofNat 6 (bits v 37 32), dupBase := BitVec.ofNat 22 (bits v 21 12 * 4096), dupWait := none } }.checkDup c

end Sys2Proof.Machine
end

