-- ==== Sys2Proof/Machine/Kv.lean ====
section
/-! DEFINITION. The key-value commands: regions, the walk of a page list, slot fills, copy-on-write, spill and fetch completion,
prefetch and the LAST_USE sweep (R170, R172, R177, R179 to R189). -/

namespace Sys2Proof.Machine

def execKvOpen (c : ChanId) (owner : Option (LCore × Nat)) (region layer pool maxPages seq : Nat) (s : State) : Result :=
  .next (s.kvOpen c owner region layer pool maxPages seq).1

def execKvRelease (c : ChanId) (owner : Option (LCore × Nat)) (region : Nat) (s : State) : Result :=
  .next (s.kvRelease c owner region).1

def execKvShare (c : ChanId) (owner : Option (LCore × Nat)) (src dst first count : Nat) (s : State) : Result :=
  .next (s.kvShare c owner src dst first count).1

/-! ### The walk (R180, R181, R183, R184, R189) -/

def PageEntry.isWrite (e : PageEntry) : Bool := e.flags.getLsbD 0
def PageEntry.isTransit (e : PageEntry) : Bool := e.flags.getLsbD 1

/-- What the walk of one entry comes to. -/
inductive Walk where
  | got                     -- descriptors emitted, or held already
  | miss                    -- the page is not resident (R189)
  | late                    -- a pin cannot be taken (R184)
  | bad (code : Nat)        -- the task faults
  deriving DecidableEq, Repr

/-- A page descriptor (Table 09-8). -/
def Channel.mkDesc (ch : Channel) (t : Task) (e : PageEntry) (p : Pool) (frame : Nat) (tier : BitVec 2) (fmt : U8)
    (flags : Nat) : PageDesc where
  frameAddr := BitVec.ofNat 64 (p.frameAddr frame)
  region := e.region
  page := e.page
  epoch := (ch.hbmFrame frame).epoch
  fmt := fmt
  flags := BitVec.ofNat 8 (flags + if e.isTransit then 4 else 0)
  slot := e.slot
  pool := p.pool
  frame := BitVec.ofNat 36 frame
  tier := tier
  taskSlot := BitVec.ofNat 12 t.slot
  core := BitVec.ofNat 7 t.core

/-- Emits a descriptor: one pin on its frame; it belongs to the key-block slot it fills, or to the task (R183). -/
def Channel.emitDesc (ch : Channel) (t : Task) (d : PageDesc) : Channel :=
  let k := ch.pin d.frame.toNat
  if d.slot = 0xFFFF then k.onTask t.core t.slot fun x => { x with pages := x.pages ++ [d] }
  else
    let n := d.slot.toNat / 4
    if k.sql.slots.any fun x => x.core == t.core && x.slot == n then
      let f (x : KvSlot) : KvSlot :=
        if x.core = t.core ∧ x.slot = n then
          { x with descs := x.descs ++ [d], filled := false, users := if x.users.contains t.slot then x.users else x.users ++ [t.slot] }
        else x
      { k with sql := { k.sql with slots := k.sql.slots.map f } }
    else { k with sql := { k.sql with slots := k.sql.slots ++ [{ core := t.core, slot := n, descs := [d], users := [t.slot] }] } }

/-- Whether the task already holds a read of an entry: in its own descriptors, where the entry fills no slot, or as a user of a slot. -/
def Channel.holdsRead (ch : Channel) (t : Task) (e : PageEntry) : Bool :=
  (e.slot == 0xFFFF && (((ch.task? t.core t.slot).map (·.pages)).getD []).any fun d =>
      d.region == e.region && d.page == e.page && !d.flags.getLsbD 0)
    || ch.sql.slots.any fun x => x.core == t.core && x.users.contains t.slot
        && x.descs.any fun d => d.region == e.region && d.page == e.page && (e.slot == 0xFFFF || d.slot == e.slot)

/-- A live slot of the core that already holds the page: the task becomes one of its users (R183). -/
def Channel.joinSlot (ch : Channel) (t : Task) (e : PageEntry) : Option Channel :=
  let hit (x : KvSlot) : Bool := x.core == t.core
    && x.descs.any fun d => d.region == e.region && d.page == e.page && (e.slot == 0xFFFF || d.slot == e.slot)
  if ch.sql.slots.any hit then
    let f (x : KvSlot) : KvSlot := if hit x ∧ !x.users.contains t.slot then { x with users := x.users ++ [t.slot] } else x
    some { ch with sql := { ch.sql with slots := ch.sql.slots.map f } }
  else none

def Channel.declare (ch : Channel) (t : Task) (e : PageEntry) (frame : Nat) (source : Option Nat) (reserved : Bool) : Channel :=
  { ch with sql := { ch.sql with writes := ch.sql.writes ++ [
      { core := t.core, taskSlot := t.slot, region := e.region.toNat, page := e.page.toNat, frame := frame, source := source
        reserved := reserved, fmt := e.fmt, beat := ch.beat.number.toNat }] } }

/-- Reserves a frame of a pool for a page write (R178): ACTIVE with one reference; the descriptor adds the pin. [DEDUCED, log entry 81] -/
def Channel.reserve (ch : Channel) (p : Pool) (e : PageEntry) (frame : Nat) : Channel :=
  ch.onHbmFrame frame fun x => { x with
    st := .active, refcount := 1, pins := 0, owner := e.region, page := BitVec.ofNat 18 e.page.toNat, pool := p.pool }

/-- No free frame: POOL_EMPTY (R188, R189). -/
def Channel.emptyPool (ch : Channel) (c : ChanId) : Channel :=
  { ch with sql := { ch.sql with poolEmpty := true } }.raise c 0x5002

/-- The pin of an entry would pass 65,535 (R184). -/
def Channel.pinFull (ch : Channel) (frame : Nat) : Bool := (ch.hbmFrame frame).pins == 0xFFFF

/-- A descriptor for a page that its PTE names has been emitted in this beat (R184). -/
def Channel.used (ch : Channel) (r p : Nat) : Channel := ch.setPte r p { ch.pte r p with lastUse := ch.beat16 }

/-- Walks a write entry of a page that is invalid, in place, shared or far (R180). A second write of a page in one list counts as held; a write
fills no slot, but the source of a copy fills the slot that the entry names. [DESIGN CHOICE, log entries 213 and 214] -/
def State.walkWrite (s : State) (c : ChanId) (t : Task) (e : PageEntry) : State × Walk :=
  let ch := s.ch c
  let r := e.region.toNat
  let p := e.page.toNat
  let mine (w : WriteDecl) : Bool := w.region == r && w.page == p && declOf t w
  if ch.sql.writes.any mine then (s, .got)
  else if ch.sql.writes.any fun w => w.region == r && w.page == p && w.beat == ch.beat.number.toNat then (s, .bad 0x5005)
  else
    let pte := ch.pte r p
    let n := pte.frame.toNat
    let fresh (source : Option Nat) (flags : Nat) : State × Walk :=
      match ch.homePool? r with
      | none => (s, .miss)
      | some pool => match ch.freeFrame? pool with
        | none => (s.onCh c fun k => k.emptyPool c, .miss)
        | some f => (s.onCh c fun k =>
            let k := match source with
              | some src => (k.emitDesc t (k.mkDesc t e ((k.poolOf true src).getD pool) src pte.tier
                  ((pte.vFmt ++ pte.kFmt : BitVec 8)) 0)).used r p
              | none => k
            let k := k.reserve pool e f
            let k := k.emitDesc t { k.mkDesc t e pool f pool.pteTier e.fmt flags with slot := 0xFFFF }
            (k.declare t e f source true), .got)
    if !pte.valid then fresh none 1
    else if pte.tier = 1 ∨ pte.tier = 2 then ((s.startFetch c r p ch.beat.number.toNat).1, .miss)
    else if ch.pinFull n then (s, .late)
    else if pte.tier = 3 ∧ 1 < (ch.hbmFrame n).refcount.toNat then fresh (some n) 3
    else match ch.poolOf true n with
      | none => (s, .miss)
      | some pool => (s.onCh c fun k =>
          ((k.emitDesc t { k.mkDesc t e pool n pte.tier e.fmt 1 with slot := 0xFFFF }).used r p).declare t e n none false, .got)

/-- Walks a read entry (R183, R189). -/
def State.walkRead (s : State) (c : ChanId) (t : Task) (e : PageEntry) : State × Walk :=
  let ch := s.ch c
  let r := e.region.toNat
  let p := e.page.toNat
  if ch.holdsRead t e then (s, .got)
  else match ch.joinSlot t e with
  | some k => (s.setCh c k, .got)
  | none =>
    let pte := ch.pte r p
    let n := pte.frame.toNat
    if !pte.valid then (s, .miss)
    else if pte.tier = 1 ∨ pte.tier = 2 then ((s.startFetch c r p ch.beat.number.toNat).1, .miss)
    else if ch.pinFull n then (s, .late)
    else match ch.poolOf true n with
      | none => (s, .miss)
      | some pool => (s.onCh c fun k =>
          (k.emitDesc t (k.mkDesc t e pool n pte.tier (pte.vFmt ++ pte.kFmt) 0)).used r p, .got)

/-- Walks one entry: the region must be LIVE and the page within it (R182), and not lost (R190). [DEDUCED, log entry 80] -/
def State.walkEntry (s : State) (c : ChanId) (t : Task) (e : PageEntry) : State × Walk :=
  let ch := s.ch c
  let reg := ch.region e.region.toNat
  if !reg.live || decide (reg.maxPages.toNat ≤ e.page.toNat) then (s, .bad 0x5008)
  else if ch.sql.lost.contains (e.region.toNat, e.page.toNat) then (s, .bad 0x5007)
  else if e.isWrite then s.walkWrite c t e
  else s.walkRead c t e

/-- Walks a list in order until an entry faults; what the task still waits for. [DEDUCED, log entry 80] -/
def State.walkList (s : State) (c : ChanId) (t : Task) : List PageEntry → State × Walk
  | [] => (s, .got)
  | e :: r =>
    let w := s.walkEntry c t e
    match w.2 with
    | .bad k => (w.1, .bad k)
    | .got => w.1.walkList c t r
    | x =>
      let q := w.1.walkList c t r
      (q.1, match q.2 with
        | .bad k => .bad k
        | .miss => .miss
        | _ => x)

/-- Slots that a task uses are all filled. -/
def Channel.slotsReady (ch : Channel) (t : Task) : Bool :=
  ch.sql.slots.all fun x => !(x.core == t.core && x.users.contains t.slot) || x.filled

/-- A task whose walk and slots are complete resumes: PARKED to READY (R40, R189). -/
def Channel.pagesReady (ch : Channel) (core slot : Nat) : Channel :=
  match ch.task? core slot with
  | none => ch
  | some t =>
    if t.waitPages && t.waitCause == .none && ch.slotsReady t then
      ch.onTask core slot fun x => { x with
        waitPages := false
        st := if x.st = .parked ∧ (x.cause = .page ∨ x.cause = .walk) then .ready else x.st
        cause := if x.cause = .page ∨ x.cause = .walk then .none else x.cause }
    else ch

/-- Records how far the walk of a task has come; a parked task shows what it now waits for. [DEDUCED, log entry 80] -/
def Channel.walkEnds (ch : Channel) (core slot : Nat) (w : ParkCause) : Channel :=
  (ch.onTask core slot fun x => { x with
    walked := true
    waitCause := w
    cause := if x.st = .parked ∧ (x.cause = .page ∨ x.cause = .walk) then (if w = .none then .page else w) else x.cause
    }).pagesReady core slot

/-- A task admitted before this one has a list that has not been walked: the walk proceeds in admission order (R184).
 [DEDUCED, log entry 80] -/
def Channel.walkBehind (ch : Channel) (t : Task) : Bool :=
  (ch.tsk.tasks.takeWhile fun x => !(x.core == t.core && x.slot == t.slot)).any fun x => x.waitPages && !x.walked

/-- [DEDUCED, log entry 80] -/
def execPageWalk (c : ChanId) (core : LCore) (slot : Nat) (s : State) : Result :=
  match (s.ch c).task? core.val slot with
  | none => .next s
  | some t =>
    if !t.waitPages || (s.ch c).sql.walk || (s.ch c).walkBehind t then .next s
    else
      let w := s.walkList c t ((s.ch c).pageList t.desc)
      match w.2 with
      | .bad code =>
        let s1 := w.1.onCh c fun ch => ch.raise c code
        .next (match (s1.ch c).task? core.val slot with
          | some u => s1.faultTask c u code
          | none => s1)
      | .miss => .next (w.1.onCh c fun ch => ch.walkEnds core.val slot .page)
      | .late => .next (w.1.onCh c fun ch => ch.walkEnds core.val slot .walk)
      | .got => .next (w.1.onCh c fun ch => ch.walkEnds core.val slot .none)

/-! ### Slot fill (R172, R186) -/

/-- Plane sizes of a page of h heads of dimension d under declared formats (Table 09-2), each rounded to 64 bytes. -/
def fmtElemBits (code : Nat) : Nat := if code = 0 then 4 else 6
structure Planes where
  h : Nat
  d : Nat
  kb : Nat                             -- declared bits of K and V
  vb : Nat
  deriving DecidableEq, Repr

def Planes.ke (p : Planes) : Nat := p.h * 16 * p.d * p.kb / 8
def Planes.ks (p : Planes) : Nat := p.h * 16 * p.d / 32
def Planes.ve (p : Planes) : Nat := p.h * p.d * 2 * p.vb
def Planes.vs (p : Planes) : Nat := p.h * p.d
/-- Offsets of the planes KS, VE, VS in a page, and the size of a page. -/
def Planes.ksAt (p : Planes) : Nat := round64 p.ke
def Planes.veAt (p : Planes) : Nat := p.ksAt + round64 p.ks
def Planes.vsAt (p : Planes) : Nat := p.veAt + round64 p.ve
def Planes.pageBytes (p : Planes) : Nat := p.vsAt + round64 p.vs
/-- The same in a key-block slot of four pages: V scales are two bytes per channel. -/
def Planes.slotKs (p : Planes) : Nat := round64 (4 * p.ke)
def Planes.slotVe (p : Planes) : Nat := p.slotKs + round64 (4 * p.ks)
def Planes.slotVs (p : Planes) : Nat := p.slotVe + round64 (4 * p.ve)
def Planes.slotBytes (p : Planes) : Nat := p.slotVs + round64 (2 * p.vs)

/-- Attention record of a layer, for a class that names none: the region of a page names its layer (Table 09-1). [DEDUCED, log entry 218] -/
def Channel.layerAttn (ch : Channel) (layer : Nat) : Option AttnRec :=
  match ch.pss.stream with
  | some st => st.attns.find? fun a => a.layer.toNat == layer
  | none => none

/-- Planes of the layer that a task's class or, where it names none, the region of the page belongs to, in a pool.
 [DEDUCED, log entry 218] -/
def Channel.planesOf (ch : Channel) (t : Task) (region : Nat) (p : Pool) : Option Planes :=
  ((ch.attnOf t.desc).orElse fun _ => ch.layerAttn (ch.region region).layer.toNat).map fun a =>
    { h := a.hKv.toNat, d := a.dHead.toNat, kb := fmtElemBits p.kDecl.toNat, vb := fmtElemBits p.vDecl.toNat }

/-- Base of a key-block slot in its core's KVCACHE partition (R172). [DEDUCED, log entry 27] -/
def Channel.slotBase (ch : Channel) (core slot : Nat) (pl : Planes) : Nat :=
  match ch.partOf core 3 with
  | some p => p.base.toNat + slot * pl.slotBytes
  | none => slot * pl.slotBytes

/-- What one page puts into its slot: bytes by offset in the slot. A page keeps the row places of the declared formats (R171); in the slot the
rows of its own formats follow one another, at plane offsets that do not change (R61, R172). [DEDUCED, log entry 27] -/
def pageToSlot (pl : Planes) (sub kBits vBits : Nat) (pg : List Byte) : List (Nat × List Byte) :=
  let take (o n : Nat) : List Byte := (pg.drop o).take n
  let row := pl.d * kBits / 8
  let heads := List.range pl.h
  let kRows := heads.flatMap fun h => (List.range 16).map fun t =>
    ((h * 64 + 16 * sub + t) * row, take ((h * 16 + t) * (pl.d * pl.kb / 8)) row)
  let kScales := heads.flatMap fun h => (List.range 16).map fun t =>
    (pl.slotKs + (h * 64 + 16 * sub + t) * (pl.d / 32), take (pl.ksAt + (h * 16 + t) * (pl.d / 32)) (pl.d / 32))
  let chans := List.range (pl.h * pl.d)
  let vHalf := chans.map fun x =>
    (pl.slotVe + x * 8 * vBits + sub * 2 * vBits, take (pl.veAt + x * 2 * pl.vb) (2 * vBits))
  let vScales := if sub % 2 = 0 then chans.map fun x => (pl.slotVs + 2 * x + sub / 2, take (pl.vsAt + x) 1) else []
  kRows ++ kScales ++ vHalf ++ vScales

/-- Copies one page into a slot for the task that waits for it: its frame read, and each plane written where the slot keeps it. -/
def State.fillPage (s : State) (c : ChanId) (k : KvSlot) (user : Option Task) (d : PageDesc) : State × Bool :=
  let ch := s.ch c
  match (do ch.planesOf (← user) d.region.toNat (← ch.pool? d.pool.toNat)) with
  | none => (s, true)
  | some pl =>
    let chk := s.checkHbm c d.frameAddr.toNat pl.pageBytes
    let pg := ch.hbmBytes d.frameAddr.toNat pl.pageBytes
    let base := ch.slotBase k.core k.slot pl
    let put := pageToSlot pl (d.slot.toNat % 4) (fmtElemBits (d.fmt.toNat % 16)) (fmtElemBits (d.fmt.toNat / 16)) pg
    (chk.1.onCh c fun h => put.foldl (fun x e => x.sramWrite (ch.pcore k.core) (base + e.1) e.2) h, chk.2)

/-- Fills a slot whose descriptors name current frames; a frame whose EPOCH has moved faults its tasks (R186). -/
def State.fillSlot (s : State) (c : ChanId) (k : KvSlot) : State :=
  let ch := s.ch c
  let users := ch.tsk.tasks.filter fun t => t.core == k.core && k.users.contains t.slot
  if k.descs.any fun d => d.epoch != (ch.hbmFrame d.frame.toNat).epoch then
    (s.onCh c fun h => { h with sql := { h.sql with stale := true } }.raise c 0x5004).faultAll c 0x5004 users
  else
    let r := k.descs.foldl (fun (q : State × Bool) d =>
      let x := q.1.fillPage c k users.head? d
      (x.1, q.2 && x.2)) (s, true)
    if !r.2 then r.1.faultAll c 0x2001 users
    else
      let f (x : KvSlot) : KvSlot := if x.core = k.core ∧ x.slot = k.slot then { x with filled := true } else x
      r.1.onCh c fun h =>
        let h := { h with sql := { h.sql with slots := h.sql.slots.map f } }
        k.users.foldl (fun x u => x.pagesReady k.core u) h

/-- `slot` is the key-block slot of the core. -/
def execSlotFill (c : ChanId) (core : LCore) (slot : Nat) (s : State) : Result :=
  match (s.ch c).sql.slots.find? fun x => x.core == core.val && x.slot == slot with
  | none => .next s
  | some k => if k.filled then .next s else .next (s.fillSlot c k)

/-! ### Copy-on-write (R180) -/

/-- The task's first write operation to a copy-on-write page: the source is copied to the target and the task is COMMITTED. A page lies within the
smaller of the two frames (R173). -/
def execCowFirstWrite (c : ChanId) (core : LCore) (slot : Nat) (region page : Nat) (s : State) : Result :=
  let ch := s.ch c
  match ch.task? core.val slot with
  | none => .next s
  | some t =>
    match ch.sql.writes.find? fun w => declOf t w && w.region == region && w.page == page && w.source.isSome && !w.copied with
    | none => .next s
    | some w =>
      let src := w.source.getD 0
      match ch.poolOf true src, ch.poolOf true w.frame with
      | some sp, some tp =>
        let n := min sp.frameKib.toNat tp.frameKib.toNat * 1024
        let r := s.checkHbm c (sp.frameAddr src) n
        if !r.2 then .next (r.1.faultAll c 0x2001 [t])
        else
          let f (x : WriteDecl) : WriteDecl := if x = w then { x with copied := true } else x
          .next (r.1.onCh c fun k =>
            let k := k.hbmWrite (tp.frameAddr w.frame) (k.hbmBytes (sp.frameAddr src) n)
            ({ k with sql := { k.sql with writes := k.sql.writes.map f, cow := satAdd k.sql.cow 1 } }).commit (some (core, slot)))
      | _, _ => .next s

/-! ### Moves, prefetch and the sweep -/

def execSpillCopyDone (c : ChanId) (frame : Nat) (s : State) : Result := .next (s.spillDone c frame)

def execFetchCopyDone (c : ChanId) (frame : Nat) (incarnation : U16) (s : State) : Result :=
  .next (s.fetchDone c frame incarnation)

/-- Pages that a planned task names, in list order. -/
def Channel.namedPages (ch : Channel) (d : TaskDesc) : List (Nat × Nat) :=
  (ch.pageList d).map fun e => (e.region.toNat, e.page.toNat)

/-- Prefetch of beats b + 1 to b + AHEAD, by beat of use and then PLAN_SEQ (R188). -/
def execPrefetch (c : ChanId) (s : State) : Result :=
  let ch := s.ch c
  if ch.sql.walk || !ch.running then .next s
  else
    let b := ch.beat.number.toNat
    let wanted := (List.range ch.sql.ahead.toNat).flatMap fun i =>
      (sortBy (fun e => e.2.2.planSeq.toNat) (ch.planOf (b + 1 + i))).flatMap fun e =>
        (ch.namedPages e.2.2).map fun x => (b + 1 + i, x)
    .next (wanted.foldl (fun (t : State) e =>
      let k := t.ch c
      let pte := k.pte e.2.1 e.2.2
      if k.sql.prefetchMax.toNat ≤ k.sql.fetchedNow then t
      else if pte.valid && (pte.tier == 1 || pte.tier == 2) && !k.sql.lost.contains e.2 then
        let r := t.startFetch c e.2.1 e.2.2 e.1
        if r.2 then r.1.onCh c fun h => { h with sql := { h.sql with fetchedNow := h.sql.fetchedNow + 1 } } else r.1
      else t) s)

/-- Every LAST_USE older than 32,768 beats becomes the current beat less 32,768 (R187). -/
def execLastUseSweep (c : ChanId) (s : State) : Result :=
  .next (s.onCh c fun ch =>
    let f (e : Nat × Pte) : Nat × Pte :=
      if 32768 < (ch.beat16 - e.2.lastUse).toNat then (e.1, { e.2 with lastUse := ch.beat16 - 32768 }) else e
    if ch.sql.walk then ch
    else { ch with sql := { ch.sql with ptes := ch.sql.ptes.map f } })

end Sys2Proof.Machine
end

