-- ==== Sys2Proof/Machine/Ledger.lean ====
section
/-! DEFINITION. The Bear ledger: budgets, limits, charges, loans and reconciliation (R314 to R324). -/

namespace Sys2Proof.Machine

/-! ### Limits and budgets (R314, R315, R416) -/

/-- Energy of w watts over a beat, in nJ. -/
def Channel.wattBeat (ch : Channel) (w : Nat) : Nat := w * ch.beat.periodUs.toNat * 1000

def clampNat (lo hi n : Nat) : Nat := max lo (min hi n)

/-- Fields of a LEDG_CTRL value, as they take effect (Table 15-8). [DEDUCED, log entries 21 and 85] -/
def ctrlReserve (v : U64) : Nat := clampNat 1 10 (bits v 19 16)
def ctrlLendMax (v : U64) : Nat := bits v 31 24
def ctrlRefine (v : U64) : Bool := bit v 2
def ctrlBorrow (v : U64) : Bool := bit v 1
def ctrlLend (v : U64) : Bool := bit v 0

/-- The value of a delayed register at the boundary of beat b: the last write that takes effect by then. -/
def dueValue (b : Nat) (now : U64) (l : List Delayed) : U64 :=
  l.foldl (fun v d => if d.beat ≤ b then d.value else v) now

/-- Requested limit in effect at the boundary of beat b. [DEDUCED, log entry 190] -/
def Channel.limitAt (ch : Channel) (b : Nat) : Nat :=
  clampNat 200 650 (dueValue b (BitVec.ofNat 64 ch.ledg.limitNow) ch.ledg.limitWait).toNat

/-- A channel domain that is ACTIVE or IDLE; DRAINING, OFF and WAKING count as off (R330). -/
def Channel.on (ch : Channel) : Bool := ch.domain.st == .active || ch.domain.st == .idle

/-- Limit granted to a channel beside what its sibling is granted: the smallest of its limit, the share left of 1,200 W, and
the thermal cap (R315, R416); a sibling that is off leaves the whole split (R330). [DEDUCED, log entry 29] -/
def grantLimit (limit sibling cap : Nat) (sibOn : Bool) : Nat :=
  min (min limit (if sibOn then 1200 - sibling else 650)) cap

/-- Granted limit of channel c at the boundary of beat b. When writes of both channels take effect there, channel 0's comes
first (R315). [DEDUCED, log entries 29 and 186] -/
def State.grantedAt (s : State) (c : ChanId) (b : Nat) : Nat :=
  let g0 := grantLimit (s.ch0.limitAt b) s.ch1.ledg.grantedW.toNat s.ch0.thermalCap s.ch1.on
  if c = 0 then g0 else grantLimit (s.ch1.limitAt b) g0 s.ch1.thermalCap s.ch0.on

/-- Background reserve: RESERVE_PCT % of the limit energy (R314). [DEDUCED, log entries 21 and 85] -/
def reserveOf (limitNj pct : Nat) : Nat := limitNj * pct / 100

/-- Background reserve of the current beat. [DEDUCED, log entry 21] -/
def Channel.reserveNow (ch : Channel) : Nat :=
  reserveOf (ch.wattBeat ch.ledg.grantedW.toNat) (ctrlReserve ch.ledg.ctrlNow)

/-- Clk since the boundary of the current beat. -/
def Channel.posClk (ch : Channel) : Nat := ch.beat.time.toNat - ch.beat.number.toNat * ch.periodClk

/-- Beat at whose boundary a write of LEDG_LIMIT or LEDG_CTRL takes effect (R315, R332). -/
def Channel.ledgDue (ch : Channel) : Nat := ch.beat.number.toNat + if ch.posClk < 2048 then 1 else 2

/-- Writes LEDG_LIMIT.LIMIT_W; before beats run there is no boundary to wait for. [DEDUCED, log entry 29] -/
def Channel.writeLimit (ch : Channel) (v : U64) : Channel :=
  let w := BitVec.ofNat 10 (bits v 9 0)
  let d : Delayed := { beat := if ch.running then ch.ledgDue else 0, value := BitVec.ofNat 64 w.toNat }
  { ch with ledg := { ch.ledg with
      limitW := w
      limitWait := if ch.running then ch.ledg.limitWait ++ [d] else []
      limitNow := if ch.running then ch.ledg.limitNow else w.toNat } }

/-- Writes LEDG_CTRL. [DEDUCED, log entry 29] -/
def Channel.writeLedgCtrl (ch : Channel) (v : U64) : Channel :=
  let v := v &&& 0xFF0F0007
  let d : Delayed := { beat := if ch.running then ch.ledgDue else 0, value := v }
  let l := { ch.ledg with
    lendMaxW := BitVec.ofNat 8 (bits v 31 24), reservePct := BitVec.ofNat 4 (bits v 19 16)
    refineEn := bit v 2, borrowEn := bit v 1, lendEn := bit v 0 }
  { ch with ledg :=
      if ch.running then { l with ctrlWait := ch.ledg.ctrlWait ++ [d] } else { l with ctrlWait := [], ctrlNow := v } }

/-- Grants a channel's limit at once, beside what its sibling is granted now, while no boundary is due. [DEDUCED, log entry 29] -/
def State.grantNow (s : State) (c : ChanId) : State :=
  if (s.ch c).running then s
  else
    let sib := s.ch (sibling c)
    s.onCh c fun ch => { ch with ledg := { ch.ledg with
      grantedW := BitVec.ofNat 10 (grantLimit (ch.limitAt 0) sib.ledg.grantedW.toNat ch.thermalCap sib.on) } }

/-- Admissible budget of a beat (R314). [DEDUCED, log entry 21] -/
def Channel.budget (ch : Channel) : Int :=
  let lim := ch.wattBeat ch.ledg.grantedW.toNat
  (lim : Int) - ch.reserveNow + ch.ledg.loanIn - ch.ledg.loanOut - ch.ledg.debt

/-- The ledger at the boundary at which beat b begins: a pending offer is void, the values fixed for b take effect, and the
accounts start (R314, R315, R321, R322, R324, R332). [DEDUCED, log entry 186] -/
def State.ledgBoundary (s : State) (c : ChanId) (b : Nat) : State :=
  let granted := s.grantedAt c b
  s.onCh c fun ch =>
    let lost := decide (0 < ch.ledg.offered)
    let k := { ch with ledg := { ch.ledg with
      lastCharged := ch.ledg.admitted
      lastBg := ch.ledg.bgAdmitted
      lastLimit := ch.wattBeat ch.ledg.grantedW.toNat
      lastAdmissible := ch.ledg.admissible
      ctrlNow := dueValue b ch.ledg.ctrlNow ch.ledg.ctrlWait
      ctrlWait := ch.ledg.ctrlWait.filter fun d => decide (b < d.beat)
      limitNow := (dueValue b (BitVec.ofNat 64 ch.ledg.limitNow) ch.ledg.limitWait).toNat
      limitWait := ch.ledg.limitWait.filter fun d => decide (b < d.beat)
      grantedW := BitVec.ofNat 10 granted
      loanIn := ch.ledg.nextLoanIn
      loanOut := ch.ledg.nextLoanOut
      nextLoanIn := 0
      nextLoanOut := 0
      offered := 0
      loanLost := ch.ledg.loanLost || lost
      debt := (ch.ledg.debts.filter fun (d : Nat × Nat) => d.1 == b).foldl (fun n (d : Nat × Nat) => n + d.2) 0
      debts := ch.ledg.debts.filter fun (d : Nat × Nat) => decide (b < d.1)
      k := ch.ledg.kWait.foldl (fun x (d : Nat × Nat) => if d.1 ≤ b then BitVec.ofNat 18 d.2 else x) ch.ledg.k
      kWait := ch.ledg.kWait.filter fun (d : Nat × Nat) => decide (b < d.1)
      admitted := 0
      bgAdmitted := 0
      urgentAdmitted := 0 } }
    let k := { k with ledg := { k.ledg with admissible := k.budget } }
    if lost then k.raise c 0x9004 else k

/-! ### Charges (R317) -/

def ceilDiv (a b : Nat) : Nat := (a + b - 1) / b

/-- Energy entry of a task's class. -/
def Channel.energyOf (ch : Channel) (d : TaskDesc) : Option EnergyEntry :=
  match ch.pss.stream, ch.classOf d with
  | some st, some k => st.energy.find? fun e => e.eclass == k.eclass
  | _, _ => none

/-- Charge of a task: ceil(base × K / 65,536). -/
def Channel.charge (ch : Channel) (d : TaskDesc) : Nat :=
  match ch.energyOf d with
  | some e => ceilDiv (e.base * ch.ledg.k.toNat) 65536
  | none => 0

/-- The charge of a task that runs on past its beat, on the account of its kind: taken against a beat, or given back (R44, R319).
 [DEDUCED, log entry 52] -/
def Channel.chargeCarry (ch : Channel) (t : Task) (back : Bool := false) : Channel :=
  let n := ch.charge t.desc
  let move (x : Nat) : Nat := if back then x - n else x + n
  { ch with ledg := { ch.ledg with
      admitted := if t.desc.kind = 1 then ch.ledg.admitted else move ch.ledg.admitted
      bgAdmitted := if t.desc.kind = 1 then move ch.ledg.bgAdmitted else ch.ledg.bgAdmitted } }

/-! ### Lending (R324) -/

/-- What a channel offers at T + 2,048 clk, in nJ, rounded down to whole µJ. -/
def Channel.offer (ch : Channel) : Nat :=
  if ctrlLend ch.ledg.ctrlNow && ch.running then
    min (ch.ledg.admissible - ch.ledg.admitted).toNat (ch.wattBeat (ctrlLendMax ch.ledg.ctrlNow)) / 1000 * 1000
  else 0

/-- What a sibling accepts of an offer: up to 650 W less its granted limit of the next beat; a sibling that does not borrow, has
no beats running or is derated declines. [DEDUCED, log entry 190] -/
def State.accepts (s : State) (b : ChanId) (offer : Nat) : Nat :=
  let k := s.ch b
  let next := k.beat.number.toNat + 1
  let ctrl := dueValue next k.ledg.ctrlNow k.ledg.ctrlWait
  if k.running && ctrlBorrow ctrl && decide (650 ≤ k.thermalCap) then
    min offer (k.wattBeat 650 - k.wattBeat (s.grantedAt b next))
  else 0

/-- `arrived`: the sibling's answer reaches the lender before the boundary. [DEDUCED, log entry 186] -/
def execLoanOffer (c : ChanId) (arrived : Bool) (s : State) : Result :=
  let ch := s.ch c
  let sib := s.ch (sibling c)
  let reachable := arrived && sib.on && sib.chn.state != .reset
  let mine := ch.offer
  let net := if reachable then mine - sib.offer else mine
  if mine = 0 ∨ net = 0 then .next s
  else if !reachable then .next (s.onCh c fun k => { k with ledg := { k.ledg with offered := net } })
  else
    let x := s.accepts (sibling c) net
    .next ((s.onCh c fun k => { k with ledg := { k.ledg with nextLoanOut := k.ledg.nextLoanOut + x } }).onCh (sibling c) fun k =>
      { k with ledg := { k.ledg with nextLoanIn := k.ledg.nextLoanIn + x } })

/-! ### Reconciliation (R320 to R323) -/

/-- K after a reconciliation, clamped to 0xC000 to 0x1_8000. [DEDUCED, log entry 185] -/
def refineK (k measured charged : Nat) : Nat :=
  let r := 65536 * measured / charged
  ((clampNat 0xC000 0x18000 ((k : Int) + Int.tdiv ((r : Int) - k) 16).toNat))

/-- Meter readings of the beat before the current one: input energy, conversion loss, and the energies of the three rails.
 [DEDUCED, log entry 185] -/
def execReconcile (c : ChanId) (valid : Bool) (eIn loss s0 s1 sp : Nat) (s : State) : Result :=
  .next (s.onCh c fun ch =>
    let total := s0 + s1 + sp
    if !valid || total == 0 then
      { ch with ledg := { ch.ledg with meterBadSt := true, meterBad := satAdd ch.ledg.meterBad 1 } }.raise c 0x9002
    else
      let measured := (eIn - loss) * (if c = 0 then s0 else s1) / total
      let charged := ch.ledg.lastCharged + ch.ledg.lastBg
      let b := ch.beat.number.toNat
      let excess := measured - ch.ledg.lastLimit
      let k := { ch with ledg := { ch.ledg with
        measured := BitVec.ofNat 32 measured
        charged := BitVec.ofNat 32 charged
        reconBeat := BitVec.ofNat 16 (b - 1)
        debts := if 0 < excess then ch.ledg.debts ++ [(b + 1, excess)] else ch.ledg.debts
        overdraw := if 0 < excess then satAdd ch.ledg.overdraw 1 else ch.ledg.overdraw } }
      let k := if ch.ledg.lastLimit * 2 < excess * 100 then
        { k with ledg := { k.ledg with overdrawSt := true } }.raise c 0x9001 else k
      if ctrlRefine ch.ledg.ctrlNow && decide (0 < charged) && decide (ch.ledg.lastAdmissible ≤ 2 * ch.ledg.lastCharged) then
        let n := refineK k.ledg.k.toNat measured charged
        let k := { k with ledg := { k.ledg with kWait := k.ledg.kWait ++ [(b + 1, n)] } }
        if n = 0xC000 ∨ n = 0x18000 then { k with ledg := { k.ledg with kLimit := true } }.raise c 0x9003 else k
      else k)

end Sys2Proof.Machine
end

