-- ==== Sys2Proof/Machine/Apply.lean ====
section
/-! DEFINITION. A stream takes effect and leaves (R305, R307, R310). -/

namespace Sys2Proof.Machine

/-- Binds the logical cores to the good physical cores that are not fenced, in ascending order (R307). A core that is OFF is
woken. -/
def Channel.bindAll (ch : Channel) : Channel :=
  let cores := (List.range 136).filter fun p => ch.goodCore p && !ch.fencedCore p
  let k := { ch with pss := { ch.pss with binding := [] } }
  let k := ((cores.take 128).zipIdx).foldl (fun (h : Channel) (e : Nat × Nat) =>
    (h.bind e.2 (some e.1)).onDomain e.1 fun d =>
      match d.st with
      | .off => { d with st := .waking }
      | .draining => { d with wakePending := true }
      | _ => d) k
  k.showDegraded

/-- Zeroes the dependency-counter table of every bound core, with valid check bits (R305). -/
def Channel.clearCounters (ch : Channel) : Channel :=
  ch.boundCores.foldl (fun (h : Channel) l =>
    let a := sramAt (h.pcore l) systemArea
    { h with mem := { h.mem with
        sram := smClear a 0x8000 h.mem.sram
        sramPoison := smClear (a / 8) 0x1000 h.mem.sramPoison
        sramErr := smClear (a / 8) 0x1000 h.mem.sramErr } }) ch

/-- A verified stream takes effect at once (R305). What belongs to the previous plan goes with it. [DEDUCED, log entry 189] -/
def Channel.applyStream (ch : Channel) (c : ChanId) (st : Stream) : Channel :=
  let k := { ch with
    pss := { ch.pss with
      stream := some st, pendingStream := none, swapPending := false, code := 1, section_ := 0xFFF, detail := 0
      phase := .loaded, stopping := false, unloadReq := false }
    chn := { ch.chn with state := .loaded }
    beat := { ch.beat with paused := false, startAt := none, admitted := false, leadin := false }
    tsk := { ch.tsk with tasks := [], offers := [] }
    vec := { ch.vec with saved := [] }
    sql := { ch.sql with
      regions := [], ptes := [], hbm := [], back := [], spills := [], fetches := [], slots := [], writes := [], lost := []
      walked := [], incs := [], transit := [] }
    upd := { ch.upd with actPending := [], actGone := [], barred := false, aheadSram := [], aheadWrote := [], staged := [] }
    gxc := { ch.gxc with layout := 0, buckets := [], carriedBuckets := [], lows := [] } }
  let k := k.bindAll.clearCounters
  let k := match k.variant? 0 with
    | some l => k.applyLayout l
    | none => k
  (k.checkDup c).raise c 0x400A

/-- Releases every live region, as if by KV_RELEASE (R310, R311). -/
def Channel.releaseAll (ch : Channel) : Channel :=
  ((ch.sql.regions.filter fun e => e.2.live).map (·.1)).foldl (fun h r => h.releaseRegion r) ch

/-- PHASE follows the stream; while a new one is being verified it shows VERIFYING (R306). -/
def Channel.setPhase (ch : Channel) (p : Phase) : Channel :=
  if ch.pss.phase = .verifying then { ch with pss := { ch.pss with verifyFrom := p } } else { ch with pss := { ch.pss with phase := p } }

/-- The stream leaves: regions are released, windows close, and the channel is JOINED and EMPTY (R310). [DEDUCED, log entry 189] -/
def Channel.closeStream (ch : Channel) : Channel :=
  let k := ch.releaseAll.setPhase .empty
  { k with
    pss := { k.pss with
      stream := none, layout := none, winOpen := false, stopping := false, unloadReq := false, binding := []
      degraded := false }
    chn := { k.chn with state := .joined }
    beat := { k.beat with startAt := none, admitted := false, leadin := false }
    tsk := { k.tsk with offers := [] }
    gxc := { k.gxc with permuting := none, queued := none, requested := none } }

/-- The unload ends when no committed task remains: the channel enters JOINED, goes on to LEAVING's withdrawal (R406), or applies
the stream that waits for its swap; a step in progress is abandoned then (R306). [DEDUCED, log entries 121 and 140] -/
def Channel.finishUnload (ch : Channel) (c : ChanId) : Channel :=
  if !ch.pss.stopping || ch.tsk.tasks.any (·.committed) then ch
  else
    let leaving := ch.chn.state == .leaving
    let k := ch.closeStream
    if leaving then
      { k with
        chn := { k.chn with state := .leaving }
        pss := { k.pss with withdrawn := true, pendingStream := none, swapPending := false }
        cfg := { k.cfg with left := true } }.raise c 0x9007
    else match ch.pss.pendingStream with
      | some st => ((if k.upd.inStep then k.abandonStep c else k)).applyStream c st
      | none => k

end Sys2Proof.Machine
end

