-- ==== Sys2Proof/Machine/Sample.lean ====
section
/-! DEFINITION. Duplicate execution of sampled tiles and the arbitration of pair mismatches (R335 to R338, R346). -/

namespace Sys2Proof.Machine

/-- o_b = 1 + ((b × 53) mod 127) (R336). -/
def pairOffset (b : Nat) : Nat := 1 + b * 53 % 127

/-- Cluster of a logical core (R297). -/
def Channel.cluster (ch : Channel) (l : Nat) : Nat :=
  match ch.pss.stream with
  | some st => (st.clusters.getD l 0).toNat
  | none => 0

/-- Whether a core's duplicate area is in use: from the start of a copy until its comparison or the end of its arbitration, in which the third
core's is in use too.
 [DEDUCED, log entry 31] -/
def Channel.areaBusy (ch : Channel) (l : Nat) : Bool := 
  ch.bdg.samples.any fun x => x.partner == l && x.phase != 0 || x.third == some l

/-- Partner of logical core n for a tile admitted in beat b (R336). -/
def Channel.partnerOf (ch : Channel) (n b : Nat) : Option Nat :=
  let same := ch.boundCores.all fun l => ch.cluster l == ch.cluster n
  ((List.range 128).map fun i => (n + pairOffset b + i) % 128).find? fun p =>
    ch.isBound p && (same || ch.cluster p != ch.cluster n) && !ch.areaBusy p

/-- Bytes a sample needs in the duplicate area: operands, C, the record and the output. -/
def sampleBytes (t : TileRec) (d : TaskDesc) : Nat :=
  let m := d.arg1.toNat
  let n := d.arg2.toNat
  ((t.operandRanges m n ++ t.cRanges m n ++ t.outRanges m n).map (·.2)).foldl (· + ·) 64

def Channel.skipSample (ch : Channel) : Channel := { ch with bdg := { ch.bdg with skipped := satAdd ch.bdg.skipped 1 } }

/-- Whether the draw of a tile on physical core p samples it: a 32-bit DRBG word below 2^(32 − DUP_LOG2); a suspect's tiles are
all sampled (R335, R347). [DEDUCED, log entry 85] -/
def Channel.drawn (ch : Channel) (p word : Nat) : Bool :=
  decide (ch.beat.number.toNat < (ch.health p).sampleAll) || decide (word % 2 ^ 32 < 2 ^ (32 - min ch.bdg.dupLog2.toNat 12))

/-- The Badger decides whether to sample an admitted tile (R335 to R337, R357). -/
def State.sampleDecide (s : State) (c : ChanId) (core slot : Nat) : State :=
  let ch := s.ch c
  match ch.task? core slot with
  | none => s
  | some t => match t.tileRec with
    | none => s
    | some tr =>
      if !ch.bdg.dupEn || ch.bdg.dupOff || fullyMasked t.desc || t.dup.isSome then s
      else if ch.sec.entropyFail then s.onCh c Channel.skipSample
      else
        let s1 := s.tookFree 1
        if !ch.drawn (ch.pcore core) (Config.drbg s.free) then s1
        else
          let b := ch.beat.number.toNat
          match ch.partnerOf core b with
          | none => s1.onCh c Channel.skipSample
          | some p =>
            if ch.dupArea.2 < sampleBytes tr t.desc then s1.onCh c Channel.skipSample
            else
              let x : Sample :=
                { id := ch.bdg.nextSample, core := core, pcore := ch.pcore core, partner := p, beat := b, ob := pairOffset b
                  desc := t.desc, tile := tr, ovfMode := ch.arr.ovfMode, sJob := t.step, outTag := t.desc.outTag, stepAt := ch.upd.sJob }
              s1.onCh c fun k =>
                let k := { k with bdg := { k.bdg with samples := k.bdg.samples ++ [x], nextSample := k.bdg.nextSample + 1 } }
                k.onTask core slot fun u => { u with sample := some x.id }

def Channel.onSample (ch : Channel) (id : Nat) (f : Sample → Sample) : Channel :=
  { ch with bdg := { ch.bdg with samples := ch.bdg.samples.map fun x => if x.id = id then f x else x } }
def Channel.sample? (ch : Channel) (id : Nat) : Option Sample := ch.bdg.samples.find? fun x => x.id == id
def Channel.endSample (ch : Channel) (id : Nat) : Channel :=
  { ch with bdg := { ch.bdg with samples := ch.bdg.samples.filter fun x => x.id != id } }

/-- At the original's COMPLETE the copy of its operands starts; a partner whose area has been taken meanwhile drops the sample
. [DEDUCED, log entry 31] -/
def Channel.startCopy (ch : Channel) (id : Nat) : Channel :=
  match ch.sample? id with
  | none => ch
  | some x =>
    if ch.areaBusy x.partner then ch.dropSample (some id)
    else
      let m := x.desc.arg1.toNat
      let n := x.desc.arg2.toNat
      let data := (x.tile.operandRanges m n ++ x.tile.cRanges m n).map fun e => (e.1, ch.sramBytes x.pcore e.1 e.2)
      ch.onSample id fun y => { y with phase := 1, data := data }

/-- Copies still running at a boundary drop their samples (R338). -/
def Channel.dropCopies (ch : Channel) : Channel :=
  ((ch.bdg.samples.filter fun x => x.phase == 1).map (·.id)).foldl (fun k i => k.dropSample (some i)) ch

/-- The offer of a duplicate, or of a third execution, as a background task of a logical core. -/
def Sample.offer (x : Sample) (core beat patience : Nat) (urgent : Bool) : Offer where
  core := core
  desc := { x.desc with kind := 1, flags := 0, patience := BitVec.ofNat 8 patience, doneSig := 0, plist := 0 }
  beat := beat
  patience := patience
  urgent := urgent
  dup := some x.id

/-- The bytes of the duplicate area of a core after a copy: their layout there is the Badger's own. [DESIGN CHOICE, log entry 32] -/
def State.fillArea (s : State) (c : ChanId) (core : Nat) (t : TileRec) (d : TaskDesc) : State :=
  (s.onCh c fun k => k.sramWrite (k.pcore core) k.dupArea.1 (freeBytes s.free (sampleBytes t d))).tookFree 1

/-- The copy has completed: the duplicate is offered in a later beat (R338). -/
def execSampleCopyDone (c : ChanId) (sample : Nat) (s : State) : Result :=
  match (s.ch c).sample? sample with
  | none => .next s
  | some x =>
    if x.phase ≠ 1 then .next s
    else
      let s1 := s.fillArea c x.partner x.tile x.desc
      .next (s1.onCh c fun k =>
        let k := k.onSample sample fun y => { y with phase := 2 }
        { k with tsk := { k.tsk with offers := k.tsk.offers ++
            [x.offer x.partner (k.beat.number.toNat + 1) k.bdg.dupPatience.toNat false] } })

/-- The copied operand bytes, read as the original read them. [DESIGN CHOICE, log entry 32] -/
def Sample.read (x : Sample) (a n : Nat) : List Byte := ((x.data.find? fun e => e.1 == a).map (·.2)).getD (List.replicate n 0)

/-! ### Comparison and arbitration (R338, R346) -/

/-- Both cores are fenced for retest (R346). [DEDUCED, log entry 101] -/
def State.unresolved (s : State) (c : ChanId) (pn pp : Nat) : State :=
  let s1 := s.onCh c fun ch =>
    let k := { ch with bdg := { ch.bdg with unresolved := satAdd ch.bdg.unresolved 1 } }.raise c 0x7006
    let mine (i : Incident) : Bool := i.arb && i.pair == some (pn, pp)
    let as (fault other : Nat) (i : Incident) : Incident := { i with
      unit := .core fault, arb := false
      record := { i.record with unit := BitVec.ofNat 32 fault, cls := 3, partners := BitVec.ofNat 32 (other + 0xFF00) } }
    let second := (k.bdg.incidents.filter mine).map (as pp pn)
    let k := k.onIncident mine (as pn pp)
    { k with bdg := { k.bdg with incidents := k.bdg.incidents ++ second } }
  let s2 := s1.coreAtFault c pn
  s2.coreAtFault c pp

/-- The pair incident becomes an incident of the core at fault. -/
def Channel.pairToCore (ch : Channel) (pn pp fault : Nat) (source : U8) (third : Option Nat) : Channel :=
  ch.onIncident (fun i => i.arb && i.pair == some (pn, pp)) fun i => { i with
    unit := .core fault
    arb := false
    source := source
    record := { i.record with
      unit := BitVec.ofNat 32 fault, source := source, flags := i.record.flags ||| 2
      partners := BitVec.ofNat 32 ((if fault = pn then pp else pn) + (third.getD 0xFF) * 256) } }

/-- Third core: the first bound core from (p + o_b) mod 128 in a cluster other than both (R346). -/
def Channel.thirdCore (ch : Channel) (x : Sample) : Option Nat :=
  ((List.range 128).map fun i => (x.partner + x.ob + i) % 128).find? fun t =>
    ch.isBound t && ch.cluster t != ch.cluster x.core && ch.cluster t != ch.cluster x.partner

/-- A core under suspicion of a second path that its own work has not yet cleared or incriminated (R347). [DEDUCED, log entry 100] -/
def Channel.suspected (ch : Channel) (p : Nat) : Bool :=
  !ch.fencedCore p && !(ch.health p).fencePending && ch.bdg.incidents.any fun i =>
    ch.inHoldoff i && !i.closed && i.secondPath.isSome && i.unit == .core p

/-- A pair mismatch (R338, R346). A core that a second path suspects is at fault when a mismatch is attributed to it (R347).
 [DEDUCED, log entry 100] -/
def State.pairMismatch (s : State) (c : ChanId) (x : Sample) (pp : Nat) : State :=
  let pn := x.pcore
  let s1 := s.onCh c fun ch => { ch with bdg := { ch.bdg with mismatch := satAdd ch.bdg.mismatch 1 } }.raise c 0x7001
  let ch := s1.ch c
  let held (p : Nat) (i : Incident) : Bool := ch.takesIn i && incidentNames i (.core p) none
  let both := ch.bdg.incidents.any fun i => held pn i && held pp i
  let hn := ch.bdg.incidents.any (held pn)
  let hp := ch.bdg.incidents.any (held pp)
  if hn || hp then
    let s2 := s1.onCh c fun k =>
      let k := { k with bdg := { k.bdg with attributed := satAdd k.bdg.attributed 1 } }
      let k := if hn then k.report c 0x7001 0 (.core pn) else k
      let k := if hp && !both then k.report c 0x7001 0 (.core pp) else k
      k.endSample x.id
    let s3 := if ch.suspected pn then s2.coreAtFault c pn else s2
    if ch.suspected pp then s3.coreAtFault c pp else s3
  else
    let s2 := s1.onCh c fun k => k.report c 0x7001 0 (.core pn) none (some (pn, pp)) fun r => { r with
      outTag := x.outTag, partners := BitVec.ofNat 32 (pp + 0xFF00) }
    match (if ch.bdg.arbEn then ch.thirdCore x else none) with
    | none => (s2.unresolved c pn pp).onCh c fun k => k.endSample x.id
    | some t => (s2.fillArea c t x.tile x.desc).onCh c fun k =>
        let k := k.onSample x.id fun y => { y with phase := 4, third := some t }
        { k with
          bdg := { k.bdg with thirdRuns := satAdd k.bdg.thirdRuns 1 }
          tsk := { k.tsk with offers := k.tsk.offers ++ [x.offer t (k.beat.number.toNat + 1) 0 true] } }

/-- A duplicate has completed with a digest: equal digests verify both cores. -/
def State.dupCompare (s : State) (c : ChanId) (id : Nat) (digest : U64) : State :=
  let ch := s.ch c
  match ch.sample? id with
  | none => s
  | some x =>
    let pp := ch.pcore x.partner
    if x.phase = 4 then
      let s1 := s.onCh c fun k => k.endSample id
      let d2 := x.dupDigest.getD 0
      let t := x.third.map ch.pcore
      if digest = d2 then (s1.onCh c fun k => k.pairToCore x.pcore pp x.pcore 1 t).coreAtFault c x.pcore
      else if digest = x.digest then (s1.onCh c fun k => k.pairToCore x.pcore pp pp 1 t).coreAtFault c pp
      else s1.unresolved c x.pcore pp
    else if digest = x.digest then
      s.onCh c fun k =>
        let k := { k with bdg := { k.bdg with compared := wrapAdd k.bdg.compared 1 } }
        ((k.advanceClean x.pcore x.beat x.stepAt).advanceClean pp k.beat.number.toNat k.upd.sJob).endSample id
    else
      (s.onCh c fun k => k.onSample id fun y => { y with dupDigest := some digest, phase := 3 }).pairMismatch c x pp

end Sys2Proof.Machine
end

