-- ==== Sys2Proof/Machine/Sfu.lean ====
section
/-! DEFINITION. The special functions (R128 to R132). Special and boundary inputs give the manual's results. For every other
input the result is the coefficient ROM's, which the manual does not print, over the function's segmented argument: held to the
manual's error bound, for which the exact value is computed in fixed point, and never stepping backward where the manual says so. -/

namespace Sys2Proof.Machine

/-- The functions of Table 07-2. -/
inductive Sfu where
  | exp2 | log2 | rcp | rsqrt | sqrt | tanh | sigmoid | gelu | silu | sin | cos
  deriving DecidableEq, Repr

/-! ### Fixed point: integers scaled by 2^512 -/

def fxBits : Nat := 512
def fxOne : Int := (2 ^ fxBits : Nat)
def fxMul (a b : Int) : Int := a * b / fxOne
def fxDiv (a b : Int) : Int := a * fxOne / b

/-- A fixed-point number near ±m × 2^e, exact when e ≥ −512. -/
def fxOf (neg : Bool) (m : Nat) (e : Int) : Int :=
  if 0 ≤ e + fxBits then signedInt neg (m * 2 ^ (e + fxBits).toNat) else signedInt neg (m / 2 ^ (-(e + fxBits)).toNat)

/-- Sum over k < n of a series given by its term and the step to the next term. -/
def fxSeries (next : Nat → Int → Int) : Nat → Nat → Int → Int
  | 0, _, _ => 0
  | n + 1, k, t => t + fxSeries next n (k + 1) (next k t)

/-- e^y for 0 ≤ y ≤ 1. -/
def fxExp (y : Int) : Int := fxSeries (fun k t => fxMul t y / (k + 1 : Nat)) 120 0 fxOne

/-- atanh z for |z| ≤ 1/3, by powers of z²; the power is kept apart from the term. -/
def fxOddSum (sgn : Int) (z : Int) : Nat → Nat → Int → Int
  | 0, _, _ => 0
  | n + 1, k, p => p / (2 * k + 1 : Nat) + fxOddSum sgn z n (k + 1) (sgn * fxMul (fxMul p z) z)

def fxAtanh (z : Int) : Int := fxOddSum 1 z 180 0 z
def fxAtan (z : Int) : Int := fxOddSum (-1) z 130 0 z
def fxLn2 : Int := 2 * fxAtanh (fxOne / 3)
/-- π by Machin's formula. -/
def fxPi : Int := 16 * fxAtan (fxOne / 5) - 4 * fxAtan (fxOne / 239)
/-- ln m for 1 ≤ m < 2. -/
def fxLn (m : Int) : Int := 2 * fxAtanh (fxDiv (m - fxOne) (m + fxOne))
/-- 2^y. -/
def fxExp2 (y : Int) : Int :=
  let i := y / fxOne
  let f := fxExp (fxMul (y - i * fxOne) fxLn2)
  if 0 ≤ i then f * (2 ^ i.toNat : Nat) else f / (2 ^ (-i).toNat : Nat)
/-- e^y for any y. -/
def fxExpAny (y : Int) : Int := fxExp2 (fxDiv y fxLn2)

/-- Sine and cosine of |r| ≤ 1. -/
def fxSin (r : Int) : Int := fxSeries (fun k t => -(fxMul (fxMul t r) r / ((2 * k + 2) * (2 * k + 3) : Nat))) 60 0 r
def fxCos (r : Int) : Int := fxSeries (fun k t => -(fxMul (fxMul t r) r / ((2 * k + 1) * (2 * k + 2) : Nat))) 60 0 fxOne

/-- The standard normal distribution function for |x| ≤ 16. -/
def fxPhi (x : Int) : Int :=
  let x2 := fxMul x x
  let sum := fxSeries (fun k t => fxMul t x2 / (2 * k + 3 : Nat)) 900 0 x
  let dens := fxDiv (fxExpAny (-(x2 / 2))) ((isqrt (2 * fxPi * fxOne).toNat : Nat) : Int)
  fxOne / 2 + fxMul dens sum

/-- sigmoid x, computed from e^(−|x|). -/
def fxSigmoid (x : Int) : Int :=
  let t := fxExpAny (-(x.natAbs : Int))
  if x < 0 then fxDiv t (fxOne + t) else fxDiv fxOne (fxOne + t)

/-- The exact value of a function at an FP32 number inside its domain, in fixed point. [DESIGN CHOICE, log entry 69] -/
def sfuExact (f : Sfu) (neg : Bool) (m : Nat) (e : Int) : Int :=
  let x := fxOf neg m e
  match f with
  | .exp2 => fxExp2 x
  | .log2 =>
    let k := Nat.log2 m
    let mant := fxOf false m (-(k : Int))
    fxDiv (fxLn mant) fxLn2 + (e + k) * fxOne
  | .rcp => signedInt neg (2 ^ (fxBits + 149) / (m * 2 ^ (e + 149).toNat))
  | .rsqrt => (isqrt (2 ^ (2 * fxBits + 149) / (m * 2 ^ (e + 149).toNat)) : Nat)
  | .sqrt => (isqrt (x * fxOne).toNat : Nat)
  | .tanh =>
    let t := fxExpAny (-(2 * (x.natAbs : Int)))
    let v := fxDiv (fxOne - t) (fxOne + t)
    if neg then -v else v
  | .sigmoid => fxSigmoid x
  | .silu => fxMul x (fxSigmoid x)
  | .gelu => if x < -16 * fxOne then 0 else fxMul x (fxPhi x)
  | .sin =>
    let h := fxPi / 2
    let k := (2 * x + h) / (2 * h)
    let r := x - k * h
    if k % 4 = 0 then fxSin r else if k % 4 = 1 then fxCos r else if k % 4 = 2 then -fxSin r else -fxCos r
  | .cos =>
    let h := fxPi / 2
    let k := (2 * x + h) / (2 * h)
    let r := x - k * h
    if k % 4 = 0 then fxCos r else if k % 4 = 1 then -fxSin r else if k % 4 = 2 then -fxCos r else fxSin r

/-- One ulp of R129, in fixed point: the FP32 spacing in the binade of the value, at least 2^−149. -/
def fxUlp (v : Int) : Int :=
  let top : Int := (Nat.log2 v.natAbs : Nat) - (fxBits : Int)
  fxOf false 1 (max (top - 23) (-149))

/-- Greatest error allowed at a value, Table 07-2. -/
def sfuBound (f : Sfu) (x v : Int) : Int :=
  let wide := max (4 * fxUlp v) (fxOf false 1 (-140))
  match f with
  | .exp2 | .log2 | .rcp | .rsqrt | .sqrt => fxUlp v
  | .gelu => if x < -4 * fxOne then wide else 2 * fxUlp v
  | .silu => if x < -8 * fxOne then wide else 2 * fxUlp v
  | _ => 2 * fxUlp v

def sfuIndex : Sfu → Nat
  | .exp2 => 0 | .log2 => 1 | .rcp => 2 | .rsqrt => 3 | .sqrt => 4 | .tanh => 5
  | .sigmoid => 6 | .gelu => 7 | .silu => 8 | .sin => 9 | .cos => 10

/-! ### FP32 numbers in their order -/

/-- Place of an FP32 number in the order of the numbers; both zeros stand at 0. -/
def ordIdx (code : Nat) : Int := if fpSign fpF32 code then -(fpMag fpF32 code : Int) else fpMag fpF32 code
/-- The number at a place; a zero takes the sign given. -/
def idxCode (negZero : Bool) (i : Int) : Nat := fpF32.signed (decide (i < 0) || (i == 0 && negZero)) i.natAbs
/-- Its value; the places of the infinities stand for ±2^128. -/
def idxFx (i : Int) : Int :=
  match fpUnpack fpF32 (idxCode false i) with
  | .fin s m e => fxOf s m e
  | _ => fxOf (decide (i < 0)) 1 128
/-- The least number at or above a value, and the greatest at or below it. -/
def idxUp (v : Int) : Int :=
  let i := ordIdx (fpRne fpF32 false (decide (v < 0)) v.natAbs (-(fxBits : Int)))
  if idxFx i < v then i + 1 else i
def idxDown (v : Int) : Int := -idxUp (-v)

/-! ### Results inside the bound that never step backward (R129, R131) -/

/-- The power of two at or below |v|. -/
def fxBase (v : Int) : Int := fxOf false 1 ((Nat.log2 v.natAbs : Nat) - (fxBits : Int))

/-- The results that the bound allows at a value v of a function that rises. The bound halves where |v| falls below a power of two, and
GELU's and SILU's widens at −4 and −8; a result below what was allowed before such a step would run backward.
 [DESIGN CHOICE, log entry 69] -/
def sfuRange (f : Sfu) (x v : Int) : Int × Int :=
  let b := sfuBound f x v
  let below := fxBase v - sfuBound f x (fxBase v - 1)
  let lo := if 0 < v then max (v - b) below else v - b
  let hi := if v < 0 then min (v + b) (-below) else v + b
  let edge (m : Nat) : Int :=
    let w := sfuExact f true m 0
    if x < fxOf true m 0 then w - 2 * fxUlp w else lo
  let lo := match f with
    | .gelu => max lo (edge 4)
    | .silu => max lo (edge 8)
    | _ => lo
  (idxUp lo, idxDown hi)

/-- The greatest result in (lo, hi] whose step the argument has reached, `lo` when it has reached none. [DESIGN CHOICE, log entry 69] -/
def sfuClimb (reached : Int → Bool) (lo : Int) : Nat → Int
  | 0 => lo
  | n + 1 => if reached (lo + (n + 1 : Nat)) then lo + (n + 1 : Nat) else sfuClimb reached lo n

/-- A result of a function that rises with `arg`: the ROM is seen through the arguments at which its results step up, one for each result
of a part of the function, so that the results never step backward (R131) and keep the bound (R129); `near` are the results handled
without a polynomial on both sides. [DESIGN CHOICE, log entry 69] -/
def sfuPick (f part : Nat) (arg : Nat) (range near : Int × Int) : Int :=
  let lo := min (max range.1 near.1) near.2
  let hi := max lo (min range.2 near.2)
  sfuClimb (fun y => decide (Config.sfuStep f part (y + 2 ^ 31).toNat ≤ arg)) lo (hi - lo).toNat

/-- GELU's and SILU's x_m, within 2 ulp of the number that R131 gives. [DESIGN CHOICE, log entry 69] -/
def sfuMin (f : Sfu) : Nat := (if f = .gelu then 0xBF407571 else 0xBFA3A4BE) - 2 + Config.sfuMinimum (sfuIndex f) % 5

/-- Place of an input in its order, from the most negative one on. -/
def sfuArg (code : Nat) : Nat := (ordIdx code + 2 ^ 31).toNat

/-- The exact result and the results the bound allows, at an FP32 number. [DESIGN CHOICE, log entry 69] -/
def sfuSpan (f : Sfu) (code : Nat) : Int × Int :=
  match fpUnpack fpF32 code with
  | .fin s m e => sfuRange f (fxOf s m e) (sfuExact f s m e)
  | _ => (0, 0)

/-- Results handled without a polynomial on both sides of a rising part of a function (Table 07-2). [DESIGN CHOICE, log entry 69] -/
def sfuNear (f : Sfu) (neg : Bool) : Int × Int :=
  let ends (small big : Int) : Int × Int := if neg then (-big, -small) else (small, big)
  match f with
  | .tanh => ends (0x39800000 - 1) 0x3F800000
  | .sigmoid => if neg then (0, 0x3F000000) else (0x3F000000, 0x3F800000)
  | .gelu => ends (0x33000000 - 1) 0x41200000
  | .silu => ends (0x33000000 - 1) 0x41C00000
  | _ => (-(0x7F800000 : Int), 0x7F800000)

/-- A function whose segmented argument is the input itself: it rises, but for GELU and SILU below x_m. [DESIGN CHOICE, log entry 69] -/
def sfuDirect (f : Sfu) (code : Nat) (neg : Bool) : Nat :=
  let i := sfuIndex f
  let rise (x : Nat) : Int := sfuPick i 0 (sfuArg x) (sfuSpan f x) (sfuNear f neg)
  let turns := f == .gelu || f == .silu
  if turns && decide (sfuArg code < sfuArg (sfuMin f)) then
    idxCode true (sfuPick i 1 (2 ^ 32 - sfuArg code) (sfuSpan f code) (rise (sfuMin f), 0))
  else idxCode (neg && f != .sigmoid) (rise code)

/-- A function whose segmented argument is a mantissa or a fraction: its result over that argument, times a power of two. A result that is
subnormal is rounded on its own, since the polynomial is rounded once. `x` is the argument brought to [1, 4), as m × 2^e; `arg` its place
in the order in which the function rises; `ends` the results at both ends. [DESIGN CHOICE, log entry 69] -/
def sfuScaled (f : Sfu) (sat neg : Bool) (m : Nat) (e : Int) (arg : Nat) (ends : Int × Int) (k : Int) : Nat :=
  let v := sfuExact f false m e
  let i := sfuIndex f
  if (Nat.log2 v.natAbs : Nat) - (fxBits : Int) + k < -126 then
    let w := fxOf false 1 k * v / fxOne
    idxCode neg (let y := sfuPick i (1000 + k).toNat arg (sfuRange f (fxOf false m e) w) (0, 0x00800000); if neg then -y else y)
  else
    match fpUnpack fpF32 (idxCode false (sfuPick i 0 arg (sfuRange f (fxOf false m e) v) ends)) with
    | .fin _ n g => fpRne fpF32 sat neg n (g + k)
    | _ => fpOver fpF32 sat neg

/-- Whether an FP32 code lies within the bound of R129. [DESIGN CHOICE, log entry 69] -/
def sfuWithin (f : Sfu) (x v : Int) (code : Nat) : Bool :=
  match fpUnpack fpF32 code with
  | .fin s m e => decide ((fxOf s m e - v).natAbs ≤ (sfuBound f x v).toNat)
  | _ => false

/-- SIN and COS: the ROM's result where it keeps the bound, and the nearest FP32 number where it does not. [DESIGN CHOICE, log entry 69] -/
def sfuWave (f : Sfu) (code : Nat) (neg : Bool) (m : Nat) (e : Int) : Nat :=
  let v := sfuExact f neg m e
  let rom := Config.sfuRom (sfuIndex f) code % 2 ^ 32
  if sfuWithin f (fxOf neg m e) v rom then rom else fpRne fpF32 false (decide (v < 0)) v.natAbs (-(fxBits : Int))

/-- The polynomial's result at a finite non-zero input that is not handled without one (R128 to R131). EXP2 takes the fraction of its input,
RCP the mantissa, RSQRT and SQRT the mantissa with the exponent's parity; LOG2 rises on each binade between the integers at its ends.
 [DESIGN CHOICE, log entry 69] -/
def sfuPoly (f : Sfu) (sat : Bool) (code : Nat) (neg : Bool) (m : Nat) (e : Int) : Nat :=
  let top := Nat.log2 m
  let k := e + (top : Nat)                                       -- x = 1.… × 2^k
  let frac := m * 2 ^ (23 - top)                                 -- mantissa, in [2^23, 2^24)
  let odd := k % 2
  let root := if odd = 0 then frac else 2 ^ 24 + frac            -- place of the mantissa and parity in [1, 4)
  match f with
  | .exp2 =>
    let x := fxOf neg m e
    let i := x / fxOne
    let g := (x - i * fxOne).toNat
    sfuScaled .exp2 sat false g (-(fxBits : Int)) g (0x3F800000, 0x40000000) i
  | .rcp => sfuScaled .rcp sat neg frac (-23) (2 ^ 24 - frac) (0x3F000000, 0x3F800000) (-k)
  | .rsqrt => sfuScaled .rsqrt sat false frac (odd - 23) (2 ^ 26 - root) (0x3F000000, 0x3F800000) (-((k - odd) / 2))
  | .sqrt => sfuScaled .sqrt sat false frac (odd - 23) root (0x3F800000, 0x40000000) ((k - odd) / 2)
  | .log2 =>
    let near (n : Int) : Int := ordIdx (fpRne fpF32 false (decide (n < 0)) n.natAbs 0)
    idxCode false (sfuPick (sfuIndex .log2) 0 (sfuArg code) (sfuSpan .log2 code) (near k, near (k + 1)))
  | .sin | .cos => sfuWave f code neg m e
  | _ => sfuDirect f code neg

def oneF32 : Nat := 0x3F800000
def halfF32 : Nat := 0x3F000000
def isPow2 (m : Nat) : Bool := m = 2 ^ Nat.log2 m

/-- |x| < 2^k for a finite non-zero number. -/
def magLt (m : Nat) (e k : Int) : Bool := decide (e + (Nat.log2 m : Nat) < k)

/-- x ≥ n for a finite number and a natural n. -/
def geNat (neg : Bool) (m : Nat) (e : Int) (n : Nat) : Bool := decide ((n : Int) * fxOne ≤ fxOf neg m e)

/-- Results at zeros, infinities and NaN (Table 07-3); infinities from finite inputs are MAX in saturate mode (R130). -/
def sfuZero (f : Sfu) (sat neg : Bool) : Nat :=
  match f with
  | .exp2 | .cos => oneF32
  | .log2 => fpOver fpF32 sat true
  | .rcp | .rsqrt => fpOver fpF32 sat neg
  | .sigmoid => halfF32
  | _ => fpF32.signed neg 0

def sfuInf (f : Sfu) (neg : Bool) : Nat :=
  match f with
  | .exp2 => if neg then 0 else fpF32.infCode
  | .log2 | .sqrt => if neg then fpF32.nanCode else fpF32.infCode
  | .rcp => fpF32.signed neg 0
  | .rsqrt => if neg then fpF32.nanCode else 0
  | .tanh => fpF32.signed neg oneF32
  | .sigmoid => if neg then 0 else oneF32
  | .gelu | .silu => if neg then fpF32.signed true 0 else fpF32.infCode
  | .sin | .cos => fpF32.nanCode

/-- Finite non-zero inputs: the ranges handled without a polynomial (Tables 07-2, 07-3), then the polynomial. -/
def sfuFin (f : Sfu) (sat : Bool) (code : Nat) (neg : Bool) (m : Nat) (e : Int) : Nat :=
  let poly := sfuPoly f sat code neg m e
  match f with
  | .exp2 =>
    if geNat neg m e 128 then fpOver fpF32 sat false
    else if fxOf neg m e ≤ -151 * fxOne then 0
    else if fxOf neg m e % fxOne = 0 then fpRne fpF32 sat false 1 (fxOf neg m e / fxOne)
    else poly
  | .log2 =>
    if neg then fpF32.nanCode
    else if isPow2 m then
      let k := e + (Nat.log2 m : Nat)
      fpRne fpF32 sat (decide (k < 0)) k.natAbs 0
    else poly
  | .rcp => if isPow2 m || magLt m e (-128) then fpDiv fpF32 sat oneF32 code else poly
  | .rsqrt =>
    if neg then fpF32.nanCode
    else if isPow2 m && (e + (Nat.log2 m : Nat)) % 2 == 0 then fpDiv fpF32 sat oneF32 (fpSqrt fpF32 sat code) else poly
  | .sqrt =>
    if neg then fpF32.nanCode
    else if isPow2 m && (e + (Nat.log2 m : Nat)) % 2 == 0 then fpSqrt fpF32 sat code else poly
  | .tanh =>
    if magLt m e (-12) then code
    else if geNat false m e 9 then fpF32.signed neg oneF32 else poly
  | .sigmoid =>
    if magLt m e (-24) then halfF32
    else if geNat neg m e 17 then oneF32 else poly
  | .gelu =>
    if magLt m e (-24) then fpMul fpF32 sat code halfF32
    else if geNat neg m e 10 then code else poly
  | .silu =>
    if magLt m e (-24) then fpMul fpF32 sat code halfF32
    else if geNat neg m e 24 then code else poly
  | .sin => poly
  | .cos => poly

/-- A special function of an FP32 code (R128 to R131). -/
def sfu (f : Sfu) (sat : Bool) (code : Nat) : Nat :=
  match fpUnpack fpF32 code with
  | .nan => fpF32.nanCode
  | .inf neg => sfuInf f neg
  | .fin neg m e => if m = 0 then sfuZero f sat neg else sfuFin f sat code neg m e

end Sys2Proof.Machine
end

