-- ==== Sys2Proof/Machine/Lanes.lean ====
section
/-! DEFINITION. The register file of a vector engine, and the shared shapes of its operations: one result per lane from one,
two or three registers, and the fixed tree across lanes (R123, R125). -/

namespace Sys2Proof.Machine

def zeroVec : LaneVec := Vector.replicate 64 0
def regKey (core : LCore) (r : VReg) : Nat := core.val * 64 + r.val

/-- A vector register of a core (R123). [DESIGN CHOICE, log entry 3] -/
def Channel.vreg (ch : Channel) (core : LCore) (r : VReg) : LaneVec := smGet zeroVec ch.vec.regs (regKey core r)

/-- Writes a vector register. -/
def Channel.setVreg (ch : Channel) (core : LCore) (r : VReg) (v : LaneVec) : Channel :=
  { ch with vec := { ch.vec with regs := smSet zeroVec ch.vec.regs (regKey core r) v } }

/-- The engine issues for n clk in this beat (VEC_CORE.BUSY_CLK). -/
def Channel.vecBusy (ch : Channel) (core : LCore) (n : Nat) : Channel :=
  { ch with vec := { ch.vec with busy := smMod {} ch.vec.busy core.val fun k => { k with now := wrapAdd k.now n } } }

/-- What an operation that writes one register does: the register, and its issue clks (Table 07-1). -/
def vecWrite (s : State) (c : ChanId) (core : LCore) (d : VReg) (clk : Nat) (v : LaneVec) : State :=
  s.onCh c fun ch => (ch.setVreg core d v).vecBusy core clk

/-- Format and width of a precision (R126). -/
def precFmt : Prec → FpFmt
  | .f32 => fpF32
  | .f64 => fpF64
def precBits : Prec → Nat
  | .f32 => 32
  | .f64 => 64

/-- Issue clks of an operation whose rate is 1/n in FP32: FP64 runs at half the rate. -/
def precClk (p : Prec) : Nat := match p with | .f32 => 1 | .f64 => 2

/-- The operand bits of a lane: FP32 and 32-bit integers occupy bits [31:0] (R123). -/
def lowBits (w : Nat) (x : U64) : Nat := x.toNat % 2 ^ w

/-- A result of w bits in a lane: bits [63:32] become zero for a 32-bit result (R123). -/
def laneOf (w n : Nat) : U64 := BitVec.ofNat 64 (n % 2 ^ w)

def lanes1 (w : Nat) (f : Nat → Nat) (a : LaneVec) : LaneVec := a.map fun x => laneOf w (f (lowBits w x))
def lanes2 (w : Nat) (f : Nat → Nat → Nat) (a b : LaneVec) : LaneVec :=
  Vector.ofFn fun i => laneOf w (f (lowBits w a[i]) (lowBits w b[i]))
def lanes3 (w : Nat) (f : Nat → Nat → Nat → Nat) (a b x : LaneVec) : LaneVec :=
  Vector.ofFn fun i => laneOf w (f (lowBits w a[i]) (lowBits w b[i]) (lowBits w x[i]))

/-- VEC_CTRL.OVF_MODE in effect: saturate (R126). -/
def Channel.vsat (ch : Channel) : Bool := ch.vec.ovfMode

/-- One-operand, two-operand and three-operand lane operations. -/
def vecOp1 (s : State) (c : ChanId) (core : LCore) (w clk : Nat) (f : Bool → Nat → Nat) (d a : VReg) : State :=
  let ch := s.ch c
  vecWrite s c core d clk (lanes1 w (f ch.vsat) (ch.vreg core a))
def vecOp2 (s : State) (c : ChanId) (core : LCore) (w clk : Nat) (f : Bool → Nat → Nat → Nat) (d a b : VReg) : State :=
  let ch := s.ch c
  vecWrite s c core d clk (lanes2 w (f ch.vsat) (ch.vreg core a) (ch.vreg core b))
def vecOp3 (s : State) (c : ChanId) (core : LCore) (w clk : Nat) (f : Bool → Nat → Nat → Nat → Nat) (d a b x : VReg) :
    State :=
  let ch := s.ch c
  vecWrite s c core d clk (lanes3 w (f ch.vsat) (ch.vreg core a) (ch.vreg core b) (ch.vreg core x))

/-- One level of the fixed tree: positions 2i and 2i + 1 combine into i, the lower position on the left (R125). -/
def treeLevel {α : Type} (f : α → α → α) : List α → List α
  | a :: b :: r => f a b :: treeLevel f r
  | l => l

/-- The fixed tree of R125: six levels over 64 positions. -/
def treeFold {α : Type} (f : α → α → α) (l : List α) : List α :=
  treeLevel f (treeLevel f (treeLevel f (treeLevel f (treeLevel f (treeLevel f l)))))

end Sys2Proof.Machine
end

