-- ==== Sys2Proof/Machine/Vector.lean ====
section
/-! DEFINITION. The arithmetic of the vector engine, Table 07-1: floating point, conversions, integers and logic (R126,
R127). -/

namespace Sys2Proof.Machine

/-! ### Floating point -/

def execVecAdd (c : ChanId) (core : LCore) (p : Prec) (d a b : VReg) (s : State) : Result :=
  .next (vecOp2 s c core (precBits p) (precClk p) (fun sat x y => fpAdd (precFmt p) sat x y) d a b)

def execVecSub (c : ChanId) (core : LCore) (p : Prec) (d a b : VReg) (s : State) : Result :=
  .next (vecOp2 s c core (precBits p) (precClk p) (fun sat x y => fpSub (precFmt p) sat x y) d a b)

def execVecMul (c : ChanId) (core : LCore) (p : Prec) (d a b : VReg) (s : State) : Result :=
  .next (vecOp2 s c core (precBits p) (precClk p) (fun sat x y => fpMul (precFmt p) sat x y) d a b)

def execVecFma (c : ChanId) (core : LCore) (p : Prec) (d a b x : VReg) (s : State) : Result :=
  .next (vecOp3 s c core (precBits p) (precClk p) (fun sat u v w => fpFma (precFmt p) sat u v w) d a b x)

def execVecMin (c : ChanId) (core : LCore) (p : Prec) (d a b : VReg) (s : State) : Result :=
  .next (vecOp2 s c core (precBits p) (precClk p) (fun _ x y => fpMin (precFmt p) x y) d a b)

def execVecMax (c : ChanId) (core : LCore) (p : Prec) (d a b : VReg) (s : State) : Result :=
  .next (vecOp2 s c core (precBits p) (precClk p) (fun _ x y => fpMax (precFmt p) x y) d a b)

def execVecAbs (c : ChanId) (core : LCore) (p : Prec) (d a : VReg) (s : State) : Result :=
  .next (vecOp1 s c core (precBits p) (precClk p) (fun _ x => fpAbs (precFmt p) x) d a)

def execVecNeg (c : ChanId) (core : LCore) (p : Prec) (d a : VReg) (s : State) : Result :=
  .next (vecOp1 s c core (precBits p) (precClk p) (fun _ x => fpNeg (precFmt p) x) d a)

/-- A compare writes 1 where the relation holds and 0 elsewhere. [DEDUCED, log entry 12] -/
def execVecCompare (c : ChanId) (core : LCore) (p : Prec) (op : CmpOp) (d a b : VReg) (s : State) : Result :=
  .next (vecOp2 s c core (precBits p) (precClk p) (fun _ x y => b2n (fpCmp (precFmt p) op x y)) d a b)

def execDiv32 (c : ChanId) (core : LCore) (d a b : VReg) (s : State) : Result :=
  .next (vecOp2 s c core 32 4 (fun sat x y => fpDiv fpF32 sat x y) d a b)

def execSqrt32 (c : ChanId) (core : LCore) (d a : VReg) (s : State) : Result :=
  .next (vecOp1 s c core 32 4 (fun sat x => fpSqrt fpF32 sat x) d a)

def execDiv64 (c : ChanId) (core : LCore) (d a b : VReg) (s : State) : Result :=
  .next (vecOp2 s c core 64 16 (fun sat x y => fpDiv fpF64 sat x y) d a b)

def execSqrt64 (c : ChanId) (core : LCore) (d a : VReg) (s : State) : Result :=
  .next (vecOp1 s c core 64 16 (fun sat x => fpSqrt fpF64 sat x) d a)

/-! ### Conversions -/

/-- Job seed of the loaded stream, the key of every stochastic rounding (R64). -/
def Channel.srSeed (ch : Channel) : Nat :=
  match ch.pss.stream with
  | some st => st.seed.toNat
  | none => 0
/-- Step number of the task that runs on a core's engine, or of the step in progress (R64, R237). -/
def Channel.srStep (ch : Channel) (core : LCore) : Nat :=
  ((ch.tsk.tasks.find? fun t => t.core == core.val && t.st == .running && [1, 3, 5].contains t.exec).map (·.step)).getD ch.upd.sJob |>.toNat

/-- FP32 to BF16, kept in a register as the FP32 value it stands for (R58, R123). [DEDUCED, log entry 66] -/
def toBf16 (sat : Bool) (rnd : Rnd) (x : Nat) : Nat := fpConv fpF32 fpBf16 sat rnd x * 2 ^ 16

/-- One lane of a conversion. [DEDUCED, log entry 66] -/
def convLane (k : Conv) (sat : Bool) (rnd : Rnd) (x : U64) : U64 :=
  match k with
  | .f32ToF64 => laneOf 64 (fpConv fpF32 fpF64 sat .rne (lowBits 32 x))
  | .f64ToF32 => laneOf 32 (fpConv fpF64 fpF32 sat .rne (lowBits 64 x))
  | .f32ToBf16 => laneOf 32 (toBf16 sat .rne (lowBits 32 x))
  | .f32ToBf16Sr => laneOf 32 (toBf16 sat rnd (lowBits 32 x))
  | .f32ToI32 => laneOf 32 (fpToInt fpF32 32 (lowBits 32 x))
  | .f32ToI64 => laneOf 64 (fpToInt fpF32 64 (lowBits 32 x))
  | .f64ToI32 => laneOf 32 (fpToInt fpF64 32 (lowBits 64 x))
  | .f64ToI64 => laneOf 64 (fpToInt fpF64 64 (lowBits 64 x))
  | .i32ToF32 => laneOf 32 (fpOfInt fpF32 32 (lowBits 32 x))
  | .i64ToF32 => laneOf 32 (fpOfInt fpF32 64 (lowBits 64 x))
  | .i32ToF64 => laneOf 64 (fpOfInt fpF64 32 (lowBits 32 x))
  | .i64ToF64 => laneOf 64 (fpOfInt fpF64 64 (lowBits 64 x))

/-- Rounding of lane i of a BF16 narrowing: element index sr.index + i (R64). -/
def Channel.bf16Rnd (ch : Channel) (core : LCore) (sr : SrArg) (i : Nat) : Rnd :=
  rndOf sr.on ch.srSeed (ch.srStep core) sr.tensor ((sr.index + i) / 32) selBf16 ((sr.index + i) % 32)

def execVecConvert (c : ChanId) (core : LCore) (k : Conv) (sr : SrArg) (d a : VReg) (s : State) : Result :=
  let ch := s.ch c
  let v := ch.vreg core a
  .next (vecWrite s c core d 1 (Vector.ofFn fun i => convLane k ch.vsat (ch.bf16Rnd core { sr with on := true } i.val) v[i]))

/-! ### Integers and logic -/

def intBits (wide : Bool) : Nat := if wide then 64 else 32

def execIntAdd (c : ChanId) (core : LCore) (wide : Bool) (d a b : VReg) (s : State) : Result :=
  .next (vecOp2 s c core (intBits wide) 1 (fun _ x y => x + y) d a b)

def execIntSub (c : ChanId) (core : LCore) (wide : Bool) (d a b : VReg) (s : State) : Result :=
  .next (vecOp2 s c core (intBits wide) 1 (fun _ x y => x + (2 ^ intBits wide - y)) d a b)

def execIntMulLow (c : ChanId) (core : LCore) (wide : Bool) (d a b : VReg) (s : State) : Result :=
  .next (vecOp2 s c core (intBits wide) 1 (fun _ x y => x * y) d a b)

/-- A shift by less than the width. [DESIGN CHOICE, log entry 13] -/
def shiftVal (w : Nat) (op : ShiftOp) (x n : Nat) : Nat :=
  match op with
  | .left => x * 2 ^ n
  | .logicalRight => x / 2 ^ n
  | .arithRight => if x < 2 ^ (w - 1) then x / 2 ^ n else 2 ^ w - 1 - (2 ^ w - 1 - x) / 2 ^ n

/-- The manual gives no result for a shift of the width or more: that lane receives a free value. [DESIGN CHOICE, log entry 13] -/
def execIntShift (c : ChanId) (core : LCore) (wide : Bool) (op : ShiftOp) (d a b : VReg) (s : State) : Result :=
  let ch := s.ch c
  let w := intBits wide
  let x := ch.vreg core a
  let n := ch.vreg core b
  let v : LaneVec := Vector.ofFn fun i =>
    if lowBits w n[i] < w then laneOf w (shiftVal w op (lowBits w x[i]) (lowBits w n[i]))
    else laneOf w (Config.freeValue (s.free + i.val))
  .next ((vecWrite s c core d 1 v).tookFree 64)

def execIntAnd (c : ChanId) (core : LCore) (wide : Bool) (d a b : VReg) (s : State) : Result :=
  .next (vecOp2 s c core (intBits wide) 1 (fun _ x y => x &&& y) d a b)

def execIntOr (c : ChanId) (core : LCore) (wide : Bool) (d a b : VReg) (s : State) : Result :=
  .next (vecOp2 s c core (intBits wide) 1 (fun _ x y => x ||| y) d a b)

def execIntXor (c : ChanId) (core : LCore) (wide : Bool) (d a b : VReg) (s : State) : Result :=
  .next (vecOp2 s c core (intBits wide) 1 (fun _ x y => x ^^^ y) d a b)

/-- Lane-wise select: the first source where the mask lane is not zero. -/
def execIntSelect (c : ChanId) (core : LCore) (wide : Bool) (d m a b : VReg) (s : State) : Result :=
  .next (vecOp3 s c core (intBits wide) 1 (fun _ k x y => if k = 0 then y else x) d m a b)

/-- A w-bit code as a two's-complement or an unsigned number. -/
def intVal (w : Nat) (signed : Bool) (x : Nat) : Int := if signed && decide (2 ^ (w - 1) ≤ x) then (x : Int) - (2 ^ w : Nat) else x

def intCmp (w : Nat) (signed : Bool) (op : CmpOp) (x y : Nat) : Bool :=
  match op with
  | .eq => decide (x = y)
  | .lt => decide (intVal w signed x < intVal w signed y)
  | .le => decide (intVal w signed x ≤ intVal w signed y)

/-- [DEDUCED, log entry 12] -/
def execIntCompare (c : ChanId) (core : LCore) (wide signed : Bool) (op : CmpOp) (d a b : VReg) (s : State) : Result :=
  .next (vecOp2 s c core (intBits wide) 1 (fun _ x y => b2n (intCmp (intBits wide) signed op x y)) d a b)

/-! ### Special functions (R128 to R131) -/

/-- A special function of every lane. -/
def vecSfu (s : State) (c : ChanId) (core : LCore) (f : Sfu) (d a : VReg) : State :=
  vecOp1 s c core 32 1 (fun sat x => sfu f sat x) d a

def execExp2 (c : ChanId) (core : LCore) (d a : VReg) (s : State) : Result := .next (vecSfu s c core .exp2 d a)
def execLog2 (c : ChanId) (core : LCore) (d a : VReg) (s : State) : Result := .next (vecSfu s c core .log2 d a)
def execRcp (c : ChanId) (core : LCore) (d a : VReg) (s : State) : Result := .next (vecSfu s c core .rcp d a)
def execRsqrt (c : ChanId) (core : LCore) (d a : VReg) (s : State) : Result := .next (vecSfu s c core .rsqrt d a)
def execSqrt (c : ChanId) (core : LCore) (d a : VReg) (s : State) : Result := .next (vecSfu s c core .sqrt d a)
def execTanh (c : ChanId) (core : LCore) (d a : VReg) (s : State) : Result := .next (vecSfu s c core .tanh d a)
def execSigmoid (c : ChanId) (core : LCore) (d a : VReg) (s : State) : Result := .next (vecSfu s c core .sigmoid d a)
def execGelu (c : ChanId) (core : LCore) (d a : VReg) (s : State) : Result := .next (vecSfu s c core .gelu d a)
def execSilu (c : ChanId) (core : LCore) (d a : VReg) (s : State) : Result := .next (vecSfu s c core .silu d a)
def execSin (c : ChanId) (core : LCore) (d a : VReg) (s : State) : Result := .next (vecSfu s c core .sin d a)
def execCos (c : ChanId) (core : LCore) (d a : VReg) (s : State) : Result := .next (vecSfu s c core .cos d a)

end Sys2Proof.Machine
end

