-- ==== Sys2Proof/Machine/Stats.lean ====
section
/-! DEFINITION. Statistics, softmax, cross-lane and random operations of the vector engine (R125, R133 to R138, R141). -/

namespace Sys2Proof.Machine

def zeroLane : LaneState := {}
def zeroLanes : Vector LaneState 64 := Vector.replicate 64 zeroLane
def zeroXaccs : Vector Xacc 64 := Vector.replicate 64 {}

/-- [DESIGN CHOICE, log entry 3] -/
def Channel.laneStates (ch : Channel) (core : LCore) : Vector LaneState 64 := smGet zeroLanes ch.vec.lanes core.val
def Channel.setLaneStates (ch : Channel) (core : LCore) (v : Vector LaneState 64) : Channel :=
  { ch with vec := { ch.vec with lanes := smSet zeroLanes ch.vec.lanes core.val v } }
/-- [DESIGN CHOICE, log entry 3] -/
def Channel.xaccs (ch : Channel) (core : LCore) : Vector Xacc 64 := smGet zeroXaccs ch.vec.xacc core.val
def Channel.setXaccs (ch : Channel) (core : LCore) (v : Vector Xacc 64) : Channel :=
  { ch with vec := { ch.vec with xacc := smSet zeroXaccs ch.vec.xacc core.val v } }

/-- Quotient of two exact values given as naturals, rounded once: n / d for d > 0. -/
def rnQuot (f : FpFmt) (n d : Nat) : Nat :=
  let k := f.mb + 5 + Nat.log2 d
  fpRne f false false (2 * (n * 2 ^ k / d) + (if n * 2 ^ k % d = 0 then 0 else 1)) (-(k : Int) - 1)

/-- A floating-point value over a positive integer, rounded once. -/
def rnOver (f : FpFmt) (sat : Bool) (a n : Nat) : Nat :=
  match fpUnpack f a with
  | .fin s m e =>
    let k := f.mb + 5 + Nat.log2 n
    fpRne f sat s (2 * (m * 2 ^ k / n) + (if m * 2 ^ k % n = 0 then 0 else 1)) (e - k - 1)
  | _ => a

/-- Strictly positive and strictly negative values; NaN is neither. -/
def fpPos (f : FpFmt) (a : Nat) : Bool := fpCmp f .lt 0 a
def fpNegative (f : FpFmt) (a : Nat) : Bool := fpCmp f .lt a 0

/-- One WELFORD update of a lane (R133). [DEDUCED, log entry 67] -/
def welfordLane (f : FpFmt) (sat : Bool) (x : Nat) (l : LaneState) : LaneState :=
  if !fpFinite f x then { l with poison := true }
  else
    let n := wrapAdd l.n 1
    let delta := fpSub f sat x l.mean.toNat
    let mean := fpAdd f sat l.mean.toNat (fpMul f sat delta (rnQuot f 1 n.toNat))
    let d2 := fpSub f sat x mean
    let add := (fpPos f delta && fpPos f d2) || (fpNegative f delta && fpNegative f d2)
    let m2 := if add then fpAdd f sat l.m2.toNat (fpMul f sat delta d2) else l.m2.toNat
    { l with n := n, mean := BitVec.ofNat 64 mean, m2 := BitVec.ofNat 64 m2 }

/-- One SUMSQ update of a lane (R133); S is held where M2 is. [DEDUCED, log entry 67] -/
def sumsqLane (f : FpFmt) (sat : Bool) (x : Nat) (l : LaneState) : LaneState :=
  { l with n := wrapAdd l.n 1, m2 := BitVec.ofNat 64 (fpAdd f sat l.m2.toNat (fpMul f sat x x)) }

/-- What a merge adds to M2: rn(rn(δ²) × rn(na nb / n)), which is never NaN (R135): an empty state adds +0 whatever δ is, and a δ that has
overflowed adds what an overflow gives. [DEDUCED, log entry 231] -/
def mergeGrowth (f : FpFmt) (sat : Bool) (delta nab n : Nat) : Nat :=
  if nab = 0 then 0
  else
    let x := fpMul f sat (fpMul f sat delta delta) (rnQuot f nab n)
    if fpUnpack f x = .nan then fpOver f sat false else x

/-- MERGE of two WELFORD states, a the lower position (R134). -/
def mergeLane (f : FpFmt) (sat : Bool) (a b : LaneState) : LaneState :=
  let n := a.n.toNat + b.n.toNat
  let poison := a.poison || b.poison
  if n = 0 then { poison := poison }
  else
    let delta := fpSub f sat b.mean.toNat a.mean.toNat
    let mean := fpAdd f sat a.mean.toNat (fpMul f sat delta (rnQuot f b.n.toNat n))
    let m2 := fpAdd f sat (fpAdd f sat a.m2.toNat b.m2.toNat) (mergeGrowth f sat delta (a.n.toNat * b.n.toNat) n)
    { n := BitVec.ofNat 32 n, mean := BitVec.ofNat 64 mean, m2 := BitVec.ofNat 64 m2, poison := poison }

/-- MERGE of two SUMSQ states: the counts and the sums. [DEDUCED, log entry 14] -/
def mergeSumsq (f : FpFmt) (sat : Bool) (a b : LaneState) : LaneState :=
  { n := wrapAdd a.n b.n.toNat, mean := 0, m2 := BitVec.ofNat 64 (fpAdd f sat a.m2.toNat b.m2.toNat),
    poison := a.poison || b.poison }

/-- [DEDUCED, log entry 14] -/
def mergeAny (sumsq : Bool) (f : FpFmt) (sat : Bool) (a b : LaneState) : LaneState :=
  if sumsq then mergeSumsq f sat a b else mergeLane f sat a b

/-- Issue clks of a statistics operation: rate 0.5, half of it for the FP64 variants (Table 07-1, R133). -/
def statClk (p : Prec) : Nat := 2 * precClk p

/-- Every active lane takes its element of one register; `first` starts from the empty state. -/
def statUpdate (s : State) (c : ChanId) (core : LCore) (p : Prec) (first : Bool) (active : Nat) (a : VReg)
    (g : FpFmt → Bool → Nat → LaneState → LaneState) : State :=
  s.onCh c fun ch =>
    let old := if first then zeroLanes else ch.laneStates core
    let x := ch.vreg core a
    let new : Vector LaneState 64 := Vector.ofFn fun i =>
      if i.val < active then g (precFmt p) ch.vsat (lowBits (precBits p) x[i]) old[i] else old[i]
    (ch.setLaneStates core new).vecBusy core (statClk p)

def execWelford (c : ChanId) (core : LCore) (p : Prec) (first : Bool) (active : Nat) (a : VReg) (s : State) : Result :=
  .next (statUpdate s c core p first active a welfordLane)

def execSumsq (c : ChanId) (core : LCore) (p : Prec) (first : Bool) (active : Nat) (a : VReg) (s : State) : Result :=
  .next (statUpdate s c core p first active a sumsqLane)

/-- A lane state that another core has sent, from lane b of three registers: count with the poison flag in bit 32, mean, M2 (R134).
 [DESIGN CHOICE, log entry 211] -/
def Channel.stateIn (ch : Channel) (core : LCore) (p : Prec) (r : VReg × VReg × VReg) (b : Lane) : LaneState :=
  let x := (ch.vreg core r.1)[b]
  { n := x.setWidth 32, mean := BitVec.ofNat 64 (lowBits (precBits p) (ch.vreg core r.2.1)[b])
    m2 := BitVec.ofNat 64 (lowBits (precBits p) (ch.vreg core r.2.2)[b]), poison := x.getLsbD 32 }

/-- A lane state into lane a of three registers, from which a program can store and send it (R134). [DESIGN CHOICE, log entry 211] -/
def Channel.stateOut (ch : Channel) (core : LCore) (a : Lane) (r : VReg × VReg × VReg) (l : LaneState) : Channel :=
  let put (k : Channel) (d : VReg) (x : U64) : Channel := k.setVreg core d ((k.vreg core d).set a x)
  put (put (put ch r.1 (BitVec.ofNat 64 (l.n.toNat + 2 ^ 32 * b2n l.poison))) r.2.1 l.mean) r.2.2 l.m2

/-- MERGE of the state of lane a with that of lane b, or with one that lies in lane b of three registers; registers of a take the merged state
out.
 [DESIGN CHOICE, log entry 211] -/
def execMerge (c : ChanId) (core : LCore) (p : Prec) (sumsq : Bool) (a : LaneDst) (b : LaneSrc) (s : State) : Result :=
  .next (s.onCh c fun ch =>
    let l := ch.laneStates core
    let second := match b.regs with
      | some r => ch.stateIn core p r b.lane
      | none => l[b.lane]
    let new := mergeAny sumsq (precFmt p) ch.vsat l[a.lane] second
    let k := ch.setLaneStates core (l.set a.lane new)
    (match a.regs with
      | some r => k.stateOut core a.lane r new
      | none => k).vecBusy core (statClk p))

/-- Outputs of FINISH: mean (or nothing for SUMSQ), variance (or mean square), and its reciprocal root (R136). The manual
defines RSQRT for FP32 only, so the third output of an FP64 state is a free value. [DEDUCED, log entry 67; DESIGN CHOICE, log entry 15] -/
def finishLane (p : Prec) (sumsq bessel sat : Bool) (eps free : Nat) (l : LaneState) : Nat × Nat × Nat :=
  let f := precFmt p
  if l.poison then (f.nanCode, f.nanCode, f.nanCode)
  else
    let n := l.n.toNat
    let v :=
      if sumsq then (if n = 0 then fpDiv f sat l.m2.toNat 0 else rnOver f sat l.m2.toNat n)
      else if n = b2n bessel then 0
      else if n = 0 then fpNeg f l.m2.toNat
      else rnOver f sat l.m2.toNat (n - b2n bessel)
    let r := match p with
      | .f32 => sfu .rsqrt sat (fpAdd f sat v eps)
      | .f64 => free
    (if sumsq then 0 else l.mean.toNat, v, r)

/-- [DESIGN CHOICE, log entry 15] -/
def execFinish (c : ChanId) (core : LCore) (p : Prec) (sumsq bessel : Bool) (eps : U32) (lane : Lane)
    (dMean dVar dR : VReg) (s : State) : Result :=
  let ch := s.ch c
  let w := precBits p
  let r := finishLane p sumsq bessel ch.vsat eps.toNat s.freeVal (ch.laneStates core)[lane]
  let put (ch : Channel) (d : VReg) (x : Nat) : Channel := ch.setVreg core d ((ch.vreg core d).set lane (laneOf w x))
  let k := if sumsq then ch else put ch dMean r.1
  .next ((s.setCh c ((put (put k dVar r.2.1) dR r.2.2).vecBusy core (statClk p))).tookFree 1)

/-! ### Softmax (R137, R138) -/

def execRowmax (c : ChanId) (core : LCore) (d a b : VReg) (s : State) : Result :=
  .next (vecOp2 s c core 32 1 (fun _ x y => fpMax fpF32 x y) d a b)

/-- p = EXP2(rn(rn(s − m) × c)); a score of −Inf gives +0 whatever m is (R137). -/
def expsubLane (sat : Bool) (k x m : Nat) : Nat :=
  if x = fpF32.signed true fpF32.infCode then 0
  else sfu .exp2 sat (fpMul fpF32 sat (fpSub fpF32 sat x m) k)

def execExpsub (c : ChanId) (core : LCore) (k : U32) (d x m : VReg) (s : State) : Result :=
  .next (vecOp2 s c core 32 1 (fun sat u v => expsubLane sat k.toNat u v) d x m)

/-- Adds an FP32 value into an exact accumulator; a negative, infinite or NaN input marks the result NaN, and a sum that
reaches 2^171 is marked (R138). [DEDUCED, log entry 68] -/
def xsumLane (x : Nat) (a : Xacc) : Xacc :=
  match fpUnpack fpF32 x with
  | .fin neg m e =>
    if m = 0 then a
    else if neg then { a with nan := true }
    else
      let v := a.sum.toNat + m * 2 ^ (e + 149).toNat
      { a with sum := BitVec.ofNat 320 v, ovf := a.ovf || decide (2 ^ 320 ≤ v) }
  | _ => { a with nan := true }

/-- Combines two accumulators exactly. [DEDUCED, log entry 68] -/
def xaccAdd (a b : Xacc) : Xacc :=
  let v := a.sum.toNat + b.sum.toNat
  { sum := BitVec.ofNat 320 v, ovf := a.ovf || b.ovf || decide (2 ^ 320 ≤ v), nan := a.nan || b.nan }

/-- l of an accumulator: the sum rounded once to FP32 (R137, R138). [DEDUCED, log entry 68] -/
def xaccRound (sat : Bool) (a : Xacc) : Nat :=
  if a.nan then fpF32.nanCode
  else if a.ovf then fpOver fpF32 sat false
  else fpRne fpF32 sat false a.sum.toNat (-149)

/-- XSUM_OVF: status bit and event when an accumulator newly reached 2^171. -/
def Channel.xsumOver (ch : Channel) (c : ChanId) (newly : Bool) : Channel :=
  if newly then { ch with vec := { ch.vec with xsumOvf := true } }.raise c 0x1007 else ch

def execXsum (c : ChanId) (core : LCore) (first : Bool) (active : Nat) (a : VReg) (s : State) : Result :=
  .next (s.onCh c fun ch =>
    let old := if first then zeroXaccs else ch.xaccs core
    let x := ch.vreg core a
    let new : Vector Xacc 64 := Vector.ofFn fun i => if i.val < active then xsumLane (lowBits 32 x[i]) old[i] else old[i]
    let newly := (old.toList.zip new.toList).any fun p => !p.1.ovf && p.2.ovf
    ((ch.setXaccs core new).vecBusy core 1).xsumOver c newly)

/-- rn(p / l), with +0 for p = l = +0 (R137). -/
def smdivLane (sat : Bool) (p l : Nat) : Nat := if p = 0 ∧ l = 0 then 0 else fpDiv fpF32 sat p l

def execSmdiv (c : ChanId) (core : LCore) (d p l : VReg) (s : State) : Result :=
  .next (vecOp2 s c core 32 4 (fun sat x y => smdivLane sat x y) d p l)

/-! ### Across lanes (R125) -/

/-- Writes the result of a tree in position 0; the other lanes of the destination keep their values. [DEDUCED, log entry 16] -/
def treeWrite (s : State) (c : ChanId) (core : LCore) (d : VReg) (clk w x : Nat) : State :=
  vecWrite s c core d clk (((s.ch c).vreg core d).set 0 (laneOf w x))

/-- [DEDUCED, log entry 16] -/
def execTreeAdd (c : ChanId) (core : LCore) (p : Prec) (exact : Bool) (d a : VReg) (s : State) : Result :=
  let ch := s.ch c
  if exact then
    let l := (ch.xaccs core).toList
    let r := (treeFold xaccAdd l).headD {}
    let newly := r.ovf && !(l.any fun x => x.ovf)
    .next ((treeWrite s c core d 6 32 (xaccRound ch.vsat r)).onCh c fun k =>
      (k.setXaccs core ((k.xaccs core).set 0 r)).xsumOver c newly)
  else
    let l := (ch.vreg core a).toList.map (lowBits (precBits p))
    .next (treeWrite s c core d (6 * precClk p) (precBits p)
      ((treeFold (fpAdd (precFmt p) ch.vsat) l).headD 0))

/-- [DEDUCED, log entry 16] -/
def execTreeMax (c : ChanId) (core : LCore) (p : Prec) (d a : VReg) (s : State) : Result :=
  let l := ((s.ch c).vreg core a).toList.map (lowBits (precBits p))
  .next (treeWrite s c core d (6 * precClk p) (precBits p) ((treeFold (fpMax (precFmt p)) l).headD 0))

/-- The merged state is left in lane 0, where FINISH takes it. [DEDUCED, log entry 16] -/
def execTreeMerge (c : ChanId) (core : LCore) (p : Prec) (sumsq : Bool) (s : State) : Result :=
  .next (s.onCh c fun ch =>
    let l := ch.laneStates core
    let r := (treeFold (mergeAny sumsq (precFmt p) ch.vsat) l.toList).headD zeroLane
    (ch.setLaneStates core (l.set 0 r)).vecBusy core (6 * statClk p))

def execBroadcast (c : ChanId) (core : LCore) (d a : VReg) (lane : Lane) (s : State) : Result :=
  .next (vecWrite s c core d 6 (Vector.replicate 64 ((s.ch c).vreg core a)[lane]))

/-! ### PHILOX (R141) -/

/-- Lane i draws with the key in register k and the counter words (c0, c1) in a and (c2, c3) in b. -/
def philoxLane (k a b : U64) : Nat × Nat × Nat × Nat :=
  philox10 k.toNat (a.toNat % 2 ^ 32, a.toNat / 2 ^ 32, b.toNat % 2 ^ 32, b.toNat / 2 ^ 32)

def execPhilox (c : ChanId) (core : LCore) (k a b d0 d1 d2 d3 : VReg) (s : State) : Result :=
  .next (s.onCh c fun ch =>
    let vk := ch.vreg core k
    let va := ch.vreg core a
    let vb := ch.vreg core b
    let w : Vector (Nat × Nat × Nat × Nat) 64 := Vector.ofFn fun i => philoxLane vk[i] va[i] vb[i]
    ((((ch.setVreg core d0 (w.map fun x => laneOf 32 x.1)).setVreg core d1 (w.map fun x => laneOf 32 x.2.1)).setVreg
      core d2 (w.map fun x => laneOf 32 x.2.2.1)).setVreg core d3 (w.map fun x => laneOf 32 x.2.2.2)).vecBusy core 4)

end Sys2Proof.Machine
end

