-- ==== Sys2Proof/Machine/Buckets.lean ====
section
/-! DEFINITION. The data of the gradient exchange: what each transfer carries, and the additions of both paths at their fixed places and in
their fixed order (R222 to R229, R231, R235, R236). -/

namespace Sys2Proof.Machine

/-! ### Bitmaps and their bytes -/

/-- A bitmap of n bits as bytes, bit i for index i (R219). [DESIGN CHOICE, log entry 224] -/
def bitmapBytes (n : Nat) (l : List Nat) : List Byte :=
  leBytes ((n + 7) / 8) (((List.range n).filter l.contains).foldl (fun x i => x + 2 ^ i) 0)

/-- The indices of a bitmap of n bits. [DESIGN CHOICE, log entry 224] -/
def bitmapOf (n : Nat) (l : List Byte) : List Nat := (List.range n).filter fun i => (leNat l).testBit i

/-! ### Segments and samples (R220, R221, R236) -/

def Channel.groups (ch : Channel) (b : Nat) : Nat := ((ch.bucketPlan b).map (·.ng.toNat)).getD 0

/-- Groups of a segment: ceil(NG / k) of them, and the rest in the last (R220). -/
def Channel.segLen (ch : Channel) (b : Nat) : Nat := let k := max (ch.bucketGroup b).k 1; (ch.groups b + k - 1) / k

/-- The groups of segment i, by their index in the bucket. -/
def Channel.segment (ch : Channel) (b i : Nat) : List Nat :=
  (List.range (min (ch.segLen b) (ch.groups b - ch.segLen b * i))).map fun j => ch.segLen b * i + j

/-- Whether the second path samples a group (R236). -/
def Channel.isSampled (ch : Channel) (g : Nat) : Bool :=
  ch.gxc.actCheckEn && (g + ch.upd.sJob.toNat) % 2 ^ ch.gxc.actCheckLog2.toNat == 0

/-- The groups that this channel adds on a path: its segment, or the sampled groups of the segment it checks. -/
def Channel.ownGroups (ch : Channel) (c : ChanId) (check : Bool) (b : Nat) : List Nat :=
  match ch.rankPos c b with
  | none => []
  | some (_, p) => if check then (ch.segment b (checkedSegment (ch.bucketGroup b) p)).filter ch.isSampled else ch.segment b p

/-! ### The encoded gradient (R222, R225) -/

/-- The pre-pass byte of each block. -/
def prepassBytes (xs : List Nat) : List U8 := (chunks 32 (xs.length / 32) xs).map fun x => BitVec.ofNat 8 (blk8Exp x)

/-- Block n of this channel's gradient under the agreed exponent: its bytes and saturations; the key is that of R64 with the contributor's own
tensor id (R220, R225). -/
def Channel.encodeBlock (ch : Channel) (c : ChanId) (b n : Nat) (xs : List Nat) : U8 × List Byte × Nat :=
  let tid := ((ch.bucketPlan b).map (·.tid.toNat)).getD 0 + (ch.contribIndex c (ch.bucketGroup b)).getD 0
  let s := (ch.bucket b).settExp.getD n 0
  let r := blk8Encode true (fun i => .sr (srWord ch.srSeed ch.upd.sJob.toNat tid n selBlk8 i)) s.toNat xs
  (s, r.1, r.2)

/-- Group g of this channel's encoded gradient, and its saturations. -/
def Channel.encodeGroup (ch : Channel) (c : ChanId) (b : Nat) (xs : List Nat) (g : Nat) : List Byte × Nat :=
  let r := (List.range 4).map fun j => ch.encodeBlock c b (4 * g + j) ((xs.drop (128 * g + 32 * j)).take 32)
  (r.map (·.1) ++ r.flatMap (fun x => x.2.1), (r.map fun x => x.2.2).foldl (· + ·) 0)

/-- Encoded groups in order, with what saturated in those that lie within n bytes from `off` on. [DEDUCED, log entry 77] -/
def Channel.encodeGroups (ch : Channel) (c : ChanId) (b : Nat) (gs : List Nat) (off n : Nat) : List Byte × Nat :=
  let xs := ch.gradient b
  let r := gs.map (ch.encodeGroup c b xs)
  (r.flatMap (·.1), ((r.zipIdx.filter fun e => decide (off ≤ 132 * e.2) && decide (132 * (e.2 + 1) ≤ off + n)).map fun e => e.1.2).foldl (· + ·) 0)

/-! ### What a transfer carries -/

/-- The first of a path in the order of its chain: the primary path ascends the included setts, the second one descends them (R228, R236). -/
def chainFirst (check : Bool) (l : List Nat) : Option Nat := if check then l.getLast? else l.head?
def chainLast (check : Bool) (l : List Nat) : Option Nat := if check then l.head? else l.getLast?

/-- Included setts: those with a contributor in the final bitmap, in ascending rank. -/
def Channel.includedSetts (ch : Channel) (b : Nat) : List Nat :=
  let g := ch.bucketGroup b
  (List.range g.g).filter fun r => (ch.bucket b).domMap.any fun i => i / max g.k 1 == r

def Bucket.path (k : Bucket) (check : Bool) : SegSum := if check then k.second else k.first
def Channel.onPath (ch : Channel) (check : Bool) (b : Nat) (f : SegSum → SegSum) : Channel :=
  ch.onBucket b fun k => if check then { k with second := f k.second } else { k with first := f k.first }

/-- This channel begins the chain of a path, or ends it. -/
def Channel.beginsChain (ch : Channel) (c : ChanId) (check : Bool) (b : Nat) : Bool :=
  (ch.rankPos c b).map (·.1) == chainFirst check (ch.includedSetts b)
def Channel.endsChain (ch : Channel) (c : ChanId) (check : Bool) (b : Nat) : Bool :=
  (ch.rankPos c b).map (·.1) == chainLast check (ch.includedSetts b)

/-- The sett partial is ready to be added: with one sett it needs no requantisation (R227). -/
def Channel.partReady (ch : Channel) (check : Bool) (b : Nat) : Bool :=
  ((ch.bucket b).path check).scaled || (decide ((ch.bucketGroup b).g ≤ 1) && ((ch.bucket b).path check).added)

/-- The running sum of a path at this channel, once it is there. -/
def Channel.runningSum (ch : Channel) (c : ChanId) (check : Bool) (b : Nat) : Option (List Byte) :=
  let x := (ch.bucket b).path check
  if ch.beginsChain c check b then (if ch.partReady check b then some x.part else none)
  else if x.summed then some x.sum else none

/-- HBM range of the reduced groups of a bucket (R229). -/
def Channel.outRange (ch : Channel) (b : Nat) : Nat × Nat :=
  ((ch.bucketPlan b).map fun p => (p.outBase.toNat, 132 * p.ng.toNat)).getD (0, 0)

/-- The bytes of a transfer of the exchange: n of them from `off` on are sent; and the elements that saturate in encoding those.
 [DESIGN CHOICE, log entry 224] -/
def Channel.exchangeBytes (ch : Channel) (c : ChanId) (b : Nat) (src : ExSrc) (off n : Nat) : List Byte × Nat :=
  let g := ch.bucketGroup b
  let k := ch.bucket b
  match src with
  | .prepass => (prepassBytes (ch.gradient b) ++ leBytes 2 ch.gxc.epoch.toNat, 0)
  | .encoded => ch.encodeGroups c b (List.range (ch.groups b)) off n
  | .sampled => ((ch.encodeGroups c b ((List.range (ch.groups b)).filter ch.isSampled) off n).1, 0)
  | .summary => (bitmapBytes 16 k.settMap ++ k.settMax, 0)
  | .verdict sett => (bitmapBytes (g.g * g.k) k.domMap ++ k.domExp ++ (if sett then k.settExp else []), 0)
  | .running check => match ch.runningSum c check b with
    | some l => (l ++ (ch.ownGroups c check b).map (fun x => if (k.path check).sat.contains x then 1 else 0), 0)
    | none => ([], 0)
  | .reduced => (ch.hbmBytes (ch.outRange b).1 (ch.outRange b).2, 0)

/-- HBM that a transfer reads. -/
def Channel.exchangeReads (ch : Channel) (b : Nat) : ExSrc → List (Nat × Nat)
  | .prepass => [ch.gradRange b]
  | .encoded => [ch.gradRange b]
  | .sampled => [ch.gradRange b]
  | .reduced => [ch.outRange b]
  | _ => []

/-- Counts elements that saturated in the exchange (R225, R226). [DEDUCED, log entry 77] -/
def Channel.countSat (ch : Channel) (n : Nat) : Channel :=
  { ch with vec := { ch.vec with blk8Sat := satAdd ch.vec.blk8Sat n }, gxc := { ch.gxc with sat := satAdd ch.gxc.sat n } }

/-! ### What arrives -/

/-- A slot or a running sum of a path has arrived. -/
def Channel.slotArrives (ch : Channel) (c : ChanId) (check : Bool) (b pos off : Nat) : Channel :=
  if (ch.rankPos c b).isNone || (check && !ch.gxc.actCheckEn) || decide ((ch.bucketGroup b).k ≤ pos) then ch
  else ch.onPath check b fun x => { x with slots := (x.slots.filter fun e => e.1 != pos) ++ [(pos, off)] }

/-- [DESIGN CHOICE, log entry 224] -/
def Channel.runningArrives (ch : Channel) (c : ChanId) (check : Bool) (b off : Nat) : Channel :=
  if (ch.rankPos c b).isNone || (check && !ch.gxc.actCheckEn) then ch else ch.onPath check b fun x => { x with incoming := some off }

/-- A pre-pass, a summary or an agreement whose bytes lie in this channel's HBM (R223, R224). [DESIGN CHOICE, log entry 224] -/
def Channel.prepassAt (ch : Channel) (c : ChanId) (b pos off : Nat) : Channel :=
  let n := 4 * ch.groups b
  ch.prepassArrives c b pos (BitVec.ofNat 16 (leNat (ch.hbmBytes (off + n) 2))) (ch.hbmBytes off n)

/-- [DESIGN CHOICE, log entry 224] -/
def Channel.summaryAt (ch : Channel) (c : ChanId) (b rank off : Nat) : Channel :=
  ch.summaryArrives c b rank (bitmapOf (ch.bucketGroup b).k (ch.hbmBytes off 2)) (ch.hbmBytes (off + 2) (4 * ch.groups b))

/-- [DESIGN CHOICE, log entry 224] -/
def Channel.verdictAt (ch : Channel) (c : ChanId) (b off : Nat) : Channel :=
  let g := ch.bucketGroup b
  let m := (g.g * g.k + 7) / 8
  let n := 4 * ch.groups b
  ch.finalArrives c b (bitmapOf (g.g * g.k) (ch.hbmBytes off m)) (ch.hbmBytes (off + m) n) (ch.hbmBytes (off + m + n) n)

/-! ### The additions (R226 to R228) -/

/-- One BLK8 group added: the bytes, saturations, and blocks left unchanged. -/
def addGroup (old new : List Byte) : List Byte × Nat × Nat :=
  let r := (List.range 4).map fun b => blk8AddBlock (old.getD b 0).toNat ((old.drop (4 + 32 * b)).take 32) (new.getD b 0).toNat
    ((new.drop (4 + 32 * b)).take 32)
  ((r.map fun x => BitVec.ofNat 8 x.1) ++ r.flatMap (fun x => x.2.1), (r.map fun x => x.2.2.1).foldl (· + ·) 0,
    countIf (fun (x : Nat × List Byte × Nat × Bool) => x.2.2.2) r)

/-- Two groups added, with the saturations of both. -/
def addCounted (a b : List Byte × Nat) : List Byte × Nat := let r := addGroup a.1 b.1; (r.1, a.2 + b.2 + r.2.1)

/-- A group of zeros at given exponents. -/
def zeroGroup (exps : List U8) : List Byte := exps ++ List.replicate 128 0

/-- One group of the sett partial: the slots in the fixed tree over the positions, which the second path takes in descending order; a position
that is not in the sett bitmap takes part as zeros. `j` is the place of group g in the slots. -/
def Channel.settGroup (ch : Channel) (check : Bool) (b j g : Nat) : List Byte × Nat :=
  let k := ch.bucket b
  let at_ (p : Nat) : List Byte × Nat :=
    match k.settMap.contains p, (k.path check).slots.find? fun e => e.1 == p with
    | true, some e => (ch.hbmBytes (e.2 + 132 * j) 132, 0)
    | _, _ => (zeroGroup ((k.settExp.drop (4 * g)).take 4), 0)
  let order := List.range (ch.bucketGroup b).k
  (treeFold addCounted ((if check then order.reverse else order).map at_)).headD ([], 0)

/-- The sums of some groups with the groups in which one saturated. -/
def gatherSums (gs : List Nat) (f : Nat → Nat → List Byte × Nat) : List Byte × List Nat × Nat :=
  let r := gs.zipIdx.map fun e => (e.1, f e.2 e.1)
  (r.flatMap (fun e => e.2.1), (r.filter fun e => e.2.2 != 0).map (·.1), (r.map fun e => e.2.2).foldl (· + ·) 0)

/-- The sett partial of this channel's segment (R226). [DEDUCED, log entry 77] -/
def Channel.settAdd (ch : Channel) (c : ChanId) (check : Bool) (b : Nat) : Channel :=
  let r := gatherSums (ch.ownGroups c check b) (ch.settGroup check b)
  (ch.onPath check b fun x => { x with part := r.1, added := true, scaled := false, sat := r.2.1 }).countSat r.2.2

/-- One element at the domain exponent: q′ = RNE(q × 2^(s_sett − s_dom)), and poison stays poison (R227). -/
def requantElem (sett dom : Nat) (q : Byte) : Byte :=
  if q = 0x80 then q else BitVec.ofInt 8 (signedInt (q.toInt < 0) (roundInt .rne q.toInt.natAbs ((sett : Int) - dom)))

/-- One group at the domain exponents of its blocks. -/
def requantGroup (dom : List U8) (l : List Byte) : List Byte :=
  dom ++ (List.range 4).flatMap fun j => ((l.drop (4 + 32 * j)).take 32).map (requantElem (l.getD j 0).toNat (dom.getD j 0).toNat)

/-- The sett partial at the domain exponents (R227). -/
def Channel.requantise (ch : Channel) (c : ChanId) (check : Bool) (b : Nat) : Channel :=
  let k := ch.bucket b
  let x := k.path check
  if !x.added || x.scaled || decide ((ch.bucketGroup b).g ≤ 1) then ch
  else
    let l := (ch.ownGroups c check b).zipIdx.flatMap fun e =>
      requantGroup ((k.domExp.drop (4 * e.1)).take 4) ((x.part.drop (132 * e.2)).take 132)
    ch.onPath check b fun y => { y with part := l, scaled := true }

/-- The running sum of the sett before, added to this channel's partial (R228). [DEDUCED, log entry 77] -/
def Channel.chainAdd (ch : Channel) (c : ChanId) (check : Bool) (b : Nat) : Channel :=
  let x := (ch.bucket b).path check
  match x.incoming with
  | none => ch
  | some off =>
    if !ch.partReady check b || ch.beginsChain c check b then ch
    else
      let gs := ch.ownGroups c check b
      let r := gatherSums gs fun j _ => addCounted (ch.hbmBytes (off + 132 * j) 132, 0) ((x.part.drop (132 * j)).take 132, 0)
      let before := (gs.zip (ch.hbmBytes (off + 132 * gs.length) gs.length)).filter fun e => e.2 != 0
      (ch.onPath check b fun y => { y with sum := r.1, summed := true, sat := y.sat ++ before.map (·.1) ++ r.2.1 }).countSat r.2.2

/-- At the end of the chain the primary path leaves the final segment in its place among the reduced groups (R228, R229). -/
def Channel.finishSegment (ch : Channel) (c : ChanId) (b : Nat) : Channel :=
  match ch.runningSum c false b, ch.rankPos c b with
  | some l, some (_, p) => if ch.endsChain c false b then ch.hbmWrite ((ch.outRange b).1 + 132 * ch.segLen b * p) l else ch
  | _, _ => ch

/-! ### The comparison (R236) -/

/-- The outcome of each sampled group of this channel's segment: 0 equal, 1 different, 2 saturated on either path. The second path's result
lies at `off`: its groups, and a byte for each that tells of a saturation. -/
def Channel.compare (ch : Channel) (c : ChanId) (b off : Nat) : List (Nat × Nat) :=
  let p := ((ch.rankPos c b).map (·.2)).getD 0
  let gs := (ch.segment b p).filter ch.isSampled
  gs.zipIdx.map fun e =>
    let mine := ch.hbmBytes ((ch.outRange b).1 + 132 * e.1) 132
    if (ch.bucket b).first.sat.contains e.1 || ch.hbmBytes (off + 132 * gs.length + e.2) 1 != [0] then (e.1, 2)
    else if ch.hbmBytes (off + 132 * e.2) 132 = mine then (e.1, 0) else (e.1, 1)

/-- The second path's result has arrived at the holder of the final segment. -/
def State.checkArrives (s : State) (c : ChanId) (b off m cc core own : Nat) : State :=
  if (s.ch c).endsChain c false b then
    ((s.ch c).compare c b off).foldl (fun (r : State) e => r.checkOutcome c b e.1 m cc core own e.2) s
  else s

/-! ### The reduced gradient (R211, R235) -/

/-- rn(decode(q) / n_c) of every element of a group; +0 when nobody contributed. -/
def groupValues (sat : Bool) (n : Nat) (l : List Byte) : List Nat :=
  (List.range 4).flatMap fun j => ((l.drop (4 + 32 * j)).take 32).map fun q =>
    if n = 0 then 0 else fpDiv fpF32 sat (blk8Decode (l.getD j 0).toNat q) (fpOfInt fpF32 64 n)

/-- The elements of a reduced bucket, divided by n_c. -/
def Channel.reducedValues (ch : Channel) (b : Nat) : List Nat :=
  (List.range (ch.groups b)).flatMap fun g => groupValues ch.vec.ovfMode (ch.contributors b) (ch.hbmBytes ((ch.outRange b).1 + 132 * g) 132)

/-! ### Low-rank exchange (R235) -/

/-- Exact sum of FP32 numbers, rounded once (R138). -/
def exactSum (sat : Bool) (l : List Nat) : Nat := xaccRound sat (l.foldl (fun a x => xsumLane x a) {})

/-- One column by modified Gram–Schmidt against the columns before it: each norm is SQRT32 of the exact sum of squares, and a column of norm 0
becomes zero. [DESIGN CHOICE, log entry 223] -/
def gramColumn (sat : Bool) (done : List (List Nat)) (v : List Nat) : List Nat :=
  let w := done.foldl (fun (x : List Nat) q =>
    let k := Config.gramStep 0 (q ++ x)
    (q.zip x).map fun e => Config.gramStep 1 [k, e.1, e.2]) v
  let n := fpSqrt fpF32 sat (exactSum sat (w.map fun x => fpMul fpF32 sat x x))
  if fpMag fpF32 n = 0 then w.map fun _ => 0 else w.map fun x => Config.gramStep 2 [x, n]

/-- Row-major R × r to columns, and back. -/
def columnsOf (r : Nat) (l : List Nat) : List (List Nat) := (List.range r).map fun t => (List.range (l.length / max r 1)).map fun i => l.getD (i * r + t) 0
def rowMajor (n : Nat) (cs : List (List Nat)) : List Nat := (List.range n).flatMap fun i => cs.map fun c => c.getD i 0

/-- P̂ from the reduced P of a pair, over the columns in ascending order. [DESIGN CHOICE, log entry 223] -/
def Channel.lowOrth (ch : Channel) (b rowsN rank : Nat) : Channel :=
  let p := (ch.reducedValues b).take (rowsN * rank)
  let q := (columnsOf rank p).foldl (fun (d : List (List Nat)) v => d ++ [gramColumn ch.vec.ovfMode d v]) []
  { ch with gxc := { ch.gxc with lows := smIns b (rowMajor rowsN q) ch.gxc.lows } }

/-- g_ij of a low-rank pair: rn of the products in ascending t, accumulated by FMA. [DESIGN CHOICE, log entry 223] -/
def lowElem (sat : Bool) (rank : Nat) (p q : List Nat) (i j : Nat) : Nat :=
  (List.range rank).foldl (fun a t =>
    let x := p.getD (i * rank + t) 0
    let y := q.getD (j * rank + t) 0
    if t = 0 then fpMul fpF32 sat x y else fpFma fpF32 sat x y a) 0

end Sys2Proof.Machine
end

