-- ==== Sys2Proof/Machine/Codec.lean ====
section
/-! DEFINITION. Operations of the vector engine that touch core SRAM: the quantiser, the codecs, loads, stores and GATHER, and
SR_UPD (R123, R139, R140, R142, R215, R281). A range outside the core's SRAM is log entry 23. -/

namespace Sys2Proof.Machine

/-! ### SRAM as a program sees it -/

/-- Bytes of a list of ranges of the core's SRAM, or the fault of a local reader that meets poison: the task of the slot faults
with MEM_UE (R274). [DEDUCED, log entry 70; DESIGN CHOICE, log entry 23] -/
def vecRead (s : State) (c : ChanId) (core : LCore) (slot : Nat) (l : List (Nat × Nat))
    (k : State → List (List Byte) → State) : State :=
  let p := (s.ch c).pcore core.val
  let r := s.checkRanges c p (l.filter fun e => decide (e.1 + e.2 ≤ sramSize))
  if r.2 then k r.1 (l.map fun e => if e.1 + e.2 ≤ sramSize then (s.ch c).sramBytes p e.1 e.2 else [])
  else match (r.1.ch c).task? core.val slot with
    | some t => r.1.faultTask c t 0x2001
    | none => r.1

/-- A program's store: the bytes, and the range in the list of what its task has written (R43). Nothing is stored beyond the
SRAM or into the system area. [DESIGN CHOICE, log entry 23] -/
def Channel.vecStore (ch : Channel) (core : LCore) (slot : Nat) (off : Nat) (bytes : List Byte) : Channel :=
  if sramSize < off + bytes.length ∨ systemBlocked false off bytes.length then ch
  else
    let p := ch.pcore core.val
    (ch.sramWrite p off bytes).onTask core.val slot fun t => { t with written := t.written ++ [(sramAt p off, bytes.length)] }

def Channel.vecStores (ch : Channel) (core : LCore) (slot : Nat) (l : List (Nat × List Byte)) : Channel :=
  l.foldl (fun k e => k.vecStore core slot e.1 e.2) ch

/-- 32 consecutive lanes as FP32 codes: lanes 0 to 31, or 32 to 63. -/
def halfLanes (v : LaneVec) (upper : Bool) : List Nat :=
  ((if upper then v.toList.drop 32 else v.toList.take 32)).map (lowBits 32)

/-- Writes 32 FP32 codes into one half of a register. -/
def withHalf (v : LaneVec) (upper : Bool) (l : List Nat) : LaneVec :=
  Vector.ofFn fun i =>
    if upper then (if 32 ≤ i.val then laneOf 32 (l.getD (i.val - 32) 0) else v[i])
    else (if i.val < 32 then laneOf 32 (l.getD i.val 0) else v[i])

/-! ### Packed codes (R123) -/

/-- 32 codes in packed form: element e in byte e mod 8 of lane e / 8, that is lanes 0 to 3; the other lanes keep their values.
 [DESIGN CHOICE, log entry 205] -/
def packLanes (v : LaneVec) (codes : List Nat) : LaneVec :=
  Vector.ofFn fun i => if i.val < 4 then BitVec.ofNat 64 (leNat (((codes.drop (8 * i.val)).take 8).map (BitVec.ofNat 8))) else v[i]

/-- The 32 codes of a packed register. [DESIGN CHOICE, log entry 205] -/
def unpackLanes (v : LaneVec) : List Byte := (v.toList.take 4).flatMap fun x => leBytes 8 x.toNat

/-- Leaves the codes of a codec operation in a register as well, where it names one. -/
def Channel.putPacked (ch : Channel) (core : LCore) (packed : Option VReg) (codes : List Nat) : Channel :=
  match packed with
  | some d => ch.setVreg core d (packLanes (ch.vreg core d) codes)
  | none => ch

/-! ### QUANT and BLK8 (R139, R140) -/

/-- [DEDUCED, log entry 70; DESIGN CHOICE, log entry 205] -/
def execQuant (c : ChanId) (core : LCore) (slot : Nat) (fmt : Fin 3) (sr : SrArg) (upper : Bool) (eaddr saddr : Nat)
    (a : CodecRegs) (s : State) : Result :=
  .next (s.onCh c fun ch =>
    let f := elFmt fmt.val
    let q := quantBlock f (rndOf sr.on ch.srSeed (ch.srStep core) sr.tensor sr.index selQuant) (halfLanes (ch.vreg core a.lanes) upper)
    ((ch.vecStores core slot [(eaddr, packCodes f q.2), (saddr, [BitVec.ofNat 8 q.1])]).putPacked core a.packed q.2).vecBusy core 1)

/-- The exponent byte of an encoding: a block of MOM8 has its own (R68), another block the agreed one where there is one. No encoder writes 0xFF:
the agreed exponents are at most 0xFE (R67, R223). [DEDUCED, log entry 206] -/
def encodeExp (mom : Bool) (agreed : Option U8) (xs : List Nat) : Nat :=
  match mom, agreed with
  | false, some e => min 0xFE e.toNat
  | _, _ => blk8Exp xs

/-- Encodes one block of a group at SRAM offset `group`; MOM8 always rounds stochastically (R68). An agreed exponent is the exchange's, whose
saturations count in GXC_STAT.SAT as well (R225). [DEDUCED, log entries 70, 77 and 206; DESIGN CHOICE, log entry 205] -/
def execBlk8Encode (c : ChanId) (core : LCore) (slot : Nat) (mom : Bool) (sr : SrArg) (agreed : Option U8) (upper : Bool)
    (group : Nat) (blk : Fin 4) (a : CodecRegs) (s : State) : Result :=
  .next (s.onCh c fun ch =>
    let xs := halfLanes (ch.vreg core a.lanes) upper
    let e := encodeExp mom agreed xs
    let ex := !mom && agreed.isSome
    let r := blk8Encode ex (rndOf (mom || sr.on) ch.srSeed (ch.srStep core) sr.tensor sr.index selBlk8) e xs
    let k := (ch.vecStores core slot [(group + blk.val, [BitVec.ofNat 8 e]), (group + 4 + 32 * blk.val, r.1)]).putPacked core a.packed
      (r.1.map BitVec.toNat)
    { k with
      vec := { k.vec with blk8Sat := satAdd k.vec.blk8Sat r.2 }
      gxc := { k.gxc with sat := if ex then satAdd k.gxc.sat r.2 else k.gxc.sat } }.vecBusy core 1)

/-- Decodes one block of a group at SRAM offset `group`; with a packed register, its elements are the codes of that register.
 [DEDUCED, log entry 70; DESIGN CHOICE, log entry 205] -/
def execBlk8Decode (c : ChanId) (core : LCore) (slot : Nat) (upper : Bool) (group : Nat) (blk : Fin 4) (d : CodecRegs)
    (s : State) : Result :=
  .next (vecRead s c core slot ([(group + blk.val, 1)] ++ if d.packed.isSome then [] else [(group + 4 + 32 * blk.val, 32)]) fun t l =>
    let e := leNat (l.getD 0 [])
    let q := match d.packed with
      | some v => unpackLanes ((s.ch c).vreg core v)
      | none => l.getD 1 []
    t.onCh c fun ch => (ch.setVreg core d.lanes (withHalf (ch.vreg core d.lanes) upper (q.map (blk8Decode e)))).vecBusy core 1)

/-! ### Loads and stores (R123, R281) -/

def ElemTy.size : ElemTy → Nat
  | .b32 => 4
  | .b64 => 8
  | .bf16 => 2

/-- A lane from the bytes of its element: BF16 is widened exactly to FP32, a NaN with its sign and payload; an element outside the SRAM is a
free value. [DEDUCED, log entry 207] -/
def loadLane (ty : ElemTy) (free : Nat) (bytes : List Byte) : U64 :=
  if bytes = [] then BitVec.ofNat 64 (Config.freeValue free)
  else match ty with
    | .b32 => laneOf 32 (leNat bytes)
    | .b64 => laneOf 64 (leNat bytes)
    | .bf16 => laneOf 32 (leNat bytes * 2 ^ 16)

def laneVec (l : List U64) : LaneVec := Vector.ofFn fun i => l.getD i.val 0

def execVecLoad (c : ChanId) (core : LCore) (slot : Nat) (ty : ElemTy) (addr stride : Nat) (d : VReg) (s : State) : Result :=
  let at_ := (List.range 64).map fun e => (addr + e * stride, ty.size)
  .next (vecRead s c core slot at_ fun t l =>
    (t.onCh c fun ch => (ch.setVreg core d (laneVec (l.mapIdx fun i b => loadLane ty (t.free + i) b))).vecBusy core 1).tookFree 64)

/-- Column `col` of a 64 × 64 tile of 2-, 4- or 8-byte elements; an element that is not aligned to its size gives +0 (R281). -/
def execVecLoadTranspose (c : ChanId) (core : LCore) (slot : Nat) (ty : ElemTy) (base pitch col : Nat) (d : VReg)
    (s : State) : Result :=
  let at_ := (List.range 64).map fun e => (base + e * pitch + col * ty.size, ty.size)
  let good := at_.map fun e => decide (e.1 % ty.size = 0)
  .next (vecRead s c core slot ((at_.zip good).map fun e => if e.2 then e.1 else (0, 0)) fun t l =>
    (t.onCh c fun ch => (ch.setVreg core d (laneVec ((l.zip good).mapIdx fun i b =>
      if b.2 then loadLane ty (t.free + i) b.1 else 0))).vecBusy core 1).tookFree 64)

/-- Bytes that lane i stores: BF16 is narrowed under R58. -/
def Channel.storeBytes (ch : Channel) (core : LCore) (ty : ElemTy) (sr : SrArg) (i : Nat) (x : U64) : List Byte :=
  match ty with
  | .b32 => leBytes 4 (lowBits 32 x)
  | .b64 => leBytes 8 (lowBits 64 x)
  | .bf16 => leBytes 2 (fpConv fpF32 fpBf16 ch.vsat (ch.bf16Rnd core sr i) (lowBits 32 x))

def execVecStore (c : ChanId) (core : LCore) (slot : Nat) (ty : ElemTy) (sr : SrArg) (addr stride : Nat) (a : VReg)
    (s : State) : Result :=
  .next (s.onCh c fun ch =>
    let l := (ch.vreg core a).toList.mapIdx fun i x => (addr + i * stride, ch.storeBytes core ty sr i x)
    (ch.vecStores core slot l).vecBusy core 1)

/-! ### GATHER (R142) -/

/-- The raw bytes of an element fill the low end of its 64-bit lane. [DEDUCED, log entry 70; DESIGN CHOICE, log entry 209] -/
def execGather (c : ChanId) (core : LCore) (slot : Nat) (size : Fin 4) (base : Nat) (d idx : VReg) (s : State) : Result :=
  let n := 2 ^ size.val
  let addrs := ((s.ch c).vreg core idx).toList.map fun i => base + lowBits 32 i * n
  let good := addrs.map fun a => decide (a + n ≤ sramSize) && decide (a % n = 0)
  let oor := countIf (fun b => !b) good
  .next (vecRead s c core slot ((addrs.zip good).map fun e => if e.2 then (e.1, n) else (0, 0)) fun t l =>
    t.onCh c fun ch =>
      let k := (ch.setVreg core d (laneVec ((l.zip good).map fun e => if e.2 then laneOf 64 (leNat e.1) else 0))).vecBusy core 2
      if oor = 0 then k
      else { k with vec := { k.vec with gatherOor := true, gatherOorCnt := satAdd k.vec.gatherOorCnt oor } }.raise c 0x1006)

/-! ### SR_UPD (R215) -/

/-- floor(log2 |x|) of a finite non-zero value. -/
def valExp : FpVal → Option Int
  | .fin _ m e => if m = 0 then none else some (e + (Nat.log2 m : Nat))
  | _ => none

/-- floor(±m × 2^k). -/
def floorShift (v : FpVal) (k : Int) : Int :=
  match v with
  | .fin s m e =>
    let i := signedInt s m
    if 0 ≤ e + k then i * 2 ^ (e + k).toNat else i / 2 ^ (-(e + k)).toNat
  | _ => 0

/-- BF16 code of w − δ; w is a BF16 value in FP32 form, δ an FP32 code. -/
def srUpd (sat : Bool) (u w d : Nat) : Nat :=
  let vw := fpUnpack fpF32 w
  let vd := fpUnpack fpF32 d
  match vw, vd with
  | .fin sw mw _, .fin sd md _ =>
    let e := max (max ((valExp vw).getD (-126)) ((valExp vd).getD (-126))) (-126)
    let z := floorShift vw (39 - e) - floorShift vd (39 - e)
    if z = 0 then (if sw && mw == 0 && !sd && md == 0 then fpBf16.signBit else 0)
    else fpRound fpBf16 sat (.sr u) (z < 0) z.natAbs (e - 39)
  | _, _ => fpPack fpBf16 sat .rne (fpAddVal vw (fpNegVal vd))

/-- The word of lane i is that of element index sr.index + i (R64, R215). -/
def execSrUpd (c : ChanId) (core : LCore) (sr : SrArg) (d w delta : VReg) (s : State) : Result :=
  let ch := s.ch c
  let u (i : Nat) : Nat :=
    srWord ch.srSeed (ch.srStep core) sr.tensor ((sr.index + i) / 32) selBf16 ((sr.index + i) % 32)
  let vw := ch.vreg core w
  let vd := ch.vreg core delta
  .next (vecWrite s c core d 2 (Vector.ofFn fun i =>
    laneOf 32 (srUpd ch.vsat (u i.val) (lowBits 32 vw[i]) (lowBits 32 vd[i]) * 2 ^ 16)))

end Sys2Proof.Machine
end

