-- ==== Sys2Proof/Machine/UpdateStages.lean ====
section
/-! DEFINITION. The update program of a statistic tile: its STAT, BLOCK and WRITEBACK tasks, the low-rank steps that feed it, and what a task
whose program the manual fixes does as a whole (R203, R204, R210 to R216, R235, R239). -/

namespace Sys2Proof.Machine

/-! ### A tile and what belongs to it -/

/-- A tile with its header, its group, and where its gradient lies. -/
structure TileCtx where
  n : Nat
  tile : UpdTile
  hdr : TensorHdr
  grp : UpdGroup
  place : TilePlace
  deriving DecidableEq, Repr

def Channel.tileCtx (ch : Channel) (n : Nat) : Option TileCtx := do
  let st ← ch.pss.stream
  let x ← st.tiles[n]?
  let t ← st.tensors[x.tensor]?
  let p ← (ch.tilePlaces[n]?).join
  some { n := n, tile := x, hdr := t, grp := (st.groups[t.group.toNat]?).getD {}, place := p }

/-- The tensor of a low-rank pair, by its first bucket. -/
def Channel.lowTensor (ch : Channel) (b : Nat) : Option TensorHdr := do
  let st ← ch.pss.stream
  let e ← (st.tiles.zip ch.tilePlaces).find? fun e => e.2 == some { bucket := b + 1, low := true }
  st.tensors[e.1.tensor]?

/-- HBM offset of r and c of a tile: a vector of R elements for each column of tiles, of C elements for each row of tiles.
 [DESIGN CHOICE, log entry 225] -/
def TileCtx.rAt (x : TileCtx) : Nat := x.hdr.rBase.toNat + 4 * (x.tile.col / max x.hdr.tileC.toNat 1 * x.hdr.rows.toNat + x.tile.row)
/-- [DESIGN CHOICE, log entry 225] -/
def TileCtx.cAt (x : TileCtx) : Nat := x.hdr.cBase.toNat + 4 * (x.tile.row / max x.hdr.tileR.toNat 1 * x.hdr.cols.toNat + x.tile.col)

/-- HBM offset of the weights of an update block: rows padded to whole blocks (R203). [DESIGN CHOICE, log entry 225] -/
def TileCtx.wAt (x : TileCtx) (b : UpdBlock) : Nat := x.hdr.wBase.toNat + 64 * x.hdr.blockIndex b
/-- HBM offsets of the exponent byte and the elements of an update block's momentum, four blocks to a group (R68).
 [DESIGN CHOICE, log entry 225] -/
def TileCtx.mExpAt (x : TileCtx) (b : UpdBlock) : Nat := x.hdr.mBase.toNat + 132 * (x.hdr.blockIndex b / 4) + x.hdr.blockIndex b % 4
/-- [DESIGN CHOICE, log entry 225] -/
def TileCtx.mAt (x : TileCtx) (b : UpdBlock) : Nat := x.hdr.mBase.toNat + 132 * (x.hdr.blockIndex b / 4) + 4 + 32 * (x.hdr.blockIndex b % 4)

/-! ### STAT (R211) -/

/-- x × 2^k. -/
def scale2 (sat : Bool) (k : Int) (x : Nat) : Nat :=
  match fpUnpack fpF32 x with
  | .fin s m e => fpRne fpF32 sat s m (e + k)
  | v => fpPack fpF32 sat .rne v

/-- rn(decode(q) / n_c) of the live elements of a tile's k-th update block, or the low-rank product (R211, R235). -/
def Channel.blockGrad (ch : Channel) (x : TileCtx) (k : Nat) (b : UpdBlock) : List Nat :=
  let sat := ch.vec.ovfMode
  let n := ch.contributors x.place.bucket
  if x.place.low then
    let rank := ((ch.bucketPlan x.place.bucket).map (·.rank.toNat)).getD 0
    let p := smGet [] ch.gxc.lows (x.place.bucket - 1)
    let q := ch.reducedValues x.place.bucket
    (List.range b.live).map fun i => lowElem sat rank p q b.row (b.col + i)
  else
    let at_ := (ch.outRange x.place.bucket).1 + 132 * ((x.place.block + k) / 4)
    let j := (x.place.block + k) % 4
    let e := leNat (ch.hbmBytes (at_ + j) 1)
    (ch.hbmBytes (at_ + 4 + 32 * j) b.live).map fun q =>
      if n = 0 then 0 else fpDiv fpF32 sat (blk8Decode e q) (fpOfInt fpF32 64 n)

/-- g of every update block of a tile, after the update exponent. -/
def Channel.tileGrad (ch : Channel) (x : TileCtx) : List (UpdBlock × List Nat) :=
  x.tile.blocks.mapIdx fun k b => (b, (ch.blockGrad x k b).map (scale2 ch.vec.ovfMode x.hdr.kL.toInt))

/-- rn((1 − β) × x), with 1 − β an FP32 number. [DEDUCED, log entry 226] -/
def oneMinus (sat : Bool) (beta x : Nat) : Nat := fpMul fpF32 sat (fpSub fpF32 sat 0x3F800000 beta) x

/-- fma(β2, old, rn((1 − β2) × rn(sum / n))). [DEDUCED, log entry 226] -/
def blendStat (sat : Bool) (beta old sum n : Nat) : Nat :=
  fpFma fpF32 sat beta old (oneMinus sat beta (fpDiv fpF32 sat sum (fpOfInt fpF32 64 n)))

/-- The squared gradients of a tile by row and column, finite ones only. -/
def squares (sat : Bool) (eps : Nat) (l : List (UpdBlock × List Nat)) : List (Nat × Nat × Nat) :=
  (l.flatMap fun e => e.2.mapIdx fun i g => (e.1.row, e.1.col + i, fpAdd fpF32 sat (fpMul fpF32 sat g g) eps)).filter fun e =>
    fpFinite fpF32 e.2.2

/-- New r, c and mean_r of a tile. [DEDUCED, log entry 226] -/
def Channel.statTile (ch : Channel) (x : TileCtx) : Channel :=
  let sat := ch.vec.ovfMode
  let a := squares sat x.grp.eps1.toNat (ch.tileGrad x)
  let sums (p : Nat × Nat × Nat → Bool) : Nat := exactSum sat ((a.filter p).map fun e => e.2.2)
  let old (at_ n : Nat) : List Nat := floatsOf (ch.hbmBytes at_ (4 * n))
  let b2 := x.grp.beta2.toNat
  let r := (old x.rAt x.tile.rows).mapIdx fun i o => blendStat sat b2 o (sums fun e => e.1 == x.tile.row + i) x.tile.cols
  let c := (old x.cAt x.tile.cols).mapIdx fun j o => blendStat sat b2 o (sums fun e => e.2.1 == x.tile.col + j) x.tile.rows
  let mean := fpDiv fpF32 sat (exactSum sat r) (fpOfInt fpF32 64 x.tile.rows)
  { ch with upd := { ch.upd with
      staged := smIns x.n { step := ch.upd.sJob, hasStat := true, r := r, c := c, mean := mean } ch.upd.staged } }

/-! ### BLOCK (R212 to R215) -/

/-- β^t in FP64 by binary exponentiation over the n low bits of t below its highest one. [DEDUCED, log entry 226] -/
def betaPow (b t : Nat) : Nat → Nat → Nat
  | 0, x => x
  | n + 1, x =>
    let y := fpMul fpF64 false x x
    betaPow b t n (if t.testBit n then fpMul fpF64 false y b else y)

/-- corr = RNE32(1 − β^t) (R212). [DEDUCED, log entry 226] -/
def corrOf (beta t : Nat) : Nat :=
  let b := fpConv fpF32 fpF64 false .rne beta
  let p := betaPow b t (Nat.log2 t) b
  fpPack fpF32 false .rne (fpAddVal (.fin false 1 0) (fpNegVal (fpUnpack fpF64 p)))

/-- What a step fixes for a group: its step size and its t, as the reduced bucket retains them (R206, R214, R229). -/
def Channel.groupStep (ch : Channel) (x : TileCtx) : Nat × Nat :=
  let g := x.hdr.group.toNat
  match smGet none ch.gxc.retained x.place.bucket with
  | some r => ((smGet 0 r.lr g).toNat, (smGet 0 r.tState g).toNat + 1)
  | none => ((smGet 0 ch.upd.latched g).toNat, (ch.tState g).toNat + 1)

/-- Clipping of a block by its RMS, and whether it was clipped; a block with a u that is not finite becomes NaN as a whole (R213, R216).
 [DEDUCED, log entry 226] -/
def clipBlock (sat : Bool) (d : Nat) (u : List Nat) : List Nat × Bool :=
  let s := exactSum sat (u.map fun x => fpMul fpF32 sat x x)
  let rho := fpSqrt fpF32 sat (fpDiv fpF32 sat s (fpOfInt fpF32 64 u.length))
  let past := fpCmp fpF32 .lt d rho
  if !fpFinite fpF32 rho && u.any fun x => !fpFinite fpF32 x then (u.map fun _ => fpF32.nanCode, past)
  else if past then (let k := fpDiv fpF32 sat d rho; (u.map fun x => fpMul fpF32 sat x k, true))
  else (u, false)

/-- The new weights and momentum of one update block, and whether it was clipped. [DEDUCED, log entry 226] -/
def Channel.updateBlock (ch : Channel) (x : TileCtx) (st : TileStage) (corr1 corr2 : Nat) (b : UpdBlock) (g : List Nat) :
    List Nat × (Nat × List Byte) × Bool :=
  let sat := ch.vec.ovfMode
  let n := x.hdr.blockIndex b
  let lr := (ch.groupStep x).1
  let e := leNat (ch.hbmBytes (x.mExpAt b) 1)
  let m := ((ch.hbmBytes (x.mAt b) b.live).zip g).map fun o =>
    fpFma fpF32 sat x.grp.beta1.toNat (blk8Decode e o.1) (oneMinus sat x.grp.beta1.toNat o.2)
  let u := m.mapIdx fun i y =>
    let vh := fpDiv fpF32 sat (fpMul fpF32 sat (st.r.getD (b.row - x.tile.row) 0) (st.c.getD (b.col + i - x.tile.col) 0)) st.mean
    fpMul fpF32 sat (fpDiv fpF32 sat y corr1) (sfu .rsqrt sat (fpDiv fpF32 sat vh corr2))
  let q := clipBlock sat x.grp.clipD.toNat u
  let le := scale2 sat (-x.hdr.kL.toInt) lr
  let old := (chunks 2 b.live (ch.hbmBytes (x.wAt b) (2 * b.live))).map fun y => leNat y * 2 ^ 16
  let w := (old.zip q.1).mapIdx fun i o =>
    srUpd sat (srWord ch.srSeed ch.upd.sJob.toNat x.hdr.tensorId.toNat n selBf16 i) o.1
      (fpFma fpF32 sat x.grp.wd.toNat o.1 (fpMul fpF32 sat le o.2))
  let ex := blk8Exp m
  let mo := blk8Encode false (fun i => .sr (srWord ch.srSeed ch.upd.sJob.toNat x.hdr.momId.toNat n selBlk8 i)) ex m
  (w, (ex, mo.1), q.2)

/-- New weights and momentum of every update block of a tile, and what was clipped (R218). [DEDUCED, log entry 76] -/
def Channel.blockTile (ch : Channel) (x : TileCtx) : Channel :=
  let st := smGet {} ch.upd.staged x.n
  if !st.hasStat || st.step != ch.upd.sJob then ch
  else
    let t := (ch.groupStep x).2
    let corr1 := corrOf x.grp.beta1.toNat t
    let corr2 := corrOf x.grp.beta2.toNat t
    let l := (ch.tileGrad x).map fun e => ch.updateBlock x st corr1 corr2 e.1 e.2
    { ch with upd := { ch.upd with
        clipped := satAdd ch.upd.clipped (countIf (fun (e : List Nat × (Nat × List Byte) × Bool) => e.2.2) l)
        staged := smIns x.n { st with hasBlocks := true, weights := l.map (·.1), moments := l.map fun e => e.2.1 } ch.upd.staged } }

/-! ### WRITEBACK (R204, R210, R239) -/

/-- The 64 bytes of a state header (Table 10-4). -/
def TensorHdr.bytes (t : TensorHdr) : List Byte :=
  leBytes 4 t.tensorId.toNat ++ leBytes 4 t.momId.toNat ++ leBytes 4 t.rows.toNat ++ leBytes 4 t.cols.toNat ++ leBytes 2 t.tileR.toNat
    ++ leBytes 2 t.tileC.toNat ++ [t.group, t.kL] ++ leBytes 2 0 ++ leBytes 8 t.wBase.toNat ++ leBytes 8 t.mBase.toNat
    ++ leBytes 8 t.rBase.toNat ++ leBytes 8 t.cBase.toNat ++ leBytes 8 0

/-- Writes a tile's journal entry (Table 11-1): 1 WRITING, 2 APPLIED. [DESIGN CHOICE, log entry 227] -/
def Channel.writeJournal (ch : Channel) (x : TileCtx) (st : Nat) : Channel :=
  ch.hbmWrite (ch.journalAt x.n)
    (leBytes 4 ch.upd.sJob.toNat ++ leBytes 2 ch.gxc.epoch.toNat ++ leBytes 1 st ++ leBytes 1 0 ++ leBytes 4 x.place.bucket ++ leBytes 4 0)

/-- Copies what is staged of a tile into HBM: its state header, r, c, weights and momentum; the padding of a short block is not written (R203).
 [DESIGN CHOICE, log entry 227] -/
def Channel.copyStaged (ch : Channel) (x : TileCtx) (st : TileStage) : Channel :=
  let k := ((ch.hbmWrite x.hdr.hdrBase.toNat x.hdr.bytes).hbmWrite x.rAt (st.r.flatMap (leBytes 4))).hbmWrite x.cAt (st.c.flatMap (leBytes 4))
  (x.tile.blocks.zip (st.weights.zip st.moments)).foldl (fun (h : Channel) e =>
    ((h.hbmWrite (x.wAt e.1) (e.2.1.flatMap (leBytes 2))).hbmWrite (x.mExpAt e.1) (leBytes 1 e.2.2.1)).hbmWrite (x.mAt e.1) e.2.2.2) k

/-- The entry is WRITING, the staged data is copied, and the entry is APPLIED. The three follow one another within the task's COMPLETE.
 [DEDUCED, log entry 76; DESIGN CHOICE, log entry 227] -/
def Channel.writebackTile (ch : Channel) (x : TileCtx) : Channel :=
  let st := smGet {} ch.upd.staged x.n
  if !st.hasBlocks || st.step != ch.upd.sJob then ch
  else
    let k := (((ch.writeJournal x 1).copyStaged x st).writeJournal x 2)
    { k with upd := { k.upd with blocks := wrapAdd k.upd.blocks st.weights.length, staged := smDel x.n k.upd.staged } }

/-- One step of a tile's update: of a tile that is APPLIED at the step in progress, or whose bucket is not reduced here, there is nothing to do
(R210, R239). [DEDUCED, log entry 76] -/
def Channel.onTile (ch : Channel) (n : Nat) (f : Channel → TileCtx → Channel) : Channel :=
  match ch.tileCtx n with
  | none => ch
  | some x => if ch.tileApplied n ch.upd.sJob || (smGet none ch.gxc.retained x.place.bucket).isNone then ch else f ch x

/-! ### Low-rank steps (R235) -/

/-- M′ = M + E of n elements, in FP32 with rn. [DESIGN CHOICE, log entry 223] -/
def Channel.lowSum (ch : Channel) (grad resid sum n : Nat) : Channel :=
  let e := (chunks 2 n (ch.hbmBytes resid (2 * n))).map fun x => leNat x * 2 ^ 16
  ch.hbmWrite sum (((floatsOf (ch.hbmBytes grad (4 * n))).zip e).flatMap fun x => leBytes 4 (fpAdd fpF32 ch.vec.ovfMode x.1 x.2))

/-- E becomes the BF16 RNE of M′ − P̂Qᵀ, and Q_prev becomes Q. [DESIGN CHOICE, log entry 223] -/
def Channel.lowEnd (ch : Channel) (b sum resid prev : Nat) : Channel :=
  match ch.lowTensor b with
  | none => ch
  | some t =>
    let sat := ch.vec.ovfMode
    let rank := ((ch.bucketPlan b).map (·.rank.toNat)).getD 0
    let p := smGet [] ch.gxc.lows b
    let q := (ch.reducedValues (b + 1)).take (t.cols.toNat * rank)
    let n := t.cols.toNat
    let e := (floatsOf (ch.hbmBytes sum (4 * (t.rows.toNat * n)))).mapIdx fun i x =>
      fpPack fpBf16 sat .rne (fpAddVal (fpUnpack fpF32 x) (fpNegVal (fpUnpack fpF32 (lowElem sat rank p q (i / n) (i % n)))))
    (ch.hbmWrite resid (e.flatMap (leBytes 2))).hbmWrite prev (q.flatMap (leBytes 4))

/-! ### The work of a fixed program -/

/-- HBM that a work reads. -/
def Channel.workReads (ch : Channel) (c : ChanId) : TaskWork → List (Nat × Nat)
  | .settAdd check b => ((ch.bucket b).path check).slots.map fun e => (e.2, 132 * (ch.ownGroups c check b).length)
  | .chainAdd check b => match ((ch.bucket b).path check).incoming with
    | some off => [(off, 133 * (ch.ownGroups c check b).length)]
    | none => []
  | .lowSum g e _ n => [(g, 4 * n), (e, 2 * n)]
  | .lowOrth b => [ch.outRange b]
  | .lowEnd b sum _ _ => match ch.lowTensor b with
    | some t => [ch.outRange (b + 1), (sum, 4 * (t.rows.toNat * t.cols.toNat))]
    | none => []
  | .stat n => match ch.tileCtx n with
    | some x => [(x.rAt, 4 * x.tile.rows), (x.cAt, 4 * x.tile.cols),
        ((ch.outRange x.place.bucket).1 + 132 * (x.place.block / 4), 132 * ((x.place.block % 4 + x.tile.blocks.length + 3) / 4))]
    | none => []
  | .block n => match ch.tileCtx n with
    | some x => x.tile.blocks.flatMap fun b => [(x.wAt b, 2 * b.live), (x.mExpAt b, 1), (x.mAt b, b.live)]
    | none => []
  | _ => []

/-- What a work does to the channel. -/
def Channel.doWork (ch : Channel) (c : ChanId) : TaskWork → Channel
  | .own => ch
  | .settAdd check b => let k := ch.settAdd c check b; if check then k else k.finishSegment c b
  | .requantise check b => let k := ch.requantise c check b; if check then k else k.finishSegment c b
  | .chainAdd check b => let k := ch.chainAdd c check b; if check then k else k.finishSegment c b
  | .lowSum g e sum n => ch.lowSum g e sum n
  | .lowOrth b => match ch.lowTensor b with
    | some t => ch.lowOrth b t.rows.toNat (((ch.bucketPlan b).map (·.rank.toNat)).getD 0)
    | none => ch
  | .lowEnd b sum resid prev => ch.lowEnd b sum resid prev
  | .stat n => ch.onTile n Channel.statTile
  | .block n => ch.onTile n Channel.blockTile
  | .writeback n => ch.onTile n Channel.writebackTile

/-- Whether a task may run a work: the additions and low-rank steps are vector programs, the steps of a tile are those of an update task. -/
def Task.mayWork (t : Task) : TaskWork → Bool
  | .own => true
  | .stat _ => t.exec == 5
  | .block _ => t.exec == 5
  | .writeback _ => t.exec == 5
  | _ => t.exec == 1 || t.exec == 5

/-- Reads some HBM with its check bits: whether all of it is sound. -/
def State.checkAll (s : State) (c : ChanId) (l : List (Nat × Nat)) : State × Bool :=
  l.foldl (fun (r : State × Bool) e => let q := r.1.checkHbm c e.1 e.2; (q.1, r.2 && q.2)) (s, true)

/-- The program of a task ends: its work takes effect, unless it reads poison, which faults the task (R274). -/
def State.endWork (s : State) (c : ChanId) (t : Task) (w : TaskWork) (k : State → State) : State :=
  if !t.mayWork w then k s
  else
    let r := s.checkAll c ((s.ch c).workReads c w)
    if r.2 then k (r.1.onCh c fun ch => ch.doWork c w) else r.1.faultAll c 0x2001 [t]

end Sys2Proof.Machine
end

