-- ==== Sys2Proof/Machine/Complete.lean ====
section
/-! DEFINITION. A task reaches COMPLETE, and the drain of a tile (R43, R81, R84, R88, R102, R119, R338). -/

namespace Sys2Proof.Machine

/-! ### COMPLETE (R40, R43) -/

/-- The completion SIGNAL of a task: addend 1, in its ordering class. -/
def doneSignal (d : TaskDesc) : RemOp := { kind := .signal, cls := d.order.setWidth 3, addr := d.doneSig, operand := 1 }

/-- What COMPLETE does to the channel: counts, the charge of a carried task, pins and repoints, the taint log, the slot.
 [DEDUCED, log entry 52] -/
def Channel.completeEffects (ch : Channel) (t : Task) : Channel :=
  let k := { ch with
    tsk := { ch.tsk with
      completed := wrapAdd ch.tsk.completed 1
      commitCarry := if t.carried then satAdd ch.tsk.commitCarry 1 else ch.tsk.commitCarry }
    ledg := { ch.ledg with carryCharge := if t.carried then satAdd ch.ledg.carryCharge 1 else ch.ledg.carryCharge } }
  let k := if t.carried && !t.carryCharged then k.chargeCarry t else k
  let k := if t.lookahead && t.step != ch.upd.sJob then
    { k with upd := { k.upd with aheadSram := k.upd.aheadSram ++ t.written, aheadWrote := k.upd.aheadWrote ++ t.dmaWrote } }
    else k
  ((((k.repointWrites t).runKvActs t.kvActs).transitRead t).logTaint (k.pcore t.core) t.desc.outTag).leaveSlot t (k.copySources t)

/-- A task reaches COMPLETE; `digest` of a tile that ran. -/
def State.completeTask (s : State) (c : ChanId) (t : Task) (digest : U64 := 0) : State :=
  let s1 := s.onCh c fun ch => ch.completeEffects t
  let s2 := if t.desc.doneSig = 0 then s1 else s1.sendOp c .orphan t.core (doneSignal t.desc)
  let s3 := match t.sample with
    | some id => s2.onCh c fun ch => (ch.onSample id fun x => { x with digest := digest }).startCopy id
    | none => s2
  let s4 := match t.dup with
    | some id => s3.dupCompare c id digest
    | none => s3
  (s4.flagOk c).onCh c fun ch => ch.finishUnload c

/-- A task whose program has ended: it completes, or parks until its last operation has completed (R48). [DEDUCED, log entry 182] -/
def State.programEnds (s : State) (c : ChanId) (t : Task) : State :=
  if (s.ch c).opsOf t.core t.slot = [] ∧ t.retry = [] then s.completeTask c t
  else s.onCh c fun ch => ch.onTask t.core t.slot fun x => { x with
    programEnded := true
    st := .parked
    cause := if x.retry = [] then .programEnd else .goneRoute }

/-- The program of a task has ended, and `ended.work` says what it did as a whole where the manual fixes it. Tiles complete by their drain and
DMA-only tasks by their last descriptor. [DESIGN CHOICE, log entry 195] -/
def execTaskComplete (c : ChanId) (core : LCore) (ended : TaskEnd) (s : State) : Result :=
  match (s.ch c).task? core.val ended.slot with
  | none => .next s
  | some t =>
    if t.st = .running ∧ t.exec ≠ 0 ∧ t.exec ≠ 2 ∧ t.dup = none then
      .next (s.endWork c t ended.work fun r => r.programEnds c { t with programEnded := true })
    else .next s

/-! ### The drain of a tile -/

/-- What a faulty core gets wrong in the bytes it drains (R341, R351): byte k of the drain is off by a mask. -/
def spoil (wrong : List (Nat × Byte)) (l : List (Nat × List Byte)) : List (Nat × List Byte) :=
  (l.foldl (fun (r : Nat × List (Nat × List Byte)) e =>
    let bad := (e.2.zipIdx).map fun (x : Byte × Nat) =>
      ((wrong.filter fun w => w.1 == r.1 + x.2).map (·.2)).foldl (· ^^^ ·) x.1
    (r.1 + e.2.length, r.2 ++ [(e.1, bad)])) (0, [])).2

/-- Flags and counts of a drained tile (R102, R119, R121). -/
def Channel.drainFlags (ch : Channel) (c : ChanId) (tr : TileRec) (o : TileOut) : Channel :=
  ({ ch with arr := { ch.arr with tiles := wrapAdd ch.arr.tiles 1 } }.fxFlags c o.sat o.ufl).sliceCounts c tr o.fell

/-- A duplicate runs from its copied operands and writes only the duplicate area; of a tile's flags and counts, only those of
chapter 05 and of ARR_STAT stay as they are (R121, R122, R338). -/
def State.drainDup (s : State) (c : ChanId) (t : Task) (id : Nat) (wrong : List (Nat × Byte)) : State :=
  let ch := s.ch c
  match ch.sample? id with
  | none => s.onCh c fun k => k.leaveSlot t
  | some x =>
    let o := runTile x.tile (ch.tileEnv x.tile x.ovfMode x.sJob.toNat) x.desc.arg1.toNat x.desc.arg2.toNat x.read
    let o := { o with writes := spoil wrong o.writes }
    ((s.fillArea c t.core x.tile x.desc).onCh c fun k => k.sliceCounts c x.tile o.fell).completeTask c t o.digest

/-- A tile drains: its operands are read with their check bits, its output written row by row, its flags set, and it completes.
A tile whose output meets what it reads produces undefined output (R80, R304): free bytes. `wrong` is what a faulty core gets wrong; a sound one gets nothing wrong.
 [DEDUCED, log entry 71] -/
def State.drainTile (s : State) (c : ChanId) (t : Task) (tr : TileRec) (wrong : List (Nat × Byte)) : State :=
  let ch := s.ch c
  let p := ch.pcore t.core
  let m := t.desc.arg1.toNat
  let n := t.desc.arg2.toNat
  let tr := tr.withPageFmt t.pageFmt
  let chk := s.checkRanges c p (tr.operandRanges m n ++ tr.cRanges m n)
  if !chk.2 then chk.1.faultAll c 0x2001 [t]
  else
    let o := runTile tr (ch.tileEnv tr ch.arr.ovfMode t.step.toNat) m n (ch.tileRead p)
    let meet := tr.selfOverlap m n
    let o := { o with writes := spoil wrong (if meet then freeRows chk.1.free o.writes else o.writes) }
    let s1 := chk.1.onCh c fun k =>
      let k := o.writes.foldl (fun h e => h.sramWrite p e.1 e.2) k
      k.drainFlags c tr o
    (s1.tookFree (if meet then o.writes.length else 0)).completeTask c
      { t with written := t.written ++ o.writes.map fun e => (sramAt p e.1, e.2.length) } o.digest

/-- The drain of a tile: the tiles of a core drain in the order of their dispatch (R82). [DEDUCED, log entries 56 and 71] -/
def execTileDrain (c : ChanId) (core : LCore) (slot : Nat) (wrong : List (Nat × Byte)) (s : State) : Result :=
  match (s.ch c).task? core.val slot with
  | none => .next s
  | some t =>
    let before (x : Task) : Bool := x.core == t.core && x.exec == 0 && x.st == .running && decide (x.started < t.started)
    if t.st ≠ .running ∨ (s.ch c).tsk.tasks.any before then .next s
    else match t.dup, t.tileRec with
      | some id, _ => .next (s.drainDup c t id wrong)
      | none, some tr => .next (s.drainTile c t tr wrong)
      | none, none => .next s

end Sys2Proof.Machine
end

