-- ==== Sys2Proof/Machine/Respond.lean ====
section
/-! DEFINITION. How a task waits for its operations: issue, parking, resumption, and what a completion code does to it (R47,
R48, R124, R258). -/

namespace Sys2Proof.Machine

/-! ### Parking (R40, R124) -/

/-- Number of registers that a task's program declares live (LIVE_REGS, Table 14-3). [DEDUCED, log entry 34] -/
def Channel.liveRegs (ch : Channel) (d : TaskDesc) : Nat := ((ch.classOf d).map fun k => min 64 k.liveRegs.toNat).getD 0

/-- A task that runs on the vector engine. -/
def Task.onEngine (t : Task) : Bool := [1, 3, 5].contains t.exec

/-- The bytes of a list of registers. -/
def regBytes (regs : List LaneVec) : List Byte := regs.flatMap fun v => v.toList.flatMap fun x => leBytes 8 x.toNat
/-- A register from its 512 bytes. -/
def regOfBytes (l : List Byte) : LaneVec := Vector.ofFn fun i => BitVec.ofNat 64 (leNat ((l.drop (8 * i.val)).take 8))

/-- The task's context area: the first free 512-byte steps of a CTX partition of its core that hold n registers, after the areas of the tasks that
are parked (R124, R280). [DESIGN CHOICE, log entry 210] -/
def Channel.contextArea (ch : Channel) (core n : Nat) : Option Nat :=
  match ch.pss.layout with
  | none => none
  | some l =>
    let busy := (ch.vec.saved.filter fun e => e.1 == core).filterMap fun e => e.2.2.1.map fun a => (a, 512 * e.2.2.2.length)
    (l.parts.filter fun p => p.kind == 0 && (p.core.toNat == core || p.core == 0xFF)).findSome? fun p =>
      ((p.base.toNat :: busy.map fun e => e.1 + e.2).filter fun a =>
        decide (p.base.toNat ≤ a) && decide (a + 512 * n ≤ p.base.toNat + p.length.toNat)
          && busy.all fun e => decide (e.1 + e.2 ≤ a) || decide (a + 512 * n ≤ e.1)).head?

/-- Saves the live registers of a task that parks, the lowest LIVE_REGS registers, to its context area.
 [DEDUCED, log entry 34; DESIGN CHOICE, log entry 210] -/
def Channel.saveContext (ch : Channel) (t : Task) : Channel :=
  if t.onEngine && t.st == .running then
    let regs := (List.range (ch.liveRegs t.desc)).map fun r => smGet (Vector.replicate 64 0) ch.vec.regs (t.core * 64 + r)
    let k := { ch with vec := { ch.vec with saved := ch.vec.saved.filter fun e => !(e.1 == t.core && e.2.1 == t.slot) } }
    let area := if regs = [] then none else k.contextArea t.core regs.length
    let k := match area with
      | some a => k.sramWrite (k.pcore t.core) a (regBytes regs)
      | none => k
    { k with vec := { k.vec with saved := k.vec.saved ++ [(t.core, t.slot, area, regs)] } }
  else ch

/-- Restores the live registers of a task that is dispatched again, from its context area.
 [DEDUCED, log entry 34; DESIGN CHOICE, log entry 210] -/
def Channel.restoreContext (ch : Channel) (t : Task) : Channel :=
  match ch.vec.saved.find? fun e => e.1 == t.core && e.2.1 == t.slot with
  | none => ch
  | some e =>
    let regs := match e.2.2.1 with
      | some a => (List.range e.2.2.2.length).map fun i => regOfBytes (ch.sramBytes (ch.pcore t.core) (a + 512 * i) 512)
      | none => e.2.2.2
    { ch with vec := { ch.vec with
      regs := (regs.zipIdx).foldl (fun m (x : LaneVec × Nat) => smSet (Vector.replicate 64 0) m (t.core * 64 + x.2) x.1) ch.vec.regs
      saved := ch.vec.saved.filter fun x => !(x.1 == t.core && x.2.1 == t.slot) } }

/-- Parks the task of a slot for a cause. [DEDUCED, log entry 79] -/
def Channel.park (ch : Channel) (core slot : Nat) (cause : ParkCause) : Channel :=
  match ch.task? core slot with
  | none => ch
  | some t => (ch.saveContext t).onTask core slot fun x => { x with st := .parked, cause := cause }

/-! ### What a parked task waits for (R47, R48) -/

/-- GET, CAS and FETCH_ADD64 park their task until the response arrives. -/
def RemKind.blocks : RemKind → Bool
  | .get => true
  | .cas => true
  | .fetchAdd => true
  | _ => false

/-- The idempotent operations (R42). -/
def RemKind.idempotent : RemKind → Bool
  | .get => true
  | .put => true
  | _ => false

/-- Whether an operation is in the classes of a fence. -/
def inFence (mask : U8) (r : Request) : Bool := mask.getLsbD r.op.cls.toNat

/-- What a task still waits for. -/
def Channel.waitsFor (ch : Channel) (t : Task) : ParkCause :=
  let ops := ch.opsOf t.core t.slot
  if t.retry ≠ [] ∨ (ch.dma.xfers.any fun x => xferOf t.core t.slot x && x.retry != []) then .goneRoute
  else if ops.any (·.op.kind.blocks) then .response
  else if ops.any (inFence t.fenceMask) then .fence
  else if t.held.isSome && decide (64 ≤ ops.length) then .opLimit
  else if t.programEnded && !ops.isEmpty then .programEnd
  else .none

/-! ### Completion codes at a task (R48, R258) -/

/-- A task fails with a code under R258, or with GONE while it is not COMMITTED. [DEDUCED, log entry 60] -/
def State.taskFails (s : State) (c : ChanId) (t : Task) (code : CompCode) : State :=
  if code = .gone then
    (s.onCh c fun ch =>
      { ch with tsk := { ch.tsk with goneDefer := satAdd ch.tsk.goneDefer 1 } }.raise c 0x4007).abortTask c t
  else if t.committed then
    let ev := if code = .lost then 0x3004 else 0x3005
    (s.onCh c fun ch => ch.raise c ev).faultTask c t ev
  else s.abortTask c t

/-- A COMMITTED task parks on GONE until the route is live, and then retries the operation. [DEDUCED, log entry 59] -/
def Channel.parkGone (ch : Channel) (c : ChanId) (t : Task) (op : RemOp) : Channel :=
  ((ch.park t.core t.slot .goneRoute).onTask t.core t.slot fun x => { x with retry := x.retry ++ [op] }).raise c 0x4007

/-- An operation of a task completes with a code other than OK and SCALE_MISMATCH. [DEDUCED, log entry 60] -/
def State.taskCode (s : State) (c : ChanId) (t : Task) (op : RemOp) (code : CompCode) : State :=
  if code = .gone ∧ t.committed then s.onCh c fun ch => ch.parkGone c t op else s.taskFails c t code

/-- The code as it meets the task that holds a slot, if one still does. -/
def State.codeAt (s : State) (c : ChanId) (core slot : Nat) (op : RemOp) (code : CompCode) : State :=
  match (s.ch c).task? core slot with
  | some t => s.taskCode c t op code
  | none => s

/-! ### Issue (R48, R257) -/

/-- A transfer that a departed root leaves without its slots: an included contribution, or a running sum (R232). -/
def RemOp.losesSlots (op : RemOp) : Bool :=
  match op.src with
  | some (.encoded, _) => true
  | some (.running false, _) => true
  | _ => false

/-- Such a transfer toward a departed channel fails its bucket (R232). -/
def State.bucketGone (s : State) (c : ChanId) (op : RemOp) (code : CompCode) : State :=
  match op.bucket with
  | some b =>
    if code = .gone ∧ op.losesSlots ∧ (s.ch c).routeState (gaModule op.addr.toNat) (gaChannel op.addr.toNat) = 2 then s.failBucket c b else s
  | none => s

/-- The frame of a transit page that a forwarding PUT reads (R191). -/
def Channel.forwardFrame (ch : Channel) (op : RemOp) : Option Nat :=
  match op.forward with
  | some (r, p, _) => if (ch.pte r p).valid then some (ch.pte r p).frame.toNat else none
  | none => none

/-- A forwarding PUT, the last request issued, pins its frame until it completes. -/
def Channel.pinForward (ch : Channel) (op : RemOp) : Channel :=
  match ch.forwardFrame op with
  | some f =>
    let k := ch.pin f
    { k with wrn := { k.wrn with reqs := k.wrn.reqs.modify (k.wrn.reqs.length - 1) fun r => { r with pinned := some f } } }
  | none => ch

/-- Its completion releases the pin of the frame it read, whatever the PTE names by then. -/
def Channel.unpin (ch : Channel) (f : Option Nat) : Channel :=
  match f with
  | some f => ch.frameAdjust [(f, (-1 : Int), (0 : Int))]
  | none => ch

/-- Issues an operation for a task as an agent; a code with which it completes at once meets the task. The answer says whether the
request is outstanding. -/
def State.issueFor (s : State) (c : ChanId) (core slot agent : Nat) (op : RemOp) : State × Bool :=
  let r := s.issue c (.task core slot) agent op
  match r.2 with
  | none => (r.1.onCh c fun ch => if (s.ch c).issueFull then ch else ch.pinForward op, true)
  | some code => (((r.1.onCh c fun ch => ch.countCode c code).bucketGone c op code).codeAt c core slot op code, false)

/-- A transfer of the exchange takes its bytes from what this channel holds of the bucket, when it holds them, and counts what saturates in
encoding them (R222 to R229). -/
def Channel.fillOp (ch : Channel) (c : ChanId) (op : RemOp) : RemOp × Nat :=
  match op.bucket, op.src with
  | some b, some (src, off) =>
    let r := ch.exchangeBytes c b src off op.payload.length
    let l := (r.1.drop off).take op.payload.length
    if l.length = op.payload.length then ({ op with payload := l }, r.2) else (op, 0)
  | _, _ => (op, 0)

/-- HBM that such a transfer reads. -/
def Channel.opReads (ch : Channel) (op : RemOp) : List (Nat × Nat) :=
  match op.bucket, op.src with
  | some b, some (src, _) => ch.exchangeReads b src
  | _, _ => []

/-- A running task issues an operation; one of the exchange that reads poison faults its task (R274). [DEDUCED, log entry 57] -/
def State.issueOp (s : State) (c : ChanId) (core slot : Nat) (op : RemOp) : State :=
  let chk := s.checkAll c ((s.ch c).opReads op)
  if !chk.2 then (match (chk.1.ch c).task? core slot with
    | some t => chk.1.faultAll c 0x2001 [t]
    | none => chk.1) else
  let s := chk.1
  let fill := (s.ch c).fillOp c op
  let op := fill.1
  let s1 := s.onCh c fun ch =>
    let ch := if fill.2 = 0 then ch else ch.countSat fill.2
    if op.kind.idempotent then ch else ch.onTask core slot fun t => { t with committed := true }
  let s2 := s1.issueFor c core slot core op
  let s3 := s2.1.onCh c fun ch => match op.bucket, op.prepass with
    | some b, true =>
      (ch.onBucket b fun x => { x with started := true }).addCarried b
    | _, _ => ch
  if s2.2 && op.kind.blocks then s3.onCh c fun ch => ch.park core slot .response else s3

/-- A parked task goes on as far as it can: it completes, issues the operation it held, or is READY. [DEDUCED, log entry 182] -/
def State.resume (s : State) (c : ChanId) (core slot : Nat) : State :=
  match (s.ch c).task? core slot with
  | none => s
  | some t =>
    if t.st ≠ .parked ∨ t.cause = .page ∨ t.cause = .walk ∨ t.cause = .actReturn then s
    else match (s.ch c).waitsFor t with
      | .none =>
        if t.programEnded then s.completeTask c t
        else
          let s1 := s.onCh c fun ch => ch.onTask core slot fun x => { x with
            st := .ready, cause := .none, fenceMask := 0, held := none }
          match t.held with
          | some op => s1.issueOp c core slot op
          | none => s1
      | k => s.onCh c fun ch => ch.onTask core slot fun x => { x with cause := k }

/-! ### Retry after GONE (R48) -/

/-- Whether an operation's destination can be reached again. [DEDUCED, log entry 59] -/
def Channel.routeLive (ch : Channel) (c : ChanId) (a : Nat) : Bool :=
  ch.isOwn c a || (ch.routeState (gaModule a) (gaChannel a) == 1 && !(ch.candidates (gaModule a) (gaChannel a)).isEmpty)

/-- A task parked on GONE retries its operations once the route is live. [DEDUCED, log entry 59] -/
def State.retryTask (s : State) (c : ChanId) (t : Task) : State :=
  let live := t.retry.filter fun o => (s.ch c).routeLive c o.addr.toNat
  if live.isEmpty then s
  else
    let s1 := s.onCh c fun ch => ch.onTask t.core t.slot fun x => { x with
      retry := t.retry.filter fun o => !(s.ch c).routeLive c o.addr.toNat }
    let agent := if t.exec = 2 then controlAgent else t.core
    (live.foldl (fun (r : State) o => (r.issueFor c t.core t.slot agent o).1) s1).resume c t.core t.slot

def State.retryTasks (s : State) (c : ChanId) : State :=
  ((s.ch c).tsk.tasks.filter fun t => t.retry ≠ []).foldl (fun (r : State) t => r.retryTask c t) s

/-! ### The commands of a running task -/

/-- A running task issues a remote operation; a tile task issues no non-idempotent one (R88). At 64 outstanding operations the issue parks the task, which issues it when one
has completed. [DEDUCED, log entry 58] -/
def execOpIssue (c : ChanId) (core : LCore) (slot : Nat) (op : RemOp) (s : State) : Result :=
  match (s.ch c).task? core.val slot with
  | none => .next s
  | some t =>
    if t.st ≠ .running ∨ t.programEnded ∨ (t.exec = 0 ∧ !op.kind.idempotent) then .next s
    else if !op.kind.blocks && decide (64 ≤ ((s.ch c).opsOf core.val slot).length) then
      .next (s.onCh c fun ch => (ch.park core.val slot .opLimit).onTask core.val slot fun x => { x with held := some op })
    else .next (s.issueOp c core.val slot op)

/-- A FENCE parks its task while an operation of the masked classes is outstanding. -/
def execFence (c : ChanId) (core : LCore) (slot : Nat) (mask : U8) (s : State) : Result :=
  match (s.ch c).task? core.val slot with
  | none => .next s
  | some t =>
    if t.st = .running ∧ !t.programEnded ∧ ((s.ch c).opsOf core.val slot).any (inFence mask) then
      .next (s.onCh c fun ch => (ch.park core.val slot .fence).onTask core.val slot fun x => { x with fenceMask := mask })
    else .next s

end Sys2Proof.Machine
end

