-- ==== Sys2Proof/Machine/Dma.lean ====
section
/-! DEFINITION. The DMA engine: the checks of a descriptor, its local and remote parts, completion and failure (R283 to R289). -/

namespace Sys2Proof.Machine

def DmaDesc.leadin (d : DmaDesc) : Bool := d.flags.getLsbD 0
def DmaDesc.sig (d : DmaDesc) : Bool := d.flags.getLsbD 1
def DmaDesc.fence (d : DmaDesc) : Bool := d.flags.getLsbD 2
/-- Element size of GATHER, SCATTER and TRANSPOSE. -/
def DmaDesc.size (d : DmaDesc) : Nat := 2 ^ d.esize.toNat

/-- Reads a descriptor, Table 13-1. -/
def parseDma (l : List Byte) : DmaDesc where
  op := BitVec.ofNat 8 (field l 0 1)
  flags := BitVec.ofNat 8 (field l 1 1)
  esize := BitVec.ofNat 8 (field l 2 1)
  rsvd := BitVec.ofNat 8 (field l 3 1)
  count := BitVec.ofNat 32 (field l 4 4)
  src := BitVec.ofNat 64 (field l 8 8)
  dst := BitVec.ofNat 64 (field l 0x10 8)
  srcPitch := BitVec.ofNat 32 (field l 0x18 4)
  dstPitch := BitVec.ofNat 32 (field l 0x1C 4)
  rows := BitVec.ofNat 32 (field l 0x20 4)
  rowBytes := BitVec.ofNat 32 (field l 0x24 4)
  aux := BitVec.ofNat 64 (field l 0x28 8)
  aux2 := BitVec.ofNat 64 (field l 0x30 8)
  sigAddr := BitVec.ofNat 64 (field l 0x38 8)

/-! ### The checks of Table 13-3 that need no data -/

/-- Cause 0x02: a reserved field, or one that the operation does not use, is not zero. -/
def DmaDesc.badRsvd (d : DmaDesc) : Bool :=
  let pitches := d.srcPitch != 0 || d.dstPitch != 0
  let rows := d.rows != 0 || d.rowBytes != 0
  let two := d.aux2 != 0
  d.flags.toNat / 8 != 0 || d.rsvd != 0 || (!d.sig && d.sigAddr != 0)
    || (match d.op.toNat with
        | 1 => pitches || rows || d.aux != 0 || two
        | 2 => pitches || rows || two
        | 3 => pitches || rows || two
        | 4 => d.aux != 0 || two
        | 5 => rows || d.aux != 0 || two
        | 6 => rows
        | 7 => pitches || rows || two || (if d.esize = 0 then d.dst != 0 else d.src != 0)
        | _ => false)

/-- Cause 0x03: ESIZE or COUNT outside Table 13-2. -/
def DmaDesc.badSize (d : DmaDesc) : Bool :=
  let e := d.esize.toNat
  let n := d.count.toNat
  match d.op.toNat with
  | 1 => e != 0 || n == 0
  | 2 => decide (12 < e) || n == 0 || decide (2 ^ 20 < n)
  | 3 => decide (12 < e) || n == 0 || decide (2 ^ 20 < n)
  | 4 => e != 0 || n != 0
  | 5 => decide (2 < e) || n == 0 || decide (4096 < n)
  | 6 => decide (2 < e) || n != 1
  | 7 => decide (1 < e) || n != 0
  | _ => false

def misaligned (k : Nat) (l : List Nat) : Bool := l.any fun a => a % k != 0

/-- Cause 0x04, elements and planes. -/
def DmaDesc.badAlign (d : DmaDesc) : Bool :=
  match d.op.toNat with
  | 2 => misaligned d.size [d.src.toNat, d.dst.toNat]
  | 3 => misaligned d.size [d.src.toNat, d.dst.toNat]
  | 5 => misaligned d.size [d.src.toNat, d.dst.toNat, d.srcPitch.toNat, d.dstPitch.toNat]
  | 6 => misaligned 64 [d.src.toNat, d.dst.toNat, d.aux.toNat, d.aux2.toNat]
  | _ => false

/-! ### Parts -/

/-- A part of a transfer: source, destination, length. -/
structure Part3 where
  src : Nat
  dst : Nat
  len : Nat
  deriving DecidableEq, Repr

/-- Indices of a list of 32-bit numbers. -/
def words32 (l : List Byte) : List Nat := (chunks 4 (l.length / 4) l).map leNat

/-- Parts of the operations that move bytes unchanged (Table 13-2), from the index list that GATHER and SCATTER read. -/
def DmaDesc.parts (d : DmaDesc) (idx : List Nat) : List Part3 :=
  let s := d.src.toNat
  let t := d.dst.toNat
  let z := d.size
  match d.op.toNat with
  | 1 => [⟨s, t, d.count.toNat⟩]
  | 2 => (idx.zipIdx).map fun (e : Nat × Nat) => ⟨s + e.1 * z, t + e.2 * z, z⟩
  | 3 => (idx.zipIdx).map fun (e : Nat × Nat) => ⟨s + e.2 * z, t + e.1 * z, z⟩
  | 4 => (List.range d.rows.toNat).map fun r => ⟨s + r * d.srcPitch.toNat, t + r * d.dstPitch.toNat, d.rowBytes.toNat⟩
  | 5 => (List.range d.count.toNat).flatMap fun k => (List.range 64).flatMap fun i => (List.range 64).map fun j =>
      ⟨s + k * 64 * z + i * d.srcPitch.toNat + j * z, t + k * 64 * d.dstPitch.toNat + j * d.dstPitch.toNat + i * z, z⟩
  | _ => []

/-- Place of a range of the issuing channel that the engine reaches itself; registers are reached by GET and PUT on the NoC. -/
def Channel.localPlace (ch : Channel) (c : ChanId) (a n : Nat) : Option Place :=
  if ch.isOwn c a then
    match placeOf (gaOffset a) n with
    | some (.csr _) => none
    | p => p
  else none

/-- A range is the engine's own to move: in the issuing channel, and not a register. -/
def Channel.isLocal (ch : Channel) (c : ChanId) (a : Nat) : Bool :=
  ch.isOwn c a && decide (gaOffset a < csrBase)

/-- Cause 0x06 of a local range: outside its region, in an SRAM slot or CXL range that does not exist, or a write into the Badger
area (R277, R289, R334). [DEDUCED, log entry 113] -/
def Channel.badLocal (ch : Channel) (c : ChanId) (write : Bool) (a n : Nat) : Bool :=
  n != 0 && ch.isLocal c a && match ch.localPlace c a n with
    | none => true
    | some (.hbm o) => write && decide (badgerArea < o + n)
    | some (.cxl o) => !ch.cxlMapped o n
    | some (.sram slot _) => decide (128 ≤ slot)
    | some (.csr _) => true

/-- A local write into the system area of a core, which completes with ADDR_ERR (R280). [DEDUCED, log entry 116] -/
def Channel.intoSystem (ch : Channel) (c : ChanId) (a n : Nat) : Bool :=
  match ch.localPlace c a n with
  | some (.sram _ o) => systemBlocked false o n
  | _ => false

/-- A global address lies in the CSR region of its channel, or above. -/
def isCsrAddr (a : Nat) : Bool := decide (csrBase ≤ gaOffset a)

/-- A CSR part takes 8-byte aligned words (R8, R285). -/
def badCsr (a n : Nat) : Bool := isCsrAddr a && (a % 8 != 0 || n % 8 != 0)

/-- Cause of a set of parts. [DEDUCED, log entries 113 and 116] -/
def Channel.partsCause (ch : Channel) (c : ChanId) (l : List Part3) : Nat :=
  if l.any fun p => badCsr p.src p.len || badCsr p.dst p.len then 4
  else if l.any fun p => ch.badLocal c false p.src p.len || ch.badLocal c true p.dst p.len then 6
  else 0

/-! ### Failure (R289) -/

def Channel.dmaOwnerTask (ch : Channel) (o : DmaOwner) : Option Task :=
  match o with
  | .task core slot _ => ch.task? core slot
  | _ => none

/-- Records a descriptor's failure with a cause of Table 13-3. [DEDUCED, log entry 116] -/
def Channel.dmaRecord (ch : Channel) (c : ChanId) (o : DmaOwner) (op : U8) (cause : Nat) : Channel :=
  let t := ch.dmaOwnerTask o
  let ctrl := match o with
    | .control => true
    | _ => false
  let core := match o with
    | .task k _ _ => k
    | .planned k _ _ _ => k
    | .control => 0
  let seq := match o with
    | .planned _ _ q _ => BitVec.ofNat 32 q
    | _ => (t.map (·.desc.planSeq)).getD 0
  let k := { ch with dma := { ch.dma with
    faults := satAdd ch.dma.faults 1
    blktMixCnt := if cause = 7 then satAdd ch.dma.blktMixCnt 1 else ch.dma.blktMixCnt
    blktMix := ch.dma.blktMix || cause == 7
    memUe := ch.dma.memUe || cause == 8
    fault := ch.dma.fault || cause != 8
    errCause := BitVec.ofNat 8 cause
    errOp := op
    errCtrl := ctrl
    errCore := BitVec.ofNat 7 core
    errSeq := seq } }
  if cause = 8 then k else k.raise c 0x2006

/-- A descriptor fails with a cause, and its task faults. -/
def State.dmaFail (s : State) (c : ChanId) (o : DmaOwner) (op : U8) (cause : Nat) : State :=
  let s1 := s.onCh c fun ch => ch.dmaRecord c o op cause
  match (s1.ch c).dmaOwnerTask o with
  | some t => s1.faultTask c t (if cause = 8 then 0x2001 else 0x2006)
  | none => s1

/-- A transfer ends with a code other than OK and SCALE_MISMATCH: the task of the descriptor is aborted, or faults when it is
COMMITTED (R258, R289); a transfer of the control complex ends. -/
def State.dmaCode (s : State) (c : ChanId) (x : Nat) (o : DmaOwner) (code : CompCode) : State :=
  let s1 := s.onCh c fun ch => { ch with dma := { ch.dma with xfers := ch.dma.xfers.filter fun y => y.id != x } }
  match (s1.ch c).dmaOwnerTask o with
  | some t => s1.taskFails c t code
  | none => s1

/-- A remote part completes with a code: a part of a COMMITTED task that completes GONE is retried when the route is live, as the
task's own operations are (R48). -/
def State.dmaPartCode (s : State) (c : ChanId) (x : Xfer) (off : Nat) (op : RemOp) (code : CompCode) : State :=
  match (s.ch c).dmaOwnerTask x.owner with
  | some t =>
    if code = .gone ∧ t.committed then
      s.onCh c fun ch =>
        let f (y : Xfer) : Xfer := if y.id = x.id then { y with retry := y.retry ++ [(off, op)] } else y
        ({ ch with dma := { ch.dma with xfers := ch.dma.xfers.map f } }.park t.core t.slot .goneRoute).raise c 0x4007
    else s.dmaCode c x.id x.owner code
  | none => s.dmaCode c x.id x.owner code

/-! ### Activations (R196, R197) -/

/-- The OFFLOAD layer whose region of the CXL aperture holds an offset. -/
def Channel.offloadLayer (ch : Channel) (o : Nat) : Option Nat :=
  match ch.pss.layout with
  | some l => (l.acts.find? fun a => a.policy == 1 && decide (a.offBase.toNat ≤ o) && decide (o < a.offBase.toNat + a.offLen.toNat)).map
      fun a => a.layer.toNat
  | none => none

/-- Bytes of a local range as they stand, without a check. -/
def Channel.peekLocal (ch : Channel) (c : ChanId) (a n : Nat) : List Byte :=
  match ch.localPlace c a n with
  | some (.hbm o) => ch.hbmBytes o n
  | some (.cxl o) => ch.cxlBytes o n
  | some (.sram slot o) => ch.sramBytes (ch.pcore slot) o n
  | _ => []

/-- Parts of a descriptor that moves bytes unchanged, its index list read as it stands. -/
def Channel.partsNow (ch : Channel) (c : ChanId) (d : DmaDesc) : List Part3 :=
  d.parts (if d.op = 2 ∨ d.op = 3 then words32 (ch.peekLocal c d.aux.toNat (4 * d.count.toNat)) else [])

/-- The return copies that a descriptor performs: layer, HBM offset of the destination, length. [DEDUCED, log entry 118] -/
def Channel.returnCopies (ch : Channel) (c : ChanId) (d : DmaDesc) : List (Nat × Nat × Nat) :=
  (ch.partsNow c d).filterMap fun p =>
    match ch.localPlace c p.src p.len, ch.localPlace c p.dst p.len with
    | some (.cxl o), some (.hbm h) => (ch.offloadLayer o).map fun l => (l, h, p.len)
    | _, _ => none

/-- Bytes that a descriptor copies into OFFLOAD regions. -/
def Channel.offloadBytes (ch : Channel) (c : ChanId) (d : DmaDesc) : Nat :=
  ((ch.partsNow c d).map fun p =>
    match ch.localPlace c p.dst p.len with
    | some (.cxl o) => if (ch.offloadLayer o).isSome then p.len else 0
    | _ => 0).foldl (· + ·) 0

/-- KiB that a descriptor copies to the CXL tier under OFFLOAD. -/
def Channel.offloadKib (ch : Channel) (c : ChanId) (d : DmaDesc) : Nat := ch.offloadBytes c d / 1024

/-- Whether two ranges meet. -/
def meets (a n b m : Nat) : Bool := decide (a < b + m) && decide (b < a + n)

/-- HBM ranges that a task reads by its arguments and descriptors: an argument of kind 3 is an HBM offset, one of kind 2 a global
address (Table 14-3). -/
def Channel.hbmReads (ch : Channel) (c : ChanId) (t : Task) : List (Nat × Nat) :=
  let kinds := ((ch.classOf t.desc).map (·.argKinds)).getD 0
  let kind (i : Nat) : Nat := kinds.toNat / 16 ^ i % 16
  let args := [(0, t.desc.arg0), (1, t.desc.arg1), (2, t.desc.arg2), (3, t.desc.arg3)]
  (args.filterMap fun (e : Nat × U64) =>
    if kind e.1 = 3 then some (e.2.toNat, 1)
    else if kind e.1 = 2 ∧ ch.isOwn c e.2.toNat ∧ gaOffset e.2.toNat < hbmSize then some (gaOffset e.2.toNat, 1)
    else none)
  ++ t.dmaDescs.flatMap fun d => (ch.partsNow c d).filterMap fun p =>
    match ch.localPlace c p.src p.len with
    | some (.hbm h) => some (h, p.len)
    | _ => none

def Channel.readsAny (ch : Channel) (c : ChanId) (t : Task) (l : List (Nat × Nat × Nat)) : Bool :=
  (ch.hbmReads c t).any fun r => l.any fun e => meets r.1 r.2 e.2.1 e.2.2

/-- A backward task that reads lost activations faults with ACT_LOST (R197). -/
def State.actLost (s : State) (c : ChanId) (t : Task) : State :=
  (s.onCh c fun ch => { ch with upd := { ch.upd with actLost := true, lost := satAdd ch.upd.lost 1 } }.raiseStep c 0x6004).faultTask
    c t 0x6004

/-- A failed CXL read loses the activations of a return copy; the tasks that wait for it fault. They stay lost until the job is rolled back.
 [DEDUCED, log entry 118] -/
def State.loseActs (s : State) (c : ChanId) (d : DmaDesc) : State :=
  let l := (s.ch c).returnCopies c d
  let s1 := s.onCh c fun ch => { ch with upd := { ch.upd with
    actPending := ch.upd.actPending.filter fun e => !l.contains e
    actGone := ch.upd.actGone ++ l.filter fun e => !ch.upd.actGone.contains e } }
  let hit := (s1.ch c).tsk.tasks.filter fun t => t.st == .parked && t.cause == .actReturn && (s1.ch c).readsAny c t l
  hit.foldl (fun r t => r.actLost c t) s1

/-- A return copy has completed: the tasks that waited for it alone are READY. -/
def Channel.actReturned (ch : Channel) (c : ChanId) (d : DmaDesc) : Channel :=
  match ch.returnCopies c d with
  | [] => ch
  | l =>
    let k := { ch with upd := { ch.upd with actPending := ch.upd.actPending.filter fun e => !l.contains e } }
    let f (t : Task) : Task :=
      if t.st = .parked ∧ t.cause = .actReturn ∧ !k.readsAny c t k.upd.actPending then { t with st := .ready, cause := .none } else t
    { k with tsk := { k.tsk with tasks := k.tsk.tasks.map f } }

/-! ### Completion (R286) -/

/-- Bytes of a block of a format code (Table 04-1). -/
def blockBytes (code : Nat) : Nat := fmtBytes32 code

/-- BLKT from source planes: element rows (each two blocks) and scale rows (each two bytes); none when a sub-square is mixed. -/
def blktMove (code : Nat) (rows : List (List Byte)) (scales : List (List Byte)) : Option (List (List Byte) × List (List Byte)) :=
  let f := elFmt code
  let sc (r h : Nat) : Nat := ((scales.getD r []).getD h 0).toNat
  let uniform := (List.range 2).all fun b => (List.range 2).all fun h => (List.range 32).all fun t => sc (32 * b + t) h == sc (32 * b) h
  if !uniform then none
  else
    let half (l : List Byte) : List Nat := (List.range 32).map (blockCode f l)
    let codes := rows.map fun row => half (row.take (blockBytes code)) ++ half (row.drop (blockBytes code))
    let out := (List.range 64).map fun col => (List.range 2).flatMap fun b =>
      packCodes f ((List.range 32).map fun t => (codes.getD (32 * b + t) []).getD col 0)
    let outS := (List.range 64).map fun col => (List.range 2).map fun b => BitVec.ofNat 8 (sc (32 * b) (col / 32))
    some (out, outS)

/-- A byte of what a transfer has received or holds; of two, the later one. [DEDUCED, log entry 233] -/
def Xfer.byteAt (x : Xfer) (a : Nat) : Byte :=
  ((x.writes.filter fun e => decide (e.1.toNat ≤ a) && decide (a < e.1.toNat + e.2.length)).getLast?.map fun e =>
    e.2.getD (a - e.1.toNat) 0).getD 0

/-- What a transfer writes at its completion. The rows of a remote BLKT tile are held under their own addresses until all of them have come; their
scales were checked and moved at the start (R284, R287). [DEDUCED, log entry 233] -/
def Channel.finalWrites (ch : Channel) (c : ChanId) (x : Xfer) : List (U64 × List Byte) :=
  if x.desc.op = 6 && !ch.isLocal c x.desc.src.toNat then
    let bb := blockBytes x.desc.esize.toNat
    let rows := (blktRows x.desc.src x.desc.srcPitch bb (2 * bb)).map fun e => (List.range e.2).map fun i => x.byteAt (e.1 + i)
    let out := ((blktMove x.desc.esize.toNat rows (List.replicate 64 [0, 0])).map (·.1)).getD []
    (((blktRows x.desc.dst x.desc.dstPitch bb (2 * bb)).zip out).map fun e => (BitVec.ofNat 64 e.1.1, e.2))
      ++ x.writes.filter fun e => ch.isLocal c e.1.toNat
  else x.writes

/-- Applies the writes of a transfer; the code of the first that fails. -/
def State.dmaWrites (s : State) (c : ChanId) (l : List (U64 × List Byte)) : State × CompCode :=
  l.foldl (fun (r : State × CompCode) e =>
    if r.2 ≠ .ok then r
    else match (r.1.ch c).localPlace c e.1.toNat e.2.length with
      | some p =>
        if (r.1.ch c).intoSystem c e.1.toNat e.2.length then (r.1, .addrErr)
        else r.1.writePlace c p e.2
      | none => (r.1, .addrErr)) (s, .ok)

/-- The completion SIGNAL of a descriptor commits its task (R286). -/
def State.dmaSignal (s : State) (c : ChanId) (x : Xfer) : State :=
  if !x.desc.sig then s
  else
    let t := (s.ch c).dmaOwnerTask x.owner
    let op : RemOp := { kind := .signal, cls := (t.map fun u => u.desc.order.setWidth 3).getD 0, addr := x.desc.sigAddr, operand := 1 }
    match t with
    | some u =>
      let s1 := s.onCh c fun ch => ch.onTask u.core u.slot fun y => { y with committed := true }
      (s1.issueFor c u.core u.slot controlAgent op).1
    | none => s.sendOp c .squirrel controlAgent op

/-- A descriptor of a task has completed, and has written `w`; the last one ends its program. -/
def State.dmaTaskEnds (s : State) (c : ChanId) (o : DmaOwner) (w : List (U64 × List Byte)) : State :=
  match o with
  | .task core slot idx =>
    match (s.ch c).task? core slot with
    | none => s
    | some t =>
      let done := insertNat idx t.dmaDone
      let wrote := t.dmaWrote ++ w.map fun e => (e.1.toNat, e.2.length)
      let s1 := s.onCh c fun ch => ch.onTask core slot fun u => { u with dmaDone := done, dmaWrote := wrote }
      if done.length = t.dmaDescs.length then s1.programEnds c { t with dmaDone := done, dmaWrote := wrote, programEnded := true } else s1
  | .planned core beat seq idx =>
    s.onCh c fun ch => { ch with dma := { ch.dma with early := ch.dma.early ++ [(core, beat, seq, idx)] } }
  | .control => s

/-- A transfer completes: its writes become visible, its SIGNAL is issued, and its task may end. [DEDUCED, log entry 117] -/
def State.dmaComplete (s : State) (c : ChanId) (x : Xfer) : State :=
  let w := (s.ch c).finalWrites c x
  let r := s.dmaWrites c w
  if r.2 ≠ .ok then r.1.dmaCode c x.id x.owner r.2
  else
    let s1 := r.1.onCh c fun ch =>
      let k := { ch with
        dma := { ch.dma with
          xfers := ch.dma.xfers.filter fun y => y.id != x.id
          descs := wrapAdd ch.dma.descs 1, bytes := wrapAdd ch.dma.bytes x.bytes }
        upd := { ch.upd with offloadKib := wrapAdd ch.upd.offloadKib (ch.offloadKib c x.desc) }
        sql := { ch.sql with walked := match x.walked with
          | some w => (ch.sql.walked.filter fun (y : WalkedList) => y.region != w.region) ++ [w]
          | none => ch.sql.walked } }
      k.actReturned c x.desc
    (s1.dmaSignal c x).dmaTaskEnds c x.owner w

/-- `xfer` is the transfer's number; one with remote parts outstanding has not completed. -/
def execDmaDescComplete (c : ChanId) (xfer : Nat) (s : State) : Result :=
  match (s.ch c).dma.xfers.find? fun x => x.id == xfer with
  | none => .next s
  | some x => if x.outstanding = 0 then .next (s.dmaComplete c x) else .next s

/-! ### Start -/

/-- Puts what a local read of a part gave: the writes held until completion, or PUTs. -/
structure DmaRun where
  s : State
  writes : List (U64 × List Byte) := []
  ops : List (Nat × RemOp) := []
  bytes : Nat := 0
  srcs : List (Nat × Nat) := []        -- source ranges read in the issuing channel
  cxl : List (Nat × Nat) := []         -- ranges of the CXL aperture read
  cause : Nat := 0
  code : CompCode := .ok

/-- Reads a local range; a failure gives cause 0x08 for HBM and SRAM, and MEM_ERR for the CXL tier (R278, R289). -/
def DmaRun.read (r : DmaRun) (c : ChanId) (a n : Nat) : DmaRun × List Byte :=
  match (r.s.ch c).localPlace c a n with
  | none => ({ r with cause := 6 }, [])
  | some p =>
    let q := r.s.readPlace c p n
    match q.2.1, p with
    | .ok, .hbm o => ({ r with s := q.1 }, (r.s.ch c).spaView o q.2.2)
    | .ok, .cxl o => ({ r with s := q.1, cxl := r.cxl ++ [(o, n)] }, q.2.2)
    | .ok, _ => ({ r with s := q.1 }, q.2.2)
    | e, .cxl _ => ({ r with s := q.1, code := e }, [])
    | _, _ => ({ r with s := q.1, cause := 8 }, [])

/-- Chunks of a part as operations take them: 4,096 bytes, or 8 for registers. -/
def opChunks (a n : Nat) : List (Nat × Nat) :=
  let w := if isCsrAddr a then 8 else 4096
  (List.range ((n + w - 1) / w)).map fun i => (i * w, min w (n - i * w))

/-- One part: local to local, from elsewhere by GET, or to elsewhere by PUT (R284). -/
def DmaRun.part (r : DmaRun) (c : ChanId) (cls : BitVec 3) (p : Part3) : DmaRun :=
  if r.cause ≠ 0 ∨ r.code ≠ .ok ∨ p.len = 0 then r
  else
    let ch := r.s.ch c
    if ch.isLocal c p.src then
      let q := r.read c p.src p.len
      if q.1.cause ≠ 0 ∨ q.1.code ≠ .ok then q.1
      else if ch.isLocal c p.dst then
        { q.1 with
          writes := q.1.writes ++ [(BitVec.ofNat 64 p.dst, q.2)], bytes := q.1.bytes + p.len, srcs := q.1.srcs ++ [(p.src, p.len)] }
      else
        { q.1 with
          bytes := q.1.bytes + p.len
          ops := q.1.ops ++ (opChunks p.dst p.len).map fun e =>
            (0, { kind := .put, cls := cls, addr := BitVec.ofNat 64 (p.dst + e.1), payload := (q.2.drop e.1).take e.2 }) }
    else
      { r with
        bytes := r.bytes + p.len
        ops := r.ops ++ (opChunks p.src p.len).map fun e =>
          (p.dst + e.1, { kind := .get, cls := cls, addr := BitVec.ofNat 64 (p.src + e.1), operand := BitVec.ofNat 64 e.2 }) }

/-- GATHER and SCATTER read their index list in the issuing channel (Table 13-2). -/
def DmaRun.indices (r : DmaRun) (c : ChanId) (d : DmaDesc) : DmaRun × List Nat :=
  if d.op = 2 ∨ d.op = 3 then
    if !(r.s.ch c).isLocal c d.aux.toNat then ({ r with cause := 6 }, [])
    else
      let q := r.read c d.aux.toNat (4 * d.count.toNat)
      (q.1, words32 q.2)
  else (r, [])

/-! #### BLKT (R287) -/

/-- Reads one more row, unless an earlier one failed. -/
def DmaRun.readRow (c : ChanId) (q : DmaRun × List (List Byte)) (e : Nat × Nat) : DmaRun × List (List Byte) :=
  if q.1.cause ≠ 0 ∨ q.1.code ≠ .ok then q
  else
    let x := q.1.read c e.1 e.2
    ({ x.1 with srcs := x.1.srcs ++ [e] }, q.2 ++ [x.2])

/-- Bytes for a destination range: held until completion in the issuing channel, elsewhere by PUT. -/
def DmaRun.send (c : ChanId) (cls : BitVec 3) (r : DmaRun) (e : (Nat × Nat) × List Byte) : DmaRun :=
  if (r.s.ch c).isLocal c e.1.1 then { r with writes := r.writes ++ [(BitVec.ofNat 64 e.1.1, e.2)] }
  else { r with ops := r.ops ++ (opChunks e.1.1 e.1.2).map fun k =>
    (0, { kind := .put, cls := cls, addr := BitVec.ofNat 64 (e.1.1 + k.1), payload := (e.2.drop k.1).take k.2 }) }

/-- A BLKT tile with a remote plane (R284, R287): the scales at AUX are checked first. Remote source rows come by GET, under their own addresses;
what goes to another channel leaves by PUT. [DEDUCED, log entry 233] -/
def DmaRun.blktFar (r : DmaRun) (c : ChanId) (cls : BitVec 3) (d : DmaDesc) (srcs scs dsts dscs : List (Nat × Nat)) : DmaRun :=
  let b := scs.foldl (DmaRun.readRow c) (r, [])
  if b.1.cause ≠ 0 ∨ b.1.code ≠ .ok then b.1
  else if (b.1.s.ch c).isLocal c d.src.toNat then
    let a := srcs.foldl (DmaRun.readRow c) (b.1, [])
    if a.1.cause ≠ 0 ∨ a.1.code ≠ .ok then a.1
    else match blktMove d.esize.toNat a.2 b.2 with
      | none => { a.1 with cause := 7 }
      | some m => (dsts.zip m.1 ++ dscs.zip m.2).foldl (DmaRun.send c cls) a.1
  else match blktMove d.esize.toNat [] b.2 with
    | none => { b.1 with cause := 7 }
    | some m =>
      let k := (dscs.zip m.2).foldl (DmaRun.send c cls) b.1
      { k with ops := k.ops ++ srcs.flatMap fun e => (opChunks e.1 e.2).map fun g =>
          (e.1 + g.1, { kind := .get, cls := cls, addr := BitVec.ofNat 64 (e.1 + g.1), operand := BitVec.ofNat 64 g.2 }) }

/-- Reads the planes of a BLKT tile. [DEDUCED, log entry 233] -/
def DmaRun.blkt (r : DmaRun) (c : ChanId) (cls : BitVec 3) (d : DmaDesc) : DmaRun :=
  let bb := blockBytes d.esize.toNat
  let ch := r.s.ch c
  let srcs := blktRows d.src d.srcPitch bb (2 * bb)
  let scs := blktRows d.aux d.srcPitch 1 2
  let dsts := blktRows d.dst d.dstPitch bb (2 * bb)
  let dscs := blktRows d.aux2 d.dstPitch 1 2
  let far (l : List (Nat × Nat)) : Bool := l.any fun e => !ch.isLocal c e.1
  let bad (w : Bool) (l : List (Nat × Nat)) : Bool := l.any fun e => ch.badLocal c w e.1 e.2
  if far scs || (far srcs && far dsts) || bad false srcs || bad false scs || bad true dsts || bad true dscs then { r with cause := 6 }
  else if far srcs || far dsts || far dscs then { r.blktFar c cls d srcs scs dsts dscs with bytes := 64 * (2 * bb + 2) }
  else
    let a := srcs.foldl (DmaRun.readRow c) (r, [])
    let b := scs.foldl (DmaRun.readRow c) (a.1, [])
    if b.1.cause ≠ 0 ∨ b.1.code ≠ .ok then b.1
    else match blktMove d.esize.toNat a.2 b.2 with
      | none => { b.1 with cause := 7 }
      | some m => { b.1 with
          bytes := 64 * (2 * bb + 2)
          writes := (dsts.zip m.1).map (fun e => (BitVec.ofNat 64 e.1.1, e.2))
            ++ (dscs.zip m.2).map fun e => (BitVec.ofNat 64 e.1.1, e.2) }

/-! #### PAGELIST (R288) -/

/-- Parts of a PAGELIST, and the list for the PTE rebuild; none when a check of the list fails. -/
def Channel.pagelistParts (ch : Channel) (c : ChanId) (d : DmaDesc) (hdr list : List Byte) : Option (List Part3 × WalkedList) :=
  let region := field hdr 0 3
  let pages := words32 list
  let base := field hdr 8 8 % 2 ^ 36
  match ch.pool? (field hdr 3 1) with
  | none => none
  | some p =>
    let size := p.frameKib.toNat * 1024
    let ok := p.isHbm && pages.all fun g => decide (g < (ch.region region).maxPages.toNat) && p.hasFrame (base + g)
    if !ok then none
    else
      let self := ch.chn.moduleId.toNat * 2 ^ 50 + c.val * 2 ^ 49
      let frame (g : Nat) : Nat := self + p.frameAddr (base + g)
      let parts := (pages.zipIdx).map fun (e : Nat × Nat) =>
        if d.esize = 0 then (⟨d.src.toNat + e.2 * size, frame e.1, size⟩ : Part3)
        else ⟨frame e.1, d.dst.toNat + e.2 * size, size⟩
      some (parts, { region := region, pool := field hdr 3 1, baseFrame := base, pages := pages })

/-! #### A descriptor starts -/

/-- Runs a descriptor as far as its local data goes. [DEDUCED, log entry 117] -/
def State.dmaRun (s : State) (c : ChanId) (cls : BitVec 3) (d : DmaDesc) : DmaRun × Option WalkedList :=
  let ch := s.ch c
  let r : DmaRun := { s := s }
  let stop (n : Nat) : DmaRun × Option WalkedList := ({ r with cause := n }, none)
  if d.op = 0 ∨ 7 < d.op.toNat then stop 1
  else if d.badRsvd then stop 2
  else if d.badSize then stop 3
  else if d.badAlign then stop 4
  else if d.op = 7 ∧ !ch.sql.walk then stop 5
  else if d.op ≠ 7 ∧ !ch.isOwn c d.src.toNat ∧ !ch.isOwn c d.dst.toNat then stop 6
  else if d.op = 6 then (r.blkt c cls d, none)
  else if d.op = 7 then
    if !ch.isLocal c d.aux.toNat then stop 6
    else
      let h := r.read c d.aux.toNat 16
      if h.1.cause ≠ 0 ∨ h.1.code ≠ .ok then (h.1, none)
      else
        let n := field h.2 4 4
        let l := if n = 0 then (h.1, []) else h.1.read c (d.aux.toNat + 16) (4 * n)
        if l.1.cause ≠ 0 ∨ l.1.code ≠ .ok then (l.1, none)
        else match ch.pagelistParts c d h.2 l.2 with
          | none => ({ l.1 with cause := 6 }, none)
          | some q =>
            match ch.partsCause c q.1 with
            | 0 => (q.1.foldl (fun x p => x.part c cls p) l.1, some q.2)
            | k => ({ l.1 with cause := k }, none)
  else
    let i := r.indices c d
    if i.1.cause ≠ 0 ∨ i.1.code ≠ .ok then (i.1, none)
    else
      let parts := d.parts i.2
      match ch.partsCause c parts with
      | 0 => (parts.foldl (fun x p => x.part c cls p) i.1, none)
      | k => ({ i.1 with cause := k }, none)

/-- Issues the remote parts of a transfer; a part that completes at once counts as any other. [DEDUCED, log entry 117] -/
def State.dmaIssue (s : State) (c : ChanId) (x : Xfer) (ops : List (Nat × RemOp)) : State :=
  ops.foldl (fun (r : State) (e : Nat × RemOp) =>
    if (r.ch c).dma.xfers.any (·.id == x.id) then
      let q := r.issue c (.dma x.id) controlAgent e.2 e.1
      match q.2 with
      | none => q.1
      | some code => (q.1.onCh c fun ch => ch.countCode c code).dmaPartCode c x e.1 e.2 code
    else r) s

/-- Whether a write of a descriptor meets one of its source ranges. [DEDUCED, log entry 117] -/
def meetsSource (srcs : List (Nat × Nat)) (w : List (U64 × List Byte)) : Bool :=
  w.any fun e => srcs.any fun r => meets e.1.toNat e.2.length r.1 r.2

/-- The writes of a descriptor whose source and destination overlap: the bytes written in the overlap are undefined (R286), and are free
values from the k-th on. [DEDUCED, log entry 117] -/
def overlapFree (k : Nat) (srcs : List (Nat × Nat)) (w : List (U64 × List Byte)) : List (U64 × List Byte) :=
  w.zipIdx.map fun (e : (U64 × List Byte) × Nat) => (e.1.1, e.1.2.zipIdx.map fun (b : Byte × Nat) =>
    let x := e.1.1.toNat + b.2
    if srcs.any fun r => decide (r.1 ≤ x) && decide (x < r.1 + r.2) then BitVec.ofNat 8 (Config.freeValue (k + e.2) / 256 ^ b.2) else b.1)

/-- Starts a descriptor. [DEDUCED, log entry 117] -/
def State.startDma (s : State) (c : ChanId) (o : DmaOwner) (d : DmaDesc) : State :=
  let cls := (((s.ch c).dmaOwnerTask o).map fun t => t.desc.order.setWidth 3).getD 0
  let q := s.dmaRun c cls d
  let r := q.1
  if r.cause ≠ 0 then r.s.dmaFail c o d.op r.cause
  else if r.code ≠ .ok then (r.s.loseActs c d).dmaCode c (r.s.ch c).dma.nextId o r.code
  else
    let id := (r.s.ch c).dma.nextId
    let hit := meetsSource r.srcs r.writes
    let x : Xfer :=
      { id := id, owner := o, desc := d, writes := if hit then overlapFree r.s.free r.srcs r.writes else r.writes
        bytes := r.bytes, cxlReads := r.cxl, outstanding := r.ops.length, leadin := d.leadin, walked := q.2 }
    let s1 := r.s.onCh c fun ch => { ch with dma := { ch.dma with xfers := ch.dma.xfers ++ [x], nextId := id + 1 } }
    (s1.tookFree (if hit then r.writes.length else 0)).dmaIssue c x r.ops

/-- Descriptors of a task that have started. -/
def Channel.dmaStarted (ch : Channel) (core slot : Nat) (t : Task) : Nat :=
  countIf (xferOf core slot) ch.dma.xfers + t.dmaDone.length

/-- A DMA-only task planned for the next beat whose descriptor `idx`, as core SRAM holds it, is d (R37, R283). [DEDUCED, log entry 118] -/
def Channel.leadinTask (ch : Channel) (core seq idx : Nat) (d : DmaDesc) : Bool :=
  (ch.planOf (ch.beat.number.toNat + 1)).any fun e =>
    e.1 == core && e.2.2.planSeq.toNat == seq && e.2.2.flags.getLsbD 1 && ch.execOf e.2.2 == some 2 && decide (idx < e.2.2.arg1.toNat)
      && parseDma (ch.sramBytes (ch.pcore core) (e.2.2.arg0.toNat % 2 ^ 22 + 64 * idx) 64) == d

/-- Whether a descriptor may start now: its task runs and its turn has come, behind a FENCE after every earlier one has completed;
in the lead-in window, that of a task of the next beat (R37, R286). [DEDUCED, log entry 118] -/
def Channel.dmaMayStart (ch : Channel) (d : DmaDesc) (owner : Option (LCore × Nat × Nat)) : Option DmaOwner :=
  if 32 ≤ ch.dma.xfers.length then none
  else match owner with
    | none => some .control
    | some (core, slot, idx) =>
      let turn (t : Task) : Bool := t.st == .running && t.dmaDescs[idx]? == some d && ch.dmaStarted core.val slot t == idx
        && (!d.fence || t.dmaDone.length == idx)
      if ((ch.task? core.val slot).map turn).getD false then some (.task core.val slot idx)
      else if ch.beat.leadin && d.leadin && ch.leadinTask core.val slot idx d then
        some (.planned core.val (ch.beat.number.toNat + 1) slot idx)
      else none

/-- A DMA command of one operation; a descriptor with a reserved OP fails under every command. -/
def State.dmaCommand (s : State) (c : ChanId) (op : Nat) (d : DmaDesc) (owner : Option (LCore × Nat × Nat)) : State :=
  if d.op.toNat ≠ op ∧ 1 ≤ d.op.toNat ∧ d.op.toNat ≤ 7 then s
  else match (s.ch c).dmaMayStart d owner with
    | some o => s.startDma c o d
    | none => s

def execDmaCopy (c : ChanId) (d : DmaDesc) (owner : Option (LCore × Nat × Nat)) (s : State) : Result := .next (s.dmaCommand c 1 d owner)
def execDmaGather (c : ChanId) (d : DmaDesc) (owner : Option (LCore × Nat × Nat)) (s : State) : Result := .next (s.dmaCommand c 2 d owner)
def execDmaScatter (c : ChanId) (d : DmaDesc) (owner : Option (LCore × Nat × Nat)) (s : State) : Result :=
  .next (s.dmaCommand c 3 d owner)
def execDmaStride2d (c : ChanId) (d : DmaDesc) (owner : Option (LCore × Nat × Nat)) (s : State) : Result :=
  .next (s.dmaCommand c 4 d owner)
def execDmaTranspose (c : ChanId) (d : DmaDesc) (owner : Option (LCore × Nat × Nat)) (s : State) : Result :=
  .next (s.dmaCommand c 5 d owner)
def execDmaBlkt (c : ChanId) (d : DmaDesc) (owner : Option (LCore × Nat × Nat)) (s : State) : Result := .next (s.dmaCommand c 6 d owner)
def execDmaPagelist (c : ChanId) (d : DmaDesc) (owner : Option (LCore × Nat × Nat)) (s : State) : Result :=
  .next (s.dmaCommand c 7 d owner)

/-! ### Remote parts (R284) -/

/-- A remote part of a transfer completes. What a GET brings for a register of the issuing channel goes on to it by PUT, a word at a time. -/
def State.dmaPart (s : State) (c : ChanId) (x : Nat) (off : Nat) (op : RemOp) (code : CompCode) (payload : List Byte) : State :=
  match (s.ch c).dma.xfers.find? fun y => y.id == x with
  | none => s
  | some y =>
    if code = .ok ∨ code = .scaleMismatch then
      let toCsr := op.kind = .get ∧ (s.ch c).isOwn c off = true ∧ isCsrAddr off = true
      let ops : List (Nat × RemOp) := if toCsr then (opChunks off payload.length).map fun e =>
        (0, { kind := .put, cls := op.cls, addr := BitVec.ofNat 64 (off + e.1), payload := (payload.drop e.1).take e.2 }) else []
      (s.onCh c fun ch =>
        let f (z : Xfer) : Xfer := if z.id = x then { z with
          outstanding := z.outstanding - 1 + ops.length
          writes := if op.kind = .get ∧ ¬ toCsr then z.writes ++ [(BitVec.ofNat 64 off, payload)] else z.writes } else z
        { ch with dma := { ch.dma with xfers := ch.dma.xfers.map f } }).dmaIssue c y ops
    else s.dmaPartCode c y off op code

/-- Retries the parts of a transfer that completed GONE; its task runs again. [DEDUCED, log entry 59] -/
def State.retryXfer (s : State) (c : ChanId) (x : Xfer) : State :=
  let live (e : Nat × RemOp) : Bool := (s.ch c).routeLive c e.2.addr.toNat
  let go := x.retry.filter live
  if go.isEmpty then s
  else
    let s1 := s.onCh c fun ch =>
      let f (y : Xfer) : Xfer := if y.id = x.id then { y with retry := x.retry.filter fun e => !live e } else y
      let k := { ch with dma := { ch.dma with xfers := ch.dma.xfers.map f } }
      match k.dmaOwnerTask x.owner with
      | some t => if (x.retry.filter fun e => !live e).isEmpty && t.cause == .goneRoute && t.retry.isEmpty then
          k.onTask t.core t.slot fun u => { u with st := .ready, cause := .none } else k
      | none => k
    s1.dmaIssue c x go

def State.retryXfers (s : State) (c : ChanId) : State :=
  ((s.ch c).dma.xfers.filter fun x => x.retry ≠ []).foldl (fun (r : State) x => r.retryXfer c x) s

/-! ### The CXL tier under a transfer (R278) -/

/-- Whether a transfer reads or writes CXL memory behind a port. -/
def Channel.xferOnPort (ch : Channel) (c : ChanId) (write : Bool) (port : Fin 2) (x : Xfer) : Bool :=
  let on (a n : Nat) : Bool := match ch.localPlace c a (max n 1) with
    | some (.cxl o) => (ch.cxlPortsOf o (max n 1)).contains port
    | _ => false
  if write then x.ranges.any fun e => on e.1 e.2
  else x.cxlReads.any fun e => (ch.cxlPortsOf e.1 (max e.2 1)).contains port

/-- A transfer fails at a port: CXL_ERR, and its task ends as with MEM_ERR. -/
def State.xferFails (s : State) (c : ChanId) (port : Fin 2) (x : Xfer) (timeout : Bool) : State :=
  let s1 := s.onCh c fun ch =>
    let k := if timeout then ch.onCxlPort port fun p => { p with timeout := satAdd p.timeout 1 } else ch
    k.cxlFailed c port
  (if (s.ch c).xferOnPort c false port x then s1.loseActs c x.desc else s1).dmaCode c x.id x.owner .memErr

def State.cxlTimeout (s : State) (c : ChanId) (write : Bool) (port : Fin 2) (xfer : Nat) : State :=
  let ch := s.ch c
  match ch.dma.xfers.find? fun x => x.id == xfer with
  | some x => if ch.xferOnPort c write port x then s.xferFails c port x true else s
  | none => s

def execCxlReadTimeout (c : ChanId) (port : Fin 2) (xfer : Nat) (s : State) : Result := .next (s.cxlTimeout c false port xfer)
def execCxlWriteTimeout (c : ChanId) (port : Fin 2) (xfer : Nat) (s : State) : Result := .next (s.cxlTimeout c true port xfer)

/-- A port leaves UP: its transfers fail; a port that has not been UP leaves nothing. [DEDUCED, log entry 192] -/
def State.cxlPortDown (s : State) (c : ChanId) (port : Fin 2) (st : BitVec 4) : State :=
  if !((s.ch c).cxlPort port).isUp then s
  else
    let s1 := s.onCh c fun ch => (ch.onCxlPort port fun p => { p with st := st }).raise c 0x2005
    let hit := (s1.ch c).dma.xfers.filter fun x => (s1.ch c).xferOnPort c false port x || (s1.ch c).xferOnPort c true port x
    hit.foldl (fun r x => if (r.ch c).dma.xfers.any (·.id == x.id) then r.xferFails c port x false else r) s1

/-- [DEDUCED, log entry 192] -/
def execCxlPortLeavesUp (c : ChanId) (port : Fin 2) (failed : Bool) (s : State) : Result :=
  .next (s.cxlPortDown c port (if failed then 3 else 0))

end Sys2Proof.Machine
end

