-- ==== Sys2Proof/Machine/Requests.lean ====
section
/-! DEFINITION. The end of a request at its source: responses, timeouts, and what each does to whoever issued it (R48, R190, R191,
R256 to R258, R347). -/

namespace Sys2Proof.Machine

/-- A forwarding PUT has completed: its pin goes, and with it what the page served on its way, when no later pass forwards it again. -/
def Channel.forwarded (ch : Channel) (r : Request) (ok : Bool) : Channel :=
  let k := ch.unpin r.pinned
  match r.op.forward with
  | some (g, p, true) => if ok then k.transitServed g p fun u => { u with forward := false } else k
  | _ => k

/-- A part of a fetch or of a spill completes (R190). A fetch part that ends with another code than OK and GONE loses the page.
 [DEDUCED, log entry 215] -/
def State.moveCode (s : State) (c : ChanId) (spill : Bool) (frame : Nat) (r : Request) (code : CompCode) (payload : List Byte) : State :=
  s.onCh c fun ch =>
    let l := if spill then ch.sql.spills else ch.sql.fetches
    match l.find? fun m => m.hbmFrame == frame with
    | none => ch
    | some m =>
      if code = .ok then
        if spill then ch
        else match ch.poolOf true frame with
          | some hp => ch.hbmWrite (hp.frameAddr frame + r.dmaOff) payload
          | none => ch
      else if code = .gone then
        let keep (x : Move) : Move := if x.hbmFrame = frame then { x with retry := x.retry ++ [(r.dmaOff, r.op)] } else x
        { ch with sql := { ch.sql with
            spills := if spill then ch.sql.spills.map keep else ch.sql.spills
            fetches := if spill then ch.sql.fetches else ch.sql.fetches.map keep } }
      else if spill then ch.cancelSpill frame
      else ch.pageLost c m

/-- What a request's code does to whoever issued it. -/
def State.endReq (s : State) (c : ChanId) (r : Request) (code : CompCode) (payload : List Byte) : State :=
  let done := code == .ok || code == .scaleMismatch
  let s1 := s.onCh c fun ch => (ch.countCode c code).forwarded r (code == .ok)
  let s2 := s1.bucketGone c r.op code
  match r.owner with
  | .task core slot =>
    let s3 := if done then
        s2.onCh c fun ch => ch.onTask core slot fun t => { t with
          answer := if r.op.kind.blocks then payload else t.answer, answerCode := BitVec.ofNat 8 code.val }
      else s2.codeAt c core slot r.op code
    s3.resume c core slot
  | .dma x => s2.dmaPart c x r.dmaOff r.op code payload
  | .fetch f => s2.moveCode c false f r code payload
  | .spill f => s2.moveCode c true f r code payload
  | .badger u => if code = .addrErr then s2.onCh c fun ch => ch.reportUndelivered c u (leNat r.op.payload) else s2
  | .squirrel => s2
  | .orphan => s2

/-- The oldest operation that waits is issued (R269). [DEDUCED, log entry 58] -/
def State.issueWaiting (s : State) (c : ChanId) : State :=
  match (s.ch c).wrn.waiting with
  | [] => s
  | r :: rest =>
    let s1 := s.onCh c fun ch => { ch with wrn := { ch.wrn with waiting := rest } }
    let q := s1.issueNow c r.owner r.agent.toNat r.op r.dmaOff
    match q.2 with
    | none => q.1.onCh c fun ch => ch.pinForward r.op
    | some code => q.1.endReq c r code []

/-- A request completes with a code, and an operation that waited takes its place. -/
def State.completeReq (s : State) (c : ChanId) (r : Request) (code : CompCode) (payload : List Byte) : State :=
  let s1 := s.onCh c fun ch => { ch with wrn := { ch.wrn with reqs := ch.wrn.reqs.filter fun q => q.tag != r.tag } }
  (if (s1.ch c).issueFull then s1 else s1.issueWaiting c).endReq c r code payload

def Channel.req? (ch : Channel) (tag : U32) : Option Request := ch.wrn.reqs.find? fun r => r.tag == tag

/-- A response arrives at its source. One that comes after LOST is discarded and counted. [DEDUCED, log entry 108] -/
def execRemoteResponse (c : ChanId) (p : Packet) (s : State) : Result :=
  let ch := s.ch c
  if !p.isResponse then .next s
  else match ch.req? p.tag with
    | some r => .next (s.completeReq c r (compOf p.status.toNat) p.payload)
    | none =>
      if ch.wrn.lostTags.contains p.tag then
        .next (s.onCh c fun k => { k with wrn := { k.wrn with
          lateRsp := satAdd k.wrn.lateRsp 1, lostTags := k.wrn.lostTags.filter (· != p.tag) } })
      else .next s

/-- A request without a response for RSP_TIMEOUT is held; toward a departed channel it completes GONE. [DEDUCED, log entry 122] -/
def execRspTimeoutExpiry (c : ChanId) (tag : U32) (s : State) : Result :=
  match (s.ch c).req? tag with
  | none => .next s
  | some r =>
    if (s.ch c).routeState r.module.toNat r.channel.toNat = 2 then .next (s.completeReq c r .gone [])
    else
      let f (q : Request) : Request := if q.tag = tag then { q with held := true } else q
      .next (s.onCh c fun ch => { ch with wrn := { ch.wrn with reqs := ch.wrn.reqs.map f } })

/-- A held request whose target is still LIVE completes LOST. [DEDUCED, log entry 122] -/
def execLostAfterExpiry (c : ChanId) (tag : U32) (s : State) : Result :=
  match (s.ch c).req? tag with
  | none => .next s
  | some r =>
    if r.held && (s.ch c).routeState r.module.toNat r.channel.toNat == 1 then
      .next ((s.onCh c fun ch => { ch with wrn := { ch.wrn with lostTags := ch.wrn.lostTags ++ [tag] } }).completeReq c r .lost [])
    else .next s

/-- Requests that the route table now shows departed: the held ones complete GONE (R257). [DEDUCED, log entry 123] -/
def State.departHeld (s : State) (c : ChanId) : State :=
  let hit := (s.ch c).wrn.reqs.filter fun r => r.held && (s.ch c).routeState r.module.toNat r.channel.toNat == 2
  hit.foldl (fun (t : State) r => t.completeReq c r .gone []) s

end Sys2Proof.Machine
end

