-- ==== Sys2Proof/Machine/Tasks.lean ====
section
/-! DEFINITION. The task unit at work: dispatch, the format check at slot binding, the checks of a descriptor, and admission against
slots, credits and the ledger (R36 to R41, R49, R50, R60, R79, R84, R166, R237, R283, R319). -/

namespace Sys2Proof.Machine

/-! ### Slot binding (R166, Table 08-3) -/

/-- The key-block slot in which a tile's B operand lies, and whether it lies in the V planes. [DEDUCED, log entry 73] -/
def Channel.boundSlot (ch : Channel) (t : Task) (tr : TileRec) : Option (KvSlot × Bool) :=
  (ch.sql.slots.filter fun k => k.core == t.core && k.users.contains t.slot).findSome? fun k =>
    match k.descs.head?.bind fun d => (ch.pool? d.pool.toNat).bind fun p => ch.planesOf t d.region.toNat p with
    | none => none
    | some pl =>
      let base := ch.slotBase k.core k.slot pl
      let b := tr.bEbase.toNat
      if base ≤ b ∧ b < base + pl.slotBytes then some (k, decide (base + pl.slotVe ≤ b)) else none

/-- What the check gives: the tile runs, runs with the page code, or its task faults. -/
inductive Bind where
  | runs
  | pageWins (code : BitVec 4)
  | faults
  deriving DecidableEq, Repr

/-- [DEDUCED, log entry 73] -/
def bindCodes (expected : Nat) (strict : Bool) (codes : List Nat) : Bind :=
  match codes with
  | [] => .runs
  | a :: r =>
    if !r.all (· == a) then .faults
    else if a = expected then .runs
    else if strict then .faults
    else .pageWins (BitVec.ofNat 4 a)

/-- [DEDUCED, log entry 73] -/
def Channel.bindTile (ch : Channel) (t : Task) (tr : TileRec) : Bind :=
  match ch.boundSlot t tr with
  | none => .runs
  | some (k, v) => bindCodes tr.fmtB ch.sql.strictFmt (k.descs.map fun d => if v then d.fmt.toNat / 16 else d.fmt.toNat % 16)

/-! ### Dispatch (R40, R82, R84, R124) -/

/-- A FALLBACK tile, which holds both accumulator buffers (R119, R120). [DEDUCED, log entry 56] -/
def Task.fallsBack (t : Task) : Bool := ((t.tileRec.map fun tr => tr.isSlice && tr.fallback)).getD false

/-- Whether the array or the vector engine can take a task: two tiles in flight, or one FALLBACK tile alone, and one task on the register
file (R82, R120, R124). [DEDUCED, log entry 56] -/
def Channel.mayRun (ch : Channel) (t : Task) : Bool :=
  let running (p : Task → Bool) : List Task := ch.tsk.tasks.filter fun x => x.core == t.core && x.st == .running && p x
  let tiles := running fun x => x.exec == 0
  if t.exec = 0 then
    (fullyMasked t.desc && t.dup.isNone) || tiles.isEmpty || (!t.fallsBack && !tiles.any Task.fallsBack && decide (tiles.length < 2))
  else if t.onEngine then (running Task.onEngine).isEmpty
  else true

/-- READY tasks of a core in dispatch order: urgent first, then PLAN_SEQ. [DEDUCED, log entries 56 and 181] -/
def Channel.readyTasks (ch : Channel) (core : Nat) : List Task :=
  let l := sortBy (fun (t : Task) => t.desc.planSeq.toNat) (ch.tsk.tasks.filter fun t => t.core == core && t.st == .ready)
  l.filter (·.urgent) ++ l.filter fun t => !t.urgent

/-- A tile meets the pages it is bound to. -/
def State.bind (s : State) (c : ChanId) (t : Task) (tr : TileRec) : State :=
  match (s.ch c).bindTile t tr with
  | .runs => s
  | .pageWins code => s.onCh c fun ch =>
      let k := { ch with sql := { ch.sql with fmtMismatch := satAdd ch.sql.fmtMismatch 1 } }
      let k := k.onTask t.core t.slot fun x => { x with pageFmt := some code }
      match t.sample with
      | some id => k.onSample id fun x => { x with tile := x.tile.withPageFmt (some code) }
      | none => k
  | .faults =>
    let s1 := s.onCh c fun ch => ch.raise c 0x5001
    match (s1.ch c).task? t.core t.slot with
    | some u => s1.faultTask c u 0x5001
    | none => s1

/-- A task starts to run, or parks for what it lacks. [DEDUCED, log entries 56, 72, 79 and 193] -/
def State.dispatch (s : State) (c : ChanId) (t : Task) : State :=
  let s1 := s.onCh c fun ch =>
    let k := (ch.restoreContext t).onTask t.core t.slot fun x =>
      { x with st := .running, cause := .none, hasRun := true, started := ch.tsk.starts }
    { k with tsk := { k.tsk with starts := ch.tsk.starts + 1 } }
  let s1 := if t.exec = 0 ∧ !(fullyMasked t.desc && t.dup.isNone) ∧ !t.waitPages then s1.onCh c fun ch => { ch with arr := { ch.arr with
    busy := addClk ch.arr.busy t.core 1, feedStall := addClk ch.arr.feedStall t.core 1 } } else s1
  let u : Task := { t with st := .running, cause := .none, hasRun := true, started := (s.ch c).tsk.starts }
  if t.exec = 0 ∧ fullyMasked t.desc ∧ t.dup = none then
    (s1.onCh c fun ch => { ch with arr := { ch.arr with skipped := satAdd ch.arr.skipped 1 } }).completeTask c u
  else if t.waitPages then s1.onCh c fun ch => ch.park t.core t.slot (if t.waitCause = .none then .page else t.waitCause)
  else if (s.ch c).readsAny c t (s.ch c).upd.actGone then s1.actLost c u
  else if (s.ch c).readsAny c t (s.ch c).upd.actPending then s1.onCh c fun ch => ch.park t.core t.slot .actReturn
  else if t.exec = 2 ∧ t.dmaDone.length = t.dmaDescs.length then s1.programEnds c { u with programEnded := true }
  else match t.tileRec with
    | some tr => s1.bind c u tr
    | none => s1

/-- [DEDUCED, log entry 193] -/
def execTaskDispatch (c : ChanId) (core : LCore) (s : State) : Result :=
  match ((s.ch c).readyTasks core.val).find? (s.ch c).mayRun with
  | some t => .next (s.dispatch c t)
  | none => .next s

/-! ### The checks of a descriptor (R39, R60, R79) -/

/-- R39. [DEDUCED, log entry 55] -/
def Channel.badDesc (ch : Channel) (d : TaskDesc) : Bool :=
  let lists := (ch.pss.layout.map fun (l : LayoutData) => l.pageLists.length).getD 0
  match ch.classOf d with
  | none => true
  | some k =>
    d.flags.toNat / 16 != 0 || d.order.toNat / 8 != 0 || d.rsvd != 0 || decide (2 < d.kind.toNat)
      || (!d.flags.getLsbD 2 && d.creditQ != 0)
      || (k.pageList = 0 && d.plist != 0)
      || (d.plist != 0 && decide (lists ≤ d.plist.toNat))
      || (d.dep && decide (4096 ≤ d.depCtr.toNat))

/-- R60: a WRITE entry of the page list that a descriptor names carries a reserved format code. [DEDUCED, log entry 55] -/
def Channel.badCode (ch : Channel) (d : TaskDesc) : Bool :=
  (ch.pageList d).any fun e => e.isWrite && (decide (8 ≤ e.fmt.toNat % 16) || decide (8 ≤ e.fmt.toNat / 16))

/-- Bytes of a tile record when no word of it is poisoned. A record that begins in the last 63 bytes of the SRAM, which its alignment check
refuses, is read on into what follows. [DESIGN CHOICE, log entry 208] -/
def Channel.peekRecord (ch : Channel) (core : Nat) (d : TaskDesc) : Option (List Byte) :=
  let p := ch.pcore core
  let off := d.arg0.toNat % 2 ^ 22
  let bad := ch.mem.sramPoison.any (fun e => touchesLine 8 (sramAt p off) 64 e.1)
    || ch.mem.sramErr.any fun e => touchesLine 8 (sramAt p off) 64 e.1 && decide (2 ≤ e.2)
  if bad then none else some (ch.sramBytes p off 64)

/-- Refusal of an offer: event code and, for a tile record, its cause (Table 04-3). [DEDUCED, log entry 55] -/
def Channel.refusal (ch : Channel) (o : Offer) : Option (Nat × Option Nat) :=
  if o.dup.isSome then none
  else if ch.badDesc o.desc then some (0x4005, none)
  else if ch.badCode o.desc then some (0x1001, none)
  else if ch.isTile o.desc then
    let scales := (ch.pss.stream.map fun (st : Stream) => st.scales.length).getD 0
    match ch.peekRecord o.core o.desc with
    | none => none
    | some b => ((parseTile b).cause o.desc scales).map fun k => (if k = 8 then 0x1002 else 0x4008, some k)
  else none

/-- Counts a refused descriptor and raises its event. [DEDUCED, log entry 191] -/
def Channel.refuse (ch : Channel) (c : ChanId) (o : Offer) (r : Nat × Option Nat) : Channel :=
  let k := { ch with tsk := { ch.tsk with badDesc := satAdd ch.tsk.badDesc 1 } }
  let k := match r.2 with
    | some cause =>
      { k with arr := { k.arr with
          badTile := true, badCause := BitVec.ofNat 8 cause, badCore := BitVec.ofNat 7 o.core, badClass := o.desc.cls
          badSeq := o.desc.planSeq } }
    | none => k
  k.raise c r.1

/-! ### What is offered (R36, R41, R237, R242) -/

def TaskDesc.isBg (d : TaskDesc) : Bool := d.kind == 1
def TaskDesc.producer (d : TaskDesc) : Bool := d.flags.getLsbD 2

/-- Layer of a task: that of its class's attention record, or another that the stream does not name. [DESIGN CHOICE, log entry 230] -/
def Channel.layerOf (ch : Channel) (d : TaskDesc) : Nat :=
  match ch.attnOf d with
  | some a => a.layer.toNat
  | none => Config.classLayer d.cls.toNat

/-- Buckets that may hold a layer's tensors: those that begin at or before it, and whose successor does not begin before it.
 [DEDUCED, log entry 94] -/
def Channel.layerBuckets (ch : Channel) (d : TaskDesc) : List Nat :=
  let first (b : Nat) : Option Nat := (ch.bucketPlan b).map (·.layerFirst.toNat)
  (List.range ch.gxc.nb.toNat).filter fun b =>
    ((first b).map fun l => decide (l ≤ ch.layerOf d)).getD true && ((first (b + 1)).map fun l => decide (ch.layerOf d ≤ l)).getD true

/-- A look-ahead task may be admitted: the next step's descriptor is held, no re-shard is queued, and its layer's buckets have
committed. [DEDUCED, log entries 94 and 119] -/
def Channel.lookaheadOk (ch : Channel) (d : TaskDesc) : Bool :=
  ch.upd.pending.isSome && ch.gxc.queued.isNone && (ch.layerBuckets d).all ch.committedBuckets.contains

/-- A look-ahead task whose step has not been accepted yet (R237). -/
def Offer.ahead (o : Offer) (sJob : U32) : Bool := o.lookahead && o.step != some sJob

/-- Whether an offer is held back in this beat whatever the limits; a step abandoned at its acceptance admits none of its tasks (R241). -/
def Channel.holds (ch : Channel) (o : Offer) : Bool :=
  let st := (ch.domainOf (ch.pcore o.core)).st
  ch.pss.stopping || !ch.isBound o.core || (ch.owl.active && ch.owl.pcore.toNat == ch.pcore o.core) || st == .waking || st == .off || st == .draining
    || (!o.desc.isBg && ((ch.beat.lost && !ch.beat.lostPending) || ch.gxc.permuting.isSome || (ch.beat.paused && !o.readmitted)
        || ch.upd.barred || (o.ahead ch.upd.sJob && !ch.lookaheadOk o.desc)))

/-- The planned tasks of the current beat as offers. [DEDUCED, log entry 191] -/
def Channel.planOffers (ch : Channel) : List Offer :=
  (ch.planOf ch.beat.number.toNat).map fun e =>
    { core := e.1, desc := e.2.2, beat := ch.beat.number.toNat, patience := e.2.2.patience.toNat, lookahead := e.2.1
      step := if e.2.1 then some (ch.upd.sJob + 1) else none }

/-- A numbered offer. -/
abbrev Numbered := Nat × Offer

/-- The place of an offer behind the urgent ones and the second chances: re-admitted work by PLAN_SEQ, then planned work by its beat and
PLAN_SEQ (R36). [DEDUCED, log entries 50 and 184] -/
def Offer.place (o : Offer) : Nat :=
  if o.readmitted then o.desc.planSeq.toNat else 2 ^ 96 + o.beat * 2 ^ 32 + o.desc.planSeq.toNat

/-! ### The account of an admission (R36, R49, R50, R319) -/

/-- Kinds of work, each with a budget of its own (R36). -/
inductive WorkKind where
  | urgent | background | foreground
  deriving DecidableEq, Repr

def Offer.kind (o : Offer) : WorkKind := if !o.desc.isBg then .foreground else if o.urgent then .urgent else .background

/-- Running totals of an admission: foreground, background and urgent charges; the offers admitted, refused (with event code and cause),
held for a credit, deferred for energy, and those that keep a second chance; the slots and the foreground charges of each core, the
credits of each queue, the queues at which a producer was held, and the kinds of work at which a core has stopped. -/
structure Adm where
  fg : Nat
  bg : Nat
  urg : Nat
  yes : List Nat := []
  bad : List (Nat × Nat × Option Nat) := []
  held : List Nat := []
  energy : List Nat := []
  second : List Nat := []
  slots : SMap Nat := []
  fgCore : SMap Nat := []
  credits : SMap Nat := []
  dry : List Nat := []
  stops : List (Nat × WorkKind) := []
  deriving DecidableEq, Repr

/-- Urgent slice of the beat, in nJ. [DEDUCED, log entry 85] -/
def Channel.slice (ch : Channel) : Nat :=
  ch.wattBeat ch.ledg.grantedW.toNat * clampNat 2 20 ch.beat.urgentPct.toNat / 100

/-- Background work: what passes the reserve is charged to the foreground budget, for urgent work only. -/
def Adm.background (a : Adm) (reserve slice : Nat) (urgent : Bool) (charge : Nat) : Option Adm :=
  let room := reserve - a.bg
  if urgent then
    if a.urg + charge ≤ slice then some { a with urg := a.urg + charge, bg := a.bg + min charge room, fg := a.fg + (charge - room) }
    else none
  else if charge ≤ room then some { a with bg := a.bg + charge }
  else none

/-- Foreground work on a core, within `limit` on that core's charges where there is one. -/
def Adm.pay (a : Adm) (limit : Option Nat) (core charge : Nat) : Option Adm :=
  let used := smGet 0 a.fgCore core
  if (limit.map fun n => decide (used + charge ≤ n)).getD true then
    some { a with fg := a.fg + charge, fgCore := smSet 0 a.fgCore core (used + charge) }
  else none

/-- What one offer comes to: its core has a slot and has not stopped its kind of work, its queue has a credit, `pay` takes its charge, and
its descriptor and record are in order (R36, R39, R49, R79). A refused offer takes nothing. [DEDUCED, log entries 50, 51 and 55] -/
def Channel.consider (ch : Channel) (pay : Adm → Offer → Option Adm) (a : Adm) (e : Numbered) : Adm :=
  let core := e.2.core
  let q := e.2.desc.creditQ.toNat
  let taken := smGet 0 a.slots core + countIf (fun (t : Task) => t.core == core) ch.tsk.tasks
  let dry := e.2.desc.producer && (a.dry.contains q || decide ((smGet {} ch.tsk.credits q).available.toNat ≤ smGet 0 a.credits q))
  if 4096 ≤ taken ∨ a.stops.contains (core, e.2.kind) then a
  else if dry then { a with held := a.held ++ [e.1], dry := q :: a.dry }
  else match pay a e.2 with
    | none => { a with
        stops := (core, e.2.kind) :: a.stops
        energy := if e.2.kind = .foreground then a.energy ++ [e.1] else a.energy }
    | some b => match ch.refusal e.2 with
      | some r => { a with bad := a.bad ++ [(e.1, r)] }
      | none => { b with
          yes := b.yes ++ [e.1]
          slots := smSet 0 b.slots core (smGet 0 b.slots core + 1)
          credits := if e.2.desc.producer then smSet 0 b.credits q (smGet 0 b.credits q + 1) else b.credits }

/-- Pass 1 of the foreground work: the second chances in ascending core, until one does not fit the budget; the others keep theirs.
 [DEDUCED, log entries 50 and 51] -/
def Channel.secondChances (ch : Channel) (pay : Adm → Offer → Option Adm) (a : Adm) (l : List Numbered) : Adm :=
  l.foldl (fun (b : Adm) e =>
    if b.energy.isEmpty then ch.consider pay b e
    else { b with second := b.second ++ [e.1], stops := (e.2.core, .foreground) :: b.stops }) a

/-- Which numbered offers a channel admits: urgent work, the second chances, and then each core's list, its foreground work within the
core's share of what is left of the budget. [DEDUCED, log entries 50, 51 and 184] -/
def Channel.choose (ch : Channel) (l : List Numbered) : Adm :=
  let f (o : Offer) : Nat := ch.charge o.desc
  let budget := ch.ledg.admissible
  let open_ := decide (0 < budget)
  let bySeq := sortBy fun (e : Numbered) => e.2.desc.planSeq.toNat
  let urgent := bySeq (l.filter fun e => e.2.kind == .urgent)
  let second := sortBy (fun (e : Numbered) => e.2.core) (bySeq (l.filter fun e => e.2.kind == .foreground && e.2.secondChance))
  let rest := sortBy (fun (e : Numbered) => e.2.place)
    (l.filter fun e => e.2.kind == .background || (e.2.kind == .foreground && !e.2.secondChance))
  let back (a : Adm) (o : Offer) : Option Adm := a.background ch.reserveNow ch.slice (o.kind == .urgent) (f o)
  let first (a : Adm) (o : Offer) : Option Adm :=
    if open_ ∧ (a.fg + f o : Int) ≤ budget then a.pay none o.core (f o) else none
  let share (limit : Nat → Option Nat) (a : Adm) (o : Offer) : Option Adm :=
    if o.kind = .background then back a o else if open_ then a.pay (limit o.core) o.core (f o) else none
  let a0 : Adm := { fg := ch.ledg.admitted, bg := ch.ledg.bgAdmitted, urg := ch.ledg.urgentAdmitted }
  let a1 := { ch.secondChances first (urgent.foldl (ch.consider back) a0) second with fgCore := [] }
  let all := rest.foldl (ch.consider (share fun _ => none)) a1
  let left : Nat := (budget - (a1.fg : Int)).toNat
  let total : Nat := all.fg - a1.fg
  if total ≤ left then all
  else rest.foldl (ch.consider (share fun core => some (left * smGet 0 all.fgCore core / total))) a1

/-! ### A task takes its slot (R38, R40) -/

/-- The lowest free slot of a core. [DEDUCED, log entry 50] -/
def Channel.freeSlot (ch : Channel) (core : Nat) : Nat :=
  let used := (ch.tsk.tasks.filter fun t => t.core == core).map (·.slot)
  ((List.range (used.length + 1)).find? fun i => !used.contains i).getD 0

/-- Reads a task's tile record once; a poisoned word faults the task (R79). -/
def State.readRecord (s : State) (c : ChanId) (t : Task) : State :=
  let ch := s.ch c
  let p := ch.pcore t.core
  let off := t.desc.arg0.toNat % 2 ^ 22
  let r := s.checkSram c p off 64
  if r.2 then r.1.onCh c fun k => k.onTask t.core t.slot fun x => { x with tileRec := some (parseTile (ch.sramBytes p off 64)) }
  else r.1.faultAll c 0x2001 [t]

/-- Return copies among a task's descriptors that are not yet awaited. [DEDUCED, log entry 118] -/
def Channel.awaitReturns (ch : Channel) (c : ChanId) (l : List DmaDesc) : Channel :=
  l.foldl (fun (k : Channel) d => { k with upd := { k.upd with
    actPending := k.upd.actPending ++ (k.returnCopies c d).filter fun e => !k.upd.actPending.contains e } }) ch

/-- The return copies of the DMA-only tasks that are planned for the beat, as core SRAM holds their descriptors: from its boundary on, what they
bring is awaited (R196). [DEDUCED, log entry 118] -/
def Channel.awaitPlanned (ch : Channel) (c : ChanId) : Channel :=
  ((ch.planOf ch.beat.number.toNat).filter fun e => ch.execOf e.2.2 == some 2).foldl (fun (k : Channel) e =>
    k.awaitReturns c ((List.range e.2.2.arg1.toNat).map fun i =>
      parseDma (ch.sramBytes (ch.pcore e.1) (e.2.2.arg0.toNat % 2 ^ 22 + 64 * i) 64))) ch

/-- Lead-in transfers of a task become its own when it is admitted (R37). [DEDUCED, log entry 118] -/
def Channel.takeLeadin (ch : Channel) (t : Task) : Channel :=
  let seq := t.desc.planSeq.toNat
  let own (x : Xfer) : Xfer := match x.owner with
    | .planned core b q i => if core = t.core ∧ b = t.plan ∧ q = seq then { x with owner := .task t.core t.slot i } else x
    | _ => x
  let of (e : Nat × Nat × Nat × Nat) : Bool := e.1 == t.core && e.2.1 == t.plan && e.2.2.1 == seq
  let k := { ch with dma := { ch.dma with xfers := ch.dma.xfers.map own, early := ch.dma.early.filter fun e => !of e } }
  k.onTask t.core t.slot fun x => { x with dmaDone := (ch.dma.early.filter of).foldl (fun l e => insertNat e.2.2.2 l) x.dmaDone }

/-- Reads a DMA-only task's descriptors once (R283). [DEDUCED, log entry 55] -/
def State.readDescs (s : State) (c : ChanId) (t : Task) : State :=
  let ch := s.ch c
  let p := ch.pcore t.core
  let off := t.desc.arg0.toNat % 2 ^ 22
  let n := t.desc.arg1.toNat
  let o : DmaOwner := .task t.core t.slot 0
  if n = 0 ∨ 256 < n then s.dmaFail c o 0 3
  else if off % 64 ≠ 0 then s.dmaFail c o 0 4
  else
    let r := s.checkSram c p off (64 * n)
    if !r.2 then r.1.dmaFail c o 0 8
    else
      let l := (List.range n).map fun i => parseDma (ch.sramBytes p (off + 64 * i) 64)
      r.1.onCh c fun k => ((k.onTask t.core t.slot fun x => { x with dmaDescs := l }).takeLeadin t).awaitReturns c l

/-- The dependency counter of a task: below its target the task waits, poisoned it faults (R40, R282). [DEDUCED, log entry 63] -/
def State.checkDep (s : State) (c : ChanId) (t : Task) : State :=
  if !t.desc.dep then s
  else
    let ch := s.ch c
    let p := ch.pcore t.core
    let off := systemArea + 8 * t.desc.depCtr.toNat
    let r := s.checkSram c p off 8
    if !r.2 then r.1.faultAll c 0x2001 [t]
    else if leNat (ch.sramBytes p off 8) < t.desc.depTarget.toNat then
      r.1.onCh c fun k => k.onTask t.core t.slot fun x => { x with st := .waiting }
    else r.1

/-- Admits an offer: slot, credit, record or descriptors, pages, dependency, and the Badger's draw. -/
def State.admitOffer (s : State) (c : ChanId) (o : Offer) : State :=
  let ch := s.ch c
  let slot := ch.freeSlot o.core
  let t : Task :=
    { core := o.core, slot := slot, desc := o.desc, exec := (ch.execOf o.desc).getD 0
      step := o.step.getD ch.upd.sJob, lookahead := o.lookahead, plan := o.beat
      overruns := o.overruns, urgent := o.urgent, beat := ch.beat.number.toNat, creditTaken := o.desc.producer
      waitPages := !(ch.pageList o.desc).isEmpty && !ch.sql.walk, dup := o.dup }
  let s1 := s.onCh c fun k =>
    let k := { k with tsk := { k.tsk with
      tasks := k.tsk.tasks ++ [t]
      credits := if o.desc.producer then
          smMod {} k.tsk.credits o.desc.creditQ.toNat fun (q : Credit) => { q with available := q.available - 1 }
        else k.tsk.credits } }
    k.onDomain (k.pcore o.core) fun d => if d.st = .idle then { d with st := .active } else d
  let s2 := if t.exec = 0 ∧ o.dup = none then s1.readRecord c t else if t.exec = 2 then s1.readDescs c t else s1
  let live (r : State) (f : State → Task → State) : State := match (r.ch c).task? o.core slot with
    | some u => f r u
    | none => r
  let s3 := live s2 fun r u => r.checkDep c u
  live s3 fun r _ => if t.exec = 0 then r.sampleDecide c o.core slot else r

/-! ### Admission (R36) -/

/-- A committed task that runs on into this beat, and does not wait for a route, is charged against it before any admission
(R44, R319). [DEDUCED, log entry 52] -/
def Channel.chargeCarried (ch : Channel) : Channel :=
  let due (t : Task) : Bool := t.carried && !t.carryCharged && t.cause != .goneRoute
  let k := (ch.tsk.tasks.filter due).foldl (fun (h : Channel) t => h.chargeCarry t) ch
  { k with tsk := { k.tsk with tasks := k.tsk.tasks.map fun t => if due t then { t with carryCharged := true } else t } }

/-- What an offer that was not admitted becomes. [DEDUCED, log entry 51] -/
def Adm.keep (a : Adm) (e : Numbered) : Offer :=
  { e.2 with missed := e.2.desc.isBg, secondChance := a.energy.contains e.1 || a.second.contains e.1 }

/-- TSK_CORE_STAT as it is sampled when the admission of a beat has completed (R53). [DEDUCED, log entry 54] -/
def Channel.sampleCores (ch : Channel) : Channel :=
  let of (l : Nat) (p : Task → Bool) : Nat := countIf (fun t => t.core == l && p t) ch.tsk.tasks
  let st := (List.range 128).foldl (fun (m : SMap CoreSample) l => smSet {} m l
    { free := BitVec.ofNat 13 (4096 - of l fun _ => true)
      parked := BitVec.ofNat 13 (of l fun t => t.st == .parked)
      ready := BitVec.ofNat 13 (of l fun t => t.st == .ready) }) []
  { ch with tsk := { ch.tsk with sample := st } }

/-- What an admission leaves in the channel's counters and lists: refusals of one admission count as in one clk, the lowest core's last
(R91). [DEDUCED, log entry 191] -/
def Channel.settleAdmission (ch : Channel) (c : ChanId) (a : Adm) (l : List Numbered) (later back : List Offer) : Channel :=
  let no := l.filter fun e => !a.yes.contains e.1 && !a.bad.any fun r => r.1 == e.1
  let bad := sortBy (fun (r : Offer × Nat × Option Nat) => 128 - r.1.core)
    (a.bad.filterMap fun r => (l.find? fun e => e.1 == r.1).map fun e => (e.2, r.2))
  let k := bad.foldl (fun (h : Channel) r => h.refuse c r.1 r.2) ch
  { k with
    beat := { k.beat with
      admitted := true
      defer := satAdd k.beat.defer (back.length + no.length)
      creditStall := satAdd k.beat.creditStall (if a.held.isEmpty then 0 else 1) }
    tsk := { k.tsk with offers := later ++ back.map (fun o => { o with missed := o.desc.isBg }) ++ no.map a.keep }
    ledg := { k.ledg with
      admitted := a.fg, bgAdmitted := a.bg, urgentAdmitted := a.urg
      energyDefer := satAdd k.ledg.energyDefer a.energy.length } }

/-- At T + 256 clk the channel admits the beat's work. [DEDUCED, log entries 50 and 53] -/
def State.beatAdmission (s : State) (c : ChanId) : State :=
  let s1 := s.onCh c Channel.chargeCarried
  let ch := s1.ch c
  let b := ch.beat.number.toNat
  let all := ch.tsk.offers ++ ch.planOffers
  let later := all.filter fun o => decide (b < o.beat)
  let due := all.filter fun o => decide (o.beat ≤ b)
  let l : List Numbered := ((due.filter fun o => !ch.holds o).zipIdx).map fun e => (e.2, e.1)
  let a := ch.choose l
  let s2 := s1.onCh c fun k => k.settleAdmission c a l later (due.filter ch.holds)
  let yes := a.yes.filterMap fun i => (l.find? fun e => e.1 == i).map (·.2)
  (yes.foldl (fun (r : State) o => r.admitOffer c o) s2).onCh c Channel.sampleCores

/-- [DEDUCED, log entry 54] -/
def execBeatAdmission (c : ChanId) (s : State) : Result :=
  let ch := s.ch c
  if ch.running && !ch.beat.admitted then .next (s.beatAdmission c) else .next s

end Sys2Proof.Machine
end

