-- ==== Sys2Proof/Machine/Owl.lean ====
section
/-! DEFINITION. The Owl: choice of the target, claims, chunks and passes (R339 to R341, R349). -/

namespace Sys2Proof.Machine

/-- Chunks of a full pass, and the application time of one in µs (Table 16-7). -/
def owlChunks : Nat := 64
def owlChunkUs : Nat := 160

/-- Beats for which Owl claims a core for one chunk (R339). [DEDUCED, log entry 102] -/
def Channel.claimBeats (ch : Channel) : Nat := ceilDiv (owlChunkUs + 40) (max ch.beat.periodUs.toNat 1)

/-- Beats in which a full pass is due. [DEDUCED, log entry 85] -/
def Channel.passBeats (ch : Channel) : Nat := clampNat 1 168 ch.owl.passHours.toNat * 3600000000 / max ch.beat.periodUs.toNat 1

/-- Beat by which the next full pass of a core is due: counted from its last one, or from the start of beats. [DEDUCED, log entry 102] -/
def Channel.passDue (ch : Channel) (p : Nat) : Nat := max (ch.health p).owlBeat.toNat ch.beat.tmplStart + ch.passBeats

/-- The pass of a core is urgent: the beats that remain are no more than those it needs (R50, R340). [DEDUCED, log entry 102] -/
def Channel.passUrgent (ch : Channel) (p : Nat) : Bool :=
  (ch.health p).owlUrgent
    || decide (ch.passDue p ≤ ch.beat.number.toNat + (owlChunks - (ch.health p).owlNext.toNat) * ch.claimBeats)

/-- A core that Owl may test: good, not OFF or on its way there, and not fenced for good. -/
def Channel.testable (ch : Channel) (p : Nat) : Bool :=
  let st := (ch.domainOf p).st
  ch.goodCore p && !(ch.health p).permanent && (st == .active || st == .idle)

/-- A bound core has no task to take in the beats of a claim and no committed tail. [DEDUCED, log entry 102] -/
def Channel.coreFree (ch : Channel) (l : Nat) : Bool :=
  let n := ch.beat.number.toNat
  !(ch.tsk.tasks.any fun t => t.core == l) && !(ch.tsk.offers.any fun o => o.core == l && decide (o.beat < n + ch.claimBeats))
    && !((List.range ch.claimBeats).any fun i => (ch.planOf (n + i)).any fun e => e.1 == l)

/-- Cores in the order in which Owl considers them (R340). [DEDUCED, log entry 102] -/
def Channel.owlOrder (ch : Channel) : List Nat :=
  let all := (List.range 136).filter ch.testable
  let bound := all.filter fun p => (ch.lcoreOf p).isSome
  all.filter (fun p => (ch.health p).retest)
    ++ bound.filter (fun p => (ch.health p).owlUrgent)
    ++ sortBy ch.passDue bound
    ++ sortBy ch.passDue (all.filter fun p => (ch.lcoreOf p).isNone && !(ch.health p).retest)

/-- Whether Owl can claim a core for this beat. [DEDUCED, log entry 102] -/
def Channel.claimable (ch : Channel) (p : Nat) : Bool :=
  match ch.lcoreOf p with
  | none => true
  | some l => ch.coreFree l || (ch.passUrgent p && ch.mayFence l)

/-- Owl at a boundary: a claim that has run out ends, and the next target is claimed. [DEDUCED, log entry 102] -/
def Channel.owlBoundary (ch : Channel) : Channel :=
  let left := ch.owl.claimLeft - 1
  let k := { ch with owl := { ch.owl with claimLeft := left, active := decide (0 < left), busy := ch.owl.busy && decide (0 < left) } }
  if 0 < left ∨ !k.owl.en ∨ !k.owl.storeOk ∨ !k.running then k
  else match k.owlOrder.find? k.claimable with
    | none => k
    | some p => { k with owl := { k.owl with
        active := true, busy := true, claimLeft := k.claimBeats, pcore := BitVec.ofNat 8 p, chunk := (k.health p).owlNext } }

/-- A core withheld from scheduling for an Owl claim. -/
def Channel.claimed (ch : Channel) (p : Nat) : Bool := ch.owl.active && ch.owl.pcore.toNat == p

/-- A full pass of a core. -/
def Channel.passDone (ch : Channel) (p : Nat) : Channel :=
  let k := ch.onHealth p fun h => { h with owlNext := 0, owlBeat := ch.beat.number }
  ({ k with owl := { k.owl with passes := satAdd k.owl.passes 1 } }).advanceClean p ch.beat.number.toNat ch.upd.sJob

/-- A chunk has been applied. `matches_`: its signature is the expected one; `rerunsOk`: the 16 re-executions of a retest that
follows a pair mismatch agreed. [DEDUCED, log entry 103; DESIGN CHOICE, log entry 104] -/
def execOwlChunkDone (c : ChanId) (matches_ rerunsOk : Bool) (s : State) : Result :=
  let ch := s.ch c
  if !ch.owl.busy then .next s
  else
    let p := ch.owl.pcore.toNat
    let h := ch.health p
    let s1 := s.onCh c fun k => ({ k with owl := { k.owl with
      busy := false, chunksRun := wrapAdd k.owl.chunksRun 1 } }).onHealth p fun x => { x with owlUrgent := false }
    if matches_ then
      .next (s1.onCh c fun k =>
        let k := k.onHealth p fun x => { x with owlNext := x.owlNext + 1 }
        if (k.health p).owlNext.toNat < owlChunks then k
        else
          let k := k.passDone p
          if h.retest then k.retestEnds c p (rerunsOk || !h.retestFromPair) else k)
    else
      let s2 := s1.onCh c fun k =>
        let k := ({ k with owl := { k.owl with fail := true, fails := satAdd k.owl.fails 1 } }).onHealth p fun x => { x with owlNext := 0 }
        let k := k.raise c 0x700C
        if h.retest then k.retestEnds c p false else k.report c 0x700C 2 (.core p)
      .next (if h.retest then s2 else s2.coreAtFault c p)

/-- A full pass of a bound core misses its deadline. -/
def execOwlPassDeadline (c : ChanId) (p : Nat) (s : State) : Result :=
  let ch := s.ch c
  if ch.running && ch.owl.en && (ch.lcoreOf p).isSome && decide (ch.passDue p ≤ ch.beat.number.toNat) then
    .next (s.onCh c fun k => { k with owl := { k.owl with late := true } }.raise c 0x700D)
  else .next s

end Sys2Proof.Machine
end

