-- ==== Sys2Proof/Machine/Links.lean ====
section
/-! DEFINITION. The link states and the frames of a link (R246 to R249, R264, R366). -/

namespace Sys2Proof.Machine

/-! ### Failure of a link (R264) -/

/-- Two packets of one flow: requests of one source agent toward one channel in one ordering class (R253). [DEDUCED, log entry 105] -/
def sameFlow (p q : Packet) : Bool :=
  !p.isResponse && !q.isResponse && p.srcModule == q.srcModule && p.srcChannel == q.srcChannel && p.agent == q.agent && p.dest == q.dest
    && p.ctlClass == q.ctlClass

/-- Puts a packet into a queue ahead of later packets of its flow, and behind everything else. [DEDUCED, log entry 105] -/
def queueAhead (p : Packet) : List Packet → List Packet
  | [] => [p]
  | q :: r => if sameFlow p q && decide (0 < (q.seq - p.seq).toNat) && decide ((q.seq - p.seq).toNat < 2 ^ 15) then p :: q :: r else q :: queueAhead p r

/-- The next candidate after a link, in ascending order and around (R264). [DEDUCED, log entry 105] -/
def Channel.nextCandidate (ch : Channel) (l : LinkId) (p : Packet) : Option LinkId :=
  let cand := ch.candidates p.dest.1 p.dest.2
  (cand.find? fun k => decide (l.val < k.val)).orElse fun _ => cand.head?

/-- Packets that waited for link `l`, which has failed, move in queue order to the next candidate, ahead of later packets of their flows, or
end as toward an unreachable channel (R264). [DEDUCED, log entry 105] -/
def State.requeue (s : State) (c : ChanId) (l : LinkId) (waiting : List Packet) : State :=
  waiting.foldl (fun (r : State) p => r.forwardOn c p ((r.ch c).nextCandidate l p) fun k =>
    (r.onCh c fun ch => ch.onLink k.val fun x => { x with queue := queueAhead p x.queue }).sendLink c k) s

/-- A link leaves the states in which it carries operations: what it has sent and not had acknowledged is gone, and its queue moves.
 [DEDUCED, log entry 105] -/
def State.linkLeaves (s : State) (c : ChanId) (l : LinkId) (st : LinkSt) : State :=
  let q := ((s.ch c).link l.val).queue
  (s.onCh c fun ch => ch.onLink l.val fun k => { k with
    st := st, eligible := false, queue := [], replayBuf := [], replayRuns := 0, used := [], partMsg := none, attempts := 0
    peerStratum := 0xFF, txSeq := 0, rxSeq := 0 }).requeue c l q

/-- A link enters FAILED: WRN_LINK_DOWN, and a report on the link (R270, R345). [DEDUCED, log entry 120] -/
def State.linkFailed (s : State) (c : ChanId) (l : LinkId) : State :=
  (s.linkLeaves c l .failed).onCh c fun ch =>
    ({ ch with wrn := { ch.wrn with linkDown := true } }.raise c 0x3001).report c 0x3001 6 (.link l.val) none none
      fun r => { r with detail := BitVec.ofNat 32 l.val }

/-- A link enters FAILED for want of authentication (R366). [DEDUCED, log entry 120] -/
def State.linkUnauthenticated (s : State) (c : ChanId) (l : LinkId) : State :=
  (s.onCh c fun ch => { ch with wrn := { ch.wrn with authFail := true } }.raise c 0x3003).linkFailed c l

/-! ### Training (R246, R247) -/

/-- The wiring of an intra-sett link: sett index of the peer and its link number, seen from sett index i (R246). -/
def wiring (i link : Nat) : Nat × Nat :=
  let q := link / 2
  let j := if q < i then q else q + 1
  let back := if i < j then i else i - 1
  (j, 2 * back + link % 2)

/-- Whether a link may train: the channel in CALIBRATE or later and holding its keys (R371), the link's group on, and the slot known
for an intra-sett link (R405). [DESIGN CHOICE, log entry 166] -/
def Channel.mayTrain (ch : Channel) (l : LinkId) : Bool :=
  let st := (ch.domainOf (groupDomain l.val)).st
  ch.calibrated && !ch.sec.pufGated && st != .off && st != .draining && (!isIntra l.val || ch.wrn.slotValid)

/-- Signal on a link that is down and may train starts training (R247). -/
def execLinkSignalDetect (c : ChanId) (link : LinkId) (s : State) : Result :=
  if (s.ch c).linkSt link = .down ∧ (s.ch c).mayTrain link then .next (s.trainLink c link) else .next s

/-- First messages of mutual authentication (R366): a fresh nonce, the certificates, the lifecycle, the debug level and the domain key.
 [DESIGN CHOICE, log entry 229] -/
def State.authHello (s : State) (c : ChanId) (l : LinkId) : State :=
  let ch := s.ch c
  (s.emit (.authHello c l (BitVec.ofNat 256 (Config.drbg s.free)) ch.ser.certs.identity ch.ser.certs.chain ch.sec.lifecycle
    ch.sec.dbgLevel ch.sec.settings.domainKey)).tookFree 1

/-- Training completes: an intra-sett link whose peer breaks the wiring goes back to DOWN. A link cannot begin authentication while
the island refuses random bits (R357). -/
def execLinkTrainingDone (c : ChanId) (link : LinkId) (peerModule : BitVec 14) (peerChannel : BitVec 1) (peerLink : BitVec 6)
    (peerSett : Nat) (s : State) : Result :=
  let ch := s.ch c
  if ch.linkSt link ≠ .training then .next s
  else if isIntra link.val ∧ (peerSett, peerLink.toNat) ≠ wiring (ch.settIndex c) link.val then
    .next (s.onCh c fun k => ({ k with wrn := { k.wrn with miswire := true } }.setLinkSt link .down).raise c 0x3002)
  else
    let s1 := s.onCh c fun k => k.onLink link.val fun x => { x with
      st := .auth, peerModule := peerModule, peerChannel := peerChannel, peerLink := peerLink }
    if ch.sec.entropyFail then .next (s1.linkUnauthenticated c link) else .next (s1.authHello c link)

def execLinkTrainingTimeout (c : ChanId) (link : LinkId) (s : State) : Result :=
  if (s.ch c).linkSt link = .training then .next (s.onCh c fun ch => ch.setLinkSt link .down) else .next s

/-- A channel enters JOINED by way of this when a condition of R396 comes to hold; the rest of the entry is the caller's. -/
def Channel.anyLinkUp (ch : Channel) : Bool := ch.wrn.links.any fun e => e.2.st == .up

def execLinkAuthTimeout (c : ChanId) (link : LinkId) (s : State) : Result :=
  if (s.ch c).linkSt link = .auth then .next (s.linkUnauthenticated c link) else .next s

/-- Whether mutual authentication succeeds (R366). -/
def Channel.authOk (ch : Channel) (verified : Bool) (lc : Lifecycle) (key : Option Key) (peerInvasive : Bool) : Bool :=
  verified && ch.sec.keys && lc == ch.sec.lifecycle && !peerInvasive && ch.sec.dbgLevel != .invasive
    && key == ch.sec.settings.domainKey

/-! ### Retraining -/

/-- An UP link loses lock, or one frame has been replayed 16 times in a row. -/
def Channel.enterRetrain (ch : Channel) (l : LinkId) : Channel :=
  ch.onLink l.val fun k => { k with st := .retrain, retrains := satAdd k.retrains 1, attempts := 0, replayRuns := 0 }

def execLinkLossOfLock (c : ChanId) (link : LinkId) (s : State) : Result :=
  if (s.ch c).linkSt link = .up then .next (s.onCh c fun ch => ch.enterRetrain link) else .next s

/-- Sends every unacknowledged frame of a link again, from the first, in order (R248). -/
def State.resend (s : State) (c : ChanId) (l : LinkId) : State :=
  let k := (s.ch c).link l.val
  (s.onCh c fun ch => ch.onLink l.val fun x => { x with replay := satAdd x.replay k.replayBuf.length }).emitAll (k.replayBuf.map (k.frameOut c l))

/-- A link that comes back from RETRAIN has lost no frame: the unacknowledged ones are sent again (R248). -/
def execLinkRetrainDone (c : ChanId) (link : LinkId) (s : State) : Result :=
  if (s.ch c).linkSt link = .retrain then
    .next (((s.onCh c fun ch => ch.onLink link.val fun k => { k with st := .up, attempts := 0 }).resend c link).sendLink c link)
  else .next s

def execLinkRetrainFail (c : ChanId) (link : LinkId) (s : State) : Result :=
  if (s.ch c).linkSt link ≠ .retrain then .next s
  else if ((s.ch c).link link.val).attempts + 1 < 3 then
    .next (s.onCh c fun ch => ch.onLink link.val fun k => { k with attempts := k.attempts + 1 })
  else .next (s.linkFailed c link)

/-! ### Frames (R248, R249) -/

/-- Frames up to and including the acknowledged one leave the replay buffer, and their credits come back; an acknowledgement names the
last frame accepted. [DEDUCED, log entries 35 and 107] -/
def Link.acked (k : Link) (ack : BitVec 12) : Link :=
  match k.replayBuf.findIdx? fun e => e.1 == ack with
  | none => k
  | some i =>
    let done := k.replayBuf.take (i + 1)
    { k with
      replayBuf := k.replayBuf.drop (i + 1)
      replayRuns := 0
      used := done.foldl (fun m (e : BitVec 12 × Packet) =>
        smMod 0 m e.2.lane fun n => n - frameCredits e.2) k.used }

/-- A NAK: every frame from the first unacknowledged one is sent again, in order; the sixteenth replay of one frame in a row sends the
link to RETRAIN. [DEDUCED, log entry 106] -/
def State.replay (s : State) (c : ChanId) (l : LinkId) : State :=
  let k := (s.ch c).link l.val
  if k.replayBuf.isEmpty then s
  else
    let s1 := (s.resend c l).onCh c fun ch => ch.onLink l.val fun x => { x with replayRuns := x.replayRuns + 1 }
    if k.replayRuns + 1 < 16 then s1 else s1.onCh c fun ch => ch.enterRetrain l

/-- A NAK to the peer: a trailer without a packet. [DESIGN CHOICE, log entry 229] -/
def State.sendNak (s : State) (c : ChanId) (l : LinkId) : State :=
  let k := (s.ch c).link l.val
  s.emit (.nak c l (frameTrailer [] k.txSeq (k.rxSeq - 1) true))

/-- Frames are missing before the one that has arrived. [DEDUCED, log entry 106] -/
def Link.gapBefore (k : Link) (seq : BitVec 12) : Bool := decide (0 < (seq - k.rxSeq).toNat) && decide ((seq - k.rxSeq).toNat < 2 ^ 11)

/-- A frame arrives: a packet, or none, with its trailer. One whose CRC fails or whose codeword cannot be corrected is discarded and answered
with NAK. Only the frame that follows the last accepted one is accepted; the packet it brings enters the router as a command of its
own. One that comes after a gap is answered with NAK too. [DEDUCED, log entry 106] -/
def execLinkFrameRx (c : ChanId) (link : LinkId) (p : Option Packet) (seq ack : BitVec 12) (flags : Byte) (crc : U32)
    (fec : FecCounts) (s : State) : Result :=
  let trailer : U64 := crc ++ flags ++ ack ++ seq
  let st := (s.ch c).linkSt link
  if st ≠ .up ∧ st ≠ .auth then .next s
  else
    let s1 := s.onCh c fun ch => ch.onLink link.val fun x => { x with
      fecCorr := satAdd x.fecCorr fec.corr, fecUncorr := satAdd x.fecUncorr fec.uncorr }
    if !frameOk ((p.map Packet.bytes).getD []) trailer ∨ 0 < fec.uncorr then .next (s1.sendNak c link)
    else
      let s2 := s1.onCh c fun ch => ch.onLink link.val fun x =>
        let y := x.acked ack
        if p.isSome ∧ seq = x.rxSeq then { y with rxSeq := x.rxSeq + 1 } else y
      let s3 := if p.isSome && ((s.ch c).link link.val).gapBefore seq then s2.sendNak c link else s2
      .next ((if flags.getLsbD 0 then s3.replay c link else s3).sendLink c link)

end Sys2Proof.Machine
end

