-- ==== Sys2Proof/Machine/Reset.lean ====
section
/-! DEFINITION. Channel reset, and the loss of a channel's power; what the port die reports then (R329, R358, R364, R372, R383, R389,
R394). -/

namespace Sys2Proof.Machine

/-! ### Measurement and the debug session (R364, R372) -/

/-- MR ← SHA3-512(MR ‖ v). -/
def extendMr (mr v : U512) : U512 := sha3 (leBytes 64 mr.toNat ++ leBytes 64 v.toNat)
/-- [DESIGN CHOICE, log entry 37] -/
def Sec.extend (x : Sec) (i : Nat) (v : U512) : Sec := { x with mr := smMod 0 x.mr i fun m => extendMr m v }

/-- The end of a debug session: level CLOSED, and 64 bytes of 0xFF into MR3. -/
def Sec.close (x : Sec) : Sec :=
  ({ x with dbgLevel := .closed, remainS := 0, reqLevel := none, nonce := none } : Sec).extend 3 (BitVec.allOnes 512)

/-- Zeroises the keys of Table 17-2. [DEDUCED, log entry 197] -/
def Sec.zeroise (x : Sec) : Sec := { x with keys := false, session := {} }

/-! ### Secure sessions (R383) -/

def Ptd.onQp (p : Ptd) (n : Nat) (f : Qp → Qp) : Ptd :=
  { p with qps := p.qps.map fun q => if q.num = n then f q else q }

/-- A session ends: its QP is unbound and the secure mailboxes return to EMPTY. [DEDUCED, log entry 155] -/
def State.endSession (s : State) (c : ChanId) : State :=
  let x := (s.ch c).sec.session
  if x.stage = 0 then s
  else
    let s1 := s.onCh c fun ch => { ch with
      sec := { ch.sec with session := {} }
      mbx := { ch.mbx with boxes := smDel 8 (smDel 9 ch.mbx.boxes) } }
    { s1 with ptd := s1.ptd.onQp x.qp fun q => { q with bound := false } }

/-! ### Mailboxes and rings of a channel that is gone (R389) -/

/-- The port die posts an MBX_ABORTED record for a channel. -/
def Ptd.abort (p : Ptd) (c : ChanId) (tag detail : Nat) : Ptd :=
  { p with events := p.events ++ [mkEvent 0xA001 (chanSrc c) 0 (some detail) tag], aborted := satAdd p.aborted 1 }

/-- TAG and DETAIL of the records for the mailboxes in REQUEST or BUSY and for the enabled rings. [DEDUCED, log entry 130] -/
def Mbx.lostWork (m : Mbx) : List (Nat × Nat) :=
  (List.range 10).filterMap (fun i =>
    let h := (smGet {} m.boxes i).hdr
    if h.st = 1 ∨ h.st = 2 then some (h.seq.toNat, i) else none)
  ++ (List.range 8).filterMap fun n => if (smGet {} m.rings n).en then some (0, 0xF + (8 + n) * 256) else none

/-- Every mailbox and ring of a channel is reset, and the port die reports what was waiting. [DEDUCED, log entry 130] -/
def State.dropMailboxes (s : State) (c : ChanId) : State :=
  let l := (s.ch c).mbx.lostWork
  let s1 := s.onCh c fun ch => { ch with mbx := {} }
  { s1 with ptd := l.foldl (fun (p : Ptd) e => p.abort c e.1 e.2) s1.ptd }

/-! ### Channel reset (R394) -/

/-- The settings slot in effect at boot (R402): the slot, whether it is B, and whether it is the previous one. -/
def Serial.settingsSlot (x : Serial) : Option (SettingsSlot × Bool × Bool) :=
  let now (y : SettingsSlot) : Bool := y.valid && y.seq == x.setSeq
  let old (y : SettingsSlot) : Bool := y.valid && y.seq + 1 == x.setSeq
  if !x.pufOk || !x.regionOk then none
  else if now x.setA then some (x.setA, false, false)
  else if now x.setB then some (x.setB, true, false)
  else if old x.setA then some (x.setA, false, true)
  else if old x.setB then some (x.setB, true, true)
  else none

/-- A channel at its Reset values; a field whose Reset column names the image, a record, a slot or a derived key shows that at once. Serial
memory, but for a write in progress, and what lies behind the CXL ports stay; HBM keeps its contents until CALIBRATE writes it with zeros
(R394, R395); the port die still knows the slot. [DEDUCED, log entries 129, 130 and 164; DESIGN CHOICE, log entry 1] -/
def Channel.fresh (ch : Channel) (p : Ptd) (st : ChState) : Channel where
  chn := { supplyOk := ch.chn.supplyOk, state := st }
  wrn := { slotValid := p.slotValid, slot := p.slot }
  mem := { hbm := ch.mem.hbm }
  cxl := { mem := ch.cxl.mem, poison := ch.cxl.poison }
  ser := { ch.ser with installing := .none }
  sec := { imageSvn := ch.ser.image.svn, lifecycle := ch.ser.lc.lc, idkHash := if ch.ser.pufOk then ch.ser.pufIdk else 0 }
  cfg := match ch.ser.settingsSlot with
    | some e => { setSeq := e.1.seq, setSlot := e.2.1 }
    | none => {}
  domain := ch.domain
  tripLock := ch.tripLock
  refclkOk := ch.refclkOk
  dead := ch.dead

/-- A channel reset: the boot ROM starts, unless the channel is held for want of its reference clock (R421). [DEDUCED, log entry 130] -/
def State.resetChannel (s : State) (c : ChanId) : State :=
  let open_ := (s.ch c).sec.dbgLevel != .closed
  let s1 := ((s.dropMailboxes c).endSession c).onCh c fun ch => ch.fresh s.ptd (if ch.refclkOk then .boot else .reset)
  if open_ then s1.onCh c fun ch => ch.raise c 0x8005 else s1

/-- A channel reset from outside; a channel without power has none. -/
def execChannelReset (c : ChanId) (s : State) : Result :=
  if (s.ch c).domain.st = .off then .next s else .next (s.resetChannel c)

/-! ### The channel domain (R326, R327, R329) -/

/-- The channel domain is OFF: everything held in it is lost (R329). [DEDUCED, log entry 129] -/
def State.channelOff (s : State) (c : ChanId) : State :=
  ((s.dropMailboxes c).endSession c).onCh c fun ch => { ch.fresh s.ptd .reset with mem := {}, domain := { st := .off }, dead := false }

/-- The channel domain wakes: a channel reset (R394). -/
def State.channelWake (s : State) (c : ChanId) : State :=
  (s.onCh c fun ch => { ch with domain := { st := .waking } }).resetChannel c

/-- Asks for an unload at the next boundary (R310). [DEDUCED, log entry 140] -/
def Channel.requestUnload (ch : Channel) : Channel :=
  if ch.chn.state = .loaded ∨ ch.chn.state = .running then { ch with pss := { ch.pss with unloadReq := true } } else ch

/-- Entry of the channel domain to DRAINING: keys zeroised, debug session closed, nonce consumed, and the stream unloads; without a
stream the windows are withdrawn at once (R327, R358, R372, Table 15-5). [DEDUCED, log entry 140] -/
def State.channelDrain (s : State) (c : ChanId) : State :=
  (s.endSession c).onCh c fun ch =>
    let k := { ch with domain := { st := .draining } }
    let k := if k.sec.dbgLevel = .closed then k else { k with sec := k.sec.close }.raise c 0x8005
    let k := { k with sec := { k.sec.zeroise with nonce := none, reqLevel := none } }
    let k := if k.pss.phase = .verifying then { k with pss := { k.pss with
      phase := if k.pss.stream.isSome then k.pss.verifyFrom else .empty } } else k
    if k.pss.stream.isNone then { k with pss := { k.pss with withdrawn := true } } else k.requestUnload

/-- The channel has been woken: ACTIVE, and DRAINING at once when an OFF request is pending (R327). [DEDUCED, log entry 131] -/
def State.channelAwake (s : State) (c : ChanId) : State :=
  let d := (s.ch c).domain
  if d.st ≠ .waking then s
  else
    let s1 := s.onCh c fun ch => { ch with domain := { st := .active } }
    if d.offPending then s1.channelDrain c else s1

end Sys2Proof.Machine
end

