-- ==== Sys2Proof/Machine/Power.lean ====
section
/-! DEFINITION. Power domains: requests, drains and wakes, and the module state (R325 to R331). -/

namespace Sys2Proof.Machine

/-! ### Module state (R330) -/

/-- STATE of Table 15-6: 0 ACTIVE, 1 IDLE, 2 CHANNEL_OFF, 3 STANDBY. [DESIGN CHOICE, log entry 1] -/
def State.moduleState (s : State) : Nat :=
  if s.ch0.on && s.ch1.on then (if s.ch0.running || s.ch1.running then 0 else 1)
  else if s.ch0.on || s.ch1.on then 2 else 3

/-! ### Requests (R327, R328) -/

/-- Domains requested through PWR_REQ (Table 15-3). -/
def isDomain (d : Nat) : Bool :=
  decide (d < 136) || d == 0x90 || d == 0x91 || (decide (0xA0 ≤ d) && decide (d < 0xA8))

/-- Cause of a refusal: the lowest that applies (R328). -/
def Channel.pwrCause (ch : Channel) (on off : Bool) (d : Nat) : Option Nat :=
  if off && decide (d < 136) && (ch.lcoreOf d).isSome then some 1
  else if d = 0xFF then some 2
  else if !isDomain d then some 3
  else if on && off then some 4
  else none

/-- An accepted ON request. -/
def Domain.askOn (d : Domain) : Domain :=
  match d.st with
  | .off => { d with st := .waking }
  | .draining => { d with wakePending := true }
  | .waking => { d with offPending := false }
  | _ => d

/-- An accepted OFF request. -/
def Domain.askOff (d : Domain) : Domain :=
  match d.st with
  | .active => { d with st := .draining }
  | .idle => { d with st := .draining }
  | .waking => { d with offPending := true }
  | .draining => { d with wakePending := false }
  | .off => d

/-- A write of PWR_REQ. -/
def Channel.writePwrReq (ch : Channel) (c : ChanId) (v : U64) : Channel :=
  let on := bit v 8
  let off := bit v 9
  let d := bits v 7 0
  if !on && !off then ch
  else match ch.pwrCause on off d with
    | some k => { ch with pwr := { ch.pwr with refused := satAdd ch.pwr.refused 1, lastRefuse := BitVec.ofNat 8 k } }.raise c 0x9005
    | none => ch.onDomain d (if on then Domain.askOn else Domain.askOff)

/-- Unbound cores are OFF while SPARE_OFF is 1, and IDLE otherwise (R326). -/
def Channel.writeSpareOff (ch : Channel) (v : Bool) : Channel :=
  let k := { ch with pwr := { ch.pwr with spareOff := v } }
  ((List.range 136).filter fun p => (ch.lcoreOf p).isNone).foldl
    (fun (h : Channel) p => h.onDomain p (if v then Domain.askOff else Domain.askOn)) k

/-! ### PTD_CHPWR (R327, R393, R417) -/

def State.accessNak (s : State) : State := { s with ptd := { s.ptd with accessNak := satAdd s.ptd.accessNak 1 } }

/-- [DEDUCED, log entry 137] -/
def State.chpwrOn (s : State) (c : ChanId) : State :=
  let ch := s.ch c
  if ch.tripLock then s.accessNak
  else match ch.domain.st with
    | .off => s.channelWake c
    | _ => s.onCh c fun k => { k with domain := k.domain.askOn }

def State.chpwrOff (s : State) (c : ChanId) : State :=
  match (s.ch c).domain.st with
  | .active => s.channelDrain c
  | .idle => s.channelDrain c
  | _ => s.onCh c fun k => { k with domain := k.domain.askOff }

/-- A write of PTD_CHPWR. -/
def State.writeChpwr (s : State) (v : U64) : State :=
  let c : ChanId := if bit v 8 then 1 else 0
  if bit v 0 && bit v 1 then s.accessNak
  else if bit v 0 then s.chpwrOn c
  else if bit v 1 then s.chpwrOff c
  else s

/-! ### Drains and wakes (Tables 15-4 and 15-5) -/

/-- The links of a group. -/
def groupLinks (d : Nat) : List LinkId := (List.finRange 48).filter fun l => groupDomain l.val == d

/-- What OFF loses in a domain: a port leaves UP, the links of a group are DOWN and their packets move (R328, R329).
 [DEDUCED, log entry 192] -/
def State.domainLost (s : State) (c : ChanId) (d : Nat) : State :=
  if d = 0x90 then s.cxlPortDown c 0 0
  else if d = 0x91 then s.cxlPortDown c 1 0
  else if 0xA0 ≤ d ∧ d < 0xA8 then (groupLinks d).foldl (fun (r : State) l => r.linkLeaves c l .down) s
  else s

/-- A drain can complete: a core's at a boundary that closes the Owl claim on it, the channel's when its stream has left. -/
def Channel.drained (ch : Channel) (d : Nat) : Bool :=
  if d = 0xFF then ch.pss.stream.isNone && !ch.pss.stopping && ch.domain.st == .draining
  else (ch.domainOf d).st == .draining && !(decide (d < 136) && ch.claimed d)

def execDomainDrainDone (c : ChanId) (domain : Nat) (s : State) : Result :=
  let ch := s.ch c
  if !ch.drained domain then .next s
  else if domain = 0xFF then
    let s1 := s.channelOff c
    .next (if ch.domain.wakePending then s1.channelWake c else s1)
  else .next ((s.domainLost c domain).onCh c fun k => k.onDomain domain fun d =>
    { st := if d.wakePending then .waking else .off })

/-- Core SRAM is cleared to zero with valid check bits when its core wakes. -/
def Channel.clearSram (ch : Channel) (p : Nat) : Channel :=
  { ch with mem := { ch.mem with
      sram := smClear (sramAt p 0) (2 ^ 22) ch.mem.sram
      sramPoison := smClear (sramAt p 0 / 8) (2 ^ 19) ch.mem.sramPoison
      sramErr := smClear (sramAt p 0 / 8) (2 ^ 19) ch.mem.sramErr } }

/-- A port comes back UP with the capacity it had; one that the map never held has nothing to come back with. [DEDUCED, log entry 133] -/
def Channel.portBack (ch : Channel) (p : Fin 2) : Channel :=
  ch.onCxlPort p fun k => if k.capGib = 0 then k else { k with st := 2 }

/-- [DEDUCED, log entry 133] -/
def Channel.wakeEffects (ch : Channel) (d : Nat) : Channel :=
  if d < 136 then ch.clearSram d else if d = 0x90 then ch.portBack 0 else if d = 0x91 then ch.portBack 1 else ch

/-- A wake completes; for the channel domain, its boot has ended. [DEDUCED, log entry 131] -/
def execDomainWakeDone (c : ChanId) (domain : Nat) (s : State) : Result :=
  let ch := s.ch c
  if domain = 0xFF then (if ch.chn.state = .reset ∨ ch.chn.state = .boot then .next s else .next (s.channelAwake c))
  else if (ch.domainOf domain).st ≠ .waking then .next s
  else .next (s.onCh c fun k => (k.wakeEffects domain).onDomain domain fun d =>
    { st := if d.offPending then .draining else .active })

/-- A wake fails. A CXL port whose device does not come back as it was stays DOWN and raises CXL_PORT_DOWN too (R329).
 [DEDUCED, log entry 131] -/
def execDomainWakeFail (c : ChanId) (domain : Nat) (s : State) : Result :=
  let ch := s.ch c
  if domain = 0xFF then
    if ch.domain.st ≠ .waking then .next s
    else
      let s1 := s.channelOff c
      .next { s1 with ptd := s1.ptd.raise 0x9006 }
  else if (ch.domainOf domain).st ≠ .waking then .next s
  else .next (s.onCh c fun k =>
    let k := { k with pwr := { k.pwr with wakeFail := satAdd k.pwr.wakeFail 1 } }.onDomain domain fun _ => { st := .off }
    let k := k.raise c 0x9006
    if domain = 0x90 ∨ domain = 0x91 then k.raise c 0x2005 else k)

/-- A port without a request for 1 ms: its link enters L1. -/
def execCxlIdleTimeout (c : ChanId) (port : Fin 2) (s : State) : Result :=
  .next (s.onCh c fun ch =>
    if (ch.cxlPort port).isUp then ch.onDomain (portDomain port.val) fun d => if d.st = .active then { d with st := .idle } else d
    else ch)

end Sys2Proof.Machine
end

