-- ==== Sys2Proof/Machine/Electrical.lean ====
section
/-! DEFINITION. The supply, thermal supervision and reference clocks (R21, R395, R404, R409 to R423). -/

namespace Sys2Proof.Machine

/-! ### Power of the module (R21, R395, R404, R412) -/

/-- The output turns off: both channels and the port die lose power together, with no drain. The port die keeps its serial memory and
the events it recorded there; the hot-swap alert cause stays for the chassis controller.
 [DEDUCED, log entries 135 and 139; DESIGN CHOICE, log entry 196] -/
def State.powerOff (s : State) (event : Option Nat) : State :=
  let s1 := (s.channelOff 0).channelOff 1
  let s2 := (s1.onCh 0 fun ch => { ch with chn := { ch.chn with supplyOk := false } }).onCh 1 fun ch =>
    { ch with chn := { ch.chn with supplyOk := false } }
  let kept := match event with
    | some e => s.ptd.stored ++ [mkEvent e 2 0 none 0]
    | none => s.ptd.stored
  { s2 with
    ptd := { ser := s.ptd.ser, stored := kept, alertHotswap := s.ptd.alertHotswap || event == some 0x900A, failed := s.ptd.failed }
    sup := { s.sup with outputOn := false } }

/-- The port die out of reset and ready: its island's state comes from its serial memory, its settings from the slot in effect (R373, R402); the records it kept are there still.
 [DEDUCED, log entries 135, 139 and 160] -/
def Ptd.booted (p : Ptd) : Ptd where
  ser := p.ser
  stored := p.stored
  alertHotswap := p.alertHotswap
  up := true
  sec := { keys := p.ser.pufOk, lifecycle := p.ser.lc.lc, idkHash := if p.ser.pufOk then p.ser.pufIdk else 0, imageSvn := p.ser.image.svn
           settings := match p.ser.settingsSlot with
             | some e => e.1.settings
             | none => { streamSigRequired := true } }

/-- The ramp completes, the port die is ready, and both channel resets are released (Table 19-1). A channel without its reference
clock is held in RESET. [DEDUCED, log entries 131 and 137; DESIGN CHOICE, log entry 196] -/
def State.powerOn (s : State) : State :=
  let on (ch : Channel) : Channel :=
    { ch with chn := { ch.chn with supplyOk := true }, domain := { st := .active }, tripLock := false }
  let s1 := { s with ptd := s.ptd.booted, sup := { s.sup with outputOn := true, converterOk := true, holdupUs := 0 } }
  (((s1.onCh 0 on).onCh 1 on).resetChannel 0).resetChannel 1

/-- PWR_EN rises. Out of range, or locked out after an overcurrent, nothing more happens. -/
def execPowerUp (s : State) : Result :=
  let s1 := { s with sup := { s.sup with pwrEn := true } }
  if s.sup.outputOn ∨ !s.sup.inRange ∨ s.sup.lockout then .next s1 else .next s1.powerOn

def execPwrEnFall (s : State) : Result :=
  let s1 := { s with sup := { s.sup with pwrEn := false, lockout := false } }
  .next (if s.sup.outputOn then s1.powerOff none else s1)

/-- An event of the module management controller, while it has power (R414). [DEDUCED, log entry 135] -/
def State.mmcEvent (s : State) (code : Nat) : State := if s.ptd.up then { s with ptd := s.ptd.raise code } else s

/-- The input leaves 46–58 V, `below` it or above it. [DEDUCED, log entry 134] -/
def execInputOutOfRange (below : Bool) (s : State) : Result :=
  let s1 := { s with sup := { s.sup with inRange := false, below := below } }
  if !s.sup.inRange then .next s1
  else .next ((if s.ptd.up then { s1 with ptd := { s1.ptd with alertInput := true } } else s1).mmcEvent 0x9008)

/-- The input is back within range: the hold-up timer holds the time it has added up, which is less than the hold-up time.
 [DEDUCED, log entry 136] -/
def execInputBackInRange (s : State) : Result :=
  let back := { s with sup := { s.sup with inRange := true, below := false } }
  if s.sup.below && s.sup.outputOn then
    let t := s.sup.holdupUs + s.freeVal % (1000 - s.sup.holdupUs)
    .next { back.tookFree 1 with sup := { back.sup with holdupUs := t } }
  else .next back

/-- The input has stayed within range for 10 ms. [DEDUCED, log entry 136] -/
def execHoldupTimerClear (s : State) : Result :=
  if s.sup.inRange then .next { s with sup := { s.sup with holdupUs := 0 } } else .next s

def execHoldupExpiry (s : State) : Result :=
  if s.sup.below ∧ s.sup.outputOn then .next (s.powerOff (some 0x9009)) else .next s

def execInputOvervoltage (s : State) : Result :=
  let s1 := { s with sup := { s.sup with inRange := false, below := false } }
  if s.sup.outputOn then .next (s1.powerOff (some 0x9009)) else .next s1

def execInputOvercurrent (s : State) : Result :=
  if s.sup.outputOn then .next ({ s with sup := { s.sup with lockout := true } }.powerOff (some 0x900A)) else .next s

/-- Power-up restarts after an undervoltage or overvoltage, with PWR_EN high and the input in range; not after an overcurrent.
 [DEDUCED, log entry 137] -/
def execAutoRestart (s : State) : Result :=
  if !s.sup.outputOn ∧ s.sup.inRange ∧ s.sup.pwrEn ∧ !s.sup.lockout ∧ s.sup.converterOk then .next s.powerOn else .next s

def execConverterFault (s : State) : Result :=
  let s1 := { s with sup := { s.sup with converterOk := false } }
  .next (if s.sup.outputOn then s1.powerOff none else s1)

/-- The port die fails: no host command arrives any more, and records are retained. [DEDUCED, log entry 139] -/
def execPortDieFailure (s : State) : Result := .next { s with ptd := { s.ptd with failed := true, up := false } }

/-! ### Telemetry and temperature (R409, R415 to R417) -/

/-- Thresholds of Table 20-4, in units of 0.5 °C: junction, HBM. -/
def tempAt (j h : Int) (jct hbm : U16) : Bool := decide (j ≤ jct.toInt) || decide (h ≤ hbm.toInt)
def warnAt (jct hbm : U16) : Bool := tempAt 200 180 jct hbm
def derateAt (jct hbm : U16) : Bool := tempAt 206 186 jct hbm
def tripAt (jct hbm : U16) : Bool := tempAt 220 210 jct hbm
def clearAt (jct hbm : U16) : Bool := decide (jct.toInt < 194) && decide (hbm.toInt < 174)

/-- A telemetry update: the temperatures are measured, and so are the values the manual leaves to the sensors.
 [DEDUCED, log entry 134; DESIGN CHOICE, log entries 36 and 196] -/
def execTlmUpdate (c : ChanId) (hbm jct : U16) (s : State) : Result :=
  let ch := s.ch c
  if ch.domain.st = .off ∨ ch.chn.state = .reset then .next s
  else
    let v := s.freeVal
    let s1 := s.tookFree 1
    let warn := warnAt jct hbm && !warnAt ch.tlm.jctMax ch.tlm.hbmMax
    let s2 := { s1 with sup := { s1.sup with vin := BitVec.ofNat 16 v, iin := BitVec.ofNat 16 (v / 2 ^ 16) } }
    let s3 := s2.onCh c fun k => { k with
      tlm := { hbmMax := hbm, jctMax := jct, jctPcore := BitVec.ofNat 8 (v / 2 ^ 32 % 136), railMw := BitVec.ofNat 32 (v / 2 ^ 40)
               inputMw := BitVec.ofNat 32 (v / 2 ^ 72), vin := BitVec.ofNat 16 v, iin := BitVec.ofNat 16 (v / 2 ^ 16) }
      thermDerate := derateAt jct hbm
      thermClear := clearAt jct hbm }
    .next (if warn then { s3 with ptd := { s3.ptd with alertTemp := s3.ptd.alertTemp || s3.ptd.up } }.mmcEvent 0x900B else s3)

/-- The thermal cap at a boundary: 50 W down while the derate level holds, 50 W up once below the clear level. [DEDUCED, log entry 190] -/
def State.thermalStep (s : State) (c : ChanId) : State :=
  let ch := s.ch c
  let cap := if ch.thermDerate then max 200 (ch.thermalCap - 50) else if ch.thermClear then min 650 (ch.thermalCap + 50) else ch.thermalCap
  let s1 := s.onCh c fun k => { k with thermalCap := cap }
  if cap < 650 ∧ ch.thermalCap = 650 then s1.mmcEvent 0x900C else s1

/-- The trip level has held for 1 ms: the channel domain is OFF at once, and stays so for 10 s. [DEDUCED, log entry 137] -/
def execThermTripTimer (c : ChanId) (s : State) : Result :=
  let ch := s.ch c
  if ch.domain.st = .off ∨ !tripAt ch.tlm.jctMax ch.tlm.hbmMax then .next s
  else
    let s1 := s.mmcEvent 0x900D
    .next ((s1.channelOff c).onCh c fun k => { k with tripLock := true })

/-! ### Reference clocks (R421) -/

/-- Loss of REFCLK_SYS: a channel that runs is removed without a drain. [DEDUCED, log entry 138] -/
def execRefclkSysLoss (c : ChanId) (s : State) : Result :=
  let ch := s.ch c
  let s1 := s.onCh c fun k => { k with refclkOk := false }
  if ch.domain.st = .off ∨ ch.chn.state = .reset then .next s1 else .next ((s1.channelOff c).mmcEvent 0x900E)

/-- REFCLK_SYS is present and locked: a channel held in RESET for want of it leaves RESET. [DEDUCED, log entry 138] -/
def execRefclkSysLock (c : ChanId) (s : State) : Result :=
  .next (s.onCh c fun ch =>
    let held := ch.domain.st != .off && ch.chn.state == .reset && !ch.refclkOk
    { ch with refclkOk := true, chn := { ch.chn with state := if held then .boot else ch.chn.state } })

end Sys2Proof.Machine
end

