-- ==== Sys2Proof/Machine/Tick.lean ====
section
/-! DEFINITION. One array clock without a command (R33). -/

namespace Sys2Proof.Machine

/-- A channel whose clocks run: powered, out of reset, and with its reference clock. [DESIGN CHOICE, log entry 7] -/
def Channel.clocked (ch : Channel) : Bool := ch.domain.st != .off && ch.chn.state != .reset && ch.refclkOk

/-- The timestamp counter of a clocked channel counts array cycles. [DESIGN CHOICE, log entry 7] -/
def Channel.tick (ch : Channel) : Channel :=
  if ch.clocked then { ch with beat := { ch.beat with time := ch.beat.time + 1 } } else ch

/-- One clk of both channels. [DESIGN CHOICE, log entries 7 and 194] -/
def State.tick (s : State) : State := { s with ch0 := s.ch0.tick, ch1 := s.ch1.tick }

end Sys2Proof.Machine
end

