-- ==== Sys2Proof/Machine/Beats.lean ====
section
/-! DEFINITION. The beat boundary and what takes effect at it; the lead-in window and the BEATREF pulse (R33 to R37, R41, R49,
R50, R52, R89, R177, R187, R192, R242, R306 to R310, R326, R406). -/

namespace Sys2Proof.Machine

/-! ### Settling (R41) -/

/-- What settles a task at a boundary. -/
inductive Settle where
  | stays | overrun | pageMiss | walkLate | returnLate | defers
  deriving DecidableEq, Repr

/-- A running DMA-only task runs on across the boundary while what it has left are lead-in descriptors or return copies (R37, R196, R289). -/
def Channel.dmaStays (ch : Channel) (c : ChanId) (t : Task) : Bool :=
  let left := (t.dmaDescs.zipIdx).filter fun e => !t.dmaDone.contains e.2
  t.exec == 2 && t.st == .running && !left.isEmpty
    && (left.all (fun e => e.1.leadin) || left.all fun e => !(ch.returnCopies c e.1).isEmpty)

def Channel.settles (ch : Channel) (c : ChanId) (t : Task) : Settle :=
  if t.committed || ch.dmaStays c t then .stays
  else match t.st with
    | .waiting => .defers
    | .running => .overrun
    | .ready => if t.hasRun then .overrun else .defers
    | .parked => match t.cause with
      | .page => .pageMiss
      | .walk => .walkLate
      | .actReturn => .returnLate
      | _ => .overrun

/-- Counts an overrun; the OVR_LIMITth in a row of one task pauses the planned admission. [DEDUCED, log entry 48] -/
def Channel.countOverrun (ch : Channel) (c : ChanId) (n : Nat) : Channel :=
  let k := { ch with beat := { ch.beat with overrun := satAdd ch.beat.overrun 1 } }.raise c 0x4001
  if ch.beat.ovrLimit ≠ 0 ∧ n = ch.beat.ovrLimit.toNat then { k with beat := { k.beat with paused := true } }.raise c 0x4002 else k

/-- Settles one task: it stays, or it is counted and aborted, and offered again. [DEDUCED, log entries 48, 52 and 53] -/
def State.settleTask (s : State) (c : ChanId) (t : Task) : State :=
  match (s.ch c).settles c t with
  | .stays =>
    s.onCh c fun ch =>
      -- a carried task is charged to the beat in which it finishes, so a charge against the beat that ends moves on (R319)
      let k := if t.carryCharged then ch.chargeCarry t true else ch
      let k := k.onTask t.core t.slot fun x => { x with hasRun := false, carried := x.carried || x.committed, carryCharged := false }
      if t.cause = .goneRoute then { k with tsk := { k.tsk with goneDefer := satAdd k.tsk.goneDefer 1 } } else k
  | .overrun => (s.onCh c fun ch => ch.countOverrun c (t.overruns + 1)).abortTask c t (t.overruns + 1)
  | .pageMiss => (s.onCh c fun ch => { ch with sql := { ch.sql with missBeats := satAdd ch.sql.missBeats 1 } }).abortTask c t
  | .walkLate => (s.onCh c fun ch => { ch with sql := { ch.sql with walkLate := satAdd ch.sql.walkLate 1 } }).abortTask c t
  | .returnLate => (s.onCh c fun ch => { ch with upd := { ch.upd with missBeats := satAdd ch.upd.missBeats 1 } }).abortTask c t
  | .defers => (s.onCh c fun ch => { ch with beat := { ch.beat with defer := satAdd ch.beat.defer 1 } }).abortTask c t

/-- [DEDUCED, log entry 47] -/
def State.settleAll (s : State) (c : ChanId) : State :=
  (s.ch c).tsk.tasks.foldl (fun (r : State) t => match (r.ch c).task? t.core t.slot with
    | some u => r.settleTask c u
    | none => r) s

/-! ### Patience, credits and alignment (R35, R49, R50) -/

/-- A background offer that the beat did not take loses one beat of patience, and is urgent at zero. The chapters that own HARD tasks give
no deadline to a task of the stream, so when such a task's beats no longer cover it is open: `late`. [DESIGN CHOICE, log entry 200] -/
def Offer.wait (late : Bool) (o : Offer) : Offer :=
  if o.missed then
    { o with missed := false, patience := o.patience - 1, urgent := o.urgent || decide (o.patience ≤ 1) || (o.desc.flags.getLsbD 3 && late) }
  else o

/-- Returned credits become available. [DEDUCED, log entries 62 and 183] -/
def Credit.atBeat (q : Credit) : Credit :=
  let n := min (q.available.toNat + q.returned) q.capacity.toNat
  { q with available := BitVec.ofNat 16 n, shown := BitVec.ofNat 16 n, returned := 0 }

/-- The part of an offset that one beat corrects: at most 16 counts. -/
def slew (d : Int) : Int := max (-16) (min 16 d)

/-- Bounds of Table 02-1, in clk: ±40 ns and ±1 µs. [DEDUCED, log entry 49] -/
def offInBand (d : Int) : Bool := decide (d.natAbs ≤ 108)
def offInCapture (d : Int) : Bool := decide (d.natAbs ≤ 2700)

/-- [DEDUCED, log entry 49] -/
def Beat.align (b : Beat) : Beat :=
  let left := b.offset - slew b.offset
  { b with
    offset := left
    lost := b.lost && (b.lostPending || !b.inBand)
    lostPending := false
    inBand := offInBand left
    beatrefSeen := b.edgeSeen
    edgeSeen := false }

/-- An offset in ns, toward zero and saturating (Table 02-9). [DEDUCED, log entry 125] -/
def errNsOf (d : Int) : U16 := BitVec.ofInt 16 (max (-32767) (min 32767 (Int.tdiv (d * 10) 27)))

/-- Judges an offset estimate (Table 02-1). [DEDUCED, log entries 49 and 125] -/
def Channel.judge (ch : Channel) (c : ChanId) (d : Int) : Channel :=
  let k := { ch with beat := { ch.beat with offset := d, errNs := errNsOf d, inBand := ch.beat.inBand && offInBand d } }
  if offInBand d then k
  else if offInCapture d then k.raise c 0x4003
  else { k with beat := { k.beat with lost := true, lostPending := k.beat.lostPending || !k.beat.lost } }.raise c 0x4004

/-! ### Streams at a boundary (R242, R306, R309, R310, R406) -/

/-- A leave, an unload or a swap that takes effect at this boundary stops admission. -/
def Channel.stopAt (ch : Channel) : Channel :=
  let loaded := ch.chn.state == .loaded || ch.chn.state == .running
  let pend := if ch.domain.st = .draining then none else ch.pss.pendingStream
  let k := { ch with pss := { ch.pss with pendingStream := pend, swapPending := ch.pss.swapPending && pend.isSome } }
  if loaded && ch.cfg.leaveReq then
    { k with
      chn := { k.chn with state := .leaving }
      cfg := { k.cfg with leaveReq := false }
      pss := { k.pss with stopping := true, unloadReq := false }
      beat := { k.beat with startAt := none } }.setPhase .unloading
  else if loaded && (k.pss.unloadReq || (k.pss.swapPending && pend.isSome)) then
    { k with
      pss := { k.pss with stopping := true, unloadReq := false }
      beat := { k.beat with startAt := none } }.setPhase .unloading
  else k

/-- RUNNING begins at its boundary. -/
def Channel.startBeats (ch : Channel) : Channel :=
  match ch.beat.startAt with
  | none => ch
  | some n =>
    if ch.chn.state = .loaded ∧ n ≤ ch.beat.number.toNat then
      { ch with
        chn := { ch.chn with state := .running }
        beat := { ch.beat with startAt := none, tmplStart := ch.beat.number.toNat } }.setPhase .running
    else ch

/-- A requested re-shard starts its permute; live regions are released first (R242, R311). [DEDUCED, log entry 86] -/
def Channel.startPermute (ch : Channel) : Channel :=
  match ch.gxc.requested with
  | none => ch
  | some l =>
    if ch.pss.stopping || ch.pss.stream.isNone || ch.gxc.permuting.isSome then ch
    else
      let k := ch.releaseAll
      { k with gxc := { k.gxc with permuting := some l, requested := none, queued := none } }

/-- The end of an unload; a channel that drains withdraws its windows with its stream (Table 15-5). [DEDUCED, log entry 140] -/
def Channel.endUnload (ch : Channel) (c : ChanId) : Channel :=
  let k := ch.finishUnload c
  if k.domain.st = .draining ∧ k.pss.stream.isNone then { k with pss := { k.pss with withdrawn := true } } else k

/-! ### Counters and cores at a boundary -/

/-- Rolls a table of per-core counts. -/
def rollCounts (f : Nat → CoreCount → CoreCount) (m : SMap CoreCount) : SMap CoreCount :=
  (m.map fun e => (e.1, f e.1 e.2)).filter fun e => e.2 != {}

/-- The counts of the vector engines, and the array's, which are free values for a core that ran tiles. [DESIGN CHOICE, log entry 33] -/
def State.rollBusy (s : State) (c : ChanId) : State :=
  let last (_ : Nat) (k : CoreCount) : CoreCount := { last := k.now }
  let free (n core : Nat) (k : CoreCount) : CoreCount :=
    if k.now = 0 then {} else { last := BitVec.ofNat 32 (Config.freeValue (s.free + n) / 2 ^ (32 * core)) }
  (s.onCh c fun ch => { ch with
    arr := { ch.arr with busy := rollCounts (free 0) ch.arr.busy, feedStall := rollCounts (free 1) ch.arr.feedStall }
    vec := { ch.vec with busy := rollCounts last ch.vec.busy, putadd := rollCounts last ch.vec.putadd } }).tookFree 2

/-- Pending overflow modes take effect (R89). -/
def Channel.ovfApply (ch : Channel) : Channel :=
  { ch with arr := { ch.arr with ovfMode := ch.arr.ovfNext }, vec := { ch.vec with ovfMode := ch.vec.ovfNext } }

/-- Unbound cores go OFF while SPARE_OFF is 1 (R326, R349). -/
def Channel.spareOffs (ch : Channel) : Channel :=
  if !ch.pwr.spareOff then ch
  else ((List.range 136).filter fun p => (ch.lcoreOf p).isNone && !(ch.health p).retest && !ch.claimed p).foldl
    (fun (h : Channel) p => h.onDomain p fun d => if d.st = .active ∨ d.st = .idle then d.askOff else d) ch

/-- A core without an admitted task gates its clocks (R326). -/
def Channel.idleCores (ch : Channel) : Channel :=
  let busy (p : Nat) : Bool := match ch.lcoreOf p with
    | some l => ch.tsk.tasks.any fun t => t.core == l
    | none => false
  ((List.range 136).filter fun p => !busy p && !ch.claimed p).foldl
    (fun (h : Channel) p => h.onDomain p fun d => if d.st = .active then { d with st := .idle } else d) ch

/-! ### The boundary -/

/-- The beat number advances and what is counted per beat starts again; RESUME takes effect (R33, R52). -/
def Channel.beginBeat (ch : Channel) : Channel :=
  let n := ch.beat.number + 1
  { ch with
    beat := { ch.beat with
      number := n, time := BitVec.ofNat 64 (n.toNat * ch.periodClk), raised := [], admitted := false, leadin := false
      paused := ch.beat.paused && !ch.beat.resume, resume := false }
    bdg := { ch.bdg with intake := 0 }
    sql := { ch.sql with fetchedNow := 0 } }

/-- Offers and the alignment of the beat that ends; bit i of `late` is the open urgency of offer i. [DESIGN CHOICE, log entry 200] -/
def Channel.waitOffers (ch : Channel) (late : Nat) : Channel :=
  { ch with
    tsk := { ch.tsk with offers := ch.tsk.offers.zipIdx.map fun e => e.1.wait (late / 2 ^ e.2 % 2 == 1) }
    beat := ch.beat.align }

/-- Returned credits, those of the tasks aborted at this boundary among them, are there for the beat that begins (R49).
 [DEDUCED, log entry 183] -/
def Channel.returnCredits (ch : Channel) : Channel :=
  { ch with tsk := { ch.tsk with credits := (ch.tsk.credits.map fun e => (e.1, e.2.atBeat)).filter fun e => e.2 != {} } }

/-- A full pass of a core is due (R340), so Owl's work is urgent. [DESIGN CHOICE, log entry 201] -/
def Channel.owlPressed (ch : Channel) : Bool :=
  ch.owl.en && ch.owl.storeOk && (List.range 136).any fun p => (ch.lcoreOf p).isSome && ch.passUrgent p

/-- The background work of the device itself (scrub, calibration, wear management, telemetry, Owl) is charged to the background reserve, and
work that has become urgent to the urgent slice (R26, R50, R275, R282, R340). The manual gives this work no energy coefficient and no rate,
so what it charges in a beat, and whether scrub has become urgent, are open. [DESIGN CHOICE, log entry 201] -/
def State.deviceWork (s : State) (c : ChanId) : State :=
  let n := s.free
  if !(s.ch c).running then s
  else (s.onCh c fun ch =>
    let reserve := ch.reserveNow
    let bg := Config.freeValue n % (reserve + 1)
    let late := ch.owlPressed || Config.freeValue (n + 1) % 2 == 1
    let urg := if late then Config.freeValue (n + 2) % (ch.slice + 1) else 0
    { ch with ledg := { ch.ledg with
        bgAdmitted := bg + min urg (reserve - bg), urgentAdmitted := urg, admitted := urg - (reserve - bg) } }).tookFree 3

/-- What the stream, the Badger and Squirrel do at a boundary, in that order. [DEDUCED, log entries 47 and 78] -/
def State.boundaryWork (s : State) (c : ChanId) : State :=
  let s1 := s.onCh c fun ch =>
    let k := ((((ch.bdgApply c).ovfApply.stopAt).startBeats).startPermute).endUnload c
    ((k.applyFences c).bindReturned).deferredFree
  let s2 := ((((s1.spillSelect c).retryMoves c).retryTasks c).retryXfers c).onCh c Channel.walkSwitch
  s2.onCh c fun ch => ((ch.spareOffs.owlBoundary).idleCores.showCores).showFree

/-- A beat boundary. [DEDUCED, log entry 78] -/
def State.boundary (s : State) (c : ChanId) : State :=
  let late := s.freeVal
  let s1 := ((s.tookFree 1).onCh c fun ch => ((ch.waitOffers late).beginBeat).awaitPlanned c).thermalStep c
  let s2 := (((s1.settleAll c).rollBusy c).onCh c fun ch => ch.returnCredits.dropCopies)
  ((s2.ledgBoundary c (s2.ch c).beat.number.toNat).boundaryWork c).deviceWork c

def execBeatBoundary (c : ChanId) (s : State) : Result := if (s.ch c).clocked then .next (s.boundary c) else .next s

/-! ### Within a beat -/

/-- The lead-in window opens (R37). -/
def execLeadinWindowStart (c : ChanId) (s : State) : Result :=
  .next (s.onCh c fun ch =>
    if ch.running && ch.beat.leadinPct != 0 then { ch with beat := { ch.beat with leadin := true } } else ch)

/-- What the edge of BEATREF_IN does to a channel, `offset` clk from its own boundary (domain time less the channel's): beyond ±1 µs it is
ignored (R21, R35). [DEDUCED, log entry 202] -/
def Channel.beatref (ch : Channel) (c : ChanId) (offset : Int) : Channel :=
  if ch.clocked && ch.beat.beatrefEn && offInCapture offset then
    ({ ch with beat := { ch.beat with edgeSeen := true } }).judge c offset
  else ch

/-- The rising edge of BEATREF_IN, which the port die fans out to both channels (R19); each meets it at its own offset. A port die that is
lost fans out nothing, as though the pulse were absent (R21). [DEDUCED, log entries 139 and 202] -/
def execBeatrefEdge (off0 off1 : Int) (s : State) : Result :=
  if s.ptd.failed then .next s else .next ((s.onCh 0 fun ch => ch.beatref 0 off0).onCh 1 fun ch => ch.beatref 1 off1)

end Sys2Proof.Machine
end

