-- ==== Sys2Proof/Machine/Mgmt.lean ====
section
/-! DEFINITION. Management messages: link authentication, time, route updates, adoption, and entry to JOINED (R35, R263, R265 to
R268, R363, R366, R396). -/

namespace Sys2Proof.Machine

/-- A management message is dropped or refused. -/
def Channel.mgmtBad (ch : Channel) (c : ChanId) : Channel := { ch with wrn := { ch.wrn with mgmtBad := true } }.raise c 0x3007

/-! ### Entry to JOINED (R363, R396) -/

/-- State of a channel in a route entry. -/
def RouteEntry.state (e : RouteEntry) (c : Nat) : Nat := if c = 0 then e.state0.toNat else e.state1.toNat

/-- The conditions under which a channel in CALIBRATE enters JOINED. -/
def Channel.mayJoin (ch : Channel) : Bool :=
  ch.chn.state == .calibrate && ch.cfg.hbmReady && ch.cfg.cxlDone && ch.anyLinkUp && ch.cfg.timeRx && ch.cfg.selfRx

/-- The channel enters JOINED with the identity of its SELF entry; FW_SVN follows a newer image; a wake of the channel domain ends.
 [DEDUCED, log entry 124; DESIGN CHOICE, log entry 127] -/
def State.tryJoin (s : State) (c : ChanId) : State :=
  let ch := s.ch c
  if !ch.mayJoin then s
  else
    let id := match ch.wrn.routes.find? fun e => e.2.state c.val == 3 with
      | some e => BitVec.ofNat 14 e.1
      | none => ch.chn.moduleId
    let s1 := (s.onCh c fun k =>
      let k := { k with
        chn := { k.chn with state := .joined, moduleId := id }
        cfg := { k.cfg with joinMs := BitVec.ofNat 16 (s.freeVal % 0xFFFF) } }
      if k.ser.fwSvn.toNat < k.sec.imageSvn.toNat then
        { k with ser := { k.ser with fwSvn := k.sec.imageSvn } }.raise c 0x8007
      else k).tookFree 1
    s1.channelAwake c

/-! ### Link authentication (R366) -/

/-- Each side signs the transcript; the verdict on the peer's signature and chain decides (R366). -/
def execLinkAuth (c : ChanId) (link : LinkId) (verified : Bool) (peerLifecycle : Lifecycle) (peerDomainKey : Option Key)
    (peerInvasive : Bool) (peerStratum : U8) (s : State) : Result :=
  let ch := s.ch c
  let signed := s.emit (.authSign c link)
  if ch.linkSt link ≠ .auth then .next s
  else if ch.authOk verified peerLifecycle peerDomainKey peerInvasive then
    let s1 := signed.onCh c fun k => k.onLink link.val fun x => { x with st := .up, peerStratum := peerStratum }
    .next ((s1.sendLink c link).tryJoin c)
  else .next (signed.linkUnauthenticated c link)

/-! ### Fragments (R265) -/

/-- Bytes of a partial message with those of another fragment. -/
def mergeBytes (got : List (Nat × Byte)) (off : Nat) (l : List Byte) : List (Nat × Byte) :=
  (l.zipIdx).foldl (fun (g : List (Nat × Byte)) e => smIns (off + e.2) e.1 g) got

/-- A fragment that no message of R265 can have. [DEDUCED, log entry 126] -/
def MgmtFrag.bad (f : MgmtFrag) : Bool :=
  decide (524288 < f.total) || decide (f.total < f.offset + f.bytes.length) || decide (4096 < f.bytes.length) || f.bytes.isEmpty

/-- A fragment follows the last one of its message: SEQ ascends (R265). [DEDUCED, log entry 126] -/
def MgmtPartial.follows (m : MgmtPartial) (seq : U16) : Bool := decide (0 < (seq - m.seq).toNat) && decide ((seq - m.seq).toNat < 2 ^ 15)

/-- A fragment arrives, in AUTH only one of mutual authentication (R247): with another TAG it discards the partial message before it; the last
byte completes the message, whose effect is a command of its own. [DEDUCED, log entry 126] -/
def execMgmtFragmentRx (c : ChanId) (link : LinkId) (f : MgmtFrag) (s : State) : Result :=
  let ch := s.ch c
  let st := ch.linkSt link
  if st ≠ .up ∧ ¬ (st = .auth ∧ f.op = 0xC3) then .next s
  else if f.bad then .next (s.onCh c fun k => k.mgmtBad c)
  else
    let old := (ch.link link.val).partMsg
    let same (m : MgmtPartial) : Bool := m.tag == f.tag && m.follows f.seq
    let other := old.any fun m => !same m
    let start : MgmtPartial := { op := f.op, tag := f.tag, seq := f.seq, total := f.total }
    let m := match old with
      | some m => if same m then { m with seq := f.seq } else start
      | none => start
    let got := mergeBytes m.got f.offset f.bytes
    .next (s.onCh c fun k =>
      let k := if other then k.mgmtBad c else k
      k.onLink link.val fun x => { x with partMsg := if m.total ≤ got.length then none else some { m with got := got } })

/-- [DEDUCED, log entry 126] -/
def execMgmtPartialTimeout (c : ChanId) (link : LinkId) (s : State) : Result :=
  if ((s.ch c).link link.val).partMsg.isSome then
    .next (s.onCh c fun k => (k.onLink link.val fun x => { x with partMsg := none }).mgmtBad c)
  else .next s

/-! ### Time (R35, R265) -/

/-- Reference of a channel: the UP link whose peer has the lowest stratum, the lower link on ties; a peer at 0xFF is none. -/
def Channel.timeRef (ch : Channel) : Option LinkId :=
  ((List.finRange 48).filter fun l => ch.linkSt l == .up && (ch.link l.val).peerStratum != 0xFF).foldl (fun best l =>
    match best with
    | none => some l
    | some b => if (ch.link l.val).peerStratum.toNat < (ch.link b.val).peerStratum.toNat then some l else best) none

/-- What a channel says of itself in a TIME message. -/
def Channel.timeMsg (ch : Channel) : TimeMsg where
  stratum := ch.wrn.stratum
  periodUs := BitVec.ofNat 16 ch.beat.periodUs.toNat
  tgen := ch.wrn.tgen
  utcSec := ch.wrn.utcSec
  utcAt := ch.wrn.utcAt

/-- A TIME message as it travels, Table 12-18. -/
def TimeMsg.bytes (m : TimeMsg) (kind : Nat) : List Byte :=
  leBytes 1 kind ++ leBytes 1 m.stratum.toNat ++ leBytes 2 m.periodUs.toNat ++ leBytes 4 m.tgen.toNat ++ leBytes 8 m.t1.toNat
    ++ leBytes 8 m.t2.toNat ++ leBytes 8 m.t3.toNat ++ leBytes 4 m.utcSec.toNat ++ leBytes 4 0 ++ leBytes 8 m.utcAt.toNat
    ++ leBytes 16 0

/-- Sends a TIME message to the peer of a link: 0 REQUEST, 1 RESPONSE. -/
def State.sendTime (s : State) (c : ChanId) (l : LinkId) (kind : Nat) (m : TimeMsg) : State :=
  let k := (s.ch c).link l.val
  s.sendMgmt c (some l) 0xC0 k.peerModule k.peerChannel (m.bytes kind)

/-- Once per millisecond a channel other than the time root asks its reference. -/
def execTimeRequestTimer (c : ChanId) (s : State) : Result :=
  let ch := s.ch c
  if ch.wrn.isRoot ∨ !ch.clocked then .next s
  else match ch.timeRef with
    | some l => .next (s.sendTime c l 0 { ch.timeMsg with t1 := ch.beat.time })
    | none => .next s

/-- A REQUEST arrives; a channel that is not synchronised does not answer. -/
def execTimeRequest (c : ChanId) (link : LinkId) (m : TimeMsg) (s : State) : Result :=
  let ch := s.ch c
  if ch.linkSt link ≠ .up then .next s
  else
    let s1 := s.onCh c fun k => k.onLink link.val fun x => { x with peerStratum := m.stratum }
    if ch.wrn.stratum = 0xFF then .next s1
    else .next (s1.sendTime c link 1 { ch.timeMsg with t1 := m.t1, t2 := ch.beat.time, t3 := ch.beat.time })

/-- Steps the timestamp counter, and the beat number with it. -/
def Channel.stepTime (ch : Channel) (t : U64) : Channel :=
  { ch with beat := { ch.beat with
      time := t, number := BitVec.ofNat 48 (t.toNat / max ch.periodClk 1), offset := 0, errNs := 0, inBand := true } }

/-- Adopts the domain period; one that differs from the loaded stream's, or lies outside 50 to 2,000 µs, is not adopted.
 [DEDUCED, log entry 126] -/
def Channel.adoptPeriod (ch : Channel) (c : ChanId) (p : U16) : Channel :=
  if p.toNat = ch.beat.periodUs.toNat then ch
  else if ch.pss.stream.isSome ∨ p.toNat < 50 ∨ 2000 < p.toNat then ch.mgmtBad c
  else { ch with beat := { ch.beat with periodUs := BitVec.ofNat 11 p.toNat } }

/-- Takes the time of an accepted TIME message: a step when the channel is not RUNNING and this is its first message or a new
generation, and a correction otherwise. `d`: estimated offset from domain time; `t`: the value to step to. -/
def Channel.takeTime (ch : Channel) (c : ChanId) (m : TimeMsg) (stratum : U8) (d : Int) (t : U64) : Channel :=
  let steps := !ch.running && (!ch.cfg.timeRx || decide (ch.wrn.tgen.toNat < m.tgen.toNat))
  let k := { ch.adoptPeriod c m.periodUs with
    wrn := { (ch.adoptPeriod c m.periodUs).wrn with tgen := m.tgen, utcSec := m.utcSec, utcAt := m.utcAt, stratum := stratum }
    cfg := { ch.cfg with timeRx := true } }
  if steps then k.stepTime t else k.judge c d

/-- Offset estimate of a RESPONSE: ((T2 − T1) + (T3 − T4)) ÷ 2, toward zero. [DEDUCED, log entry 125] -/
def timeOffset (m : TimeMsg) (t4 : U64) : Int := Int.tdiv (((m.t2.toNat : Int) - m.t1.toNat) + ((m.t3.toNat : Int) - t4.toNat)) 2

/-- A RESPONSE tells the stratum of its sender; the channel takes its time when the sender is its reference. [DEDUCED, log entry 125] -/
def execTimeResponse (c : ChanId) (link : LinkId) (m : TimeMsg) (t4 : U64) (s : State) : Result :=
  let ch := s.ch c
  if ch.linkSt link ≠ .up then .next s
  else
    let told := s.onCh c fun k => k.onLink link.val fun x => { x with peerStratum := m.stratum }
    if ch.wrn.isRoot ∨ (told.ch c).timeRef ≠ some link then .next told
    else
      let d := timeOffset m t4
      let own : U8 := if m.stratum.toNat + 1 ≤ 0xFE then m.stratum + 1 else 0xFE
      .next ((told.onCh c fun k => k.takeTime c m own d (BitVec.ofInt 64 ((k.beat.time.toNat : Int) + d))).tryJoin c)

/-- An ANNOUNCE makes this channel the time root: signed by the domain key, with a TGEN above its own. -/
def execTimeAnnounce (c : ChanId) (m : TimeMsg) (signer : Option Key) (s : State) : Result :=
  let ch := s.ch c
  if !ch.calibrated then .next s
  else if signer.isNone ∨ signer ≠ ch.sec.settings.domainKey ∨ m.tgen.toNat ≤ ch.wrn.tgen.toNat then
    .next (s.onCh c fun k => k.mgmtBad c)
  else .next ((s.onCh c fun k =>
      let k := k.takeTime c m 0 ((m.t3.toNat : Int) - k.beat.time.toNat) m.t3
      { k with wrn := { k.wrn with isRoot := true } }).tryJoin c)

/-! ### ROUTE_UPDATE and ADOPT (R263, R266, R267) -/

/-- The 16-byte response. -/
def mgmtResponse (code : Nat) (gen : Nat) : List Byte :=
  [1, BitVec.ofNat 8 code, 0, 0] ++ leBytes 4 gen ++ List.replicate 8 0

/-- Answers a management message with one of its OP: from JOINED on along the route table, before it on the link of its arrival
(R266). [DEDUCED, log entry 124] -/
def State.mgmtAnswer (s : State) (c : ChanId) (op : U8) (link : LinkId) (m : BitVec 14) (cc : BitVec 1) (code gen : Nat) : State :=
  s.sendMgmt c (if (s.ch c).joined then none else some link) op m cc (mgmtResponse code gen)

/-- The SELF states of a message, as (index, channel). -/
def selfStates (l : List (BitVec 14 × RouteEntry)) : List (Nat × Nat) :=
  l.flatMap fun e => (if e.2.state 0 = 3 then [(e.1.toNat, 0)] else []) ++ (if e.2.state 1 = 3 then [(e.1.toNat, 1)] else [])

/-- Result of a ROUTE_UPDATE: the first check that fails. [DEDUCED, log entry 124] -/
def Channel.routeResult (ch : Channel) (c : ChanId) (m : RouteUpdateMsg) : Nat :=
  let selfs := selfStates m.entries
  if !m.formatOk then 4
  else if m.signer.isNone || m.signer != ch.sec.settings.domainKey then 1
  else if m.gen.toNat ≤ ch.wrn.gen.toNat then 2
  else if ch.joined && (selfs.any (fun e => e != (ch.chn.moduleId.toNat, c.val)) || decide (1 < selfs.length)) then 3
  else 0

/-- All entries are applied at once; the links that carry operations now are eligible. [DEDUCED, log entry 124] -/
def Channel.applyRoutes (ch : Channel) (c : ChanId) (m : RouteUpdateMsg) : Channel :=
  let one := match selfStates m.entries with
    | [e] => e.2 == c.val
    | _ => false
  { ch with
    wrn := { ch.wrn with
      routes := m.entries.foldl (fun (t : SMap RouteEntry) e => smSet {} t e.1.toNat e.2) ch.wrn.routes
      gen := m.gen
      links := ch.wrn.links.map fun e => (e.1, { e.2 with eligible := e.2.st == .up || e.2.st == .retrain }) }
    cfg := { ch.cfg with selfRx := ch.cfg.selfRx || one } }

/-- Queued packets toward channels that have departed leave their queues; their requests complete GONE. [DEDUCED, log entry 123] -/
def State.purgeQueues (s : State) (c : ChanId) : State :=
  (List.finRange 48).foldl (fun (r : State) l =>
    let ch := r.ch c
    let gone (p : Packet) : Bool := ch.routeState p.dest.1 p.dest.2 == 2
    let q := (ch.link l.val).queue
    if q.any gone then
      (q.filter gone).foldl (fun (t : State) p => t.answer c p .gone [])
        (r.onCh c fun k => k.onLink l.val fun x => { x with queue := q.filter fun p => !gone p })
    else r) s

/-- [DEDUCED, log entry 123] -/
def execRouteUpdate (c : ChanId) (m : RouteUpdateMsg) (s : State) : Result :=
  let ch := s.ch c
  if !ch.calibrated then .next s
  else
    let code := ch.routeResult c m
    if code ≠ 0 then .next ((s.onCh c fun k => k.mgmtBad c).mgmtAnswer c 0xC1 m.link m.srcModule m.srcChannel code m.gen.toNat)
    else
      let s1 := ((s.onCh c fun k => k.applyRoutes c m).purgeQueues c).departHeld c
      let s2 := (s1.retryTasks c).retryXfers c
      .next ((s2.mgmtAnswer c 0xC1 m.link m.srcModule m.srcChannel 0 m.gen.toNat).tryJoin c)

/-- Result of an ADOPT. -/
def Channel.adoptResult (ch : Channel) (m : AdoptMsg) : Nat :=
  if !m.formatOk then 4
  else if m.signer.isNone || m.signer != ch.sec.settings.domainKey then 1
  else if m.newInc != (ch.route m.failedId.toNat).inc + 1 then 2
  else if m.standbyId != ch.chn.moduleId || ch.chn.state != .joined then 3
  else 0

/-- A spare adopts an identity; what MR5 records of it is not stated in full, and is a free value. [DESIGN CHOICE, log entry 37] -/
def execAdopt (c : ChanId) (m : AdoptMsg) (s : State) : Result :=
  let ch := s.ch c
  if !ch.calibrated then .next s
  else
    let code := ch.adoptResult m
    if code ≠ 0 then .next ((s.onCh c fun k => k.mgmtBad c).mgmtAnswer c 0xC2 m.link m.srcModule m.srcChannel code m.newInc.toNat)
    else
      let s1 := (s.onCh c fun k =>
        { k with
          chn := { k.chn with moduleId := m.failedId }
          wrn := { k.wrn with incarnation := m.newInc }
          sec := k.sec.extend 5 (BitVec.ofNat 512 s.freeVal) }.raise c 0x3008).tookFree 1
      .next (s1.mgmtAnswer c 0xC2 m.link m.srcModule m.srcChannel 0 m.newInc.toNat)

end Sys2Proof.Machine
end

