-- ==== Sys2Proof/Machine/Parse.lean ====
section
/-! DEFINITION. The structure stream as bytes: header, section table, sections and their entries (R294 to R300, R185). A read beyond a
section gives zeros; what must lie inside is checked by `consistent`. -/

namespace Sys2Proof.Machine

/-! ### Fields -/

/-- The n bytes at an offset. -/
def rdb (b : List Byte) (off n : Nat) : List Byte := (b.drop off).take n
/-- The number of n bytes at an offset. -/
def rd (b : List Byte) (off n : Nat) : Nat := leNat (rdb b off n)
def rdv (w : Nat) (b : List Byte) (off n : Nat) : BitVec w := BitVec.ofNat w (rd b off n)
/-- n entries of k bytes from an offset. -/
def entriesAt (b : List Byte) (off k n : Nat) : List (List Byte) := (List.range n).map fun i => rdb b (off + k * i) k
def round8 (n : Nat) : Nat := (n + 7) / 8 * 8

/-! ### Section types (Table 14-2) -/

def tCoreMap : Nat := 1
def tSramPart : Nat := 2
def tNocRoute : Nat := 3
def tVecProg : Nat := 4
def tTaskClass : Nat := 5
def tBeatPlan : Nat := 6
def tWindow : Nat := 7
def tEnergy : Nat := 8
def tActPolicy : Nat := 9
def tUpdPlan : Nat := 10
def tGxcPlan : Nat := 11
def tKvPools : Nat := 12
def tAltLayout : Nat := 13
def tCheck : Nat := 14
def requiredTypes : List Nat := [1, 2, 3, 5, 6, 7, 8, 14]
def variantTypes : List Nat := [2, 3, 6, 7, 9, 11, 12]

/-- A section: its index in the table, its entry of the table, and what lies in it. -/
structure Section where
  idx : Nat := 0
  kind : Nat := 0
  flags : Nat := 0
  offset : Nat := 0
  length : Nat := 0
  role : Nat := 0
  zero : Nat := 0
  count : Nat := 0
  body : List Byte := []
  deriving DecidableEq, Repr

/-- LAYOUT of a section. -/
def Section.layout (x : Section) : Nat := x.flags % 256

/-- The section table (R295). -/
def parseSections (f : List Byte) : List Section :=
  (List.range (rd f 0x16 2)).map fun i =>
    let e := rdb f (rd f 0x70 8 + 16 * i) 16
    let off := rd e 4 8
    let len := rd e 12 4
    { idx := i, kind := rd e 0 2, flags := rd e 2 2, offset := off, length := len, role := rd f off 2, zero := rd f (off + 2) 2
      count := rd f (off + 4) 4, body := rdb f (off + 8) (len - 8) }

/-! ### Entries -/

/-- Role table entry: module, channel, role (R297). -/
def parseRole (e : List Byte) : Nat × Nat × Nat := let v := rd e 0 4; (v % 2 ^ 14, v / 2 ^ 14 % 2, v / 2 ^ 16)

/-- Class table entry (Table 14-3). -/
def parseClass (e : List Byte) : TaskClass where
  exec := rdv 8 e 0 1
  eclass := rdv 8 e 1 1
  prog := rdv 16 e 2 2
  tailClk := rdv 32 e 4 4
  attn := rdv 16 e 8 2
  pageList := rdv 16 e 10 2
  liveRegs := rdv 32 e 12 4
  argKinds := rdv 128 e 16 16

/-- Attention record (Table 14-4). -/
def parseAttn (e : List Byte) : AttnRec where
  dHead := rdv 16 e 0 2
  hQ := rdv 16 e 2 2
  hKv := rdv 16 e 4 2
  causal := rdv 8 e 6 1
  qFmt := rdv 4 e 7 1
  kFmt := BitVec.ofNat 4 (rd e 7 1 / 16)
  vFmt := rdv 4 e 8 1
  pRnd := rd e 8 1 / 16 % 2 == 1
  seqGroup := rdv 16 e 0x0A 2
  cSm := rdv 32 e 0x0C 4
  tidP := rdv 32 e 0x10 4
  scaleS := rdv 16 e 0x14 2
  scalePv := rdv 16 e 0x16 2
  scaleL := rdv 16 e 0x18 2
  scaleDq := rdv 16 e 0x1A 2
  scaleDk := rdv 16 e 0x1C 2
  scaleDv := rdv 16 e 0x1E 2
  csV := rdv 32 e 0x20 4
  outFmt := rdv 4 e 0x24 1
  gradFmt := BitVec.ofNat 4 (rd e 0x24 1 / 16)
  transitPool := rdv 8 e 0x25 1
  layer := rdv 16 e 0x26 2

/-- Coarse scales A and B of an entry of the coarse-scale table. -/
def scalePair (e : List Byte) : Nat × Nat := (rd e 0 4, rd e 4 4)
/-- What the channel keeps of it: RNE32(CS_A × CS_B) and FX_REF (R57, R298). -/
def parseScale (e : List Byte) : ScaleEntry where
  product := BitVec.ofNat 32 (fpMul fpF32 false (scalePair e).1 (scalePair e).2)
  fxRef := rdv 12 e 8 2

/-- Task descriptor (Table 02-3). -/
def parseTask (e : List Byte) : TaskDesc where
  cls := rdv 16 e 0 2
  kind := rdv 8 e 2 1
  flags := rdv 8 e 3 1
  planSeq := rdv 32 e 4 4
  depCtr := rdv 16 e 8 2
  depTarget := rdv 16 e 0x0A 2
  creditQ := rdv 8 e 0x0C 1
  patience := rdv 8 e 0x0D 1
  order := rdv 8 e 0x0E 1
  rsvd := rdv 8 e 0x0F 1
  arg0 := rdv 64 e 0x10 8
  arg1 := rdv 64 e 0x18 8
  arg2 := rdv 64 e 0x20 8
  arg3 := rdv 64 e 0x28 8
  doneSig := rdv 64 e 0x30 8
  outTag := rdv 32 e 0x38 4
  plist := rdv 32 e 0x3C 4

/-- Page list entry (Table 09-18). -/
def parsePage (e : List Byte) : PageEntry where
  region := rdv 24 e 0 3
  flags := rdv 8 e 3 1
  page := rdv 32 e 4 4
  slot := rdv 16 e 8 2
  fmt := rdv 8 e 0x0A 1
  rsvd := rdv 40 e 0x0B 5

/-- SRAM_PART entry. -/
def parsePart (e : List Byte) : SramPart where
  core := rdv 8 e 0 1
  kind := rdv 8 e 1 1
  base := rdv 32 e 4 4
  length := rdv 32 e 8 4

/-- NOC_ROUTE entry: its fields packed in the order the manual names them. [DEDUCED, log entry 38] -/
def parseRoute (e : List Byte) : NocRoute where
  route := rdv 16 e 0 2
  core := rdv 8 e 2 1
  cls := rdv 8 e 3 1
  dests := rdv 128 e 4 16

/-- WINDOW entry of KIND 0. -/
def parseWindow (i : Nat) (e : List Byte) : Window where
  perm := rdv 8 e 1 1
  first := rdv 14 e 4 2
  last := rdv 14 e 6 2
  base := rd e 8 8 % 2 ^ 49
  length := rd e 16 8 % 2 ^ 49
  index := i

/-- Members of a sequence group. -/
def memberBytes (body e : List Byte) : List (List Byte) := entriesAt body (rd e 8 8) 16 (rd e 4 4)
def parseMember (m : List Byte) : SeqMember where
  module := rdv 14 m 0 2
  channel := BitVec.ofNat 1 (rd m 0 2 / 2 ^ 14)
  firstTok := rdv 32 m 4 4
  lastTok := rdv 32 m 8 4

/-- ENERGY entry (Table 15-1) with its base coefficient under the unit costs, in pJ (R316). -/
def parseEnergy (costs : List Nat) (e : List Byte) : EnergyEntry :=
  let counts := (List.range 8).map fun u => rdv 32 e (8 + 4 * u) 4
  let pj := ((counts.zip costs).map fun x => x.1.toNat * x.2).foldl (· + ·) (rd e 4 4 * 1000)
  { eclass := rdv 8 e 0 1, kind := rdv 8 e 1 1, fixedNj := rdv 32 e 4 4, counts := counts, base := (pj + 999) / 1000 }

/-- ACT_POLICY entry (Table 14-12). -/
def parseAct (e : List Byte) : ActEntry where
  layer := rdv 16 e 0 2
  policy := rdv 8 e 2 1
  offLead := rdv 8 e 3 1
  offBase := rdv 64 e 8 8
  offLen := rdv 64 e 16 8
  stageBase := rdv 64 e 24 8

/-- A schedule curve. -/
def parseCurve (body e : List Byte) : List (U32 × U32) :=
  if rd e 0x14 4 = 0 then []
  else (entriesAt body (rd e 0x14 4) 8 (rd e 0x18 2)).map fun p => (rdv 32 p 0 4, rdv 32 p 4 4)

/-- Parameter group. -/
def parseGroup (body e : List Byte) : UpdGroup where
  beta1 := rdv 32 e 0 4
  beta2 := rdv 32 e 4 4
  eps1 := rdv 32 e 8 4
  clipD := rdv 32 e 12 4
  wd := rdv 32 e 16 4
  curve := parseCurve body e

/-- Tensor entry: HDR_BASE and the state header of Table 10-4. -/
def parseTensor (e : List Byte) : TensorHdr where
  hdrBase := rdv 64 e 0 8
  tensorId := rdv 32 e 8 4
  momId := rdv 32 e 12 4
  rows := rdv 32 e 16 4
  cols := rdv 32 e 20 4
  tileR := rdv 16 e 24 2
  tileC := rdv 16 e 26 2
  group := rdv 8 e 28 1
  kL := rdv 8 e 29 1
  wBase := rdv 40 e 32 5
  mBase := rdv 40 e 40 5
  rBase := rdv 40 e 48 5
  cBase := rdv 40 e 56 5

/-- GXC group entry with its contributor list. -/
def parseGxcGroup (body e : List Byte) : GxcGroup :=
  let g := rd e 0 2
  let k := rd e 2 1
  { g := g, k := k
    members := (entriesAt body (rd e 4 4) 4 (g * k)).map fun m => (rdv 14 m 0 4, BitVec.ofNat 1 (rd m 0 4 / 2 ^ 14)) }

/-- GXC bucket entry. -/
def parseBucket (e : List Byte) : GxcBucketPlan where
  group := rdv 16 e 0 2
  ng := rdv 32 e 4 4
  tid := rdv 32 e 8 4
  hSett := rd e 12 1 % 16
  hDom := rd e 12 1 / 16
  rank := rdv 8 e 13 1
  layerFirst := rdv 16 e 14 2
  gradBase := rdv 64 e 16 8
  outBase := rdv 64 e 24 8

/-- KV pool entry. -/
def parsePool (e : List Byte) : Pool where
  pool := rdv 8 e 0 1
  tier := rdv 8 e 1 1
  shared := rd e 2 1 != 0
  frameKib := rdv 8 e 3 1
  kDecl := rdv 4 e 4 1
  vDecl := BitVec.ofNat 4 (rd e 4 1 / 16)
  back := rdv 8 e 5 1
  first := rd e 8 8
  count := rd e 16 8
  base := rdv 64 e 24 8
  lowWm := rdv 32 e 32 4
  highWm := rdv 32 e 36 4
  transitRegion := rdv 24 e 40 4

/-- ALT_LAYOUT entry and its moves; the manual gives the fields of the entry and no offsets, which are taken here as the id in byte 0x00
and, from 0x08, base and length of 64 bits and offset and count of 32. [DEDUCED, log entry 38] -/
def parseAlt (body e : List Byte) : AltLayout where
  layout := rdv 8 e 0 1
  scratchBase := rd e 8 8
  scratchLen := rd e 16 8
  moves := (entriesAt body (rd e 24 4) 24 (rd e 28 4)).map fun m =>
    { srcRole := rdv 16 m 0 2, dstRole := rdv 16 m 2 2, src := rd m 4 5, dst := rd m 9 5, length := rd m 14 4 }

/-! ### BEAT_PLAN (R299) -/

/-- Offsets within the body of the page-list table, after the KEEP_K list, and of the run table. -/
def planLists (b : List Byte) : Nat := 0x208 + 8 + 8 * rd b 0x208 4
def planRuns (b : List Byte) : Nat := planLists b + 8 + 8 * rd b (planLists b) 4

/-- [DEDUCED, log entry 38] -/
def parseKeep (b : List Byte) : List KeepK :=
  (entriesAt b 0x210 8 (rd b 0x208 4)).map fun e => { layer := rdv 16 e 0 2, block := rdv 32 e 2 4 }

/-- Page lists, list 0 first (R185). -/
def parsePageLists (b : List Byte) : List (List PageEntry) :=
  (entriesAt b (planLists b + 8) 8 (rd b (planLists b) 4)).map fun o =>
    let at_ := rd o 0 8
    (entriesAt b (at_ + 8) 16 (rd b at_ 2)).map parsePage

def runBytes (b : List Byte) (n : Nat) : List (List Byte) := entriesAt b (planRuns b) 16 n

def parseRun (b e : List Byte) : PlanRun where
  tmplBeat := rdv 32 e 0 4
  core := rdv 8 e 4 1
  lookahead := rd e 5 1 % 2 == 1
  descs := (entriesAt b (rd e 8 4) 64 (rd e 12 4)).map parseTask

/-! ### TASK_CLASS, UPD_PLAN and GXC_PLAN -/

/-- Class table, coarse-scale table and attention records of a TASK_CLASS body (R298). -/
def classBytes (x : Section) : List (List Byte) := entriesAt x.body 0 32 x.count
def scaleBytes (x : Section) : List (List Byte) := entriesAt x.body (32 * x.count + 8) 16 (rd x.body (32 * x.count) 4)
def attnAt (x : Section) : Nat := 32 * x.count + 8 + 16 * rd x.body (32 * x.count) 4
def attnBytes (x : Section) : List (List Byte) := entriesAt x.body (attnAt x + 8) 64 (rd x.body (attnAt x) 4)

/-- Group and tensor entries of an UPD_PLAN body. -/
def updGroupBytes (b : List Byte) : List (List Byte) := entriesAt b 32 32 (rd b 0 1)
def updTensorBytes (b : List Byte) : List (List Byte) := entriesAt b (32 + 32 * rd b 0 1) 72 (rd b 4 4)

/-- Group and bucket entries of a GXC_PLAN body: the buckets follow the contributor lists, on an 8-byte boundary (R300). -/
def gxcGroupBytes (b : List Byte) : List (List Byte) := entriesAt b 48 16 (rd b 0 2)
/-- [DEDUCED, log entry 147] -/
def gxcBucketsAt (b : List Byte) : Nat :=
  round8 ((gxcGroupBytes b).foldl (fun m e => max m (rd e 4 4 + 4 * rd e 0 2 * rd e 2 1)) (48 + 16 * rd b 0 2))
def gxcBucketBytes (b : List Byte) : List (List Byte) := entriesAt b (gxcBucketsAt b) 32 (rd b 2 2)

def parseGxc (b : List Byte) : GxcPlan where
  jobChannels := rdv 32 b 4 4
  rootModule := rdv 14 b 8 4
  rootChannel := BitVec.ofNat 1 (rd b 8 4 / 2 ^ 14)
  rootCore := BitVec.ofNat 7 (rd b 8 4 / 2 ^ 15)
  retainBase := rdv 64 b 16 8
  retainLen := rdv 64 b 24 8
  scratchBase := rdv 64 b 32 8
  groups := (gxcGroupBytes b).map (parseGxcGroup b)
  buckets := (gxcBucketBytes b).map parseBucket

/-! ### ENTRIES against LENGTH (Table 14-5, SECTION) -/

def consistent (x : Section) : Bool :=
  let b := x.body
  let n := x.count
  let len := b.length
  let inside (off k m : Nat) : Bool := decide (off + k * m ≤ len)
  match x.kind with
  | 1 => len == 4 * n
  | 2 => len == 16 * n
  | 3 => len == 32 * n
  | 4 => inside 0 8 n
  | 5 => inside (32 * n) 8 1 && inside (attnAt x) 8 1 && len == attnAt x + 8 + 64 * rd b (attnAt x) 4
  | 6 => inside 0x208 8 1 && inside (planLists b) 8 1 && inside (planRuns b) 16 n
      && ((runBytes b n).all fun e => inside (rd e 8 4) 64 (rd e 12 4))
      && (entriesAt b (planLists b + 8) 8 (rd b (planLists b) 4)).all fun o =>
        inside (rd o 0 8) 8 1 && inside (rd o 0 8 + 8) 16 (rd b (rd o 0 8) 2)
  | 7 => inside 0 32 n && (entriesAt b 0 32 n).all fun e => rd e 0 1 != 1 || inside (rd e 8 8) 16 (rd e 4 4)
  | 8 => len == 48 * n
  | 9 => len == 16 + 32 * n
  | 10 => inside 0 32 1 && n == rd b 0 1 && inside (32 + 32 * n) 72 (rd b 4 4)
      && (updGroupBytes b).all fun e => rd e 0x14 4 == 0 || inside (rd e 0x14 4) 8 (rd e 0x18 2)
  | 11 => inside 0 48 1 && n == rd b 0 2 && inside 48 16 n && inside (gxcBucketsAt b) 32 (rd b 2 2)
  | 12 => len == 16 + 48 * n
  | 13 => inside 0 32 n && (entriesAt b 0 32 n).all fun e => inside (rd e 24 4) 24 (rd e 28 4)
  | _ => len == 64 * n && n == 1

end Sys2Proof.Machine
end

