-- ==== Sys2Proof/Machine/Stream.lean ====
section
/-! DEFINITION. Loading a structure stream: the checks of Table 14-5 in ascending order of their codes, what the channel keeps, and the
commands of PSS_CTRL (R301 to R306, R309, R310, R152, R173, R199 to R202, R209, R219, R220, R225, R280, R318). -/

namespace Sys2Proof.Machine

/-- A failure: code, section table index, DETAIL. -/
abbrev LoadFail := Nat × Nat × Nat

/-- A failure of a header check. [DEDUCED, log entry 143] -/
def headFail (bad : Bool) (code off : Nat) : Option LoadFail := if bad then some (code, 0xFFF, off) else none

/-- The first entry of a section for which p holds, as a failure. [DEDUCED, log entry 143] -/
def entryFail {α : Type} (code : Nat) (x : Section) (l : List α) (p : α → Bool) : Option LoadFail :=
  (l.findIdx? p).map fun i => (code, x.idx, i)

def firstFail (l : List (Option LoadFail)) : Option LoadFail := l.findSome? id

/-! ### Header (R294, R301) -/

/-- Reserved header bits: byte offset and mask. -/
def hdrReserved : List (Nat × Nat) :=
  [(6, 0xFE), (7, 0xFF), (0x13, 0xFC)] ++ (List.range 4).map (fun i => (0x6C + i, 0xFF)) ++ (List.range 0x78).map fun i => (0x88 + i, 0xFF)

/-- CHN_ID.SIL_REV and the PART of this device (Table 01-7). -/
def silRev : Nat := 1
def partId : Nat := 0x2096

def hdrSigned (h : List Byte) : Bool := rd h 6 1 % 2 == 1
def hdrTotal (h : List Byte) : Nat := rd h 8 8

/-- Checks MAGIC to LENGTH. [DEDUCED, log entry 141] -/
def headerFail (c : ChanId) (len : Nat) (h : List Byte) : Option LoadFail :=
  let sigOff := rd h 0x60 8
  let sigLen := rd h 0x68 4
  firstFail (
    [ headFail (rd h 0 4 != 0x53534650) 4 0
    , headFail (rd h 5 1 != 1) 5 4 ]
    ++ hdrReserved.map (fun e => headFail ((rd h e.1 1 &&& e.2) != 0) 5 e.1)
    ++ [ headFail (rd h 0x10 2 != partId) 6 0x10
       , headFail (decide (silRev < rd h 0x12 1)) 6 0x12
       , headFail (rd h 0x13 1 / 2 ^ c.val % 2 == 0) 6 0x13
       , headFail (decide (hdrTotal h < 512) || decide (2 ^ 30 < hdrTotal h) || hdrTotal h != len) 7 8
       , headFail (hdrSigned h && sigLen != 4627) 7 0x68
       , headFail (hdrSigned h && (sigOff % 64 != 0 || sigOff + sigLen != hdrTotal h)) 7 0x60
       , headFail (!hdrSigned h && (sigOff != 0 || sigLen != 0)) 7 0x60 ])

/-- DIGEST of the header, and SHA3-512 of the bytes it covers with its own bytes taken as zero. -/
def hdrDigest (f : List Byte) : U512 := rdv 512 f 0x20 64
def fileEnd (f : List Byte) : Nat := if hdrSigned f then rd f 0x60 8 else hdrTotal f
def fileDigest (f : List Byte) : U512 := sha3 (f.take 0x20 ++ List.replicate 64 0 ++ (f.take (fileEnd f)).drop 0x60)

/-! ### Sections and roles (R295 to R297) -/

def overlap (a n b m : Nat) : Bool := decide (a < b + m) && decide (b < a + n)

/-- Whether a section is malformed by itself. -/
def sectionBad (f : List Byte) (x : Section) : Bool :=
  decide (x.kind < 1) || decide (14 < x.kind) || decide (255 < x.flags) || x.offset % 64 != 0 || decide (x.length < 8)
    || decide (fileEnd f < x.offset + x.length) || (x.flags != 0 && !variantTypes.contains x.kind) || x.zero != 0 || !consistent x

/-- Whether two sections cannot stand beside each other. -/
def sectionClash (a b : Section) : Bool :=
  (a.kind == b.kind && a.layout == b.layout && a.role == b.role) || overlap a.offset a.length b.offset b.length

def sectionsFail (f : List Byte) (l : List Section) : Option LoadFail :=
  let n := rd f 0x16 2
  let at_ := rd f 0x70 8
  firstFail (
    headFail (n == 0 || decide (4096 < n) || at_ % 64 != 0 || decide (at_ < 256) || decide (fileEnd f < at_ + 16 * n)) 0xB 0x70
    :: l.map fun x =>
      if sectionBad f x || overlap x.offset x.length at_ (16 * n) || decide (x.offset < 256)
          || (l.take x.idx).any (sectionClash x) then some (0xB, x.idx, 0) else none)

/-- The role table. -/
def roleTable (l : List Section) : Option Section := l.find? fun x => x.kind == tCoreMap && x.role == 0xFFFF

def roleRows (x : Section) : List (Nat × Nat × Nat) := (entriesAt x.body 0 4 x.count).map parseRole

/-- Role of a channel. -/
def roleOf (rows : List (Nat × Nat × Nat)) (m c : Nat) : Option Nat :=
  (rows.find? fun r => r.1 != 0x3FFF && r.1 == m && r.2.1 == c).map fun r => r.2.2

/-- Sections that apply to a role; the role table applies to none. -/
def mine (l : List Section) (role : Nat) : List Section :=
  l.filter fun x => (x.role == 0xFFFF && x.kind != tCoreMap) || (x.role == role && role != 0xFFFF)

/-- A section of the channel's role beside one for every role (R295). -/
def roleClash (l : List Section) (role : Nat) : Option LoadFail :=
  (l.find? fun x => x.role == role && role != 0xFFFF && x.kind != tCoreMap
    && l.any fun y => y.role == 0xFFFF && y.kind == x.kind && y.layout == x.layout).map fun x => (0xB, x.idx, 0)

/-- Key by which the role table is sorted. -/
def roleKey (r : Nat × Nat × Nat) : Nat := r.1 * 2 + r.2.1

/-- [DEDUCED, log entry 143] -/
def roleFail (f : List Byte) (l : List Section) (m c : Nat) : Option LoadFail :=
  match roleTable l with
  | none => some (0xC, 0xFFF, 0)
  | some t =>
    let rows := roleRows t
    let pairs := rows.zip (rows.drop 1)
    let role := (roleOf rows m c).getD 0xFFFF
    firstFail [
      entryFail 0xC t rows fun r => r.1 != 0x3FFF && decide (rd f 0x14 2 ≤ r.2.2),
      (pairs.findIdx? fun p => decide (roleKey p.2 < roleKey p.1) || (roleKey p.1 == roleKey p.2 && p.1.1 != 0x3FFF)).map
        fun i => (0xC, t.idx, i + 1),
      if (roleOf rows m c).isNone then some (0xC, t.idx, 0) else none,
      if requiredTypes.any fun k =>
          !((mine l role).any fun x => x.kind == k && x.layout == 0)
            && l.any fun x => x.kind == k && !(k == tCoreMap && x.role == 0xFFFF)
        then some (0xC, 0xFFF, 0) else none]

/-! ### The stream as the channel keeps it -/

/-- The section of a type that a layout uses: its own, or that of layout 0 (R296). -/
def sect (l : List Section) (layout kind : Nat) : Option Section :=
  match l.find? fun x => x.kind == kind && x.layout == layout with
  | some x => some x
  | none => l.find? fun x => x.kind == kind && x.layout == 0

def bodyOf (l : List Section) (layout kind : Nat) : List Byte := ((sect l layout kind).map (·.body)).getD []
def countOf (l : List Section) (layout kind : Nat) : Nat := ((sect l layout kind).map (·.count)).getD 0

def windowBytes (x : Section) : List (List Byte) := entriesAt x.body 0 32 x.count
def ofKind (k : Nat) (l : List (List Byte)) : List (Nat × List Byte) := (l.zipIdx.filter fun e => rd e.1 0 1 == k).map fun e => (e.2, e.1)

/-- A layout of the stream. -/
def parseLayout (l : List Section) (id : Nat) : LayoutData :=
  let bp := bodyOf l id tBeatPlan
  let wb := entriesAt (bodyOf l id tWindow) 0 32 (countOf l id tWindow)
  let spa := (ofKind 2 wb).head?
  let kv := bodyOf l id tKvPools
  let act := bodyOf l id tActPolicy
  { layout := BitVec.ofNat 8 id
    parts := (entriesAt (bodyOf l id tSramPart) 0 16 (countOf l id tSramPart)).map parsePart
    routes := (entriesAt (bodyOf l id tNocRoute) 0 32 (countOf l id tNocRoute)).map parseRoute
    periodUs := rdv 16 bp 0 2
    leadinPct := rdv 8 bp 2 1
    templateBeats := rd bp 4 4
    credits := (List.range 256).map fun q => rdv 16 bp (8 + 2 * q) 2
    keepK := parseKeep bp
    pageLists := parsePageLists bp
    runs := (runBytes bp (countOf l id tBeatPlan)).map (parseRun bp)
    windows := (ofKind 0 wb).map fun e => parseWindow e.1 e.2
    seqGroups := (ofKind 1 wb).map fun e => (e.1, (memberBytes (bodyOf l id tWindow) e.2).map parseMember)
    spaBase := (spa.map fun e => rd e.2 8 8).getD 0
    spaLen := (spa.map fun e => rd e.2 16 8).getD 0
    actPeak := rd act 0 8
    acts := (entriesAt act 16 32 (countOf l id tActPolicy)).map parseAct
    gxc := (sect l id tGxcPlan).map fun x => parseGxc x.body
    regionBase := rd kv 0 8
    regions := rd kv 8 4
    pools := (entriesAt kv 16 48 (countOf l id tKvPools)).map parsePool }

/-- Layout ids other than 0 that have sections or an entry of ALT_LAYOUT. -/
def layoutIds (l : List Section) : List Nat :=
  let alts := (entriesAt (bodyOf l 0 tAltLayout) 0 32 (countOf l 0 tAltLayout)).map fun e => rd e 0 1
  (alts ++ l.map (·.layout)).foldl (fun a i => if i = 0 then a else insertNat i a) []

/-- Unit costs of a channel, in pJ: the calibrated ones, or the typical values of Table 15-2 (R398). -/
def typicalUnits : List Nat := [1160, 1010, 870, 310, 28, 23400, 36700, 48000]
def Serial.calSlot (x : Serial) : Option CalSlot :=
  if x.calA.valid && x.calB.valid then (if x.calA.seq.toNat < x.calB.seq.toNat then some x.calB else some x.calA)
  else if x.calA.valid then some x.calA
  else if x.calB.valid then some x.calB
  else none
def Channel.unitCosts (ch : Channel) : List Nat :=
  match ch.ser.calSlot with
  | some k => if k.units.isEmpty then typicalUnits else k.units
  | none => typicalUnits

/-- The stream of a channel's role. -/
def parseStream (f : List Byte) (role : Nat) (costs : List Nat) (l : List Section) : Stream :=
  let upd := bodyOf l 0 tUpdPlan
  let alt := bodyOf l 0 tAltLayout
  let alts := (entriesAt alt 0 32 (countOf l 0 tAltLayout)).map (parseAlt alt)
  { version := rdv 16 f 4 2
    role := BitVec.ofNat 16 role
    layouts := alts.length
    sections := rdv 16 f 0x16 2
    seed := rdv 64 f 0x18 8
    digest := hdrDigest f
    jobId := rdv 128 f 0x78 16
    clusters := (entriesAt (bodyOf l 0 tCoreMap) 0 4 128).map fun e => rdv 8 e 0 1
    progs := countOf l 0 tVecProg
    classes := ((sect l 0 tTaskClass).map fun x => (classBytes x).map parseClass).getD []
    scales := ((sect l 0 tTaskClass).map fun x => (scaleBytes x).map parseScale).getD []
    attns := ((sect l 0 tTaskClass).map fun x => (attnBytes x).map parseAttn).getD []
    energy := (entriesAt (bodyOf l 0 tEnergy) 0 48 (countOf l 0 tEnergy)).map (parseEnergy costs)
    paramBase := rd upd 8 8
    paramLen := rd upd 16 8
    journalBase := rd upd 24 8
    groups := (updGroupBytes upd).map (parseGroup upd)
    tensors := (updTensorBytes upd).map parseTensor
    alts := alts
    variants := (0 :: layoutIds l).map (parseLayout l) }

/-! ### Ranges of values -/

def posNormal (x : U32) : Bool := decide (0x00800000 ≤ x.toNat) && decide (x.toNat < 0x7F800000)
/-- 0 ≤ x < 1, −0 included. -/
def unitRange (x : U32) : Bool := decide (x.toNat < 0x3F800000) || x == 0x80000000
/-- 0 ≤ x and finite. -/
def nonNegFinite (x : U32) : Bool := decide (x.toNat < 0x7F800000) || x == 0x80000000

/-- A named region of the channel window: base and size (Table 12-2). -/
def regionsOfWindow : List (Nat × Nat) := [(0, hbmSize), (cxlBase, 2 ^ 42), (sramBase, 136 * 2 ^ 22), (csrBase, 2 ^ 24)]
/-- A range that runs over the edge of a region. [DEDUCED, log entry 148] -/
def crosses (a n : Nat) : Bool :=
  regionsOfWindow.any fun r => overlap a n r.1 r.2 && !(decide (r.1 ≤ a) && decide (a + n ≤ r.1 + r.2))

/-! ### The content checks, MISSING to ENERGY -/

/-- What the checks look at. -/
structure LoadCtx where
  ch : Channel
  file : List Byte
  all : List Section
  own : List Section
  st : Stream

/-- Sections of a type that apply to the role, of every layout, with the layout they stand in. -/
def LoadCtx.each (x : LoadCtx) (kind : Nat) : List (Section × LayoutData) :=
  (x.own.filter fun y => y.kind == kind).map fun y => (y, parseLayout x.own y.layout)

/-- The channel as it would stand with the stream and a layout. -/
def LoadCtx.chan (x : LoadCtx) (l : LayoutData) : Channel := { x.ch with pss := { x.ch.pss with stream := some x.st, layout := some l } }

/-- A required type absent, or a section absent that another refers to: a class names a program, an attention record a transit pool, a
section an alternate layout. -/
def LoadCtx.missing (x : LoadCtx) : Option LoadFail :=
  let has (k : Nat) : Bool := x.own.any fun y => y.kind == k
  firstFail [
    if requiredTypes.any fun k => !(x.own.any fun y => y.kind == k && y.layout == 0) then some (0xD, 0xFFF, 0) else none,
    match sect x.own 0 tTaskClass with
    | some t => firstFail [
        if has tVecProg then none else entryFail 0xD t x.st.classes fun k => k.prog != 0xFFFF,
        if has tKvPools then none else entryFail 0xD t x.st.attns fun a => a.transitPool != 0xFF]
    | none => none,
    if has tAltLayout then none else (x.own.find? fun y => y.layout != 0).map fun y => (0xD, y.idx, 0)]

def LoadCtx.check (x : LoadCtx) : Option LoadFail :=
  (sect x.own 0 tCheck).bind fun y => if rd y.body 4 4 % 16 != 15 then some (0xE, y.idx, 0) else none

def LoadCtx.beat (x : LoadCtx) : Option LoadFail :=
  firstFail ((x.each tBeatPlan).map fun e =>
    let l := e.2
    if decide (l.periodUs.toNat < 50) || decide (2000 < l.periodUs.toNat) || l.periodUs.toNat != x.ch.beat.periodUs.toNat
        || decide (10 < l.leadinPct.toNat) || l.templateBeats == 0 || decide (2 ^ 20 < l.templateBeats) then some (0xF, e.1.idx, 0)
    else entryFail 0xF e.1 l.runs fun r => decide (127 < r.core.toNat))

/-- Two partitions of one core that overlap. -/
def partClash (a b : SramPart) : Bool :=
  (a.core == b.core || a.core == 0xFF || b.core == 0xFF) && overlap a.base.toNat a.length.toNat b.base.toNat b.length.toNat

def LoadCtx.sram (x : LoadCtx) : Option LoadFail :=
  firstFail ((x.each tSramPart).map fun e =>
    let raw := entriesAt e.1.body 0 16 e.1.count
    entryFail 0x10 e.1 raw.zipIdx fun r =>
      let p := parsePart r.1
      (decide (127 < p.core.toNat) && p.core != 0xFF) || decide (4 < p.kind.toNat) || p.base.toNat % 4096 != 0 || p.length.toNat % 4096 != 0
        || p.length == 0 || rd r.1 2 2 != 0 || rd r.1 12 4 != 0 || decide (systemArea < p.base.toNat + p.length.toNat)
        || (raw.take r.2).any fun q => partClash p (parsePart q))

/-- [DESIGN CHOICE, log entry 142] -/
def LoadCtx.vec (x : LoadCtx) : Option LoadFail :=
  (sect x.own 0 tVecProg).bind fun y =>
    let idx := entriesAt y.body 0 8 y.count
    entryFail 0x11 y idx.zipIdx fun e =>
      let size := ((idx.take (e.2 + 1)).map fun q => rd q 4 4).foldl (· + ·) 0
      decide (65536 < size) || decide (y.body.length < rd e.1 0 4 + rd e.1 4 4)
        || !Config.programAccepted (rd y.body (rd e.1 0 4) (rd e.1 4 4))

/-- Class entries out of range. -/
def classBad (st : Stream) (k : TaskClass) : Bool :=
  decide (5 < k.exec.toNat) || decide (1 < k.pageList.toNat) || decide (64 < k.liveRegs.toNat) || decide (65536 ≤ k.argKinds.toNat)
    || (List.range 4).any (fun i => decide (3 < k.argKinds.toNat / 16 ^ i % 16))
    || (k.prog != 0xFFFF && decide (st.progs ≤ k.prog.toNat)) || (k.exec == 1 && k.prog == 0xFFFF)
    || (k.attn != 0xFFFF && decide (st.attns.length ≤ k.attn.toNat))

/-- The planes of a layer's pages in a pool. -/
def planesIn (a : AttnRec) (p : Pool) : Planes :=
  { h := a.hKv.toNat, d := a.dHead.toNat, kb := fmtElemBits p.kDecl.toNat, vb := fmtElemBits p.vDecl.toNat }

/-- The layers whose pages a task may read: that of its class or, where the class names none, every layer of the stream. -/
def layersOf (k : Channel) (d : TaskDesc) : List AttnRec :=
  match k.attnOf d with
  | some a => [a]
  | none => (k.pss.stream.map (·.attns)).getD []

/-- Smallest key-block slot of a task's layers in the HBM pools of a layout: what a SLOT needs at least. [DEDUCED, log entry 38] -/
def slotBytesOf (k : Channel) (l : LayoutData) (d : TaskDesc) : Nat :=
  let sizes := (l.pools.filter Pool.isHbm).flatMap fun p => (layersOf k d).map fun a => (planesIn a p).slotBytes
  match sizes with
  | [] => 0
  | a :: r => r.foldl min a

/-- An entry of a page list that no stream may carry, whichever task names its list (R185). -/
def entryBad (e : PageEntry) : Bool :=
  e.flags.toNat / 4 != 0 || e.rsvd != 0
    || (e.isWrite && (decide (1 < e.fmt.toNat % 16) || decide (1 < e.fmt.toNat / 16))) || (!e.isWrite && e.fmt != 0)

/-- An entry of the page list of a task that its core has no slot for (R185). -/
def pageBad (k : Channel) (l : LayoutData) (core : Nat) (d : TaskDesc) (e : PageEntry) : Bool :=
  e.slot != 0xFFFF && match k.partOf core 3 with
    | some p => decide (p.length.toNat < (e.slot.toNat / 4 + 1) * slotBytesOf k l d)
    | none => true

def LoadCtx.task (x : LoadCtx) : Option LoadFail :=
  firstFail (
    ((sect x.own 0 tTaskClass).bind fun t =>
      if 4096 < x.st.classes.length then some (0x12, t.idx, 4096) else entryFail 0x12 t x.st.classes (classBad x.st))
    :: (x.each tBeatPlan).map fun e =>
      let k := x.chan e.2
      firstFail [
        entryFail 0x12 e.1 e.2.pageLists fun l => l.any entryBad,
        entryFail 0x12 e.1 e.2.runs fun r => r.descs.any fun d =>
          k.badDesc d || (k.pageList d).any (pageBad k e.2 r.core.toNat d)])

def LoadCtx.scale (x : LoadCtx) : Option LoadFail :=
  (sect x.own 0 tTaskClass).bind fun t =>
    let l := scaleBytes t
    if 65536 < l.length then some (0x13, t.idx, 65536)
    else entryFail 0x13 t l fun e =>
      !posNormal (BitVec.ofNat 32 (scalePair e).1) || !posNormal (BitVec.ofNat 32 (scalePair e).2) || !posNormal (parseScale e).product

/-- A WINDOW entry refused under R299. [DEDUCED, log entry 148] -/
def windowBad (body e : List Byte) : Bool :=
  match rd e 0 1 with
  | 0 => rd e 1 1 / 16 != 0 || rd e 2 2 != 0 || rd e 4 2 / 2 ^ 14 != 0 || rd e 6 2 / 2 ^ 14 != 0 || decide (rd e 6 2 < rd e 4 2)
      || rd e 8 8 / 2 ^ 49 != 0 || rd e 16 8 / 2 ^ 49 != 0 || rd e 24 8 != 0
  | 1 => rd e 1 3 != 0 || rd e 16 16 != 0
      || (memberBytes body e).any fun m => rd m 0 2 / 2 ^ 15 != 0 || rd m 2 2 != 0 || rd m 12 4 != 0
  | 2 => rd e 1 7 != 0 || rd e 24 8 != 0
  | _ => true

/-- [DEDUCED, log entries 143 and 148] -/
def LoadCtx.window (x : LoadCtx) : Option LoadFail :=
  firstFail ((x.each tWindow).map fun e =>
    let raw := windowBytes e.1
    let priv := ofKind 2 raw
    firstFail [
      entryFail 0x14 e.1 raw (windowBad e.1.body),
      ((ofKind 0 raw)[64]?).map fun w => (0x14, e.1.idx, w.1),
      if priv.isEmpty then some (0x14, e.1.idx, 0) else (priv[1]?).map fun w => (0x14, e.1.idx, w.1),
      (e.2.windows.find? fun w => crosses w.base w.length || overlap w.base w.length e.2.spaBase e.2.spaLen).map
        fun w => (0x14, e.1.idx, w.index)])

def LoadCtx.align (x : LoadCtx) : Option LoadFail :=
  firstFail ((x.each tWindow).map fun e =>
    (e.2.seqGroups.find? fun g => g.2.any fun m => m.firstTok.toNat % 64 != 0 || (m.lastTok.toNat + 1) % 64 != 0).map
      fun g => (0x15, e.1.idx, g.1))

/-- An attention record outside Table 08-1, or naming scales that R152 excludes. [DEDUCED, log entry 144] -/
def attnBad (st : Stream) (ls : List LayoutData) (a : AttnRec) : Bool :=
  let unit (i : U16) : Bool := match st.scales[i.toNat]? with
    | some e => e.product == 0x3F800000
    | none => false
  let d := a.dHead.toNat
  decide (d < 32) || decide (256 < d) || d % 32 != 0
    || a.hQ == 0 || decide (256 < a.hQ.toNat) || a.hKv == 0 || decide (256 < a.hKv.toNat) || a.hQ.toNat % max a.hKv.toNat 1 != 0
    || decide (1 < a.causal.toNat) || a.qFmt != 1 || decide (1 < a.kFmt.toNat) || decide (1 < a.vFmt.toNat)
    || !posNormal a.cSm || !posNormal a.csV || decide (st.scales.length ≤ a.scaleS.toNat)
    || !unit a.scalePv || !unit a.scaleL || !unit a.scaleDq || !unit a.scaleDk || !unit a.scaleDv
    || ((st.scales[a.scaleL.toNat]?).map fun e => e.fxRef != 24).getD true
    || decide (4 < a.outFmt.toNat) || (a.gradFmt != 3 && a.gradFmt != 4)
    || ls.any fun l => !(l.seqGroups.any fun g => g.1 == a.seqGroup.toNat)
        || (a.transitPool != 0xFF && !(l.pools.any fun p => p.pool == a.transitPool))

/-- Two records of one layer with different parameters (R152). [DEDUCED, log entry 144] -/
def attnDiffer (a b : AttnRec) : Bool := a.layer == b.layer && a != b

def LoadCtx.attn (x : LoadCtx) : Option LoadFail :=
  (sect x.own 0 tTaskClass).bind fun t =>
    entryFail 0x16 t x.st.attns.zipIdx fun a => attnBad x.st x.st.variants a.1 || (x.st.attns.take a.2).any (attnDiffer a.1)

/-- A pool outside Table 09-3, or against one before it. [DEDUCED, log entry 145] -/
def poolBad (l : LayoutData) (raw : List Byte) (p : Pool) (before : List Pool) : Bool :=
  let bytes (q : Pool) : Nat := q.count * q.frameKib.toNat * 1024
  p.pool == 0xFF || before.any (fun q => q.pool == p.pool) || decide (2 < p.tier.toNat) || decide (1 < rd raw 2 1) || (p.shared && p.tier != 0)
    || p.frameKib == 0 || decide (64 < p.frameKib.toNat) || decide (1 < p.kDecl.toNat) || decide (1 < p.vDecl.toNat)
    || rd raw 6 2 != 0 || decide (2 ^ 36 ≤ p.first) || decide (2 ^ 36 ≤ p.count) || rd raw 43 1 != 0 || rd raw 44 4 != 0
    || (p.tier == 2 && !l.windows.any fun w => w.index == p.base.toNat / 2 ^ 56)
    || before.any (fun q => (q.isHbm == p.isHbm && overlap q.first q.count p.first p.count)
        || (q.tier == p.tier && overlap q.base.toNat (bytes q) p.base.toNat (bytes p)))
    || (p.back != 0xFF && match l.pools.find? fun q => q.pool == p.back with
      | some q => q.tier == 0 || q.shared || q.frameKib != p.frameKib
      | none => true)

/-- Pages must fit the frames of their pool: those of the layers that circulate through it, and, in a pool that no layer's pages fit, those of
whatever layer its regions belong to. [DEDUCED, log entry 144] -/
def pageTooBig (st : Stream) (p : Pool) : Bool :=
  let big (a : AttnRec) : Bool := decide (p.frameKib.toNat * 1024 < (planesIn a p).pageBytes)
  (st.attns.any fun a => a.transitPool == p.pool && big a) || (!st.attns.isEmpty && st.attns.all big)

def LoadCtx.kvpool (x : LoadCtx) : Option LoadFail :=
  firstFail ((x.each tKvPools).map fun e =>
    let l := e.2
    let raw := entriesAt e.1.body 16 48 e.1.count
    if decide (l.regionBase < l.spaBase) || decide (l.spaBase + l.spaLen < l.regionBase + 16 * l.regions) || decide (2 ^ 24 < l.regions)
        || decide (255 < e.1.count) then some (0x17, e.1.idx, 0)
    else entryFail 0x17 e.1 raw.zipIdx fun r =>
      poolBad l r.1 (parsePool r.1) ((raw.take r.2).map parsePool) || pageTooBig x.st (parsePool r.1))

/-- HBM of a layout that is left for activations (R201). [DEDUCED, log entry 146] -/
def actRoom (st : Stream) (l : LayoutData) : Nat :=
  badgerArea - st.paramLen - l.spaLen - ((l.pools.filter Pool.isHbm).map fun p => p.count * p.frameKib.toNat * 1024).foldl (· + ·) 0
    - (l.gxc.map fun g => g.retainLen.toNat).getD 0 - (st.alts.map fun a => a.scratchLen).foldl max 0

/-- [DEDUCED, log entry 148] -/
def actBad (ch : Channel) (l : LayoutData) (a : ActEntry) : Bool :=
  decide (2 < a.policy.toNat)
    || if a.policy = 1 then
        a.offLead == 0 || decide (15 < a.offLead.toNat) || !(ch.cxl.port0.isUp || ch.cxl.port1.isUp)
          || !l.windows.any fun w => decide (cxlBase ≤ w.base) && decide (w.base ≤ cxlBase + a.offBase.toNat)
            && decide (cxlBase + a.offBase.toNat + a.offLen.toNat ≤ w.base + w.length)
      else a.offBase != 0 || a.stageBase != 0

/-- The first layout of a role whose planned peak exceeds the HBM that the layout leaves (R201). -/
def peakFail (own : List Section) (st : Stream) : Option LoadFail :=
  firstFail (st.variants.map fun l =>
    (sect own l.layout.toNat tActPolicy).bind fun y => if actRoom st l < l.actPeak then some (0x18, y.idx, 0) else none)

/-- Every layout is held to the policies it uses, its own or those of layout 0 (R296), and every role, that is every stage of the job, to its peak
(R201). [DEDUCED, log entry 146] -/
def LoadCtx.act (x : LoadCtx) : Option LoadFail :=
  firstFail (
    peakFail x.own x.st
    :: (x.st.variants.map fun l => (sect x.own l.layout.toNat tActPolicy).bind fun y => entryFail 0x18 y l.acts (actBad x.ch l))
    ++ (List.range (rd x.file 0x14 2)).map fun r => peakFail (mine x.all r) (parseStream x.file r x.ch.unitCosts (mine x.all r)))

def curveBad (raw : List Byte) (c : List (U32 × U32)) : Bool :=
  rd raw 0x14 4 != 0 && (decide (c.length < 2) || decide (4096 < c.length)
    || ((c.zip (c.drop 1)).any fun p => decide (p.2.1.toNat ≤ p.1.1.toNat)) || c.any fun p => !nonNegFinite p.2)

def groupBad (raw : List Byte) (g : UpdGroup) : Bool :=
  !unitRange g.beta1 || !unitRange g.beta2 || g.beta2 == 0 || g.beta2 == 0x80000000 || !posNormal g.eps1
    || !(posNormal g.clipD || g.clipD == 0x7F800000) || !unitRange g.wd || curveBad raw g.curve

/-- A tensor outside Table 10-3, or whose tiles cut its update blocks (R203). [DEDUCED, log entry 221] -/
def tensorBad (groups : Nat) (t : TensorHdr) : Bool :=
  decide (groups ≤ t.group.toNat) || decide (t.kL.toInt < -64) || decide (63 < t.kL.toInt) || t.tileR == 0 || t.tileC == 0
    || (t.tileC.toNat % 32 != 0 && decide (t.tileC.toNat < t.cols.toNat))

/-- A tile that no bucket of a layout can hold whole (R203). [DEDUCED, log entry 221] -/
def tileHomeless (g : GxcPlan) (t : TensorHdr) : Bool :=
  !g.buckets.isEmpty && !(g.buckets.any fun b => b.rank != 0)
    && (t.tiles 0).any fun x => g.buckets.all fun b => decide (4 * b.ng.toNat < x.blocks.length)

/-- HBM ranges that belong to a tile and to no other: its weights row by row, and its journal entry. -/
def tileRanges (st : Stream) (n : Nat) (x : UpdTile) : List (Nat × Nat) :=
  let t := (st.tensors[x.tensor]?).getD {}
  (st.journalBase + 16 * n, 16) :: (List.range x.rows).map fun i =>
    (t.wBase.toNat + 64 * t.rowBlocks * (x.row + i) + 2 * x.col, 2 * x.cols)

/-- Bytes of some ranges that the moves toward one role cover. -/
def moved (l : List PermMove) (rs : List (Nat × Nat)) : Nat :=
  (l.flatMap fun m => rs.map fun r => min (m.src + m.length) (r.1 + r.2) - max m.src r.1).foldl (· + ·) 0

/-- A permute that would part a tile between channels: a role that gets some of its bytes does not get all (R203).
 [DEDUCED, log entry 221] -/
def tileParted (st : Stream) (a : AltLayout) : Bool :=
  let from_ := a.moves.filter fun m => m.srcRole == st.role
  st.tiles.zipIdx.any fun e =>
    let rs := tileRanges st e.2 e.1
    from_.any fun m =>
      let k := moved (from_.filter fun q => q.dstRole == m.dstRole) rs
      k != 0 && decide (k < (rs.map (·.2)).foldl (· + ·) 0)

def LoadCtx.upd (x : LoadCtx) : Option LoadFail :=
  (sect x.own 0 tUpdPlan).bind fun y =>
    let raw := updGroupBytes y.body
    if raw.isEmpty || decide (64 < raw.length) then some (0x19, y.idx, 0)
    else firstFail [
      entryFail 0x19 y raw fun e => groupBad e (parseGroup y.body e),
      entryFail 0x19 y x.st.tensors (tensorBad raw.length),
      entryFail 0x19 y x.st.tensors fun t => x.st.variants.any fun l => (l.gxc.map fun g => tileHomeless g t).getD false,
      if x.st.alts.any (tileParted x.st) then some (0x19, y.idx, 0) else none]

/-- Contributors of a group: ascending setts of K contributors each, and no channel twice (R219). [DEDUCED, log entry 147] -/
def gxcGroupBad (g : GxcGroup) : Bool :=
  let setts := (List.range g.g).map fun r => (List.range g.k).map fun p => (g.members.getD (r * g.k + p) (0, 0)).1.toNat / 8
  g.g == 0 || decide (2048 < g.g) || g.k == 0 || decide (16 < g.k)
    || setts.any (fun s => s.any fun a => a != s.headD 0)
    || ((setts.zip (setts.drop 1)).any fun p => decide (p.2.headD 0 ≤ p.1.headD 0))
    || g.members.zipIdx.any fun m => (g.members.take m.2).contains m.1

/-- Tensor ids of a bucket: TID_b + c for every contributor c. -/
def bucketTids (p : GxcPlan) (b : GxcBucketPlan) : Nat × Nat :=
  let g := (p.groups[b.group.toNat]?).getD {}
  (b.tid.toNat, g.g * g.k)

/-- [DEDUCED, log entry 147] -/
def gxcBucketBad (st : Stream) (p : GxcPlan) (b : GxcBucketPlan) (before : List GxcBucketPlan) : Bool :=
  let t := bucketTids p b
  decide (p.groups.length ≤ b.group.toNat) || decide (b.ng.toNat * 132 < 2 ^ 20) || decide (2 ^ 28 < b.ng.toNat * 132)
    || decide (7 < b.hSett) || decide (7 < b.hDom) || decide (b.hDom < b.hSett) || decide (64 < b.rank.toNat)
    || before.any (fun q => overlap (bucketTids p q).1 (bucketTids p q).2 t.1 t.2 || decide (b.layerFirst.toNat < q.layerFirst.toNat))
    || st.tensors.any fun u => overlap u.tensorId.toNat 1 t.1 t.2 || overlap u.momId.toNat 1 t.1 t.2

def LoadCtx.gxc (x : LoadCtx) : Option LoadFail :=
  firstFail ((x.each tGxcPlan).map fun e =>
    let p := parseGxc e.1.body
    if p.buckets.isEmpty || decide (4096 < p.buckets.length) then some (0x1A, e.1.idx, 0)
    else firstFail [
      entryFail 0x1A e.1 p.groups gxcGroupBad,
      entryFail 0x1A e.1 p.buckets.zipIdx fun b => gxcBucketBad x.st p b.1 (p.buckets.take b.2)])

/-- A move outside the parameter regions or over the scratch area. -/
def moveBad (st : Stream) (a : AltLayout) (m : PermMove) : Bool :=
  let inside (o : Nat) : Bool := decide (st.paramBase ≤ o) && decide (o + m.length ≤ st.paramBase + st.paramLen)
  !inside m.src || !inside m.dst || overlap m.src m.length a.scratchBase a.scratchLen || overlap m.dst m.length a.scratchBase a.scratchLen

def LoadCtx.layout (x : LoadCtx) : Option LoadFail :=
  (sect x.own 0 tAltLayout).bind fun y =>
    entryFail 0x1B y x.st.alts.zipIdx fun a =>
      a.1.layout == 0 || (x.st.alts.take a.2).any (fun b => b.layout == a.1.layout) || a.1.moves.any (moveBad x.st a.1)

/-- Admissible budget at LIMIT_W = 200 W for a period in µs (R314, R318). [DEDUCED, log entry 149] -/
def leastBudget (ch : Channel) (period : Nat) : Nat :=
  let lim := 200 * period * 1000
  lim - reserveOf lim (ctrlReserve ch.ledg.ctrlNow)

/-- [DEDUCED, log entry 149] -/
def energyBad (budget : Nat) (raw : List Byte) (e : EnergyEntry) (before : List (List Byte)) : Bool :=
  decide (1 < e.kind.toNat) || rd raw 2 2 != 0 || rd raw 0x28 8 != 0 || before.any (fun b => rd b 0 1 == e.eclass.toNat)
    || (e.kind == 0 && decide (budget < e.base))

/-- [DEDUCED, log entry 149] -/
def LoadCtx.energy (x : LoadCtx) : Option LoadFail :=
  let kindOf (d : TaskDesc) : Option Bool := (x.st.classes[d.cls.toNat]?).bind fun k =>
    (x.st.energy.find? fun e => e.eclass == k.eclass).map fun e => e.kind == 1
  firstFail (
    ((sect x.own 0 tEnergy).bind fun y =>
      let raw := entriesAt y.body 0 48 y.count
      let budget := leastBudget x.ch ((x.st.variants.head?.map fun l => l.periodUs.toNat).getD 0)
      if 256 < raw.length then some (0x1C, y.idx, 256)
      else entryFail 0x1C y raw.zipIdx fun e => energyBad budget e.1 (parseEnergy x.ch.unitCosts e.1) (raw.take e.2))
    :: ((sect x.own 0 tTaskClass).bind fun t =>
      entryFail 0x1C t x.st.classes fun k => !(x.st.energy.any fun e => e.eclass == k.eclass))
    :: (x.each tBeatPlan).map fun e =>
      entryFail 0x1C e.1 e.2.runs fun r => r.descs.any fun d => kindOf d != some d.isBg)

/-- The checks after ROLE. -/
def LoadCtx.fail (x : LoadCtx) : Option LoadFail :=
  firstFail [x.missing, x.check, x.beat, x.sram, x.vec, x.task, x.scale, x.window, x.align, x.attn, x.kvpool, x.act, x.upd, x.gxc
            , x.layout, x.energy]

/-! ### Verification (R302, R303) -/

/-- What verification finds once the bytes have been read whole: a failure or the stream. -/
def Channel.verifyContent (ch : Channel) (c : ChanId) (f : List Byte) (signer : Option Key) : LoadFail ⊕ Stream :=
  let set := ch.pss.loadSettings
  let all := parseSections f
  let rows := (roleTable all).map roleRows |>.getD []
  let role := (roleOf rows ch.chn.moduleId.toNat c.val).getD 0xFFFF
  let own := mine all role
  let st := parseStream f role ch.unitCosts own
  let x : LoadCtx := { ch := ch, file := f, all := all, own := own, st := st }
  match firstFail [
      headFail (hdrSigned f && (signer.isNone || signer != set.streamKey)) 9 0x60,
      headFail (!hdrSigned f && set.streamSigRequired) 0xA 6,
      sectionsFail f all, roleClash all role, roleFail f all ch.chn.moduleId.toNat c.val, x.fail] with
  | some e => .inl e
  | none => .inr st

/-- The read of the buffer: the failure of a header check, of the digest, or the bytes. A poisoned line fails the digest.
 [DEDUCED, log entry 141] -/
def State.readStream (s : State) (c : ChanId) : State × (LoadFail ⊕ List Byte) :=
  let ch := s.ch c
  let a := ch.pss.src.toNat
  let len := ch.pss.len.toNat
  if hbmSize < a + len then (s, .inl (7, 0xFFF, 0))
  else
    let r := s.checkHbm c a 256
    if !r.2 then (r.1, .inl (8, 0xFFF, 0))
    else match headerFail c len (ch.hbmBytes a 256) with
      | some e => (r.1, .inl e)
      | none =>
        let q := r.1.checkHbm c a len
        let f := ch.hbmBytes a len
        if !q.2 then (q.1, .inl (8, 0xFFF, 0))
        else if fileDigest f = hdrDigest f then (q.1, .inr f) else (q.1, .inl (8, 0xFFF, 0x20))

/-- A load is refused (R303): a running stream stays, any other channel is JOINED with no stream. -/
def Channel.refuseLoad (ch : Channel) (c : ChanId) (e : LoadFail) : Channel :=
  let k := { ch with pss := { ch.pss with
    phase := ch.pss.verifyFrom, code := BitVec.ofNat 8 e.1, section_ := BitVec.ofNat 12 e.2.1, detail := BitVec.ofNat 32 e.2.2 } }
  let k := k.raise c 0x4009
  if k.running || k.chn.state == .leaving then k else k.closeStream

/-- A stream has passed every check: it is applied, or waits for its swap (R305, R306). [DEDUCED, log entry 193] -/
def Channel.acceptLoad (ch : Channel) (c : ChanId) (st : Stream) : Channel :=
  let k := { ch with pss := { ch.pss with phase := ch.pss.verifyFrom } }
  if k.running then { k with pss := { k.pss with pendingStream := some st, swapPending := true } } else k.applyStream c st

def execStreamVerifyDone (c : ChanId) (signer : Option Key) (s : State) : Result :=
  if (s.ch c).pss.phase ≠ .verifying then .next s
  else
    let r := s.readStream c
    match r.2 with
    | .inl e => .next (r.1.onCh c fun ch => ch.refuseLoad c e)
    | .inr f => .next (r.1.onCh c fun ch =>
        let k := { ch with sec := ch.sec.extend 4 (hdrDigest f) }
        match k.verifyContent c f signer with
        | .inl e => k.refuseLoad c e
        | .inr st => k.acceptLoad c st)

/-! ### PSS_CTRL (R302, R309, R310) -/

/-- LOAD. -/
def Channel.loadStream (ch : Channel) : Channel :=
  let ok := ch.chn.state == .joined || ch.chn.state == .loaded || ch.chn.state == .running
  if !ok || ch.pss.phase == .verifying then { ch with pss := { ch.pss with code := 3, section_ := 0xFFF, detail := 0 } }
  else { ch with pss := { ch.pss with
    swapPending := false, pendingStream := none, loadSettings := ch.sec.settings, verifyFrom := ch.pss.phase, phase := .verifying, code := 2, section_ := 0xFFF, detail := 0 } }

/-- START: beats begin at the requested boundary, or two beats on. -/
def Channel.startStream (ch : Channel) (c : ChanId) : Channel :=
  if ch.chn.state ≠ .loaded then ch
  else
    let want := ch.pss.startBeat.toNat
    let first := max want (ch.beat.number.toNat + 2)
    let k := { ch with beat := { ch.beat with startAt := some first } }
    if want < first then { k with pss := { k.pss with startLate := true } }.raise c 0x400C else k

/-- A write of PSS_CTRL. -/
def Channel.writePssCtrl (ch : Channel) (c : ChanId) (v : U64) : Channel :=
  let k := if bit v 0 then ch.loadStream else ch
  let k := if bit v 1 then k.startStream c else k
  if bit v 2 then k.requestUnload else k

end Sys2Proof.Machine
end

