-- ==== Sys2Proof/Machine/Mailbox.lean ====
section
/-! DEFINITION. Doorbells, notifications, and the mailbox exchange up to the opcode's own effect (R379 to R383, R389). -/

namespace Sys2Proof.Machine

/-! ### The header as bytes (Table 18-3) -/

def MbxHdr.bytes (h : MbxHdr) : List Byte :=
  leBytes 1 h.st.toNat ++ leBytes 1 h.flags.toNat ++ leBytes 2 h.opcode.toNat ++ leBytes 4 h.seq.toNat ++ leBytes 2 h.len.toNat
    ++ leBytes 2 h.status.toNat ++ leBytes 4 h.rsvd0c.toNat ++ leBytes 12 h.iv.toNat ++ leBytes 4 h.rsvd1c.toNat
    ++ leBytes 16 h.gcmTag.toNat ++ leBytes 16 h.rsvd30.toNat

/-- n bytes at an offset of a list, as a number. -/
def natAt (l : List Byte) (off n : Nat) : Nat := leNat ((l.drop off).take n)

def MbxHdr.ofBytes (l : List Byte) : MbxHdr where
  st := BitVec.ofNat 8 (natAt l 0 1)
  flags := BitVec.ofNat 8 (natAt l 1 1)
  opcode := BitVec.ofNat 16 (natAt l 2 2)
  seq := BitVec.ofNat 32 (natAt l 4 4)
  len := BitVec.ofNat 16 (natAt l 8 2)
  status := BitVec.ofNat 16 (natAt l 10 2)
  rsvd0c := BitVec.ofNat 32 (natAt l 12 4)
  iv := BitVec.ofNat 96 (natAt l 16 12)
  rsvd1c := BitVec.ofNat 32 (natAt l 28 4)
  gcmTag := BitVec.ofNat 128 (natAt l 32 16)
  rsvd30 := BitVec.ofNat 128 (natAt l 48 16)

/-! ### Mailboxes as buffers (R381, R382) -/

/-- Mailboxes are numbered as in Table 18-7: 0 to 7 for N0 to N7, 8 and 9 for S0 and S1. -/
def Channel.box (ch : Channel) (m : Nat) : Mailbox := smGet {} ch.mbx.boxes m
def Channel.onBox (ch : Channel) (m : Nat) (f : Mailbox → Mailbox) : Channel :=
  { ch with mbx := { ch.mbx with boxes := smMod {} ch.mbx.boxes m f } }

def MbxHdr.more (h : MbxHdr) : Bool := h.flags.getLsbD 0
def MbxHdr.fromChannel (h : MbxHdr) : Bool := h.flags.getLsbD 1

/-- Mailbox and offset within its header or payload of a byte of the MBX block; none outside both. -/
def boxByte (off : Nat) : Option (Bool × Nat × Nat) :=
  if 0x1000 ≤ off ∧ off < 0x1280 then some (true, (off - 0x1000) / 64, (off - 0x1000) % 64)
  else if 0x2000 ≤ off ∧ off < 0xC000 then some (false, (off - 0x2000) / 4096, (off - 0x2000) % 4096)
  else none

/-- Whether n bytes of the MBX block lie in mailbox buffers. -/
def inBoxes (off n : Nat) : Bool :=
  (decide (0x1000 ≤ off) && decide (off + n ≤ 0x1280)) || (decide (0x2000 ≤ off) && decide (off + n ≤ 0xC000))

def Mailbox.readByte (b : Mailbox) (hdr : Bool) (i : Nat) : Byte :=
  if hdr then b.hdr.bytes.getD i 0 else smGet 0 b.payload i

def Channel.boxRead (ch : Channel) (off n : Nat) : List Byte :=
  (List.range n).map fun i => match boxByte (off + i) with
    | some (h, m, k) => (ch.box m).readByte h k
    | none => 0

/-- Writes one byte of a mailbox; a header is rewritten as a whole. -/
def Mailbox.writeByte (b : Mailbox) (hdr : Bool) (i : Nat) (v : Byte) : Mailbox :=
  if hdr then { b with hdr := .ofBytes (b.hdr.bytes.set i v) } else { b with payload := smSet 0 b.payload i v }

/-- Mailboxes that n bytes touch. -/
def boxesOf (off n : Nat) : List Nat :=
  (List.range n).foldl (fun l i => match boxByte (off + i) with
    | some (_, m, _) => insertNat m l
    | none => l) []

/-- A write to a mailbox buffer. From the requester's side it is discarded while a mailbox it touches is BUSY. A header that then stands
at REQUEST belongs to the QP that wrote it. -/
def Channel.boxWrite (ch : Channel) (o : Origin) (off : Nat) (bytes : List Byte) : Channel :=
  let l := boxesOf off bytes.length
  let requester (b : Mailbox) : Bool := match o with
    | .firmware => b.hdr.fromChannel
    | _ => !b.hdr.fromChannel
  if l.any fun m => (ch.box m).hdr.st == 2 && requester (ch.box m) then
    { ch with mbx := { ch.mbx with discarded := satAdd ch.mbx.discarded 1 } }
  else
    let k := (bytes.zipIdx).foldl (fun (h : Channel) (e : Byte × Nat) => match boxByte (off + e.2) with
      | some (hd, m, i) => h.onBox m fun b => b.writeByte hd i e.1
      | none => h) ch
    match o with
    | .host q => l.foldl (fun (h : Channel) m => h.onBox m fun b =>
        if b.hdr.st = 1 ∧ (ch.box m).hdr.st ≠ 1 ∨ b.hdr.st = 1 ∧ off < 0x2000 then { b with qp := some q } else b) k
    | _ => k

/-! ### Doorbells (R379, R380, Table 18-2) -/

/-- Bits that a doorbell of a group has. [DEDUCED, log entry 175] -/
def usedBits (g : Nat) : U32 := if g = 0 then 0xFF00FFFF else if g = 1 then 0xFFFFFFFF else 0xFF000003

def Mbx.db (m : Mbx) (g : Nat) : Doorbell := if g = 0 then m.db0 else if g = 1 then m.db1 else if g = 2 then m.db2 else m.db3
def Mbx.onDb (m : Mbx) (g : Nat) (f : Doorbell → Doorbell) : Mbx :=
  if g = 0 then { m with db0 := f m.db0 } else if g = 1 then { m with db1 := f m.db1 }
  else if g = 2 then { m with db2 := f m.db2 } else { m with db3 := f m.db3 }
def Channel.db (ch : Channel) (g : Nat) : Doorbell := ch.mbx.db g
def Channel.onDb (ch : Channel) (g : Nat) (f : Doorbell → Doorbell) : Channel := { ch with mbx := ch.mbx.onDb g f }

def Channel.clrDb (ch : Channel) (g : Nat) (v : U32) : Channel := ch.onDb g fun d => { d with val := d.val &&& ~~~v }

/-- An outbound notification: bits [15:0] and [31:24] post DB_RAISED with the doorbell's value, once for each notification.
 [DEDUCED, log entry 174] -/
def Channel.notifyOut (ch : Channel) (c : ChanId) (g : Nat) (note : U32) : Channel :=
  if note &&& 0xFF00FFFF = 0 then ch
  else ch.raiseEach c 0xA006 (some ((ch.db g).val.toNat + if g = 3 then 2 ^ 32 else 0))

/-- A SET of an outbound doorbell: group 1 or 3. -/
def Channel.setOut (ch : Channel) (c : ChanId) (g : Nat) (v : U32) : Channel :=
  let d := ch.db g
  let w := v &&& usedBits g
  (ch.onDb g fun d => { d with val := d.val ||| w }).notifyOut c g (w &&& ~~~d.val &&& ~~~d.mask)

/-! ### Responses and refusals (R382) -/

/-- Doorbell group and bit that a mailbox uses toward the channel. -/
def inGroup (m : Nat) : Nat := if m < 8 then 0 else 2
def boxBit (m : Nat) : U32 := BitVec.ofNat 32 (2 ^ (m % 8))

/-- An event of a mailbox request: TAG the request's SEQ, DETAIL the mailbox; the host events are class 1 records (Tables 18-6 and
18-7). [DEDUCED, log entry 152] -/
def Channel.raiseBox (ch : Channel) (c : ChanId) (code m : Nat) : Channel :=
  if ch.running && ch.beat.raised.contains (BitVec.ofNat 16 code) then ch
  else
    let e := mkEvent code (chanSrc c) ch.evBeat (some m) (ch.box m).hdr.seq.toNat
    let e := if 0xA000 ≤ code then { e with cls := 1 } else e
    { ch with events := ch.events ++ [e], beat := { ch.beat with raised := BitVec.ofNat 16 code :: ch.beat.raised } }

/-- The QP that wrote the request is bound to the session. -/
def Channel.boxBound (ch : Channel) (m : Nat) : Bool :=
  decide (8 ≤ m) && ch.sec.session.stage == 3 && (ch.box m).qp == some ch.sec.session.qp

/-- Writes a response: the payload, the header with STATE RESPONSE, and the outbound doorbell bit. On a bound session the payload is
ciphertext under the outbound counter, which the model leaves free. [DEDUCED, log entry 152; DESIGN CHOICE, log entry 96] -/
def State.respond (s : State) (c : ChanId) (m status : Nat) (payload : List Byte) : State :=
  let bound := (s.ch c).boxBound m
  let tag := Config.freeValue (s.free + 1)
  let s1 := if bound then s.tookFree 2 else s
  s1.onCh c fun ch =>
    let ctr := ch.sec.session.ivOut
    let body := if bound then freeBytes s.free payload.length else payload
    let k := ch.onBox m fun b =>
      { b with
        payload := smSetAll 0 b.payload 0 body
        hdr :=
          { st := 3, opcode := b.hdr.opcode, seq := b.hdr.seq, len := BitVec.ofNat 16 payload.length, status := BitVec.ofNat 16 status
            iv := if bound then BitVec.ofNat 96 (2 + ctr * 2 ^ 32) else 0
            gcmTag := if bound then BitVec.ofNat 128 tag else 0 } }
    let k := if bound then { k with sec := { k.sec with session := { k.sec.session with ivOut := ctr + 1 } } } else k
    k.setOut c (if m < 8 then 1 else 3) (boxBit m)

/-- Completes a request with the event code of its refusal. [DEDUCED, log entry 152] -/
def State.refuseBox (s : State) (c : ChanId) (m code : Nat) : State := (s.onCh c fun ch => ch.raiseBox c code m).respond c m code []

/-- A handshake or a secure payload fails: SESSION_BAD, and the session ends (R383). [DEDUCED, log entry 155] -/
def State.sessionBad (s : State) (c : ChanId) (m : Nat) : State := (s.refuseBox c m 0xA004).endSession c

/-! ### Requests (R382, R383, Table 18-4) -/

/-- Whether the table allows an opcode in a mailbox. [DEDUCED, log entry 151] -/
def Channel.allowed (ch : Channel) (m op : Nat) : Bool :=
  if op = 1 ∨ op = 2 then true
  else if 0x10 ≤ op ∧ op ≤ 0x12 then m == 8 && !ch.boxBound 8
  else if op = 0x20 ∨ op = 0x21 ∨ op = 0x22 ∨ op = 0x30 then ch.boxBound m
  else decide (0x8000 ≤ op) && decide (m < 8)

/-- A header that no request may carry. [DEDUCED, log entries 150 and 151] -/
def MbxHdr.malformed (h : MbxHdr) : Bool :=
  decide (4096 < h.len.toNat) || h.flags &&& 0xFE != 0 || h.rsvd0c != 0 || h.rsvd1c != 0 || h.rsvd30 != 0

/-- A notification for a mailbox. One in REQUEST becomes BUSY and its bit is cleared; an opcode the table does not allow there completes
with MBX_BAD, and in RECOVERY so does every mailbox but S0. [DEDUCED, log entries 150 and 151] -/
def State.serveBox (s : State) (c : ChanId) (m : Nat) : State :=
  let ch := s.ch c
  let h := (ch.box m).hdr
  if h.fromChannel ∧ h.st = 3 then s
  else if h.st ≠ 1 then s.onCh c fun k => { k with mbx := { k.mbx with spurious := satAdd k.mbx.spurious 1 } }
  else
    let s1 := s.onCh c fun k => (k.onBox m fun b => { b with hdr := { b.hdr with st := 2 } }).clrDb (inGroup m) (boxBit m)
    if h.malformed || !ch.allowed m h.opcode.toNat || (ch.chn.state == .recovery && m != 8) then s1.refuseBox c m 0xA002 else s1

/-- The request that a mailbox holds for its server: BUSY with the opcode. On a bound session the payload is what decryption gave, none
when GCM verification failed; an inbound counter that does not exceed the previous one fails likewise. [DEDUCED, log entries 150 and 197] -/
def State.serve (s : State) (c : ChanId) (m op : Nat) (plain : Option (List Byte)) (k : State → List Byte → State) : State :=
  let ch := s.ch c
  let b := ch.box m
  if b.hdr.st ≠ 2 ∨ b.hdr.fromChannel ∨ b.hdr.opcode.toNat ≠ op then s
  else if ch.boxBound m then
    let ctr := b.hdr.iv.toNat / 2 ^ 32
    match plain with
    | some l =>
      if b.hdr.iv.toNat % 2 ^ 32 = 1 ∧ ch.sec.session.ivIn < ctr then
        k (s.onCh c fun x => { x with sec := { x.sec with session := { x.sec.session with ivIn := ctr } } }) l
      else s.sessionBad c m
    | none => s.sessionBad c m
  else k s (smGetAll 0 b.payload 0 b.hdr.len.toNat)

/-- One fragment of an object: with MORE set it is kept and answered, without it the object is complete. A fragment out of sequence is
refused and the object abandoned (R382). [DEDUCED, log entry 153] -/
def State.fragment (s : State) (c : ChanId) (m : Nat) (data : List Byte) (k : State → List Byte → State) : State :=
  let b := (s.ch c).box m
  let inSeq := match b.nextFrag with
    | none => true
    | some n => n == b.hdr.seq && b.objOp == b.hdr.opcode
  let drop := s.onCh c fun ch => ch.onBox m fun x => { x with object := [], nextFrag := none, objOp := 0 }
  if !inSeq then drop.refuseBox c m 0xA002
  else
    let obj := b.object ++ data
    if b.hdr.more then
      (s.onCh c fun ch => ch.onBox m fun x => { x with object := obj, objOp := x.hdr.opcode, nextFrag := some (x.hdr.seq + 1) }).respond c m 0 []
    else k drop obj

/-- A firmware-defined request is served by channel firmware, whose answer the manual leaves to it. [DESIGN CHOICE, log entry 96] -/
def execMbxFirmwareOpcode (c : ChanId) (box : Fin 8) (s : State) : Result :=
  let h := ((s.ch c).box box.val).hdr
  if h.st ≠ 2 ∨ h.fromChannel ∨ h.opcode.toNat < 0x8000 then .next s
  else .next ((s.tookFree 2).respond c box.val (s.freeVal % 2 ^ 16) (freeBytes (s.free + 1) (s.freeVal / 2 ^ 16 % 4097)))

end Sys2Proof.Machine
end

