-- ==== Sys2Proof/Machine/Security.lean ====
section
/-! DEFINITION. The security island: entropy, debug levels, measurement and quotes (R355 to R375). -/

namespace Sys2Proof.Machine

/-! ### Islands (R355, R373) -/

def State.sec (s : State) (t : Fin 3) : Sec := if t = 0 then s.ch0.sec else if t = 1 then s.ch1.sec else s.ptd.sec
/-- The channel of an island; the port die's has none. -/
def islandChan (t : Fin 3) : Option ChanId := if t = 0 then some 0 else if t = 1 then some 1 else none
def State.onSec (s : State) (t : Fin 3) (f : Sec → Sec) : State :=
  match islandChan t with
  | some c => s.onCh c fun ch => { ch with sec := f ch.sec }
  | none => { s with ptd := { s.ptd with sec := f s.ptd.sec } }
def State.raiseSec (s : State) (t : Fin 3) (code : Nat) : State :=
  match islandChan t with
  | some c => s.onCh c fun ch => ch.raise c code
  | none => { s with ptd := s.ptd.raise code }

/-! ### Entropy (R357) -/

def execEntropyHealthFail (c : ChanId) (s : State) : Result :=
  if (s.ch c).domain.st = .off then .next s
  else .next (s.onCh c fun ch => { ch with sec := { ch.sec with entropyFail := true } }.raise c 0x8002)

/-- Sixteen windows have passed, and the DRBG has been reseeded. [DESIGN CHOICE, log entry 180] -/
def execEntropyRecover (c : ChanId) (s : State) : Result :=
  if (s.ch c).domain.st = .off then .next s
  else .next (s.onCh c fun ch => { ch with sec := { ch.sec with entropyFail := false } })

/-! ### Debug sessions (R369 to R372) -/

def DebugLevel.code : DebugLevel → Nat
  | .closed => 0
  | .observe => 1
  | .invasive => 2

def Lifecycle.code : Lifecycle → Nat
  | .manufacture => 0
  | .field => 1
  | .return_ => 2

/-- Fields of a token (Table 17-9), read from the token buffer. -/
def Sec.tok (x : Sec) (off n : Nat) : Nat := leNat (smGetAll 0 x.token off n)

/-- REQ: a fresh nonce, and the policy as the settings stand. While the level is not CLOSED it only sets CAUSE to STATE; without random
bits it is refused with ENTROPY. [DEDUCED, log entry 158] -/
def State.dbgRequest (s : State) (t : Fin 3) (level : DebugLevel) : State :=
  let x := s.sec t
  if x.selftestFail then s
  else if x.dbgLevel ≠ .closed then s.onSec t fun y => { y with dbgCause := 7 }
  else if x.entropyFail then s.onSec t fun y => { y with dbgCause := 0xA, nonce := none, reqLevel := none }
  else
    (s.onSec t fun y => { y with
      nonce := some (BitVec.ofNat 256 (Config.drbg s.free)), reqLevel := some level
      reqInvasive := y.settings.invasiveAllow, reqVendor := y.settings.vendorObserve }).tookFree 1

/-- Whether Table 17-10 permits the token's signer: 0 the vendor debug key, 1 the owner debug key. -/
def Sec.signerOk (x : Sec) (signer level : Nat) : Bool :=
  match x.lifecycle with
  | .field =>
    if level = 1 then (signer == 1 && x.settings.ownerDebug.isSome) || (signer == 0 && x.reqVendor) else signer == 0
  | _ => signer == 0

/-- The channel state admits an INVASIVE unlock (R371). -/
def Channel.invasiveState (ch : Channel) : Bool :=
  ch.chn.state == .recovery || ch.chn.state == .calibrate || (ch.chn.state == .joined && ch.pss.phase == .empty)

/-- The power state of the channel admits no unlock (Table 17-11). [DEDUCED, log entry 159] -/
def Channel.unlockPower (ch : Channel) : Bool :=
  match ch.domain.st with
  | .draining => true
  | .off => true
  | .waking => ch.chn.state == .reset || ch.chn.state == .boot
  | _ => false

/-- The first cause in check order that refuses the token in the buffer; none when it is accepted. `sigOk`: its signature verifies;
`stateOk` and `powerBad` are the channel's. [DEDUCED, log entry 159] -/
def Sec.tokenCause (x : Sec) (sigOk stateOk powerBad : Bool) : Option Nat :=
  let level := x.tok 4 1
  let dur := x.tok 8 4
  let zero := x.tok 6 2 == 0 && x.tok 0xC 4 == 0 && x.tok 0x70 16 == 0
  if x.tok 0 4 ≠ 0x54444650 ∨ !zero ∨ dur = 0 ∨ 86400 < dur then some 1
  else if level = 0 ∨ x.reqLevel.map (·.code) ≠ some level then some 2
  else if !x.signerOk (x.tok 5 1) level then some 3
  else if !x.keys ∨ x.tok 0x30 64 ≠ x.idkHash.toNat then some 4
  else if x.nonce.map (·.toNat) ≠ some (x.tok 0x10 32) then some 5
  else if !sigOk then some 6
  else if level = 2 ∧ !stateOk then some 7
  else if powerBad then some 8
  else if level = 2 ∧ x.lifecycle = .field ∧ !x.reqInvasive then some 9
  else if x.entropyFail then some 0xA
  else none

/-- Digest of the token (Table 17-6): of its 4,755 bytes. [DEDUCED, log entry 157] -/
def Sec.tokenDigest (x : Sec) : U512 := sha3 (smGetAll 0 x.token 0 4755)

/-- Every link of the channel goes to DOWN. -/
def State.linksDown (s : State) (c : ChanId) : State := (List.finRange 48).foldl (fun (r : State) l =>
  if (r.ch c).linkSt l = .down then r else r.linkLeaves c l .down) s

/-- What an INVASIVE unlock does at its clk (R371). -/
def State.invasiveUnlock (s : State) (t : Fin 3) : State :=
  match islandChan t with
  | some c => ((s.endSession c).onSec t fun y => { y.zeroise with pufGated := true }).linksDown c
  | none => s.onSec t fun y => { y.zeroise with pufGated := true }

/-- SUBMIT: the nonce and the token buffer are consumed whatever comes of it. [DEDUCED, log entries 157 and 158] -/
def State.dbgSubmit (s : State) (t : Fin 3) (sigOk : Bool) : State :=
  let x := s.sec t
  if x.selftestFail then s
  else
    let stateOk := match islandChan t with
      | some c => (s.ch c).invasiveState
      | none => true
    let powerBad := match islandChan t with
      | some c => (s.ch c).unlockPower
      | none => false
    let used (y : Sec) : Sec := { y with token := [], nonce := none, reqLevel := none }
    match x.tokenCause sigOk stateOk powerBad with
    | some k => (s.onSec t fun y => { used y with dbgCause := BitVec.ofNat 8 k, dbgRefused := satAdd y.dbgRefused 1 }).raiseSec t 0x8004
    | none =>
      let invasive := x.tok 4 1 == 2
      let s1 := (s.onSec t fun y => ({ used y with
        dbgLevel := if invasive then .invasive else .observe, remainS := BitVec.ofNat 32 (x.tok 8 4)
        dbgOpens := satAdd y.dbgOpens 1 } : Sec).extend 3 x.tokenDigest).raiseSec t 0x8003
      if invasive then s1.invasiveUnlock t else s1

/-- The end of a debug session; of an INVASIVE one, with a reset of the channel or of the port die. [DEDUCED, log entry 160] -/
def State.endDebug (s : State) (t : Fin 3) : State :=
  let x := s.sec t
  if x.dbgLevel = .closed then s
  else if x.dbgLevel = .invasive then
    match islandChan t with
    | some c => s.resetChannel c
    | none =>
      let s1 := (s.endSession 0).endSession 1
      { s1 with ptd := { s1.ptd.booted with slotValid := s.ptd.slotValid, slot := s.ptd.slot, slotTaken := s.ptd.slotTaken }.raise 0x8005 }
  else (s.onSec t Sec.close).raiseSec t 0x8005

/-- A write of SEC_DBG: LOCK, then REQ, then SUBMIT. A SUBMIT in the clk in which a session ends is refused with STATE (R372).
 [DEDUCED, log entry 158] -/
def State.writeSecDbg (s : State) (t : Fin 3) (v : U64) (sigOk : Bool) : State :=
  let lock := bit v 4
  let ends := lock && (s.sec t).dbgLevel != .closed
  let s1 := if lock then s.endDebug t else s
  let s2 := if bits v 1 0 = 1 then s1.dbgRequest t .observe else if bits v 1 0 = 2 then s1.dbgRequest t .invasive else s1
  if !bit v 3 then s2
  else if ends then
    (s2.onSec t fun y => { y with token := [], nonce := none, reqLevel := none, dbgCause := 7, dbgRefused := satAdd y.dbgRefused 1 }).raiseSec t 0x8004
  else s2.dbgSubmit t sigOk

def execDbgSessionExpiry (t : Fin 3) (s : State) : Result := .next (s.endDebug t)

/-! ### Measurement and quotes (R364, R365) -/

/-- CHN_ID (Table 01-7). [DESIGN CHOICE, log entry 1] -/
def Channel.idWord (ch : Channel) (c : ChanId) : Nat := 0x2096 * 2 ^ 48 + 0x01 * 2 ^ 40 + ch.chn.moduleId.toNat * 2 ^ 18 + c.val * 2 ^ 16

/-- The first 0x300 bytes of a quote (Table 17-7). [DEDUCED, log entry 156] -/
def Channel.quoteBody (ch : Channel) (c : ChanId) (nonce : List Byte) : List Byte :=
  let x := ch.sec
  let flags := x.lifecycle.code + x.dbgLevel.code * 4 + b2n (!x.keys) * 16 + b2n (ch.chn.state == .recovery) * 32
  leBytes 4 0x54514650 ++ leBytes 2 1 ++ leBytes 2 flags ++ nonce ++ leBytes 8 (ch.idWord c) ++ leBytes 2 ch.wrn.incarnation.toNat
    ++ leBytes 2 0 ++ leBytes 4 x.imageSvn.toNat ++ leBytes 8 ch.evBeat.toNat
    ++ ((List.range 8).flatMap fun i => leBytes 64 (smGet 0 x.mr i).toNat)
    ++ leBytes 64 ((ch.pss.stream.map fun st => st.digest.toNat).getD 0) ++ leBytes 16 ((ch.pss.stream.map fun st => st.jobId.toNat).getD 0)
    ++ leBytes 64 (if x.keys then x.idkHash.toNat else 0) ++ leBytes 16 0

/-- A QUOTE request: nonce and HBM offset. The signature's bytes are the island's own; without an identity key they are zero.
 [DEDUCED, log entry 156; DESIGN CHOICE, log entry 96] -/
def execMbxQuote (c : ChanId) (box : Fin 10) (plain : Option (List Byte)) (s : State) : Result :=
  .next (s.serve c box.val 1 plain fun s1 data =>
    let off := natAt data 64 8
    if data.length ≠ 72 ∨ hbmSize < off + 5395 then s1.refuseBox c box.val 0xA002
    else
      let ch := s1.ch c
      let sig := if ch.sec.keys then freeBytes s1.free 4627 else List.replicate 4627 0
      let s2 := if ch.sec.keys then s1.tookFree 1 else s1
      let body := ch.quoteBody c (data.take 64)
      (s2.onCh c fun k => { k.hbmWrite off (body ++ sig) with sec := { k.sec with quotes := satAdd k.sec.quotes 1 } }).respond c box.val 0 [])

def execMbxMrExtend (c : ChanId) (box : Fin 10) (plain : Option (List Byte)) (s : State) : Result :=
  .next (s.serve c box.val 2 plain fun s1 data =>
    let i := natAt data 0 1
    if data.length ≠ 65 ∨ (i ≠ 6 ∧ i ≠ 7) then s1.refuseBox c box.val 0xA002
    else (s1.onCh c fun ch => { ch with sec := ch.sec.extend i (BitVec.ofNat 512 (natAt data 1 64)) }).respond c box.val 0 [])

end Sys2Proof.Machine
end

