-- ==== Sys2Proof/Machine/Session.lean ====
section
/-! DEFINITION. Secure sessions, installations and settings writes (R362, R363, R367, R368, R383, R384, R398 to R401). -/

namespace Sys2Proof.Machine

/-! ### The handshake (R383, R384, R401) -/

/-- A session whose key the channel knows. -/
inductive HelloKey where
  | refused | vendor | owner (k : Key) | unclaimed
  deriving DecidableEq, Repr

/-- Key that may open a session: the owner host key of an index in FIELD, the vendor service key in MANUFACTURE and RETURN; in RECOVERY
what R362 says; index 0xFF on an unclaimed channel (R401, R402). -/
def Channel.helloKey (ch : Channel) (vendor : Bool) (index : U8) : HelloKey :=
  let x := ch.sec
  let recovery := ch.chn.state == .recovery
  let owners := x.settings.ownerHost
  let vendorOk := match x.lifecycle with
    | .field => recovery && (owners.isEmpty || !x.recKeyOk)
    | _ => true
  let ownerOk := x.lifecycle == .field && (!recovery || x.recKeyOk)
  if vendor then (if vendorOk then .vendor else .refused)
  else if index = 0xFF then
    (if x.lifecycle = .field ∧ owners.isEmpty ∧ !ch.cfg.settingsBad ∧ !recovery then .unclaimed else .refused)
  else if ownerOk then (match owners[index.toNat]? with
    | some k => .owner k
    | none => .refused)
  else .refused

/-- HELLO. The answer's nonce, encapsulation key and certificates are the island's own bytes. `vendor` and `index` are the key it
names. [DEDUCED, log entry 154; DESIGN CHOICE, log entry 96] -/
def execSessionHello (c : ChanId) (vendor : Bool) (index : U8) (s : State) : Result :=
  .next (s.serve c 8 0x10 none fun s1 data => s1.fragment c 8 data fun s2 _ =>
    let ch := s2.ch c
    let x := ch.sec
    let open_ (k : Option Key) (v u : Bool) : State :=
      let q := ((ch.box 8).qp).getD 0
      ((s2.onCh c fun h => { h with sec := { h.sec with
        session := { stage := 1, qp := q, key := k, vendor := v, unclaimed := u } } }).tookFree 2).respond c 8 0
          (freeBytes s2.free (Config.freeValue (s2.free + 1) % 4097))
    if x.session.stage = 3 then s2.refuseBox c 8 0xA003
    else if x.entropyFail ∨ x.dbgLevel = .invasive ∨ !x.keys then s2.refuseBox c 8 0xA004
    else match ch.helloKey vendor index with
      | .refused => s2.refuseBox c 8 0xA004
      | .vendor => open_ none true false
      | .owner k => open_ (some k) false false
      | .unclaimed => open_ none false true)

/-- The QP of S0's request is in the handshake at a stage. -/
def Channel.inHandshake (ch : Channel) (stage : Nat) : Bool :=
  ch.sec.session.stage == stage && (ch.box 8).qp == some ch.sec.session.qp

/-- A handshake that fails leaves no session. [DEDUCED, log entry 154] -/
def State.handshakeBad (s : State) (c : ChanId) : State :=
  let s1 := s.refuseBox c 8 0xA004
  if (s.ch c).sec.session.stage = 3 then s1 else s1.onCh c fun ch => { ch with sec := { ch.sec with session := {} } }

/-- KEM. `sigOk`: the host's signature over the transcript verifies under the key that HELLO named, and the ciphertext decapsulates. On
an unclaimed channel the host sends no signature. [DEDUCED, log entry 154] -/
def execSessionKem (c : ChanId) (sigOk : Bool) (s : State) : Result :=
  .next (s.serve c 8 0x11 none fun s1 data => s1.fragment c 8 data fun s2 _ =>
    let ch := s2.ch c
    if ch.inHandshake 1 && (sigOk || ch.sec.session.unclaimed) then
      (s2.onCh c fun k => { k with sec := { k.sec with session := { k.sec.session with stage := 2 } } }).respond c 8 0 []
    else s2.handshakeBad c)

/-- FINISH: the answer is the island's signature; the QP is bound once it is written.
 [DEDUCED, log entry 154; DESIGN CHOICE, log entry 96] -/
def execSessionFinish (c : ChanId) (s : State) : Result :=
  .next (s.serve c 8 0x12 none fun s1 data => s1.fragment c 8 data fun s2 _ =>
    let ch := s2.ch c
    if ch.inHandshake 2 then
      let s3 := (s2.tookFree 1).respond c 8 0 (freeBytes s2.free 4627)
      let s4 := s3.onCh c fun k => { k with sec := { k.sec with session := { k.sec.session with stage := 3 } } }
      { s4 with ptd := s4.ptd.onQp ch.sec.session.qp fun q => { q with bound := true } }
    else s2.handshakeBad c)

/-! ### Installations (R360 to R363, R367, R368) -/

/-- Refuses an installation; nothing is written. -/
def State.installBad (s : State) (c : ChanId) (m : Nat) : State :=
  (s.onCh c fun ch => { ch with sec := { ch.sec with installBad := satAdd ch.sec.installBad 1 } }).refuseBox c m 0x8006

/-- An object of a bound session that an unclaimed session does not accept; `lifecycle`: the object is a lifecycle record, the only one
accepted in RECOVERY while no lifecycle record is valid. [DEDUCED, log entry 155] -/
def State.install (s : State) (c : ChanId) (m op : Nat) (plain : Option (List Byte)) (lifecycle : Bool)
    (k : State → List Byte → State) : State :=
  s.serve c m op plain fun s1 data =>
    if (s1.ch c).sec.session.unclaimed then s1.refuseBox c m 0xA004
    else s1.fragment c m data fun s2 obj =>
      let ch := s2.ch c
      if ch.chn.state = .recovery ∧ !ch.sec.recKeyOk ∧ !lifecycle then s2.installBad c m else k s2 obj

def isZero (l : List Byte) (off n : Nat) : Bool := natAt l off n == 0

/-- A firmware image as the header checks see it (Table 17-3). -/
def imageOf (f : List Byte) (sigOk : Bool) : ImageSlot :=
  let body := f.drop 0x2000
  let len := natAt f 8 4
  { headerOk := natAt f 0 4 == 0x57464650 && isZero f 6 2 && decide (1 ≤ len) && decide (len ≤ 16769024) && body.length == len
      && natAt f 0x10 2 == 0x2096 && decide (natAt f 0x12 1 ≤ 0x01) && isZero f 0x13 13 && natAt f 0x20 64 == (sha3 body).toNat
      && isZero f 0x60 160 && isZero f (0x100 + 4627) (0x2000 - 0x100 - 4627)
    signatureOk := sigOk
    svn := BitVec.ofNat 32 (natAt f 0xC 4)
    version := BitVec.ofNat 16 (natAt f 4 2)
    bodyDigest := BitVec.ofNat 512 (natAt f 0x20 64)
    headerDigest := sha3 (f.take 0x100) }

/-- A firmware image: verified whole, then written; while it is being written the image in place would fail at a boot.
 [DEDUCED, log entry 164] -/
def execFwInstall (c : ChanId) (box : Fin 2) (plain : Option (List Byte)) (sigOk : Bool) (s : State) : Result :=
  .next (s.install c (8 + box.val) 0x20 plain false fun s1 obj =>
    let img := imageOf obj sigOk
    if img.headerOk && img.signatureOk && decide ((s1.ch c).ser.fwSvn.toNat ≤ img.svn.toNat) then
      (s1.onCh c fun ch => { ch with ser := { ch.ser with image := { headerOk := false }, installing := .image img } }).respond c (8 + box.val) 0 []
    else s1.installBad c (8 + box.val))

/-- A repair map. `bad`: the cores it marks bad; `sigOk`: its vendor signature verifies. [DEDUCED, log entry 164] -/
def execRepairInstall (c : ChanId) (box : Fin 2) (plain : Option (List Byte)) (bad : List Nat) (sigOk : Bool) (s : State) : Result :=
  .next (s.install c (8 + box.val) 0x21 plain false fun s1 obj =>
    if sigOk then
      (s1.onCh c fun ch => { ch with ser := { ch.ser with
        repair := { bad := bad, signatureOk := true, digest := sha3 obj }, installing := .other } }).respond c (8 + box.val) 0 []
    else s1.installBad c (8 + box.val))

/-- The transitions of Table 17-8, by a vendor or an owner session. [DEDUCED, log entry 161] -/
def lifecycleStep (a b : Lifecycle) (vendor : Bool) : Bool :=
  match a, b with
  | .manufacture, .field => vendor
  | .field, .return_ => !vendor
  | .return_, .field => vendor
  | .return_, .manufacture => vendor
  | _, _ => false

/-- [DEDUCED, log entry 161] -/
def lifecycleOf (n : Nat) : Option Lifecycle :=
  if n = 0 then some .manufacture else if n = 1 then some .field else if n = 2 then some .return_ else none

/-- A lifecycle record (R367) that is valid for the identity and may follow the one in place. [DEDUCED, log entry 161] -/
def Channel.recordOk (ch : Channel) (f : List Byte) (sigOk : Bool) : Option LcRecord :=
  let seq := natAt f 8 4
  match lifecycleOf (natAt f 4 1) with
  | none => none
  | some lc =>
    if f.length = 4755 ∧ natAt f 0 4 = 0x434C4650 ∧ isZero f 5 3 ∧ isZero f 0xC 4 ∧ isZero f 0x50 48 ∧ sigOk ∧ ch.sec.keys
        ∧ natAt f 0x10 64 = ch.sec.idkHash.toNat ∧ ch.ser.lcSeq.toNat < seq ∧ lifecycleStep ch.sec.lifecycle lc ch.sec.session.vendor then
      some { lc := lc, seq := BitVec.ofNat 32 seq, idkHash := ch.sec.idkHash, signatureOk := true, digest := sha3 f }
    else none

/-- The settings block at its factory defaults, in effect: an empty list. [DESIGN CHOICE, log entry 163] -/
def Serial.eraseSettings (x : Serial) (digest : U512) : Serial :=
  { x with setA := { valid := true, seq := x.setSeq, digest := digest }, setB := {} }

/-- A lifecycle record: written, LC_SEQ advanced, and the channel reset, with the effect of Table 17-8. [DEDUCED, log entry 161] -/
def execLifecycleInstall (c : ChanId) (box : Fin 2) (plain : Option (List Byte)) (sigOk : Bool) (s : State) : Result :=
  .next (s.install c (8 + box.val) 0x22 plain true fun s1 obj =>
    match (s1.ch c).recordOk obj sigOk with
    | none => s1.installBad c (8 + box.val)
    | some r =>
      let erase := r.lc == .return_
      let s2 := (s1.onCh c fun ch =>
        let x := { ch.ser with lc := r, lcSeq := r.seq }
        { ch with ser := if erase then x.eraseSettings (BitVec.ofNat 512 s1.freeVal) else x }).tookFree 1
      (s2.respond c (8 + box.val) 0 []).resetChannel c)

/-- A write of a recovery object has ended; in RECOVERY the channel resets itself. [DEDUCED, log entry 164] -/
def execInstallWriteDone (c : ChanId) (s : State) : Result :=
  let ch := s.ch c
  if ch.ser.installing = .none then .next s
  else
    let s1 := s.onCh c fun k => { k with ser := { k.ser with
      installing := .none
      image := match ch.ser.installing with
        | .image i => i
        | _ => k.ser.image } }
    .next (if ch.chn.state = .recovery then s1.resetChannel c else s1)

/-! ### Settings (R398 to R401) -/

/-- TLVs of a list: type, length and value, each padded with zeros to 8 bytes; none when the bytes do not divide so. -/
def tlvsOf : Nat → List Byte → Option (List (Nat × List Byte))
  | 0, _ => none
  | n + 1, f =>
    if f.isEmpty then some []
    else
      let len := natAt f 2 2
      let size := (4 + len + 7) / 8 * 8
      if f.length < size ∨ !isZero f (4 + len) (size - 4 - len) then none
      else (tlvsOf n (f.drop size)).map fun r => (natAt f 0 2, (f.drop 4).take len) :: r

/-- Length of the value of a channel's settings TLV (Table 19-4); none for a type that a channel block may not hold. -/
def tlvLen (t : Nat) : Option Nat :=
  if t = 1 ∨ t = 2 ∨ t = 3 ∨ t = 5 then some 2592 else if t = 4 ∨ t = 6 ∨ t = 7 then some 1 else none

/-- A list that R399 does not refuse. [DEDUCED, log entry 162] -/
def tlvsOk (l : List (Nat × List Byte)) : Bool :=
  l.all (fun e => tlvLen e.1 == some e.2.length)
    && ((List.range 8).all fun t => t == 1 || decide (countIf (fun e => e.1 == t) l ≤ 1))
    && decide (countIf (fun e => e.1 == 1) l ≤ 4)

/-- A public key, named by its digest. [DEDUCED, log entry 197] -/
def keyOf (v : List Byte) : Key := (sha3 v).toNat
def tlvKey (l : List (Nat × List Byte)) (t : Nat) : Option Key := (l.find? fun e => e.1 == t).map fun e => keyOf e.2
/-- [DEDUCED, log entry 162] -/
def tlvFlag (l : List (Nat × List Byte)) (t : Nat) : Bool := l.any fun e => e.1 == t && leNat e.2 == 1

/-- The settings that a list gives. -/
def settingsOf (l : List (Nat × List Byte)) : Settings where
  ownerHost := (l.filter fun e => e.1 == 1).map fun e => keyOf e.2
  ownerDebug := tlvKey l 2
  streamKey := tlvKey l 3
  streamSigRequired := tlvFlag l 4
  domainKey := tlvKey l 5
  invasiveAllow := tlvFlag l 6
  vendorObserve := tlvFlag l 7

/-- Writes the slot not in effect and advances SET_SEQ; the block is then in effect (R398). MR2 takes its digest, which the manual does
not tie to particular bytes, and MR5 the digest of its domain key (R364). [DESIGN CHOICE, log entry 163] -/
def State.writeSettings (s : State) (c : ChanId) (set : Settings) : State :=
  let d : U512 := BitVec.ofNat 512 s.freeVal
  (s.tookFree 1).onCh c fun ch =>
    let seq := ch.ser.setSeq + 1
    let slot : SettingsSlot := { valid := true, seq := seq, settings := set, digest := d }
    let toB := !ch.cfg.setSlot
    let x := ch.sec.extend 2 d
    let x := match set.domainKey with
      | some k => x.extend 5 (BitVec.ofNat 512 k)
      | none => x
    { ch with
      ser := { ch.ser with setSeq := seq, setA := if toB then ch.ser.setA else slot, setB := if toB then slot else ch.ser.setB }
      sec := { x with settings := set }
      cfg := { ch.cfg with setSeq := seq, setSlot := toB } }

/-- The session may write settings: an owner's in FIELD, a vendor's otherwise (R400). [DEDUCED, log entry 162] -/
def Channel.maySet (ch : Channel) : Bool :=
  match ch.sec.lifecycle with
  | .field => !ch.sec.session.vendor
  | _ => ch.sec.session.vendor

/-- [DEDUCED, log entries 155 and 162] -/
def execSettingsWrite (c : ChanId) (box : Fin 2) (plain : Option (List Byte)) (s : State) : Result :=
  let m := 8 + box.val
  .next (s.serve c m 0x30 plain fun s1 data => s1.fragment c m data fun s2 obj =>
    let ch := s2.ch c
    match tlvsOf (obj.length + 1) obj with
    | none => s2.refuseBox c m 0x8008
    | some l =>
      let set := settingsOf l
      if ch.sec.session.unclaimed ∧ set.ownerHost.isEmpty then s2.refuseBox c m 0xA004
      else if !tlvsOk l ∨ !ch.maySet ∨ 65488 < obj.length ∨ ch.chn.state = .recovery then s2.refuseBox c m 0x8008
      else if ch.ser.setSeq = BitVec.allOnes 32 then s2.installBad c m
      else ((s2.writeSettings c set).onCh c fun k => k.raiseBox c 0x800A m).respond c m 0 [])

end Sys2Proof.Machine
end

