-- ==== Sys2Proof/Machine/Startup.lean ====
section
/-! DEFINITION. Boot, calibration, the history ring, the calibration record, leaving, and scrub (R275, R277, R282, R322, R339, R350,
R361, R362, R364, R389, R395 to R398, R402, R403, R406). -/

namespace Sys2Proof.Machine

/-! ### Notifications toward the channel (R380, R389) -/

/-- Notifications of an inbound doorbell: channel firmware, or the ROM in RECOVERY, is interrupted and serves the mailboxes; during BOOT
they stay pending. Ring bits are the caller's. -/
def State.notifyBoxes (s : State) (c : ChanId) (g : Nat) (note : U32) : State :=
  if note = 0 then s
  else
    let s1 := s.emit (.fwInterrupt c note (g == 2))
    (List.range (if g = 0 then 8 else 2)).foldl (fun (r : State) i =>
      if note.getLsbD i then r.serveBox c (if g = 0 then i else 8 + i) else r) s1

/-! ### Boot (Table 17-4) -/

/-- A lifecycle record is valid for the channel's identity and counter (R368). -/
def Serial.recordValid (x : Serial) : Bool :=
  x.pufOk && x.regionOk && x.lc.signatureOk && x.lc.idkHash == x.pufIdk && x.lc.seq == x.lcSeq

/-- The first step of Table 17-4 that fails. [DEDUCED, log entry 165] -/
def Serial.bootCause (x : Serial) : RecCause :=
  if !x.pufOk then .puf
  else if !x.image.headerOk || !x.image.signatureOk then .image
  else if !x.regionOk then .counter
  else if x.image.svn.toNat < x.fwSvn.toNat then .rollback
  else if !x.repair.signatureOk then .repair
  else if !x.recordValid then .lifecycle
  else .none

/-- Settings of a channel whose slots do not qualify: factory defaults that demand signed streams. [DEDUCED, log entry 165] -/
def refusedSettings : Settings := { streamSigRequired := true }

/-- The settings as boot finds them, with their status bits and events; without keys there are none. [DEDUCED, log entry 165] -/
def Channel.bootSettings (ch : Channel) (c : ChanId) : Channel :=
  if !ch.ser.pufOk then ch
  else match ch.ser.settingsSlot with
    | some (y, b, old) =>
      let k := { ch with
        sec := { ch.sec with settings := y.settings }
        cfg := { ch.cfg with setSeq := y.seq, setSlot := b, settingsOld := old } }
      if old then k.raise c 0x8009 else k
    | none =>
      { ch with sec := { ch.sec with settings := refusedSettings }, cfg := { ch.cfg with settingsBad := true } }.raise c 0x8008

/-- The cores that the repair map marks bad. -/
def Channel.loadRepair (ch : Channel) : Channel :=
  let k := ch.ser.repair.bad.foldl (fun (h : Channel) p => h.onHealth p fun x => { x with bad := true }) ch
  { k with chn := { k.chn with good := BitVec.ofNat 8 (countIf k.goodCore (List.range 136)) } }

/-- MR0 to MR3 at the end of boot (Table 17-6): each digest that exists. [DEDUCED, log entry 165; DESIGN CHOICE, log entry 163] -/
def Sec.measureBoot (x : Sec) (y : Serial) : Sec :=
  let x := (x.extend 0 y.image.bodyDigest).extend 0 y.image.headerDigest
  let x := x.extend 1 y.repair.digest
  let x := match y.calSlot with
    | some k => x.extend 1 k.digest
    | none => x
  let x := x.extend 1 y.pufDigest
  let x := match y.settingsSlot with
    | some e => x.extend 2 e.1.digest
    | none => x
  x.extend 3 y.lc.digest

/-- The calibration record (R322, R398). -/
def Channel.loadCalibration (ch : Channel) : Channel :=
  match ch.ser.calSlot with
  | none => { ch with cfg := { ch.cfg with calBad := true } }
  | some k => { ch with ledg := { ch.ledg with k := BitVec.ofNat 18 (k.k.getD 0x10000) } }

/-- Pending notifications of the inbound doorbells. -/
def Channel.pendingBits (ch : Channel) (g : Nat) : U32 := (ch.db g).val &&& ~~~(ch.db g).mask

/-- The boot ROM ends its checks. `selftestOk`: the island's self-tests passed; without that the channel stays in BOOT.
 [DEDUCED, log entries 29 and 165; DESIGN CHOICE, log entry 127] -/
def State.boot (s : State) (c : ChanId) (selftestOk : Bool) : State :=
  let ch := s.ch c
  if ch.chn.state ≠ .boot ∨ ch.domain.st = .off ∨ ch.sec.selftestFail then s
  else if !selftestOk then s.onCh c fun k => { k with sec := { k.sec with selftestFail := true } }
  else
    let y := ch.ser
    let cause := y.bootCause
    let s1 := s.onCh c fun k =>
      let k := { k with sec := { k.sec with
        keys := y.pufOk, idkHash := if y.pufOk then y.pufIdk else 0, lifecycle := y.lc.lc, recKeyOk := y.recordValid
        imageSvn := y.image.svn, cause := cause } }
      k.bootSettings c
    if cause ≠ .none then
      let s2 := s1.onCh c fun k => { k with chn := { k.chn with state := .recovery } }.raise c 0x8001
      (s2.notifyBoxes c 0 ((s2.ch c).pendingBits 0)).notifyBoxes c 2 ((s2.ch c).pendingBits 2)
    else
      (s1.onCh c fun k =>
        let k := { k with
          chn := { k.chn with state := .calibrate }
          sec := k.sec.measureBoot y
          cfg := { k.cfg with calMs := BitVec.ofNat 16 (s.freeVal % 73) } }
        k.loadRepair.loadCalibration).tookFree 1 |>.grantNow c

/-! ### Calibration (R277, R339, R395) -/

/-- HBM has been trained and written with zeros. [DEDUCED, log entry 129] -/
def execHbmTrainDone (c : ChanId) (s : State) : Result :=
  let ch := s.ch c
  if ch.chn.state ≠ .calibrate ∨ ch.cfg.hbmReady then .next s
  else .next ((s.onCh c fun k => { k with
    mem := { k.mem with hbm := [], hbmPoison := [], hbmErr := [] }
    cfg := { k.cfg with hbmReady := true } }).tryJoin c)

/-- A port after training: one that is not enabled was not trained. -/
def CxlTrain.port (t : CxlTrain) (enabled : Bool) : CxlPort :=
  if enabled && t.up then { st := 2, width := t.width, rate := t.rate, capGib := t.capGib } else {}

/-- The CXL map (R277): interleaved span, linear span and its port, capped at 4 TiB. -/
def cxlMap (p0 p1 : CxlPort) : Nat × Nat × BitVec 1 :=
  let a := p0.capGib.toNat
  let b := p1.capGib.toNat
  if p0.isUp && p1.isUp then
    let ilv := min 4096 (2 * min a b)
    (ilv, min (4096 - ilv) (max a b - min a b), if a < b then 1 else 0)
  else if p0.isUp then (0, min 4096 a, 0)
  else if p1.isUp then (0, min 4096 b, 1)
  else (0, 0, 0)

def execCxlTrainDone (c : ChanId) (port0 port1 : CxlTrain) (s : State) : Result :=
  let ch := s.ch c
  if ch.chn.state ≠ .calibrate ∨ ch.cfg.cxlDone then .next s
  else
    let p0 := port0.port (ch.cxl.portEn.getLsbD 0)
    let p1 := port1.port (ch.cxl.portEn.getLsbD 1)
    let m := cxlMap p0 p1
    .next ((s.onCh c fun k => { k with
      cxl := { k.cxl with
        port0 := p0, port1 := p1, ilvGib := BitVec.ofNat 16 m.1, linGib := BitVec.ofNat 16 m.2.1, linPort := m.2.2 }
      cfg := { k.cfg with cxlDone := true } }).tryJoin c)

/-- The scan-pattern store has been copied to the Badger area and checked; a copy that fails its digest leaves Owl disabled. -/
def execScanStoreCheck (c : ChanId) (s : State) : Result :=
  let ch := s.ch c
  if !ch.cfg.hbmReady ∨ ch.cfg.storeCopied then .next s
  else .next (s.onCh c fun k =>
    let k := { k with cfg := { k.cfg with storeCopied := true }, owl := { k.owl with storeRev := k.ser.storeRev } }
    if k.ser.storeOk then { k with owl := { k.owl with storeOk := true } }
    else { k with owl := { k.owl with storeBad := true } }.raise c 0x700E)

/-! ### The fault-history ring (R350, R403) -/

/-- Records of the ring, oldest first: those after the write position, then those before it. -/
def Serial.history (x : Serial) : List FaultRec :=
  let h := x.ringHead.toNat
  ((x.ring.filter fun e => h ≤ e.1) ++ (x.ring.filter fun e => e.1 < h)).map (·.2)

/-- The unit that a record names (Table 16-2). -/
def FaultRec.suspect (r : FaultRec) : SuspectUnit :=
  let i := r.unit.toNat % 256
  match r.unit.toNat / 2 ^ 28 with
  | 1 => .pchan i
  | 2 => .link i
  | 3 => .cxlPort i
  | _ => .core i

/-- What one record adds to the Badger's history: a core classified permanent stays fenced; a transient counts, and so does an unresolved
incident for each core it names; an incident of another unit counts when it opened. [DEDUCED, log entry 167] -/
def Channel.recall (ch : Channel) (r : FaultRec) : Channel :=
  let transient (k : Channel) (p : Nat) : Channel := k.onHealth p fun h => { h with transients := h.transients ++ [r.time] }
  match r.suspect with
  | .core p =>
    if r.cls = 2 then ch.onHealth p fun h => { h with permanent := true }
    else if r.cls = 1 then transient ch p
    else if r.cls = 3 then
      ([p, r.partners.toNat % 256, r.partners.toNat / 256 % 256].filter fun q => decide (q < 136)).foldl transient ch
    else ch
  | u => if r.cls = 0 then { ch with bdg := { ch.bdg with unitHist := ch.bdg.unitHist ++ [(u, r.time)] } } else ch

/-- The Badger reads the ring; an unreadable one is erased whole. [DEDUCED, log entry 167] -/
def execHistoryRingLoad (c : ChanId) (s : State) : Result :=
  let ch := s.ch c
  if ch.chn.state ≠ .calibrate then .next s
  else if ch.ser.ringBad then
    .next (s.onCh c fun k => { k with
      ser := { k.ser with ring := [], ringHead := 0, ringBad := false }
      cfg := { k.cfg with histBad := true } }.raise c 0x2007)
  else .next (s.onCh c fun k =>
    let clean := (List.range 136).foldl (fun (h : Channel) p => h.onHealth p fun x => { x with permanent := false, transients := [] })
      { k with bdg := { k.bdg with unitHist := [] } }
    let l := k.ser.history
    let k := l.foldl (fun (h : Channel) r => h.recall r) clean
    match l.getLast? with
    | some r => { k with bdg := { k.bdg with lastRec := r, hasRec := true } }
    | none => k)

/-! ### The calibration record (R322, R398) -/

/-- Whether K differs by 1 % or more from the stored value. [DEDUCED, log entry 168] -/
def kDiffers (k stored : Nat) : Bool := decide (stored ≤ 100 * ((k - stored) + (stored - k)))

/-- Once per hour K is written to the slot that is not in effect. [DEDUCED, log entry 168; DESIGN CHOICE, log entry 163] -/
def execCalKWriteback (c : ChanId) (s : State) : Result :=
  let ch := s.ch c
  let cur := ch.ser.calSlot
  let stored := ((cur.bind (·.k))).getD 0x10000
  if !ch.calibrated ∨ !kDiffers ch.ledg.k.toNat stored then .next s
  else
    let slot : CalSlot :=
      { valid := true, seq := match cur with
          | some x => x.seq + 1
          | none => 1
        units := (cur.map (·.units)).getD [], other := (cur.map (·.other)).getD [], k := some ch.ledg.k.toNat, digest := BitVec.ofNat 512 s.freeVal }
    let toA := cur.isSome && cur != some ch.ser.calA
    .next ((s.onCh c fun k => { k with ser := if toA ∨ cur.isNone then { k.ser with calA := slot } else { k.ser with calB := slot } }).tookFree 1)

/-! ### Scrub (R275, R282) -/

/-- One step of the HBM patrol scrub. `bad`: bad symbols that the line has gathered since it was last read.
 [DEDUCED, log entry 115; DESIGN CHOICE, log entry 166] -/
def execHbmPatrolScrubStep (c : ChanId) (bad : Nat) (s : State) : Result :=
  let ch := s.ch c
  if !ch.cfg.hbmReady then .next s
  else
    let line := ch.mem.pos.toNat / 64
    let s1 := s.onCh c fun k => { k with mem := { k.mem with hbmErr := smMod 0 k.mem.hbmErr line fun n => n + bad } }
    let s2 := (s1.readLine c .hbmScrub line).1
    let ends := decide (hbmSize ≤ (line + 1) * 64)
    .next (s2.onCh c fun k => { k with mem := { k.mem with
      pos := BitVec.ofNat 38 (if ends then 0 else (line + 1) * 64)
      passes := if ends then satAdd k.mem.passes 1 else k.mem.passes } })

/-- One step of the SRAM scrub of physical core p. `bad`: bad bits that the word has gathered.
 [DEDUCED, log entry 115; DESIGN CHOICE, log entry 166] -/
def execSramScrubStep (c : ChanId) (p : Nat) (bad : Nat) (s : State) : Result :=
  let ch := s.ch c
  let off := (ch.domainOf p).st == .off || ch.domain.st == .off
  if 136 ≤ p ∨ off ∨ !ch.calibrated then .next s
  else
    let i := smGet 0 ch.mem.sramPos p
    let word := p * 2 ^ 19 + i
    let s1 := s.onCh c fun k => { k with mem := { k.mem with sramErr := smMod 0 k.mem.sramErr word fun n => n + bad } }
    let s2 := (s1.readWord c .sramScrub word).1
    .next (s2.onCh c fun k => { k with mem := { k.mem with sramPos := smSet 0 k.mem.sramPos p ((i + 1) % 2 ^ 19) } })

/-- A scrub pass is not complete by its deadline; it continues. -/
def execScrubDeadline (c : ChanId) (s : State) : Result :=
  if !(s.ch c).cfg.hbmReady then .next s
  else .next (s.onCh c fun ch => { ch with mem := { ch.mem with scrubLate := true } }.raise c 0x2003)

/-! ### Leaving (R406) -/

/-- LEAVE of a channel with a stream. [DEDUCED, log entries 121 and 140] -/
def State.leaveAtBoundary (s : State) (c : ChanId) : State :=
  let s1 := if (s.ch c).upd.inStep then s.flagFail c else s
  s1.onCh c fun k =>
    let k := if k.pss.phase = .verifying then { k with pss := { k.pss with
      phase := k.pss.verifyFrom, code := 3, section_ := 0xFFF, detail := 0 } } else k
    { k with cfg := { k.cfg with leaveReq := true } }.requestUnload

/-- CFG_CTRL.LEAVE: without a stream the channel leaves at once, with its windows withdrawn; with one it flags FAIL for a step in
progress, gives up a load that is VERIFYING, and leaves at the next boundary. [DEDUCED, log entry 121] -/
def State.leave (s : State) (c : ChanId) : State :=
  let ch := s.ch c
  match ch.chn.state with
  | .calibrate => s.onCh c fun k => { k with
      chn := { k.chn with state := .leaving }, pss := { k.pss with withdrawn := true, winOpen := false }
      cfg := { k.cfg with left := true } }.raise c 0x9007
  | .joined => s.onCh c fun k =>
      let k := if k.pss.phase = .verifying then { k with pss := { k.pss with phase := .empty, code := 3, section_ := 0xFFF, detail := 0 } } else k
      { k with
        chn := { k.chn with state := .leaving }, pss := { k.pss with withdrawn := true, winOpen := false }
        cfg := { k.cfg with left := true } }.raise c 0x9007
  | .loaded => s.leaveAtBoundary c
  | .running => s.leaveAtBoundary c
  | _ => s
end Sys2Proof.Machine
end

