-- ==== Sys2Proof/Machine/Ring.lean ====
section
/-! DEFINITION. Command rings, notifications and doorbell writes (R205, R379, R380, R385, R386, R389). -/

namespace Sys2Proof.Machine

/-! ### Rings (R385) -/

def Channel.ring (ch : Channel) (n : Nat) : Ring := smGet {} ch.mbx.rings n
def Channel.onRing (ch : Channel) (n : Nat) (f : Ring → Ring) : Channel :=
  { ch with mbx := { ch.mbx with rings := smMod {} ch.mbx.rings n f } }
/-- Entries are 2^LOG2; a LOG2 below 4 acts as 4. [DEDUCED, log entry 169] -/
def Ring.log (r : Ring) : Nat := max 4 r.log2.toNat
def Ring.entryAt (r : Ring) (count : Nat) : Nat := r.base.toNat + count % 2 ^ r.log * 64

def parseEntry (l : List Byte) : CmdEntry where
  opcode := BitVec.ofNat 8 (natAt l 0 1)
  flags := BitVec.ofNat 8 (natAt l 1 1)
  rsvd16 := BitVec.ofNat 16 (natAt l 2 2)
  tag := BitVec.ofNat 32 (natAt l 4 4)
  rsvd64 := BitVec.ofNat 64 (natAt l 8 8)
  body := (l.drop 16).take 48

def CmdEntry.phase (e : CmdEntry) : Bool := e.flags.getLsbD 0
def CmdEntry.quiet (e : CmdEntry) : Bool := e.flags.getLsbD 1

/-- Zero bytes of the body that each opcode demands: offset and count (Table 18-5). -/
def cmdZero (op : Nat) : Option (List (Nat × Nat)) :=
  match op with
  | 1 => some [(32, 16)]
  | 2 => some [(5, 3), (16, 32)]
  | 3 => some [(3, 45)]
  | 4 => some [(3, 1), (7, 1), (16, 32)]
  | 5 => some [(0, 48)]
  | _ => none

/-- A known opcode, and every reserved field zero (R386). [DEDUCED, log entry 170] -/
def CmdEntry.wellFormed (e : CmdEntry) : Bool :=
  e.flags &&& 0xFC == 0 && e.rsvd16 == 0 && e.rsvd64 == 0
    && match cmdZero e.opcode.toNat with
      | some l => l.all fun z => isZero e.body z.1 z.2
      | none => false

/-- Posts the completion of a command; a QUIET command that succeeded has none. -/
def Channel.completion (ch : Channel) (c : ChanId) (ring : Nat) (e : CmdEntry) (code : Nat) : Channel :=
  if code = 0 ∧ e.quiet then ch
  else
    let r := mkEvent code (chanSrc c) ch.evBeat (some (ring + e.opcode.toNat * 2 ^ 16)) e.tag.toNat
    { ch with events := ch.events ++ [{ r with cls := 0, completion := true }] }

/-- Channel firmware consumes the entries of counts CI to PI − 1: a command waits for its turn in the ring, one that cannot be a command
completes with HOST_CMD_BAD, and so does an entry in a poisoned line. An entry whose PHASE is wrong stops the ring.
 [DEDUCED, log entry 170] -/
def State.consumeRing (c : ChanId) (n : Nat) : Nat → State → State
  | 0, s => s
  | fuel + 1, s =>
    let ch := s.ch c
    let r := ch.ring n
    let at_ := r.entryAt r.ci.toNat
    if !r.en ∨ r.ci = r.pi ∨ hbmSize < at_ + 64 then s
    else
      let q := s.checkHbm c at_ 64
      let e := parseEntry (ch.hbmBytes at_ 64)
      let next (t : State) : State := t.onCh c fun k => k.onRing n fun x => { x with ci := x.ci + 1 }
      if !q.2 then consumeRing c n fuel (next (q.1.onCh c fun k => k.completion c n {} 0xA005))
      else if e.phase ≠ r.ci.getLsbD r.log then
        q.1.onCh c fun k => { k with mbx := { k.mbx with phaseWait := satAdd k.mbx.phaseWait 1 } }
      else if !e.wellFormed then consumeRing c n fuel (next (q.1.onCh c fun k => k.completion c n e 0xA005))
      else consumeRing c n fuel (next (q.1.onCh c fun k => { k with mbx := { k.mbx with
        cmds := k.mbx.cmds ++ [{ ring := n, count := r.ci, entry := e }] } }))

/-- A write of MBX_RINGn_PI: more entries than the ring holds leave PI as it was. -/
def Channel.writeRingPi (ch : Channel) (c : ChanId) (n : Nat) (v : U16) : Channel :=
  let r := ch.ring n
  if 2 ^ r.log < (v - r.ci).toNat then
    { ch with events := ch.events ++ [{ mkEvent 0xA005 (chanSrc c) ch.evBeat (some n) 0 with cls := 0 }] }
  else ch.onRing n fun x => { x with pi := v }

/-- A write of MBX_RINGn: LOG2 and BASE only while EN is 0. [DEDUCED, log entry 187] -/
def Channel.writeRing (ch : Channel) (n : Nat) (v : U64) : Channel :=
  ch.onRing n fun r =>
    if r.en then { r with en := bit v 63 }
    else { r with en := bit v 63, log2 := BitVec.ofNat 4 (bits v 59 56), base := BitVec.ofNat 38 (bits v 37 12 * 4096) }

/-! ### The commands of a ring (R386) -/

/-- The oldest command of a ring that has not completed. -/
def Channel.ringHead (ch : Channel) (n : Nat) : Option RingCmd := ch.mbx.cmds.find? fun x => x.ring == n

/-- Completes the oldest command of a ring. -/
def Channel.finishCmd (ch : Channel) (c : ChanId) (x : RingCmd) (code : Nat) : Channel :=
  { ch with mbx := { ch.mbx with cmds := ch.mbx.cmds.filter fun y => y != x } }.completion c x.ring x.entry code

/-- The oldest command of a ring, when it has the opcode. -/
def State.onCmd (s : State) (c : ChanId) (n op : Nat) (k : RingCmd → State) : State :=
  match (s.ch c).ringHead n with
  | some x => if x.entry.opcode.toNat = op ∧ !(s.ch c).dead then k x else s
  | none => s

/-- STEP: the step descriptor is accepted or refused. -/
def execCmdStep (c : ChanId) (ring : Fin 8) (s : State) : Result :=
  .next (s.onCmd c ring.val 1 fun x =>
    let b := x.entry.body
    let d : StepDesc :=
      { sJob := BitVec.ofNat 32 (natAt b 0 4), restart := natAt b 4 1 % 2 == 1, epoch := BitVec.ofNat 16 (natAt b 6 2) }
    let ok := decide (natAt b 4 1 < 2) && isZero b 5 1 && isZero b 8 24
    let s := if d.restart ∧ ((s.ch c).stepDescriptor c d ok).2 then s.discardAhead c else s
    s.onCh c fun ch =>
      let r := ch.stepDescriptor c d ok
      r.1.finishCmd c x (if r.2 then 0 else 0x6002))

/-- A key-value command runs as a task of channel firmware from the next beat start; without a stream it completes with
HOST_CMD_BAD. [DEDUCED, log entry 84] -/
def State.kvCmd (s : State) (c : ChanId) (x : RingCmd) (f : State → State × Bool) : State :=
  let ch := s.ch c
  if ch.pss.stream.isNone then s.onCh c fun k => k.finishCmd c x 0xA005
  else if !ch.running then s
  else
    let r := f s
    r.1.onCh c fun k => k.finishCmd c x (if r.2 then 0 else k.tsk.lastCode.toNat)

/-- [DEDUCED, log entry 84] -/
def execCmdKvOpen (c : ChanId) (ring : Fin 8) (s : State) : Result :=
  .next (s.onCmd c ring.val 2 fun x =>
    let b := x.entry.body
    s.kvCmd c x fun t => t.kvOpen c none (natAt b 0 3) (natAt b 4 1) (natAt b 3 1) (natAt b 8 4) (natAt b 12 4))

/-- [DEDUCED, log entry 84] -/
def execCmdKvRelease (c : ChanId) (ring : Fin 8) (s : State) : Result :=
  .next (s.onCmd c ring.val 3 fun x => s.kvCmd c x fun t => t.kvRelease c none (natAt x.entry.body 0 3))

/-- [DEDUCED, log entries 83 and 84] -/
def execCmdKvShare (c : ChanId) (ring : Fin 8) (s : State) : Result :=
  .next (s.onCmd c ring.val 4 fun x =>
    let b := x.entry.body
    s.kvCmd c x fun t => t.kvShare c none (natAt b 0 3) (natAt b 4 3) (natAt b 8 4) (natAt b 12 4))

/-- A NOP completes when every earlier entry of its ring has. -/
def execCmdNop (c : ChanId) (ring : Fin 8) (s : State) : Result :=
  .next (s.onCmd c ring.val 5 fun x => s.onCh c fun ch => ch.finishCmd c x 0)

/-! ### Doorbells (R379, R380, R389) -/

/-- An inbound notification. During BOOT it stays pending; a channel that drains or is DEAD serves none; in RECOVERY ring commands are not
consumed. [DEDUCED, log entry 150] -/
def State.notifyIn (s : State) (c : ChanId) (g : Nat) (note : U32) : State :=
  let ch := s.ch c
  if note = 0 ∨ ch.chn.state = .boot ∨ ch.chn.state = .reset ∨ ch.dead ∨ ch.domain.st = .draining then s
  else
    let s1 := s.notifyBoxes c g note
    if g ≠ 0 ∨ ch.chn.state = .recovery then s1
    else (List.range 8).foldl (fun (r : State) n =>
      if note.getLsbD (8 + n) then (r.onCh c fun k => k.clrDb 0 (BitVec.ofNat 32 (2 ^ (8 + n)))).consumeRing c n 65536 else r) s1

/-- BOOT_COMPLETE: boot, and then the notifications that waited for it. -/
def execBootComplete (c : ChanId) (selftestOk : Bool) (s : State) : Result :=
  let s1 := s.boot c selftestOk
  if (s.ch c).chn.state = .boot ∧ (s1.ch c).chn.state = .calibrate then
    .next ((s1.notifyIn c 0 ((s1.ch c).pendingBits 0)).notifyIn c 2 ((s1.ch c).pendingBits 2))
  else .next s1

/-- A SET of an inbound doorbell by the host port. -/
def State.setIn (s : State) (c : ChanId) (g : Nat) (v : U32) : State :=
  let d := (s.ch c).db g
  let w := v &&& usedBits g
  (s.onCh c fun ch => ch.onDb g fun x => { x with val := x.val ||| w }).notifyIn c g (w &&& ~~~d.val &&& ~~~d.mask)

def Channel.dbRefused (ch : Channel) : Channel := { ch with mbx := { ch.mbx with dbRefused := satAdd ch.mbx.dbRefused 1 } }

def Writer.isHost (w : Writer) : Bool := w == .host || w == .secureHost

/-- Writes of SET, CLR and MASK: by the writers of R379, and refused to any other. -/
def State.writeDbSet (s : State) (c : ChanId) (w : Writer) (g : Nat) (v : U32) : State :=
  if g = 0 ∨ g = 2 then (if w.isHost then s.setIn c g v else s.onCh c Channel.dbRefused)
  else if w = .firmware then s.onCh c fun ch => ch.setOut c g v
  else s.onCh c Channel.dbRefused

/-- [DEDUCED, log entry 171] -/
def State.writeDbClr (s : State) (c : ChanId) (w : Writer) (g : Nat) (v : U32) : State :=
  if (g = 0 ∨ g = 2) ∧ w ≠ .firmware then s.onCh c Channel.dbRefused else s.onCh c fun ch => ch.clrDb g (v &&& usedBits g)

/-- Unmasking a set bit notifies its receiver. -/
def State.writeDbMask (s : State) (c : ChanId) (w : Writer) (g : Nat) (v : U32) : State :=
  if w ≠ .firmware then s.onCh c Channel.dbRefused
  else
    let d := (s.ch c).db g
    let m := v &&& usedBits g
    let note := d.val &&& d.mask &&& ~~~m
    let s1 := s.onCh c fun ch => ch.onDb g fun x => { x with mask := m }
    if g = 0 ∨ g = 2 then s1.notifyIn c g note else s1.onCh c fun ch => ch.notifyOut c g note

/-- A SIGNAL with RING sets a bit of the non-secure outbound doorbell: 24 + ADDR[5:3] (R380). -/
def Channel.signalRing (ch : Channel) (c : ChanId) (addr : Nat) : Channel :=
  ch.setOut c 1 (BitVec.ofNat 32 (2 ^ (24 + addr / 8 % 8)))

end Sys2Proof.Machine
end

