-- ==== Sys2Proof/Machine/Events.lean ====
section
/-! DEFINITION. Event records: posting, retention and loss (R387 to R389, R414). -/

namespace Sys2Proof.Machine

def Ptd.qp? (p : Ptd) (n : Nat) : Option Qp := p.qps.find? fun q => q.num == n
def Ptd.port (p : Ptd) (n : Nat) : EthPort := smGet {} p.ports n
def Ptd.onPort (p : Ptd) (n : Nat) (f : EthPort → EthPort) : Ptd := { p with ports := smMod {} p.ports n f }

/-- The host port is available. [DEDUCED, log entry 139] -/
def Ptd.hostUp (p : Ptd) : Bool := p.up && !p.failed

/-- A QP that can carry records: it exists, has not failed, and its port has link; a channel's records need a QP of that channel. -/
def Ptd.qpCarries (p : Ptd) (n : Nat) (target : Option Nat) : Bool :=
  p.hostUp && match p.qp? n with
    | some q => !q.error && (p.port q.port).linkUp && target.all (· == q.target)
    | none => false

/-- Entries of a queue: 2^LOG2, and a LOG2 below 4 acts as 4. [DEDUCED, log entry 169] -/
def EvQueue.size (q : EvQueue) : Nat := 2 ^ max 4 q.log2.toNat
/-- The queue can take a record. [DEDUCED, log entry 187] -/
def EvQueue.ready (q : EvQueue) (p : Ptd) (target : Option Nat) : Bool :=
  q.en && decide ((q.pi - q.ci).toNat < q.size) && p.qpCarries q.qpn.toNat target

/-- A record as it is posted: SEQNO counts the records of the class, this one included. [DEDUCED, log entry 172] -/
def EvQueue.record (q : EvQueue) (e : EvRec) (retained : Bool) (module : BitVec 14) : PostedRec where
  ev := e
  seqno := q.pi + 1
  loss := q.loss
  retained := retained
  module := module

/-- Immediate data: CODE and the low half of SEQNO. -/
def PostedRec.imm (r : PostedRec) : U32 := BitVec.ofNat 32 (r.ev.code.toNat * 2 ^ 16 + r.seqno.toNat % 2 ^ 16)

/-- Posts one record into a queue. [DEDUCED, log entry 172] -/
def EvQueue.post (q : EvQueue) (ch : Option ChanId) (e : EvRec) (retained : Bool) (module : BitVec 14) : EvQueue × Out :=
  let r := q.record e retained module
  ({ q with pi := q.pi + 1, loss := false },
    .record ch q.qpn.toNat (q.addr + BitVec.ofNat 64 (q.pi.toNat % q.size * 32)) r.imm r)

/-- Delivers retained records, in order, while the queue can take them. -/
def EvQueue.flush (p : Ptd) (target : Option Nat) (ch : Option ChanId) (module : BitVec 14) :
    List EvRec → EvQueue → EvQueue × List Out
  | [], q => ({ q with retained := [] }, [])
  | e :: r, q =>
    if q.ready p target then
      let x := q.post ch e true module
      let y := EvQueue.flush p target ch module r x.1
      (y.1, x.2 :: y.2)
    else ({ q with retained := e :: r }, [])

/-- Keeps a record that cannot be delivered: up to 1,024 of a class; beyond that it is dropped. Whether it was dropped.
 [DEDUCED, log entry 172] -/
def EvQueue.keep (q : EvQueue) (e : EvRec) : EvQueue × Bool :=
  if q.retained.length < 1024 then ({ q with retained := q.retained ++ [e] }, false) else ({ q with loss := true }, true)

/-- Takes a new record: delivered when nothing waits before it, retained otherwise. -/
def EvQueue.take (p : Ptd) (target : Option Nat) (ch : Option ChanId) (module : BitVec 14) (q : EvQueue) (e : EvRec) :
    EvQueue × List Out × Bool :=
  let f := EvQueue.flush p target ch module q.retained q
  if f.1.retained.isEmpty && f.1.ready p target then
    let x := f.1.post ch e false module
    (x.1, f.2 ++ [x.2], false)
  else
    let x := f.1.keep e
    (x.1, f.2, x.2)

/-! ### Channels -/

def Channel.queue (ch : Channel) (n : Nat) : EvQueue := smGet {} ch.mbx.queues n
def Channel.setQueue (ch : Channel) (n : Nat) (q : EvQueue) : Channel :=
  { ch with mbx := { ch.mbx with queues := smSet {} ch.mbx.queues n q } }

/-- A record of a class was posted: its bit of the non-secure outbound doorbell is set, and posts none of its own (R380). -/
def Channel.classBit (ch : Channel) (n : Nat) (posted : Bool) : Channel :=
  if posted then ch.onDb 1 fun d => { d with val := d.val ||| BitVec.ofNat 32 (2 ^ (16 + n)) } else ch

/-- Delivers what a channel retains of a class. -/
def State.flushQueue (s : State) (c : ChanId) (n : Nat) : State :=
  let ch := s.ch c
  if ch.dead then s
  else
    let q := ch.queue n
    let f := EvQueue.flush s.ptd (some c.val) (some c) ch.chn.moduleId q.retained q
    (s.onCh c fun k => (k.setQueue n f.1).classBit n (!f.2.isEmpty)).emitAll f.2

/-- The oldest event of a channel becomes a record. A DETAIL that the manual does not state is free. [DESIGN CHOICE, log entry 46] -/
def State.postChannel (s : State) (c : ChanId) : State :=
  let ch := s.ch c
  match ch.events with
  | [] => (List.range 8).foldl (fun (r : State) n => r.flushQueue c n) s
  | e :: rest =>
    if ch.dead then s
    else
      let s1 := if e.detail.isNone then s.tookFree 1 else s
      let e := if e.detail.isNone then { e with detail := some (BitVec.ofNat 64 s.freeVal) } else e
      let x := EvQueue.take s.ptd (some c.val) (some c) ch.chn.moduleId (ch.queue e.cls) e
      (s1.onCh c fun k =>
        let k := ({ k with events := rest }.setQueue e.cls x.1).classBit e.cls (!x.2.1.isEmpty)
        { k with mbx := { k.mbx with eqDrop := if x.2.2 then satAdd k.mbx.eqDrop 1 else k.mbx.eqDrop } }).emitAll x.2.1

/-! ### The port die -/

def Ptd.queue (p : Ptd) (n : Nat) : EvQueue := smGet {} p.queues n

/-- MODULE of the port die's records: the identity that a channel of the module has; zero before one has joined. [DEDUCED, log entry 173] -/
def State.moduleId (s : State) : BitVec 14 :=
  if s.ch0.joined then s.ch0.chn.moduleId else if s.ch1.joined then s.ch1.chn.moduleId else 0

def State.flushPtd (s : State) (n : Nat) : State :=
  let q := s.ptd.queue n
  let f := EvQueue.flush s.ptd none none s.moduleId q.retained q
  { s with ptd := { s.ptd with queues := smSet {} s.ptd.queues n f.1 } }.emitAll f.2

/-- Records kept while the port die had no power are delivered as retained ones (R414). -/
def Ptd.recallStored (p : Ptd) : Ptd :=
  { p.stored.foldl (fun (h : Ptd) e => { h with queues := smMod {} h.queues e.cls fun q => (q.keep e).1 }) p with stored := [] }

/-- [DEDUCED, log entry 173; DESIGN CHOICE, log entry 46] -/
def State.postPtd (s : State) : State :=
  if !s.ptd.up then s
  else
    let p := s.ptd.recallStored
    match p.events with
    | [] => (List.range 8).foldl (fun (r : State) n => r.flushPtd n) { s with ptd := p }
    | e :: rest =>
      let s1 := if e.detail.isNone then s.tookFree 1 else s
      let e := if e.detail.isNone then { e with detail := some (BitVec.ofNat 64 s.freeVal) } else e
      let x := EvQueue.take p none none s.moduleId (p.queue e.cls) e
      { s1 with ptd := { p with events := rest, queues := smSet {} p.queues e.cls x.1 } }.emitAll x.2.1

/-- EVENT_RECORD_POST of a channel or of the port die. -/
def execEventRecordPost (t : Fin 3) (s : State) : Result :=
  .next (match islandChan t with
    | some c => s.postChannel c
    | none => s.postPtd)

/-- A configuration of a class's queue: the channel's own; the port die's queue of the class, which has no registers, goes where the last
enabled configuration goes. [DEDUCED, log entries 173 and 187] -/
def State.setEq (s : State) (c : ChanId) (n : Nat) (f : EvQueue → EvQueue) : State :=
  let s1 := s.onCh c fun ch => ch.setQueue n (f (ch.queue n))
  let q := (s1.ch c).queue n
  let s2 := if q.en then
      { s1 with ptd := { s1.ptd with queues := smMod {} s1.ptd.queues n fun x =>
          { x with addr := q.addr, en := true, log2 := q.log2, qpn := q.qpn, rkey := q.rkey } } }
    else s1
  (s2.flushQueue c n).flushPtd n

/-- MBX_EQn.CI: records consumed. -/
def State.writeEqCi (s : State) (t : Fin 3) (n : Nat) (v : U32) : State :=
  match islandChan t with
  | some c => (s.onCh c fun ch => ch.setQueue n { ch.queue n with ci := v }).flushQueue c n
  | none => { s with ptd := { s.ptd with queues := smMod {} s.ptd.queues n fun q => { q with ci := v } } }.flushPtd n

/-- The control complex has had no service for 100 ms: the port die shows the channel DEAD. -/
def execWatchdogExpiry (c : ChanId) (s : State) : Result :=
  if (s.ch c).domain.st = .off ∨ (s.ch c).chn.state = .reset then .next s
  else .next (s.onCh c fun ch => { ch with dead := true })

end Sys2Proof.Machine
end

