-- ==== Sys2Proof/Machine/Csr.lean ====
section
/-! DEFINITION. The register blocks of a channel and of the port die, register by register (Tables 01-6 to 01-11 and the register tables
of each chapter): what a read shows, what it clears (RC), and what a write does (R8, R9, R28). -/

namespace Sys2Proof.Machine

/-! ### Registers -/

/-- A register: its value, what a read clears, and its write, by a writer. Fields that a table leaves reserved read zero and ignore
writes. -/
structure Reg where
  read : State → ChanId → Nat
  clear : Channel → Channel := id
  write : State → ChanId → Writer → U64 → State := fun s _ _ _ => s

/-- A field's value at its lowest bit. -/
def at_ (v lo : Nat) : Nat := v * 2 ^ lo
/-- Read of a channel's own value. -/
def ro (f : Channel → Nat) : State → ChanId → Nat := fun s c => f (s.ch c)
/-- Write that rewrites the channel only. -/
def wr (f : Channel → U64 → Channel) : State → ChanId → Writer → U64 → State := fun s c _ v => s.onCh c fun ch => f ch v
/-- W1C: a written 1 clears the bit. -/
def w1c (old : Bool) (v : U64) (i : Nat) : Bool := old && !bit v i
def bv (w : Nat) (v : U64) (hi lo : Nat) : BitVec w := BitVec.ofNat w (bits v hi lo)

/-! ### CHN, BEAT, TSK -/

def ChState.code : ChState → Nat
  | .reset => 0
  | .boot => 1
  | .recovery => 2
  | .calibrate => 3
  | .joined => 4
  | .loaded => 5
  | .running => 6
  | .leaving => 7

def chnReg (o : Nat) : Option Reg :=
  if o = 0x000 then some { read := fun s c => (s.ch c).idWord c }
  else if o = 0x008 then some { read := ro fun _ => 0x00888004300200C0 }
  else if o = 0x010 then some { read := ro fun ch => at_ ch.chn.lastFault.toNat 16 + at_ (b2n ch.chn.supplyOk) 4 + ch.chn.state.code }
  else if o = 0x018 then some
    { read := ro fun ch => at_ ch.chn.good.toNat 32 + at_ ch.chn.bound.toNat 24 + at_ ch.chn.spare.toNat 16
        + at_ ch.chn.fenced.toNat 8 + ch.chn.owl.toNat }
  else none

def beatReg (o : Nat) : Option Reg :=
  if o = 0x000 then some
    { read := ro fun ch => at_ ch.beat.ovrLimit.toNat 24 + at_ ch.beat.urgentPct.toNat 16 + at_ (b2n ch.beat.beatrefEn) 1
      write := wr fun ch v => { ch with beat := { ch.beat with
        ovrLimit := bv 8 v 31 24, urgentPct := bv 8 v 23 16, beatrefEn := bit v 1, resume := ch.beat.resume || bit v 0 } } }
  else if o = 0x008 then some
    { read := ro fun ch => at_ ch.beat.leadinPct.toNat 48 + at_ ch.beat.periodUs.toNat 32 + ch.periodClk }
  else if o = 0x010 then some { read := ro fun ch => ch.beat.number.toNat }
  else if o = 0x018 then some { read := ro fun ch => ch.beat.time.toNat }
  else if o = 0x020 then some
    { read := ro fun ch => at_ ch.beat.errNs.toNat 16 + at_ (b2n ch.beat.lost) 1 + b2n ch.beat.beatrefSeen }
  else if o = 0x028 then some
    { read := ro fun ch => at_ ch.beat.creditStall.toNat 48 + at_ ch.beat.defer.toNat 32 + at_ ch.beat.overrun.toNat 16 + b2n ch.beat.paused
      clear := fun ch => { ch with beat := { ch.beat with creditStall := 0, defer := 0, overrun := 0 } } }
  else none

def tskReg (o : Nat) : Option Reg :=
  if o = 0x000 then some
    { read := ro fun ch => ch.tsk.coreSel.toNat, write := wr fun ch v => { ch with tsk := { ch.tsk with coreSel := bv 7 v 6 0 } } }
  else if o = 0x008 then some
    { read := ro fun ch =>
        let x := smGet {} ch.tsk.sample ch.tsk.coreSel.toNat
        at_ x.free.toNat 32 + at_ x.parked.toNat 16 + x.ready.toNat }
  else if o = 0x010 then some
    { read := ro fun ch => at_ ch.tsk.goneDefer.toNat 48 + at_ ch.tsk.badDesc.toNat 40 + at_ ch.tsk.commitCarry.toNat 32
        + ch.tsk.completed.toNat
      clear := fun ch => { ch with tsk := { ch.tsk with goneDefer := 0, badDesc := 0, commitCarry := 0, completed := 0 } } }
  else if o = 0x018 then some
    { read := ro fun ch => at_ ch.tsk.faulted.toNat 32 + at_ ch.tsk.lastCode.toNat 16
      clear := fun ch => { ch with tsk := { ch.tsk with faulted := 0 } } }
  else if 0x1000 ≤ o ∧ o < 0x1800 then some
    { read := ro fun ch =>
        let q := smGet {} ch.tsk.credits ((o - 0x1000) / 8)
        at_ q.capacity.toNat 16 + q.shown.toNat }
  else none

/-! ### ARR, VEC -/

def arrReg (o : Nat) : Option Reg :=
  if o = 0x000 then some
    { read := ro fun ch => at_ (b2n ch.arr.ovfNext) 8 + ch.arr.coreSel.toNat
      write := wr fun ch v => { ch with arr := { ch.arr with ovfNext := bit v 8, coreSel := bv 7 v 6 0 } } }
  else if o = 0x008 then some
    { read := ro fun ch => at_ (b2n ch.arr.badTile) 2 + at_ (b2n ch.arr.fxUfl) 1 + b2n ch.arr.fxOvf
      write := wr fun ch v => { ch with arr := { ch.arr with
        badTile := w1c ch.arr.badTile v 2, fxUfl := w1c ch.arr.fxUfl v 1, fxOvf := w1c ch.arr.fxOvf v 0 } } }
  else if o = 0x010 then some
    { read := ro fun ch => at_ ch.arr.tiles.toNat 32 + ch.arr.skipped.toNat
      clear := fun ch => { ch with arr := { ch.arr with tiles := 0, skipped := 0 } } }
  else if o = 0x018 then some
    { read := ro fun ch =>
        let n := ch.arr.coreSel.toNat
        at_ (smGet {} ch.arr.busy n).last.toNat 32 + (smGet {} ch.arr.feedStall n).last.toNat }
  else if o = 0x020 then some
    { read := ro fun ch => at_ ch.arr.badCause.toNat 56 + at_ ch.arr.badCore.toNat 48 + at_ ch.arr.badClass.toNat 32 + ch.arr.badSeq.toNat }
  else if o = 0x028 then some
    { read := ro fun ch => at_ ch.arr.sliceTiles.toNat 32 + ch.arr.fallbackElems.toNat
      clear := fun ch => { ch with arr := { ch.arr with sliceTiles := 0, fallbackElems := 0 } } }
  else none

def vecReg (o : Nat) : Option Reg :=
  if o = 0x000 then some
    { read := ro fun ch => at_ (b2n ch.vec.ovfNext) 8 + ch.vec.coreSel.toNat
      write := wr fun ch v => { ch with vec := { ch.vec with ovfNext := bit v 8, coreSel := bv 7 v 6 0 } } }
  else if o = 0x008 then some
    { read := ro fun ch => at_ (b2n ch.vec.scaleMismatch) 2 + at_ (b2n ch.vec.xsumOvf) 1 + b2n ch.vec.gatherOor
      write := wr fun ch v => { ch with vec := { ch.vec with
        scaleMismatch := w1c ch.vec.scaleMismatch v 2, xsumOvf := w1c ch.vec.xsumOvf v 1, gatherOor := w1c ch.vec.gatherOor v 0 } } }
  else if o = 0x010 then some
    { read := ro fun ch => at_ ch.vec.blk8Sat.toNat 32 + at_ ch.vec.gatherOorCnt.toNat 16 + ch.vec.scaleMismatchCnt.toNat
      clear := fun ch => { ch with vec := { ch.vec with blk8Sat := 0, gatherOorCnt := 0, scaleMismatchCnt := 0 } } }
  else if o = 0x018 then some
    { read := ro fun ch =>
        let n := ch.vec.coreSel.toNat
        at_ (smGet {} ch.vec.busy n).last.toNat 32 + (smGet {} ch.vec.putadd n).last.toNat }
  else if o = 0x020 then some { read := ro fun _ => at_ 0x0001 48 }
  else none

/-! ### SQL, GXC, UPD -/

/-- The pool that SQL_POOL_SEL selects; an undefined pool shows zeros. -/
def Channel.selPool (ch : Channel) : Pool := ((ch.pool? ch.sql.poolSel.toNat)).getD { tier := 0 }
/-- [DEDUCED, log entry 85] -/
def Channel.onSelPool (ch : Channel) (f : Pool → Pool) : Channel :=
  { ch with sql := { ch.sql with pools := ch.sql.pools.map fun p => if p.pool = ch.sql.poolSel then f p else p } }

def sqlReg (o : Nat) : Option Reg :=
  if o = 0x000 then some
    { read := ro fun ch => at_ ch.sql.ahead.toNat 12 + at_ (b2n ch.sql.spillEn) 8 + at_ (b2n (ch.sql.walkNext.getD ch.sql.walk)) 4
        + b2n ch.sql.strictFmt
      write := wr fun ch v => { ch with sql := { ch.sql with
        ahead := bv 4 v 15 12, spillEn := bit v 8, walkNext := some (bit v 4), strictFmt := bit v 0 } } }
  else if o = 0x008 then some
    { read := ro fun ch => at_ (b2n ch.sql.modeBusy) 7 + at_ (b2n ch.sql.backLost) 6 + at_ (b2n ch.sql.stale) 5
        + at_ (b2n ch.sql.poolEmpty) 4 + at_ (b2n ch.sql.backFull) 3 + b2n ch.sql.walk
      write := wr fun ch v => { ch with sql := { ch.sql with
        modeBusy := w1c ch.sql.modeBusy v 7, backLost := w1c ch.sql.backLost v 6, stale := w1c ch.sql.stale v 5
        poolEmpty := w1c ch.sql.poolEmpty v 4, backFull := w1c ch.sql.backFull v 3 } } }
  else if o = 0x010 then some
    { read := ro fun ch => at_ ch.sql.missBeats.toNat 48 + at_ ch.sql.fmtMismatch.toNat 32 + at_ ch.sql.walkLate.toNat 16 + ch.sql.cow.toNat
      clear := fun ch => { ch with sql := { ch.sql with missBeats := 0, fmtMismatch := 0, walkLate := 0, cow := 0 } } }
  else if o = 0x018 then some
    { read := ro fun ch => at_ ch.sql.spilled.toNat 32 + ch.sql.fetched.toNat
      clear := fun ch => { ch with sql := { ch.sql with spilled := 0, fetched := 0 } } }
  else if o = 0x020 then some
    { read := ro fun ch => at_ ch.sql.prefetchMax.toNat 16 + ch.sql.spillMax.toNat
      write := wr fun ch v => { ch with sql := { ch.sql with prefetchMax := bv 16 v 31 16, spillMax := bv 16 v 15 0 } } }
  else if o = 0x028 then some { read := ro fun ch => at_ ch.sql.regionsNum.toNat 40 + ch.sql.regionBase.toNat }
  else if o = 0x030 then some
    { read := ro fun ch => ch.sql.poolSel.toNat, write := wr fun ch v => { ch with sql := { ch.sql with poolSel := bv 8 v 7 0 } } }
  else if o = 0x038 then some
    { read := ro fun ch =>
        let p := ch.selPool
        at_ (p.tier.toNat % 16) 60 + at_ (b2n p.shared) 59 + at_ (p.frameKib.toNat % 128) 48 + p.freeShown % 2 ^ 36 }
  else if o = 0x040 then some
    { read := ro fun ch => at_ ch.selPool.highWm.toNat 32 + ch.selPool.lowWm.toNat
      write := wr fun ch v => ch.onSelPool fun p =>
        { p with highWm := bv 32 v 63 32, lowWm := BitVec.ofNat 32 (min (bits v 31 0) (bits v 63 32)) } }
  else none

/-- Buckets of the step that read committed in the journal (GXC_BUCKET). -/
def Channel.committedCount (ch : Channel) : Nat :=
  let j := ch.journal
  countIf (fun b => bucketCommitted j ch.tilePlaces ch.upd.sJob.toNat b) (List.range ch.gxc.nb.toNat)

def bucketCount (p : Bucket → Bool) (ch : Channel) : Nat := countIf (fun (e : Nat × Bucket) => p e.2) ch.gxc.buckets

def gxcReg (o : Nat) : Option Reg :=
  if o = 0x000 then some
    { read := ro fun ch => at_ ch.gxc.deadline.toNat 24 + at_ (b2n ch.gxc.checkEn) 20 + at_ ch.gxc.checkLog2.toNat 16 + at_ (b2n ch.gxc.late) 8
      write := wr fun ch v => { ch with gxc := { ch.gxc with
        deadline := bv 8 v 31 24, checkEn := bit v 20, checkLog2 := bv 4 v 19 16, late := bit v 8 } } }
  else if o = 0x008 then some
    { read := ro fun ch => at_ (b2n ch.gxc.abandoned) 7 + at_ (b2n ch.gxc.epochBad) 6 + at_ (b2n ch.gxc.bucketFail) 5
        + at_ (b2n ch.gxc.lateSt) 4 + at_ (b2n ch.gxc.checkFail) 3
      write := wr fun ch v => { ch with gxc := { ch.gxc with
        abandoned := w1c ch.gxc.abandoned v 7, epochBad := w1c ch.gxc.epochBad v 6, bucketFail := w1c ch.gxc.bucketFail v 5
        lateSt := w1c ch.gxc.lateSt v 4, checkFail := w1c ch.gxc.checkFail v 3 } } }
  else if o = 0x010 then some
    { read := ro fun ch => at_ ch.gxc.sat.toNat 32 + at_ ch.gxc.excluded.toNat 16 + ch.gxc.carried.toNat
      clear := fun ch => { ch with gxc := { ch.gxc with sat := 0, excluded := 0, carried := 0 } } }
  else if o = 0x018 then some
    { read := ro fun ch => at_ ch.gxc.compared.toNat 32 + at_ ch.gxc.skippedSat.toNat 16 + ch.gxc.failedCnt.toNat
      clear := fun ch => { ch with gxc := { ch.gxc with compared := 0, skippedSat := 0, failedCnt := 0 } } }
  else if o = 0x020 then some
    { read := ro fun ch => at_ ch.gxc.nb.toNat 48 + at_ ch.committedCount 32 + at_ (bucketCount (·.reduced) ch) 16
        + bucketCount (·.started) ch }
  else if o = 0x028 then some { read := ro fun ch => at_ ch.gxc.last.toNat 32 + ch.gxc.flagged.toNat }
  else if o = 0x030 then some
    { read := ro fun ch => let x := ch.shard; at_ (x.1 % 2 ^ 32) 32 + at_ (b2n x.2.1) 31 + at_ (b2n x.2.2) 30 }
  else if o = 0x038 then some
    { read := ro fun ch => at_ ch.gxc.reqLayout.toNat 8 + at_ (b2n ch.gxc.permuting.isSome) 1 + b2n ch.gxc.queued.isSome
      write := fun s c _ v => s.onCh c fun ch => ch.writeReshard c v }
  else if o = 0x040 then some { read := ro fun ch => at_ ch.gxc.layout.toNat 16 + ch.gxc.epoch.toNat }
  else if o = 0x048 then some
    { read := ro fun ch => at_ ch.gxc.lateStep.toNat 32 + at_ ch.gxc.lateBucket.toNat 15 + ch.gxc.lateContrib.toNat }
  else none

def updReg (o : Nat) : Option Reg :=
  if o = 0x000 then some
    { read := ro fun ch => b2n ch.upd.sched, write := wr fun ch v => { ch with upd := { ch.upd with sched := bit v 0 } } }
  else if o = 0x008 then some { read := ro fun ch => at_ ch.upd.lastCommit.toNat 32 + ch.upd.sJob.toNat }
  else if o = 0x010 then some
    { read := ro fun ch => at_ (b2n ch.upd.actLost) 3 + at_ (b2n ch.upd.lrReused) 2 + at_ (b2n ch.upd.stepBad) 1 + b2n ch.upd.stepSkew
      write := wr fun ch v => { ch with upd := { ch.upd with
        actLost := w1c ch.upd.actLost v 3, lrReused := w1c ch.upd.lrReused v 2, stepBad := w1c ch.upd.stepBad v 1
        stepSkew := w1c ch.upd.stepSkew v 0 } } }
  else if o = 0x018 then some
    { read := ro fun ch => at_ ch.upd.skewGroup.toNat 8 + at_ (b2n ch.upd.pending.isSome) 1 + b2n ch.upd.inStep }
  else if o = 0x020 then some { read := ro fun ch => at_ ch.upd.skewT.toNat 32 + ch.upd.skewS.toNat }
  else if o = 0x028 then some
    { read := ro fun ch => at_ ch.upd.blocks.toNat 32 + ch.upd.clipped.toNat
      clear := fun ch => { ch with upd := { ch.upd with blocks := 0, clipped := 0 } } }
  else if o = 0x030 then some
    { read := ro fun ch => at_ ch.upd.missBeats.toNat 48 + at_ ch.upd.lost.toNat 32 + ch.upd.offloadKib.toNat
      clear := fun ch => { ch with upd := { ch.upd with missBeats := 0, lost := 0, offloadKib := 0 } } }
  else if 0x100 ≤ o ∧ o < 0x300 then some
    { read := ro fun ch => at_ (b2n (smGet false ch.upd.fresh ((o - 0x100) / 8))) 32 + (smGet 0 ch.upd.lr ((o - 0x100) / 8)).toNat
      write := wr fun ch v => ch.writeLr ((o - 0x100) / 8) v }
  else if 0x300 ≤ o ∧ o < 0x500 then some { read := ro fun ch => (ch.tState ((o - 0x300) / 8)).toNat }
  else none

/-! ### WRN -/

/-- The link that WRN_LINK_SEL selects: values above 47 read as 47. [DEDUCED, log entry 85] -/
def Channel.selLink (ch : Channel) : LinkId := if h : ch.wrn.linkSel.toNat < 48 then ⟨ch.wrn.linkSel.toNat, h⟩ else 47

def LinkSt.code : LinkSt → Nat
  | .down => 0
  | .training => 1
  | .auth => 2
  | .up => 3
  | .retrain => 4
  | .failed => 5

/-- A route entry as 128 bits (Table 12-6). -/
def RouteEntry.word (e : RouteEntry) : Nat :=
  e.mask0.toNat + at_ e.mask1.toNat 48 + at_ e.inc.toNat 96 + at_ e.state0.toNat 112 + at_ e.state1.toNat 114 + at_ e.rsvd.toNat 116

def wrnReg (o : Nat) : Option Reg :=
  if o = 0x000 then some
    { read := ro fun ch => at_ ch.wrn.lostAfter.toNat 48 + at_ ch.wrn.rspTimeout.toNat 32 + b2n ch.wrn.adaptEn
      write := wr fun ch v => { ch with wrn := { ch.wrn with
        lostAfter := bv 16 v 63 48, rspTimeout := bv 16 v 47 32, adaptEn := bit v 0 } } }
  else if o = 0x008 then some
    { read := fun s c =>
        let ch := s.ch c
        at_ ch.wrn.incarnation.toNat 48 + at_ ch.chn.moduleId.toNat 18 + at_ c.val 16 + at_ (ch.settIndex c) 12
          + at_ (b2n ch.wrn.slotValid) 7 + ch.wrn.slot.toNat }
  else if o = 0x010 then some { read := ro fun ch => ch.wrn.gen.toNat }
  else if o = 0x018 then some
    { read := ro fun ch => at_ (b2n ch.wrn.mgmtBad) 5 + at_ (b2n ch.wrn.miswire) 4 + at_ (b2n ch.wrn.authFail) 3
        + at_ (b2n ch.wrn.linkDown) 2 + at_ (b2n ch.wrn.routeErr) 1 + b2n ch.wrn.lost
      write := wr fun ch v => { ch with wrn := { ch.wrn with
        mgmtBad := w1c ch.wrn.mgmtBad v 5, miswire := w1c ch.wrn.miswire v 4, authFail := w1c ch.wrn.authFail v 3
        linkDown := w1c ch.wrn.linkDown v 2, routeErr := w1c ch.wrn.routeErr v 1, lost := w1c ch.wrn.lost v 0 } } }
  else if o = 0x020 then some
    { read := ro fun ch => at_ ch.wrn.goneCnt.toNat 48 + at_ ch.wrn.lostCnt.toNat 32 + at_ ch.wrn.routeErrCnt.toNat 16 + ch.wrn.refused.toNat
      clear := fun ch => { ch with wrn := { ch.wrn with goneCnt := 0, lostCnt := 0, routeErrCnt := 0, refused := 0 } } }
  else if o = 0x028 then some
    { read := ro fun ch => at_ ch.wrn.issueStall.toNat 32 + at_ ch.wrn.lateRsp.toNat 16 + min ch.wrn.reqs.length 0xFFFF
      clear := fun ch => { ch with wrn := { ch.wrn with issueStall := 0, lateRsp := 0 } } }
  else if o = 0x030 then some
    { read := ro fun ch => ch.selLink.val, write := wr fun ch v => { ch with wrn := { ch.wrn with linkSel := bv 6 v 5 0 } } }
  else if o = 0x038 then some
    { read := ro fun ch => ch.wrn.routeSel.toNat, write := wr fun ch v => { ch with wrn := { ch.wrn with routeSel := bv 14 v 13 0 } } }
  else if o = 0x040 then some
    { read := ro fun ch =>
        let k := ch.link ch.selLink.val
        at_ k.st.code 61 + at_ (b2n (!isIntra ch.selLink.val)) 60 + at_ k.peerModule.toNat 46 + at_ k.peerChannel.toNat 45
          + at_ k.peerLink.toNat 39 + at_ k.retrains.toNat 16
      clear := fun ch => ch.onLink ch.selLink.val fun k => { k with retrains := 0 }
      write := fun s c _ v => if bit v 32 then s.restartLink c (s.ch c).selLink else s }
  else if o = 0x048 then some
    { read := ro fun ch =>
        let k := ch.link ch.selLink.val
        at_ k.fecCorr.toNat 32 + at_ k.fecUncorr.toNat 16 + k.replay.toNat
      clear := fun ch => ch.onLink ch.selLink.val fun k => { k with fecCorr := 0, fecUncorr := 0, replay := 0 } }
  else if o = 0x050 then some { read := ro fun ch => (ch.route ch.wrn.routeSel.toNat).word % 2 ^ 64 }
  else if o = 0x058 then some { read := ro fun ch => (ch.route ch.wrn.routeSel.toNat).word / 2 ^ 64 }
  else none

/-! ### MEM, CXL, DMA -/

def UeSource.code : UeSource → Nat
  | .hbmRead => 0
  | .hbmScrub => 1
  | .sramRead => 2
  | .sramScrub => 3

def memReg (o : Nat) : Option Reg :=
  if o = 0x000 then some
    { read := ro fun ch => at_ ch.mem.scrubHours.toNat 32 + at_ ch.mem.ceLimit.toNat 16
      write := wr fun ch v => { ch with mem := { ch.mem with scrubHours := bv 8 v 39 32, ceLimit := bv 16 v 31 16 } } }
  else if o = 0x008 then some
    { read := ro fun ch => at_ (b2n ch.mem.scrubLate) 3 + at_ (b2n ch.mem.ceStorm) 2 + at_ (b2n ch.mem.sramUe) 1 + b2n ch.mem.hbmUe
      write := wr fun ch v => { ch with mem := { ch.mem with
        scrubLate := w1c ch.mem.scrubLate v 3, ceStorm := w1c ch.mem.ceStorm v 2, sramUe := w1c ch.mem.sramUe v 1
        hbmUe := w1c ch.mem.hbmUe v 0 } } }
  else if o = 0x010 then some
    { read := ro fun ch => at_ ch.mem.ce.toNat 32 + at_ ch.mem.ue.toNat 16 + ch.mem.sramCe.toNat
      clear := fun ch => { ch with mem := { ch.mem with ce := 0, ue := 0, sramCe := 0 } } }
  else if o = 0x018 then some
    { read := ro fun ch => at_ (b2n ch.mem.ueValid) 63 + at_ ch.mem.ueSource.code 61 + at_ ch.mem.uePcore.toNat 53 + ch.mem.ueOffset.toNat }
  else if o = 0x020 then some
    { read := ro fun ch => at_ ch.mem.passes.toNat 48 + ch.mem.pos.toNat
      clear := fun ch => { ch with mem := { ch.mem with passes := 0 } } }
  else none

def CxlPort.word (p : CxlPort) : Nat :=
  at_ p.st.toNat 60 + at_ p.width.toNat 55 + at_ p.rate.toNat 52 + at_ p.capGib.toNat 32 + at_ p.poisonCnt.toNat 16 + p.timeout.toNat

def cxlReg (o : Nat) : Option Reg :=
  if o = 0x000 then some
    { read := ro fun ch => ch.cxl.portEn.toNat, write := wr fun ch v => { ch with cxl := { ch.cxl with portEn := bv 2 v 1 0 } } }
  else if o = 0x008 then some
    { read := ro fun ch => ch.cxl.port0.word, clear := fun ch => ch.onCxlPort 0 fun p => { p with poisonCnt := 0, timeout := 0 } }
  else if o = 0x010 then some
    { read := ro fun ch => ch.cxl.port1.word, clear := fun ch => ch.onCxlPort 1 fun p => { p with poisonCnt := 0, timeout := 0 } }
  else if o = 0x018 then some { read := ro fun ch => at_ ch.cxl.ilvGib.toNat 32 + at_ ch.cxl.linGib.toNat 16 + ch.cxl.linPort.toNat }
  else none

def dmaReg (o : Nat) : Option Reg :=
  if o = 0x000 then some
    { read := ro fun ch => at_ (b2n ch.dma.blktMix) 2 + at_ (b2n ch.dma.memUe) 1 + b2n ch.dma.fault
      write := wr fun ch v => { ch with dma := { ch.dma with
        blktMix := w1c ch.dma.blktMix v 2, memUe := w1c ch.dma.memUe v 1, fault := w1c ch.dma.fault v 0 } } }
  else if o = 0x008 then some
    { read := ro fun ch => at_ ch.dma.descs.toNat 32 + at_ ch.dma.faults.toNat 16 + ch.dma.blktMixCnt.toNat
      clear := fun ch => { ch with dma := { ch.dma with descs := 0, faults := 0, blktMixCnt := 0 } } }
  else if o = 0x010 then some
    { read := ro fun ch => ch.dma.bytes.toNat, clear := fun ch => { ch with dma := { ch.dma with bytes := 0 } } }
  else if o = 0x018 then some
    { read := ro fun ch => at_ ch.dma.errCause.toNat 56 + at_ ch.dma.errOp.toNat 48 + at_ (b2n ch.dma.errCtrl) 47
        + at_ ch.dma.errCore.toNat 40 + ch.dma.errSeq.toNat }
  else none

/-! ### PSS, LEDG, PWR -/

def Phase.code : Phase → Nat
  | .empty => 0
  | .verifying => 1
  | .loaded => 2
  | .running => 3
  | .unloading => 4

def ofStream (f : Stream → Nat) : State → ChanId → Nat := ro fun ch => (ch.pss.stream.map f).getD 0

def pssReg (o : Nat) : Option Reg :=
  if o = 0x000 then some { read := ro fun _ => 0, write := fun s c _ v => s.onCh c fun ch => ch.writePssCtrl c v }
  else if o = 0x008 then some
    { read := ro fun ch => ch.pss.src.toNat
      write := wr fun ch v => { ch with pss := { ch.pss with src := BitVec.ofNat 38 (bits v 37 6 * 64) } } }
  else if o = 0x010 then some
    { read := ro fun ch => ch.pss.len.toNat, write := wr fun ch v => { ch with pss := { ch.pss with len := bv 31 v 30 0 } } }
  else if o = 0x018 then some
    { read := ro fun ch => ch.pss.startBeat.toNat, write := wr fun ch v => { ch with pss := { ch.pss with startBeat := bv 48 v 47 0 } } }
  else if o = 0x020 then some { read := ro fun ch => at_ ch.pss.code.toNat 56 + at_ ch.pss.section_.toNat 44 + ch.pss.detail.toNat }
  else if o = 0x028 then some
    { read := ro fun ch => at_ (b2n ch.pss.degraded) 7 + at_ (b2n ch.pss.swapPending) 6 + at_ (b2n ch.pss.startLate) 5 + ch.pss.phase.code
      write := wr fun ch v => { ch with pss := { ch.pss with startLate := w1c ch.pss.startLate v 5 } } }
  else if o = 0x030 then some
    { read := ofStream fun st => at_ st.version.toNat 48 + at_ st.role.toNat 32 + at_ (st.layouts % 256) 24 + st.sections.toNat }
  else if o = 0x038 then some { read := ofStream fun st => st.seed.toNat }
  else if 0x040 ≤ o ∧ o < 0x080 then some { read := ofStream fun st => st.digest.toNat / 2 ^ (8 * (o - 0x040)) % 2 ^ 64 }
  else if 0x080 ≤ o ∧ o < 0x090 then some { read := ofStream fun st => st.jobId.toNat / 2 ^ (8 * (o - 0x080)) % 2 ^ 64 }
  else none

def ledgReg (o : Nat) : Option Reg :=
  if o = 0x000 then some
    { read := ro fun ch => at_ ch.ledg.lendMaxW.toNat 24 + at_ ch.ledg.reservePct.toNat 16 + at_ (b2n ch.ledg.refineEn) 2
        + at_ (b2n ch.ledg.borrowEn) 1 + b2n ch.ledg.lendEn
      write := wr fun ch v => ch.writeLedgCtrl v }
  else if o = 0x008 then some
    { read := ro fun ch => at_ ch.ledg.grantedW.toNat 32 + ch.ledg.limitW.toNat
      write := fun s c _ v => (s.onCh c fun ch => ch.writeLimit v).grantNow c }
  else if o = 0x010 then some
    { read := ro fun ch => at_ (BitVec.ofInt 32 ch.ledg.admissible).toNat 32 + ch.ledg.admitted % 2 ^ 32 }
  else if o = 0x018 then some { read := ro fun ch => at_ (ch.ledg.loanIn % 2 ^ 32) 32 + ch.ledg.loanOut % 2 ^ 32 }
  else if o = 0x020 then some { read := ro fun ch => at_ ch.ledg.measured.toNat 32 + ch.ledg.charged.toNat }
  else if o = 0x028 then some { read := ro fun ch => at_ ch.ledg.reconBeat.toNat 48 + ch.ledg.debt % 2 ^ 32 }
  else if o = 0x030 then some { read := ro fun ch => ch.ledg.k.toNat }
  else if o = 0x038 then some
    { read := ro fun ch => at_ ch.ledg.energyDefer.toNat 48 + at_ ch.ledg.overdraw.toNat 32 + at_ ch.ledg.meterBad.toNat 16
        + ch.ledg.carryCharge.toNat
      clear := fun ch => { ch with ledg := { ch.ledg with energyDefer := 0, overdraw := 0, meterBad := 0, carryCharge := 0 } } }
  else if o = 0x040 then some
    { read := ro fun ch => at_ (b2n ch.ledg.kLimit) 3 + at_ (b2n ch.ledg.meterBadSt) 2 + at_ (b2n ch.ledg.loanLost) 1 + b2n ch.ledg.overdrawSt
      write := wr fun ch v => { ch with ledg := { ch.ledg with
        kLimit := w1c ch.ledg.kLimit v 3, meterBadSt := w1c ch.ledg.meterBadSt v 2, loanLost := w1c ch.ledg.loanLost v 1
        overdrawSt := w1c ch.ledg.overdrawSt v 0 } } }
  else none

def PwrSt.code : PwrSt → Nat
  | .active => 0
  | .idle => 1
  | .draining => 2
  | .off => 3
  | .waking => 4

def pwrReg (o : Nat) : Option Reg :=
  if o = 0x000 then some { read := ro fun ch => b2n ch.pwr.spareOff, write := wr fun ch v => ch.writeSpareOff (bit v 0) }
  else if o = 0x008 then some { read := ro fun _ => 0, write := fun s c _ v => s.onCh c fun ch => ch.writePwrReq c v }
  else if o = 0x010 then some
    { read := ro fun ch => ch.pwr.sel.toNat, write := wr fun ch v => { ch with pwr := { ch.pwr with sel := bv 8 v 7 0 } } }
  else if o = 0x018 then some
    { read := ro fun ch =>
        let d := if ch.pwr.sel = 0xFF then ch.domain else ch.domainOf ch.pwr.sel.toNat
        at_ (b2n d.offPending) 6 + at_ (b2n d.wakePending) 5 + d.st.code }
  else if o = 0x020 then some
    { read := fun s c => if (s.ch c).started then at_ (b2n (s.ch (sibling c)).on) 3 + s.moduleState else 0 }
  else if o = 0x028 then some
    { read := ro fun ch => at_ ch.pwr.refused.toNat 48 + at_ ch.pwr.wakeFail.toNat 32
        + at_ (countIf (fun p => (ch.domainOf p).st == .off) (List.range 136)) 24 + at_ ch.pwr.lastRefuse.toNat 8
      clear := fun ch => { ch with pwr := { ch.pwr with refused := 0, wakeFail := 0 } } }
  else none

/-! ### BDG, OWL -/

/-- A fault record as its 64 bytes (Table 16-2). -/
def FaultRec.bytes (r : FaultRec) : List Byte :=
  leBytes 2 r.code.toNat ++ leBytes 1 r.source.toNat ++ leBytes 1 r.flags.toNat ++ leBytes 4 r.unit.toNat ++ leBytes 6 r.beatDetect.toNat
    ++ leBytes 2 r.count.toNat ++ leBytes 6 r.beatClean.toNat ++ leBytes 1 r.cls.toNat ++ leBytes 1 0 ++ leBytes 4 r.stepClean.toNat
    ++ leBytes 4 r.stepDetect.toNat ++ leBytes 4 r.reporter.toNat ++ leBytes 4 r.partners.toNat ++ leBytes 4 r.outTag.toNat
    ++ leBytes 4 r.taintN.toNat ++ leBytes 8 r.taintBase.toNat ++ leBytes 4 r.time.toNat ++ leBytes 4 r.detail.toNat

/-- BDG_CTRL and BDG_DUP as last written. -/
def Channel.bdgCtrlWord (ch : Channel) : Nat :=
  match ch.bdg.ctrlWait with
  | some v => (v &&& 0x0000FFFFFFFF0007).toNat
  | none => at_ ch.bdg.windowDays.toNat 40 + at_ ch.bdg.holdoff.toNat 32 + at_ ch.bdg.k.toNat 28 + at_ ch.bdg.dupPatience.toNat 20
      + at_ ch.bdg.dupLog2.toNat 16 + at_ (b2n ch.bdg.flagEn) 2 + at_ (b2n ch.bdg.arbEn) 1 + b2n ch.bdg.dupEn
def Channel.bdgDupWord (ch : Channel) : Nat :=
  match ch.bdg.dupWait with
  | some v => at_ (bits v 37 32) 32 + bits v 21 12 * 4096
  | none => at_ ch.bdg.dupSize.toNat 32 + ch.bdg.dupBase.toNat

/-- BDG_CORE.STATE of a physical core; its Reset value until boot has read the repair map. [DESIGN CHOICE, log entry 1] -/
def Channel.coreState (ch : Channel) (p : Nat) : Nat :=
  let h := ch.health p
  if !ch.started then 0 else if h.bad then 5 else if h.permanent then 3 else if h.retest then 2 else if ch.claimed p then 4
  else if (ch.domainOf p).st = .off then 6 else if (ch.lcoreOf p).isSome then 0 else 1

def bdgReg (o : Nat) : Option Reg :=
  if o = 0x000 then some
    { read := ro fun ch => ch.bdgCtrlWord, write := wr fun ch v => { ch with bdg := { ch.bdg with ctrlWait := some v } } }
  else if o = 0x008 then some
    { read := ro fun ch => ch.bdgDupWord, write := wr fun ch v => { ch with bdg := { ch.bdg with dupWait := some v } } }
  else if o = 0x010 then some
    { read := ro fun ch => at_ (b2n ch.bdg.dupOff) 6 + at_ (b2n ch.bdg.intakeDrop) 5 + at_ (b2n ch.bdg.reportUndelivered) 4
        + at_ (b2n ch.bdg.permanent) 3 + at_ (b2n ch.bdg.taintOvf) 2 + at_ (b2n ch.bdg.incident) 1 + b2n ch.bdg.flagged
      write := wr fun ch v => { ch with bdg := { ch.bdg with
        intakeDrop := w1c ch.bdg.intakeDrop v 5, reportUndelivered := w1c ch.bdg.reportUndelivered v 4, permanent := w1c ch.bdg.permanent v 3
        taintOvf := w1c ch.bdg.taintOvf v 2, incident := w1c ch.bdg.incident v 1, flagged := w1c ch.bdg.flagged v 0 } } }
  else if o = 0x018 then some
    { read := ro fun ch => at_ ch.bdg.reports.toNat 48 + at_ ch.bdg.dropped.toNat 32 + at_ ch.bdg.coalesced.toNat 16 + ch.bdg.incidentsCnt.toNat
      clear := fun ch => { ch with bdg := { ch.bdg with reports := 0, dropped := 0, coalesced := 0, incidentsCnt := 0 } } }
  else if o = 0x020 then some
    { read := ro fun ch => at_ ch.bdg.compared.toNat 32 + at_ ch.bdg.skipped.toNat 16 + ch.bdg.mismatch.toNat
      clear := fun ch => { ch with bdg := { ch.bdg with compared := 0, skipped := 0, mismatch := 0 } } }
  else if o = 0x028 then some
    { read := ro fun ch => at_ ch.bdg.thirdRuns.toNat 48 + at_ ch.bdg.unresolved.toNat 32 + at_ ch.bdg.attributed.toNat 16
      clear := fun ch => { ch with bdg := { ch.bdg with thirdRuns := 0, unresolved := 0, attributed := 0 } } }
  else if o = 0x030 then some
    { read := ro fun ch => min ch.bdg.coreSel.toNat 135, write := wr fun ch v => { ch with bdg := { ch.bdg with coreSel := bv 8 v 7 0 } } }
  else if o = 0x038 then some
    { read := ro fun ch =>
        let p := min ch.bdg.coreSel.toNat 135
        at_ (ch.health p).beatClean.toNat 16 + at_ (ch.coreState p) 12 + at_ (min (ch.transientsIn p) 15) 8 }
  else if o = 0x040 then some
    { read := ro fun ch =>
        let h := ch.health (min ch.bdg.coreSel.toNat 135)
        at_ (b2n h.taintOvf) 32 + h.taint.length % 2 ^ 32 }
  else if 0x080 ≤ o ∧ o < 0x0C0 then some
    { read := ro fun ch => if ch.bdg.hasRec then natAt ch.bdg.lastRec.bytes (o - 0x080) 8 else 0 }
  else if o = 0x100 then some { read := ro fun _ => 0, write := fun s c _ v => s.onCh c fun ch => ch.secondPath c v }
  else none

def owlReg (o : Nat) : Option Reg :=
  if o = 0x000 then some
    { read := ro fun ch => at_ ch.owl.passHours.toNat 32 + b2n ch.owl.en
      write := wr fun ch v => { ch with owl := { ch.owl with passHours := bv 8 v 39 32, en := bit v 0 } } }
  else if o = 0x008 then some { read := ro fun ch => at_ ch.owl.storeRev.toNat 48 + at_ 0x40 40 + 0xA0 }
  else if o = 0x010 then some
    { read := ro fun ch => at_ (b2n ch.owl.storeBad) 3 + at_ (b2n ch.owl.late) 2 + at_ (b2n ch.owl.fail) 1 + b2n ch.owl.active
      write := wr fun ch v => { ch with owl := { ch.owl with late := w1c ch.owl.late v 2, fail := w1c ch.owl.fail v 1 } } }
  else if o = 0x018 then some
    { read := ro fun ch => at_ ch.owl.chunksRun.toNat 32 + at_ ch.owl.passes.toNat 16 + ch.owl.fails.toNat
      clear := fun ch => { ch with owl := { ch.owl with chunksRun := 0, passes := 0, fails := 0 } } }
  else if o = 0x020 then some { read := ro fun ch => at_ ch.owl.pcore.toNat 8 + ch.owl.chunk.toNat }
  else if o = 0x028 then some
    { read := ro fun ch => ch.owl.sel.toNat, write := wr fun ch v => { ch with owl := { ch.owl with sel := bv 8 v 7 0 } } }
  else if o = 0x030 then some
    { read := ro fun ch => at_ (ch.health ch.owl.sel.toNat).owlNext.toNat 56 + (ch.health ch.owl.sel.toNat).owlBeat.toNat }
  else none

/-! ### SEC -/

def RecCause.code : RecCause → Nat
  | .none => 0
  | .image => 1
  | .rollback => 2
  | .puf => 3
  | .repair => 4
  | .lifecycle => 5
  | .counter => 6

/-- Value of a SEC register (Table 17-13), of an island and its serial memory; none where no register lies. `left`: seconds left of a
debug session, which the model leaves free up to its duration. [DESIGN CHOICE, log entry 40] -/
def secRead (x : Sec) (y : Serial) (left o : Nat) : Option Nat :=
  if o = 0x000 then some (at_ x.cause.code 56 + at_ (b2n x.selftestFail) 7 + at_ (b2n x.entropyFail) 6 + at_ (b2n x.pufGated) 5
      + at_ x.dbgLevel.code 2 + x.lifecycle.code)
  else if o = 0x008 then some (at_ y.fwSvn.toNat 32 + x.imageSvn.toNat)
  else if o = 0x010 then some (at_ y.lcSeq.toNat 32 + y.setSeq.toNat)
  else if o = 0x018 then some (at_ x.dbgCause.toNat 56 + at_ (left % (x.remainS.toNat + 1)) 24)
  else if 0x020 ≤ o ∧ o < 0x040 then some (((x.nonce.map (·.toNat)).getD 0) / 2 ^ (8 * (o - 0x020)) % 2 ^ 64)
  else if 0x040 ≤ o ∧ o < 0x080 then some (if x.pufGated then 0 else x.idkHash.toNat / 2 ^ (8 * (o - 0x040)) % 2 ^ 64)
  else if o = 0x080 then some x.mrSel.toNat
  else if 0x088 ≤ o ∧ o < 0x0C8 then some ((smGet 0 x.mr x.mrSel.toNat).toNat / 2 ^ (8 * (o - 0x088)) % 2 ^ 64)
  else if o = 0x0C8 then some (at_ x.dbgOpens.toNat 48 + at_ x.dbgRefused.toNat 32 + at_ x.quotes.toNat 16 + x.installBad.toNat)
  else if 0x1000 ≤ o ∧ o < 0x3000 then some 0
  else none

/-- RC fields of SEC_STAT. -/
def secClear (o : Nat) (x : Sec) : Sec :=
  if o = 0x0C8 then { x with dbgOpens := 0, dbgRefused := 0, quotes := 0, installBad := 0 } else x

/-- A token's number, for the verdict on its signature when a plain register write submits it. -/
def Sec.tokenWord (x : Sec) : Nat := leNat (smGetAll 0 x.token 0 4755)

/-- A write of a SEC register. -/
def State.secWrite (s : State) (t : Fin 3) (o : Nat) (v : U64) : State :=
  if o = 0x018 then s.writeSecDbg t v (Config.signatureOk (s.sec t).tokenWord)
  else if o = 0x080 then s.onSec t fun x => { x with mrSel := bv 3 v 2 0 }
  else if 0x1000 ≤ o ∧ o < 0x3000 then s.onSec t fun x => { x with token := smSetAll 0 x.token (o - 0x1000) (leBytes 8 v.toNat) }
  else s

/-- The island of a channel. -/
def chanIsland (c : ChanId) : Fin 3 := if c = 0 then 0 else 1

def secReg (o : Nat) : Option Reg :=
  match secRead {} {} 0 o with
  | none => none
  | some _ => some
    { read := fun s c => (secRead (s.ch c).sec (s.ch c).ser s.freeVal o).getD 0
      clear := fun ch => { ch with sec := secClear o ch.sec }
      write := fun s c _ v => s.secWrite (chanIsland c) o v }

/-! ### MBX, CFG, TLM -/

def dbReg (g k : Nat) : Option Reg :=
  if k = 0 then some { read := ro fun ch => (ch.db g).val.toNat }
  else if k = 8 then some { read := ro fun _ => 0, write := fun s c w v => s.writeDbSet c w g (bv 32 v 31 0) }
  else if k = 16 then some { read := ro fun _ => 0, write := fun s c w v => s.writeDbClr c w g (bv 32 v 31 0) }
  else if k = 24 then some { read := ro fun ch => (ch.db g).mask.toNat, write := fun s c w v => s.writeDbMask c w g (bv 32 v 31 0) }
  else none

def ringReg (n k : Nat) : Option Reg :=
  if k = 0 then some
    { read := ro fun ch => at_ (b2n (ch.ring n).en) 63 + at_ (ch.ring n).log2.toNat 56 + (ch.ring n).base.toNat
      write := wr fun ch v => ch.writeRing n v }
  else if k = 8 then some
    { read := ro fun ch => (ch.ring n).pi.toNat, write := fun s c _ v => s.onCh c fun ch => ch.writeRingPi c n (bv 16 v 15 0) }
  else if k = 16 then some { read := ro fun ch => (ch.ring n).ci.toNat }
  else none

def eqReg (n k : Nat) : Option Reg :=
  if k = 0 then some
    { read := ro fun ch => (ch.queue n).addr.toNat, write := fun s c _ v => s.setEq c n fun q => { q with addr := v } }
  else if k = 8 then some
    { read := ro fun ch => at_ (b2n (ch.queue n).en) 63 + at_ (ch.queue n).log2.toNat 56 + at_ (ch.queue n).qpn.toNat 44 + (ch.queue n).rkey.toNat
      write := fun s c _ v => s.setEq c n fun q => { q with
        en := bit v 63, log2 := bv 4 v 59 56, qpn := bv 12 v 55 44, rkey := bv 32 v 31 0 } }
  else if k = 16 then some
    { read := ro fun ch => at_ (ch.queue n).pi.toNat 32 + (ch.queue n).ci.toNat
      write := fun s c _ v => s.writeEqCi (chanIsland c) n (bv 32 v 31 0) }
  else none

def mbxReg (o : Nat) : Option Reg :=
  if o = 0x000 then some
    { read := ro fun ch => at_ (b2n (ch.sec.session.stage == 3)) 8
        + ((List.range 8).map fun n => at_ (b2n (ch.ring n).en) n).foldl (· + ·) 0 }
  else if o = 0x008 then some
    { read := ro fun ch => at_ ch.mbx.eqDrop.toNat 48 + at_ ch.mbx.spurious.toNat 32 + at_ ch.mbx.discarded.toNat 16
        + at_ ch.mbx.dbRefused.toNat 8 + ch.mbx.phaseWait.toNat
      clear := fun ch => { ch with mbx := { ch.mbx with eqDrop := 0, spurious := 0, discarded := 0, dbRefused := 0, phaseWait := 0 } } }
  else if 0x100 ≤ o ∧ o < 0x180 then dbReg ((o - 0x100) / 32) ((o - 0x100) % 32)
  else if 0x200 ≤ o ∧ o < 0x300 then ringReg ((o - 0x200) / 32) ((o - 0x200) % 32)
  else if 0x400 ≤ o ∧ o < 0x500 then eqReg ((o - 0x400) / 32) ((o - 0x400) % 32)
  else none

def cfgReg (o : Nat) : Option Reg :=
  if o = 0x000 then some { read := ro fun _ => 0, write := fun s c _ v => if bit v 0 then s.leave c else s }
  else if o = 0x008 then some
    { read := ro fun ch =>
        let x := ch.cfg
        at_ (b2n x.left) 11 + at_ (b2n x.settingsBad) 10 + at_ (b2n x.settingsOld) 9 + at_ (b2n x.calBad) 8 + at_ (b2n x.histBad) 7
          + at_ (b2n x.storeCopied) 6 + at_ (b2n x.selfRx) 5 + at_ (b2n x.timeRx) 4 + at_ (b2n ch.anyLinkUp) 3 + at_ (b2n x.cxlDone) 2
          + at_ (b2n x.hbmReady) 1
      write := wr fun ch v => { ch with cfg := { ch.cfg with histBad := w1c ch.cfg.histBad v 7 } } }
  else if o = 0x010 then some { read := ro fun ch => at_ ch.cfg.setSeq.toNat 32 + b2n ch.cfg.setSlot }
  else if o = 0x018 then some { read := ro fun ch => at_ (ch.ser.ring.length % 2 ^ 32) 32 + ch.ser.ringHead.toNat }
  else if o = 0x020 then some { read := ro fun ch => at_ ch.cfg.calMs.toNat 16 + ch.cfg.joinMs.toNat }
  else none

def tlmReg (o : Nat) : Option Reg :=
  if o = 0x000 then some { read := ro fun ch => at_ ch.tlm.hbmMax.toNat 32 + at_ ch.tlm.jctMax.toNat 16 + at_ ch.tlm.jctPcore.toNat 8 }
  else if o = 0x008 then some { read := ro fun ch => at_ ch.tlm.railMw.toNat 32 + ch.tlm.inputMw.toNat }
  else if o = 0x010 then some { read := ro fun ch => at_ ch.tlm.vin.toNat 16 + ch.tlm.iin.toNat }
  else none

/-! ### Blocks (Table 01-6) -/

def blockReg (b o : Nat) : Option Reg :=
  match b with
  | 0x00 => chnReg o
  | 0x01 => beatReg o
  | 0x02 => tskReg o
  | 0x03 => arrReg o
  | 0x04 => vecReg o
  | 0x05 => sqlReg o
  | 0x06 => gxcReg o
  | 0x07 => wrnReg o
  | 0x08 => memReg o
  | 0x09 => cxlReg o
  | 0x0A => dmaReg o
  | 0x0B => pssReg o
  | 0x0C => ledgReg o
  | 0x0D => bdgReg o
  | 0x0E => owlReg o
  | 0x0F => secReg o
  | 0x10 => mbxReg o
  | 0x11 => cfgReg o
  | 0x12 => pwrReg o
  | 0x13 => updReg o
  | 0x14 => tlmReg o
  | _ => none

/-- Register at an aligned offset from the CSR base. -/
def regAt (off : Nat) : Option Reg := if off % 8 = 0 then blockReg (off / 0x10000) (off % 0x10000) else none

def secBlock : Nat := 0x0F0000
def mbxBlock : Nat := 0x100000

/-- Mailbox buffers among the offsets from the CSR base. -/
def inMailbox (off n : Nat) : Bool := decide (mbxBlock ≤ off) && inBoxes (off - mbxBlock) n

/-- Code of an access to registers before it takes effect: ADDR_ERR when a word it touches holds no register, ALIGN_ERR unless it is one
aligned word. [DEDUCED, log entry 39] -/
def csrCode (off n : Nat) : CompCode :=
  let first := off / 8
  let words := (List.range ((off + n + 7) / 8 - first)).map fun i => (first + i) * 8
  if n = 0 ∨ !words.all (fun a => (regAt a).isSome) then .addrErr else if n ≠ 8 ∨ off % 8 ≠ 0 then .alignErr else .ok

/-- Reads n bytes of the CSR window. Each read takes a free value, for the fields that time alone moves.
 [DEDUCED, log entry 39; DESIGN CHOICE, log entry 40] -/
def State.csrRead (s : State) (c : ChanId) (off n : Nat) : State × CompCode × List Byte :=
  if inMailbox off n then (s, .ok, (s.ch c).boxRead (off - mbxBlock) n)
  else match csrCode off n, regAt off with
    | .ok, some r => ((s.onCh c r.clear).tookFree 1, .ok, leBytes 8 (r.read s c))
    | .ok, none => (s, .addrErr, [])
    | e, _ => (s, e, [])

/-- Writes bytes to the CSR window. A Warren operation may not write the SEC block (R375). [DEDUCED, log entries 39 and 41] -/
def State.csrWrite (s : State) (c : ChanId) (o : Origin) (w : Writer) (off : Nat) (bytes : List Byte) : State × CompCode :=
  if inMailbox off bytes.length then (s.onCh c fun ch => ch.boxWrite o (off - mbxBlock) bytes, .ok)
  else if w = .warren ∧ off / 0x10000 = 0x0F then (s, .addrErr)
  else match csrCode off bytes.length, regAt off with
    | .ok, some r => (r.write s c w (BitVec.ofNat 64 (leNat bytes)), .ok)
    | .ok, none => (s, .addrErr)
    | e, _ => (s, e)

/-! ### The PTD block (R393) -/

def Ptd.portQps (p : Ptd) (n : Nat) : Nat := countIf (fun q => q.port == n) p.qps

/-- Value of a PTD register; the island's registers lie at 0x8000. [DESIGN CHOICE, log entries 40 and 180] -/
def State.ptdRead (s : State) (o : Nat) : Option Nat :=
  let p := s.ptd
  let dom (ch : Channel) (lo : Nat) : Nat := at_ (b2n ch.dead) (lo + 3) + at_ ch.domain.st.code lo
  if o % 8 ≠ 0 then none
  else if o = 0x000 then some (at_ 0x2096 48 + at_ 0x01 40 + at_ (b2n p.slotValid) 3 + p.slot.toNat)
  else if o = 0x008 then some (dom s.ch1 12 + dom s.ch0 8 + s.moduleState)
  else if o = 0x010 then some 0
  else if 0x018 ≤ o ∧ o < 0x038 then
    let n := (o - 0x018) / 8
    let e := p.port n
    -- codewords lost on a link that is up have no command of their own: free
    let fec := if e.linkUp then satAdd e.fecUncorr (s.freeVal % 2 ^ 16) else e.fecUncorr
    some (at_ (b2n e.linkUp) 63 + at_ (p.portQps n) 32 + at_ fec.toNat 16 + e.cnpRx.toNat)
  else if o = 0x038 then some (at_ p.cmReject.toNat 16 + p.qps.length)
  else if o = 0x040 then some (at_ p.qpDiscard.toNat 32 + at_ p.aborted.toNat 16 + p.accessNak.toNat)
  else if 0x8000 ≤ o then secRead p.sec p.ser s.freeVal (o - 0x8000)
  else none

/-- RC fields of the PTD block. -/
def Ptd.clear (p : Ptd) (o : Nat) : Ptd :=
  if 0x018 ≤ o ∧ o < 0x038 then p.onPort ((o - 0x018) / 8) fun e => { e with fecUncorr := 0, cnpRx := 0 }
  else if o = 0x038 then { p with cmReject := 0 }
  else if o = 0x040 then { p with qpDiscard := 0, aborted := 0, accessNak := 0 }
  else if 0x8000 ≤ o then { p with sec := secClear (o - 0x8000) p.sec }
  else p

def State.ptdWrite (s : State) (o : Nat) (v : U64) : State :=
  if o = 0x010 then s.writeChpwr v else if 0x8000 ≤ o then s.secWrite 2 (o - 0x8000) v else s

end Sys2Proof.Machine
end

