-- ==== Sys2Proof/Machine/Remote.lean ====
section
/-! DEFINITION. The remote operations at their target, and the router: checks, windows, effects and answers (R143 to R146, R252 to R256,
R260 to R262, R280, R282, R334). -/

namespace Sys2Proof.Machine

/-! ### The checks before the effect -/

/-- Bytes of the window that a request touches. -/
def Packet.span (p : Packet) : Nat :=
  if p.op = 1 then p.operand.toNat else if p.op = 2 ∨ p.op = 3 then p.len.toNat else 8

/-- OP_ERR: unknown OP, a reserved field set, LEN, ARG or the byte count of a GET out of range, or a VC that does not carry the operation
(R249, R253, R254). [DEDUCED, log entry 109] -/
def Packet.opBad (p : Packet) : Bool :=
  p.srcRsvd != 0 || p.status != 0 || p.len.toNat != p.payload.length || p.vc != reqVc p.ctlClass
    || match p.op.toNat with
      | 1 => p.len != 0 || p.arg != 0 || p.operand == 0 || decide (4096 < p.operand.toNat)
      | 2 => p.len == 0 || decide (4096 < p.len.toNat) || p.arg != 0 || p.operand != 0
      | 3 => p.len == 0 || decide (4096 < p.len.toNat) || !([3, 4, 6].contains p.arg.toNat) || p.operand != 0
      | 4 => p.len != 8 || p.arg != 0
      | 5 => p.len != 0 || p.arg != 0
      | 6 => p.len != 0 || decide (1 < p.arg.toNat)
      | _ => true

/-- A response with a reserved field set, a code of no name, or a LEN or a VC that its OP cannot have. [DEDUCED, log entry 109] -/
def Packet.rspBad (p : Packet) : Bool :=
  p.srcRsvd != 0 || p.arg != 0 || p.operand != 0 || p.vc != 1 || decide (8 < p.status.toNat) || p.len.toNat != p.payload.length
    || if p.op = 0x81 ∧ p.status = 0 then decide (4096 < p.len.toNat) else p.len != if p.op = 0x84 ∧ p.status = 0 then 8 else 0

/-- Such a response ends its request with OP_ERR. [DEDUCED, log entry 109] -/
def Packet.checkedRsp (p : Packet) : Packet :=
  if p.rspBad then { p with srcRsvd := 0, arg := 0, operand := 0, vc := 1, status := 4, len := 0, payload := [] } else p

/-- A management packet that no message of R265 can have. [DEDUCED, log entry 109] -/
def Packet.mgmtBad (p : Packet) : Bool :=
  p.srcRsvd != 0 || p.status != 0 || p.arg != 0 || p.vc != 3 || p.len.toNat != p.payload.length || decide (4096 < p.len.toNat)

/-- Permission of a window that an operation needs: READ, WRITE, ADD or ATOMIC, as a bit of PERM (R252, R299). -/
def permBit (op : Nat) : Nat :=
  match op with
  | 1 => 0
  | 2 => 1
  | 3 => 3
  | _ => 2

/-- The whole range lies inside one open window that grants the operation to the source module. [DEDUCED, log entries 111 and 189] -/
def Channel.windowAllows (ch : Channel) (m : BitVec 14) (op off n : Nat) : Bool :=
  ch.pss.winOpen && match ch.pss.layout with
    | some l => l.windows.any fun w =>
        w.perm.getLsbD (permBit op) && decide (w.first.toNat ≤ m.toNat) && decide (m.toNat ≤ w.last.toNat)
          && decide (w.base ≤ off) && decide (off + n ≤ w.base + w.length)
    | none => false

/-- A range touches the Squirrel-private area. [DEDUCED, log entry 111] -/
def Channel.touchesSpa (ch : Channel) (off n : Nat) : Bool :=
  match ch.pss.layout with
  | some l => decide (off < l.spaBase + l.spaLen) && decide (l.spaBase < off + n)
  | none => false

/-- An operation does not reach a place: its regions of Table 12-4, the Squirrel-private area, the Badger area, slots 128 to 135, the
unmapped part of the CXL aperture, and the system area of a core (R169, R251, R280, R334). [DEDUCED, log entry 111] -/
def Channel.placeBad (ch : Channel) (op : Nat) (pl : Place) (n : Nat) : Bool :=
  match pl with
  | .hbm o => op == 3 || ch.touchesSpa o n || (op != 1 && decide (badgerArea < o + n))
  | .cxl o => (op != 1 && op != 2) || !ch.cxlMapped o n
  | .sram slot o => decide (128 ≤ slot)
      || match op with
        | 1 => false
        | 2 => systemBlocked true o n
        | 3 => systemBlocked false o n
        | _ => decide (systemArea < o + n) && !(decide (systemArea ≤ o) && decide (o + n ≤ landingArea))
  | .csr _ => op != 1 && op != 2

/-- ALIGN_ERR: the rule of the operation (R144, R145, R254). [DEDUCED, log entry 111] -/
def Packet.misaligned (p : Packet) : Bool :=
  let a := p.addr.toNat
  match p.op.toNat with
  | 1 => false
  | 2 => false
  | 3 => if p.arg = 6 then p.len.toNat % 132 != 0 || a % 4 != 0
      else
        let z := if p.arg = 4 then 4 else 2
        p.len.toNat % z != 0 || a % z != 0
  | _ => a % 8 != 0

/-- Whether a request comes from another channel. -/
def Origin.remote (o : Origin) : Bool :=
  match o with
  | .warren _ => true
  | _ => false

/-- The lowest code that applies to a request for this channel before its data is met, and its place (R256).
 [DEDUCED, log entries 41, 109 and 111] -/
def Channel.reach (ch : Channel) (o : Origin) (p : Packet) : CompCode × Place :=
  let off := gaOffset p.addr.toNat
  let n := p.span
  if o.remote && ch.pss.withdrawn then (.gone, .csr 0)
  else if p.opBad then (.opErr, .csr 0)
  else match placeOf off n with
    | none => (.addrErr, .csr 0)
    | some pl =>
      if ch.placeBad p.op.toNat pl n || (o.remote && !ch.windowAllows p.srcModule p.op.toNat off n) then (.addrErr, pl)
      else if p.misaligned then (.alignErr, pl)
      else (.ok, pl)

/-! ### The answer -/

/-- Requests that a channel answers with OP_ERR, ADDR_ERR or ALIGN_ERR count in REFUSED when another channel sent them (R28). -/
def Channel.countRefused (ch : Channel) (o : Origin) (code : CompCode) : Channel :=
  if o.remote && (code == .opErr || code == .addrErr || code == .alignErr) then
    ch.refusedOne
  else ch

/-- Answers a request at its target: on the NoC to the channel's own agents, into the fabric otherwise. -/
def State.respondTo (s : State) (c : ChanId) (o : Origin) (p : Packet) (code : CompCode) (payload : List Byte) : State :=
  let s1 := s.onCh c fun ch => ch.countRefused o code
  if o.remote then s1.sendResponse c (p.response code payload) else s1.emit (.nocResponse c (p.response code payload))

/-- A channel that is not yet JOINED answers every request with ADDR_ERR on the link it arrived on (R252). [DEDUCED, log entry 110] -/
def State.refuseEarly (s : State) (c : ChanId) (o : Origin) (p : Packet) : State :=
  match o with
  | .warren l => (s.onCh c fun ch => ch.countRefused o .addrErr).enqueue c l (p.response .addrErr [])
  | _ => s

/-- Whether the origin can send a remote operation: a link, or an agent of the channel itself. The DMA engine and the control complex send
theirs as firmware. -/
def Origin.sendsOps (o : Origin) : Bool :=
  match o with
  | .warren _ => true
  | .ownCore _ => true
  | .firmware => true
  | _ => false

/-- Whether operations of an origin reach the channel: a link carries them only in UP (R247). -/
def Channel.hears (ch : Channel) (o : Origin) : Bool :=
  match o with
  | .warren l => ch.linkSt l == .up
  | _ => true

/-- Runs an operation at its target: `f` is its effect at its place, and the answer's code and payload. A request for another channel is
in transit, and moves on. [DEDUCED, log entry 110] -/
def State.atTarget (s : State) (c : ChanId) (o : Origin) (p : Packet) (f : State → Place → State × CompCode × List Byte) : State :=
  let ch := s.ch c
  if !o.sendsOps || !ch.hears o then s
  else if o.remote && !ch.joined then s.refuseEarly c o p
  else if !ch.isOwn c p.addr.toNat then (if o.remote then s.forward c p else s)
  else
    let r := ch.reach o p
    if r.1 ≠ .ok then s.respondTo c o p r.1 []
    else
      let q := f s r.2
      q.1.respondTo c o p q.2.1 q.2.2

/-- A packet under the command that names its operation. -/
def Packet.asOp (p : Packet) (op : Nat) : Packet := if p.op.toNat = op then p else { p with op := 0 }

/-! ### GET and PUT -/

def execGet (c : ChanId) (o : Origin) (p : Packet) (s : State) : Result :=
  .next (s.atTarget c o (p.asOp 1) fun t pl =>
    match pl with
    | .csr off => t.csrRead c off p.span
    | _ => t.readPlace c pl p.span)

/-- A PUT that covers part of a poisoned line or word changes nothing and completes with MEM_ERR (R256, R274). [DEDUCED, log entry 114] -/
def execPut (c : ChanId) (o : Origin) (p : Packet) (s : State) : Result :=
  .next (s.atTarget c o (p.asOp 2) fun t pl =>
    match pl with
    | .csr off =>
      let r := t.csrWrite c o .warren off p.payload
      (r.1, r.2, [])
    | _ =>
      if (t.ch c).partlyPoisoned pl p.payload.length then (t, .memErr, [])
      else
        let r := t.writePlace c pl p.payload
        (r.1, r.2, []))

/-! ### PUT_ADD (R143 to R145) -/

/-- Sum of two elements of a floating-point format, byte for byte. -/
def addElems (f : FpFmt) (z : Nat) (sat : Bool) (old new : List Byte) : List Byte :=
  ((chunks z (old.length / z) old).zip (chunks z (new.length / z) new)).flatMap fun e =>
    leBytes z (fpAdd f sat (leNat e.1) (leNat e.2))

/-- A payload added to target bytes, by element format: the bytes, saturations, and blocks left unchanged. -/
def addPayload (fmt : Nat) (sat : Bool) (old new : List Byte) : List Byte × Nat × Nat :=
  if fmt = 4 then (addElems fpF32 4 sat old new, 0, 0)
  else if fmt = 3 then (addElems fpBf16 2 sat old new, 0, 0)
  else
    let r := ((chunks 132 (old.length / 132) old).zip (chunks 132 (new.length / 132) new)).map fun e => addGroup e.1 e.2
    (r.flatMap (·.1), (r.map fun x => x.2.1).foldl (· + ·) 0, (r.map fun x => x.2.2).foldl (· + ·) 0)

/-- What a PUT_ADD counts: a clk for each line it touches, saturations, and blocks left unchanged (R143, R145). [DEDUCED, log entry 77] -/
def Channel.countAdd (ch : Channel) (c : ChanId) (slot lines sats kept : Nat) : Channel :=
  let k := { ch with vec := { ch.vec with
    putadd := smMod {} ch.vec.putadd slot fun x => { x with now := satAdd x.now lines }
    blk8Sat := satAdd ch.vec.blk8Sat sats
    scaleMismatchCnt := satAdd ch.vec.scaleMismatchCnt kept
    scaleMismatch := ch.vec.scaleMismatch || kept != 0 } }
  if kept = 0 then k else k.raise c 0x1008

/-- The add at its place. A target line with a poisoned word fails the whole operation (R282). -/
def State.addAt (s : State) (c : ChanId) (fmt slot off : Nat) (new : List Byte) : State × CompCode × List Byte :=
  let p := (s.ch c).pcore slot
  let first := off / 64
  let lines := (off + new.length + 63) / 64 - first
  let r := s.checkSram c p (first * 64) (lines * 64)
  if !r.2 then (r.1, .memErr, [])
  else
    let x := addPayload fmt (s.ch c).vec.ovfMode ((s.ch c).sramBytes p off new.length) new
    (r.1.onCh c fun ch => (ch.sramWrite p off x.1).countAdd c slot lines x.2.1 x.2.2,
      if x.2.2 = 0 then .ok else .scaleMismatch, [])

def execPutAdd (c : ChanId) (o : Origin) (p : Packet) (s : State) : Result :=
  .next (s.atTarget c o (p.asOp 3) fun t pl =>
    match pl with
    | .sram slot off => t.addAt c p.arg.toNat slot off p.payload
    | _ => (t, .addrErr, []))

/-! ### CAS, FETCH_ADD64 and SIGNAL -/

/-- Waiting tasks of a core that a dependency counter has now reached are READY in that clk (R254). [DEDUCED, log entry 112] -/
def Channel.counterMoved (ch : Channel) (slot off v : Nat) : Channel :=
  if systemArea ≤ off ∧ off < landingArea then
    let f (t : Task) : Task :=
      if t.core = slot ∧ t.st = .waiting ∧ t.desc.dep ∧ t.desc.depCtr.toNat = (off - systemArea) / 8 ∧ t.desc.depTarget.toNat ≤ v then
        { t with st := .ready }
      else t
    { ch with tsk := { ch.tsk with tasks := ch.tsk.tasks.map f } }
  else ch

/-- Rewrites the 8-byte word at a place from its value: the prior word, or MEM_ERR on a poisoned one (R282). [DEDUCED, log entry 112] -/
def State.atomicAt (s : State) (c : ChanId) (pl : Place) (f : Nat → Nat) : State × CompCode × List Byte :=
  let r := s.readPlace c pl 8
  if r.2.1 ≠ .ok then (r.1, r.2.1, [])
  else
    let old := leNat r.2.2
    let new := f old % 2 ^ 64
    let w := r.1.writePlace c pl (leBytes 8 new)
    (match pl with
      | .sram slot off => w.1.onCh c fun ch => ch.counterMoved slot off new
      | _ => w.1, w.2, leBytes 8 old)

def execCas (c : ChanId) (o : Origin) (p : Packet) (s : State) : Result :=
  .next (s.atTarget c o (p.asOp 4) fun t pl =>
    t.atomicAt c pl fun old => if old = p.operand.toNat then leNat p.payload else old)

def execFetchAdd64 (c : ChanId) (o : Origin) (p : Packet) (s : State) : Result :=
  .next (s.atTarget c o (p.asOp 5) fun t pl => t.atomicAt c pl fun old => old + p.operand.toNat)

/-- A consumer returns a credit, available at the next beat start; beyond the capacity it is clamped (R49). [DEDUCED, log entry 62] -/
def Channel.creditReturned (ch : Channel) (c : ChanId) (q : Nat) : Channel :=
  let x := smGet {} ch.tsk.credits q
  if 256 ≤ q then ch
  else if x.capacity.toNat < x.available.toNat + x.returned + 1 then ch.raise c 0x4006
  else { ch with tsk := { ch.tsk with credits := smSet {} ch.tsk.credits q { x with returned := x.returned + 1 } } }

/-- A block that KEEP_K keeps on this channel from pass 1 to pass 2 (R165). -/
def Channel.keepsK (ch : Channel) (pass : Fin 3) (e : TransitPage) : Bool :=
  pass == 0 && ((ch.pss.layout.map fun l => l.keepK.any fun k => k.layer == e.layer && k.block == e.block)).getD false

/-- The planes of transit pages have arrived: the PTE of each names the frame reserved for it (R191), and the page is held for those that it is
still to serve. [DEDUCED, log entries 81 and 219] -/
def Channel.transitArrived (ch : Channel) (pool : Nat) (pass : Fin 3) (pages : List TransitPage) : Channel :=
  pages.foldl (fun (k : Channel) (e : TransitPage) =>
    let held (x : Nat × Frame) : Bool := x.2.st == .active && x.2.owner.toNat == e.region && x.2.page.toNat == e.page && x.2.pool.toNat == pool
    match k.sql.hbm.find? held, k.transitPool? e.region with
    | some x, some q =>
      let k1 := k.setPte e.region e.page
        { valid := true, tier := q.pteTier, frame := BitVec.ofNat 36 x.1, kFmt := e.fmt.setWidth 4, vFmt := (e.fmt >>> 4).setWidth 4
          lastUse := k.beat16 }
      let u : TransitUse := { uses := e.uses, forward := e.forward, keep := k.keepsK pass e }
      ({ k1 with sql := { k1.sql with transit := smIns (pteKey e.region e.page) u k1.sql.transit } }).transitServed e.region e.page id
    | _, _ => k) ch

/-- What the counter that a SIGNAL reached stands for. -/
def State.counterUse (s : State) (c : ChanId) (use : CounterUse) : State :=
  match use with
  | .plain => s
  | .creditReturn q => s.onCh c fun ch => ch.creditReturned c q
  | .transit pool pass pages => s.onCh c fun ch => ch.transitArrived pool pass pages
  | .prepassSett b pos off => s.onCh c fun ch => ch.prepassAt c b pos off
  | .prepassDomain b rank off => s.onCh c fun ch => ch.summaryAt c b rank off
  | .finalBitmap b off => s.onCh c fun ch => ch.verdictAt c b off
  | .contribution check b pos off => s.onCh c fun ch => ch.slotArrives c check b pos off
  | .running check b off => s.onCh c fun ch => ch.runningArrives c check b off
  | .segment b => s.onCh c fun ch => ch.segmentArrives b
  | .stepOk => s.rootCounts c false
  | .stepFail => s.rootCounts c true
  | .check b off root core own => s.checkArrives c b off root.1.toNat root.2.toNat core own

/-- SIGNAL: the add, the doorbell bit with RING, and what the counter stands for. -/
def execSignal (c : ChanId) (o : Origin) (p : Packet) (use : CounterUse) (s : State) : Result :=
  .next (s.atTarget c o (p.asOp 6) fun t pl =>
    let r := t.atomicAt c pl fun old => old + p.operand.toNat
    if r.2.1 ≠ .ok then r
    else
      let t1 := if p.arg.getLsbD 0 then r.1.onCh c fun ch => ch.signalRing c p.addr.toNat else r.1
      (t1.counterUse c use, .ok, []))

/-! ### The router (R253, R260 to R262) -/

/-- A packet that has entered the router from a link or from this channel: for this channel it is delivered; otherwise it moves on. Of a
malformed request the lowest code that applies is answered (R256). A management message for this channel is assembled as a command of
its own. [DEDUCED, log entries 108 and 109] -/
def State.routePacket (s : State) (c : ChanId) (o : Origin) (p : Packet) : State :=
  let ch := s.ch c
  let mine := p.dest == (ch.chn.moduleId.toNat, c.val)
  if p.isMgmt then (if mine || p.mgmtBad then s else s.forward c p)
  else if p.isResponse then (if mine then s.emit (.deliver c p.checkedRsp) else s.forward c p.checkedRsp)
  else if p.opBad then
    (if mine && o.remote && ch.pss.withdrawn then s.respondTo c o p .gone []
    else if !mine && (ch.transitCode p).isSome then s.forward c p
    else s.respondTo c o p .opErr [])
  else if mine then s.emit (.deliver c p)
  else s.forward c p

/-- PACKET_ROUTE: a packet from a link, which carries it only in UP, has crossed it; one without an arrival link comes from the channel
itself. [DEDUCED, log entries 108 and 110] -/
def execPacketRoute (c : ChanId) (arrival : Option LinkId) (p : Packet) (s : State) : Result :=
  let ch := s.ch c
  match arrival with
  | some l =>
    if ch.linkSt l ≠ .up then .next s
    else if !ch.joined then (if p.isResponse || p.isMgmt then .next s else .next (s.refuseEarly c (.warren l) p))
    else .next (s.routePacket c (.warren l) (p.crossed l))
  | none => if ch.joined then .next (s.routePacket c .firmware p) else .next s

end Sys2Proof.Machine
end

