-- ==== Sys2Proof/Machine/Host.lean ====
section
/-! DEFINITION. The host port, JTAG and the sideband: queue pairs, RDMA accesses, and the commands that are accesses to one register
(R28, R369, R376 to R379, R389, R390, R393). -/

namespace Sys2Proof.Machine

/-! ### Queue pairs (R377, R378, R389) -/

/-- Channel that a target of R377 names; none for the port die. -/
def targetChan (t : Nat) : Option ChanId := if t = 0 then some 0 else if t = 1 then some 1 else none

/-- The mailboxes of a QP that fails: EMPTY, and ABORTED where channel firmware was the requester, which is interrupted. A request of the
channel belongs to the QP of the class-1 queue. [DEDUCED, log entry 177] -/
def State.failBoxes (s : State) (c : ChanId) (q : Nat) : State :=
  (List.range 10).foldl (fun (r : State) m =>
    let ch := r.ch c
    let b := ch.box m
    let owner := if b.hdr.fromChannel then some (ch.queue 1).qpn.toNat else b.qp
    if (b.hdr.st = 1 ∨ b.hdr.st = 2 ∨ b.hdr.st = 3) ∧ owner = some q then
      let r1 := r.onCh c fun k => k.onBox m fun x => { x with
        hdr := { x.hdr with st := if x.hdr.fromChannel then 4 else 0 }, object := [], nextFrag := none, qp := none }
      if b.hdr.fromChannel then r1.emit (.fwInterrupt c (boxBit m) (decide (8 ≤ m))) else r1
    else r) s

/-- A QP enters the error state: its mailboxes, and a session that it holds, end. -/
def State.qpFails (s : State) (n : Nat) : State :=
  match s.ptd.qp? n with
  | none => s
  | some q =>
    if q.error then s
    else
      let s1 := { s with ptd := s.ptd.onQp n fun x => { x with error := true } }
      match targetChan q.target with
      | none => s1
      | some c =>
        let s2 := s1.failBoxes c n
        let s3 := if (s2.ch c).sec.session.stage ≠ 0 ∧ (s2.ch c).sec.session.qp = n then s2.endSession c else s2
        s3.onCh c fun ch => if ch.domain.st = .off then ch else ch.raise c 0xA007

def execQpError (qp : Nat) (s : State) : Result := .next (s.qpFails qp)

/-- A request of a kind that the device does not support: NAK for an invalid request, and the QP fails (R376). -/
def execRdmaUnsupported (qp : Nat) (s : State) : Result :=
  if !s.ptd.hostUp then .next s
  else match s.ptd.qp? qp with
  | none => .next { s with ptd := { s.ptd with qpDiscard := satAdd s.ptd.qpDiscard 1 } }
  | some q =>
    if q.error then .next { s with ptd := { s.ptd with qpDiscard := satAdd s.ptd.qpDiscard 1 } }
    else .next ((s.emit (.rdmaNakInvalid qp)).qpFails qp)

/-- Why a connection request is rejected: the lowest reason. `target` and `secure` are the private data's bytes 0 and 1. -/
def State.connectReason (s : State) (target : Nat) (secure : Bool) : Option Nat :=
  if 4096 ≤ s.ptd.qps.length then some 1
  else if 2 < target ∨ (target = 2 ∧ secure) then some 2
  else match targetChan target with
    | some c => if (s.ch c).domain.st = .off then some 3 else none
    | none => none

/-- A connection request on a port. One whose link is down never reaches the port die. -/
def execCmConnectRequest (port : Fin 4) (target : Nat) (secure : Bool) (s : State) : Result :=
  if !s.ptd.hostUp ∨ !(s.ptd.port port.val).linkUp then .next s
  else match s.connectReason target secure with
    | some k => .next ({ s with ptd := { s.ptd with cmReject := satAdd s.ptd.cmReject 1 } }.emit (.cmReject port.val (BitVec.ofNat 8 k)))
    | none =>
      let q : Qp :=
        { num := s.ptd.nextQp, port := port.val, target := target, secure := secure, rkey := BitVec.ofNat 32 (Config.drbg s.ptd.nextQp) }
      .next ({ s with ptd := { s.ptd with qps := s.ptd.qps ++ [q], nextQp := s.ptd.nextQp + 1 } }.emit (.cmReply port.val q.num q.rkey))

/-- The host disconnects a QP: it ends as a QP that fails does, without the error, and is gone. [DEDUCED, log entry 177] -/
def execCmDisconnect (qp : Nat) (s : State) : Result :=
  if !s.ptd.hostUp then .next s
  else match s.ptd.qp? qp with
  | none => .next s
  | some q =>
    let s1 := match targetChan q.target with
      | none => s
      | some c =>
        let s2 := s.failBoxes c qp
        if (s2.ch c).sec.session.stage ≠ 0 ∧ (s2.ch c).sec.session.qp = qp then s2.endSession c else s2
    .next { s1 with ptd := { s1.ptd with qps := s1.ptd.qps.filter fun x => x.num != qp } }

/-! ### Ports (R376, R377, R399) -/

/-- A port reaches link: only one that the settings enable. What was retained for the host is delivered (R388). [DEDUCED, log entry 192] -/
def execEthPortLinkUp (port : Fin 4) (s : State) : Result :=
  if !s.ptd.hostUp ∨ !(s.ptd.sec.settings.netPorts.any fun e => e.1 == port.val) then .next s
  else
    let s1 := { s with ptd := s.ptd.onPort port.val fun e => { e with linkUp := true } }
    .next ((List.range 8).foldl (fun (r : State) n => ((r.flushQueue 0 n).flushQueue 1 n).flushPtd n) s1)

/-- A port loses link: its QPs fail. What it has counted in FEC_UNCORR is free. [DESIGN CHOICE, log entry 180] -/
def execEthPortLinkDown (port : Fin 4) (s : State) : Result :=
  let s1 := { s with ptd := s.ptd.onPort port.val fun e => { e with
    linkUp := false, fecUncorr := if e.linkUp then satAdd e.fecUncorr (s.freeVal % 2 ^ 16) else e.fecUncorr } }.tookFree 1
  .next ((s.ptd.qps.filter fun q => q.port == port.val).foldl (fun (r : State) q => r.qpFails q.num) s1)

/-- A congestion notification reduces the sending rate; the manual gives no amount, so the new rate is free below the old one.
 [DESIGN CHOICE, log entry 176] -/
def execCongestionNotificationRx (port : Fin 4) (s : State) : Result :=
  if !s.ptd.hostUp then .next s
  else .next ({ s with ptd := s.ptd.onPort port.val fun e =>
    { e with cnpRx := satAdd e.cnpRx 1, rate := if e.rate ≤ 1 then e.rate else 1 + s.freeVal % (e.rate - 1) } }.tookFree 1)

/-! ### What a QP reaches (Table 18-1) -/

/-- What an access does once it is let through: by a writer, with its code and the bytes read. -/
abbrev AccessRun := State → Writer → State × CompCode × List Byte

/-- Secure doorbells of the MBX block. [DEDUCED, log entry 179] -/
def secureBells (off n : Nat) : Bool := decide (0x140 ≤ off) && decide (off + n ≤ 0x180)
/-- Secure mailbox buffers that n bytes touch: whether every one is S0, S1, or non-secure. -/
def onlyBoxes (p : Nat → Bool) (off n : Nat) : Bool := inBoxes off n && (boxesOf off n).all p

/-- Whether a QP reaches n bytes at an offset of the channel window. [DEDUCED, log entries 132 and 179] -/
def Channel.hostReaches (ch : Channel) (q : Qp) (addr n : Nat) : Bool :=
  match placeOf addr n with
  | some (.hbm o) => (!q.secure || q.bound) && !ch.touchesSpa o n && decide (o + n ≤ badgerArea)
  | some (.csr o) =>
    if mbxBlock ≤ o ∧ o < mbxBlock + 0x10000 then
      let m := o - mbxBlock
      let open_ := onlyBoxes (fun b => decide (b < 8)) m n || (decide (m < 0x1000) && !secureBells m n)
      let bell := secureBells m n || onlyBoxes (fun b => b == 8) m n
      if q.secure then bell || (q.bound && (open_ || onlyBoxes (fun _ => true) m n)) else open_
    else !q.secure || q.bound
  | _ => false

/-- A channel that is not available to the host (R389). [DEDUCED, log entry 132] -/
def Channel.hostAvailable (ch : Channel) : Bool :=
  ch.chn.state != .reset && (ch.domain.st == .active || ch.domain.st == .idle) && !ch.dead

/-- Inbound doorbell group whose SET register lies at an offset from the CSR base. [DEDUCED, log entry 175] -/
def setBell (off : Nat) : Option Nat :=
  if off = mbxBlock + 0x108 then some 0 else if off = mbxBlock + 0x148 then some 2 else none

/-- A SET to a channel that is not available: acknowledged, with an MBX_ABORTED record for each bit (R389). [DEDUCED, log entry 175] -/
def State.deadBell (s : State) (c : ChanId) (g : Nat) (v : Nat) : State :=
  let w := (BitVec.ofNat 32 v &&& usedBits g).toNat
  { s with ptd := (List.range 32).foldl (fun (p : Ptd) b =>
      if w / 2 ^ b % 2 = 1 then
        let box := if g = 0 ∧ b < 8 then b else if g = 2 ∧ b < 2 then 8 + b else 0xF
        p.abort c 0 (box + b * 256 + 2 ^ 13 + if g = 2 then 2 ^ 16 else 0)
      else p) s.ptd }

/-- NAK for a remote access error, and the QP fails. -/
def State.nakAccess (s : State) (q : Nat) : State := (s.accessNak.emit (.rdmaNakAccess q)).qpFails q

/-- The answer of an access by a QP. -/
def State.hostAnswer (s : State) (q : Nat) (write : Bool) (code : CompCode) (data : List Byte) : State :=
  if code ≠ .ok then s.nakAccess q else if write then s.emit (.rdmaAck q) else s.emit (.rdmaData q data)

/-- An access by a QP: `wr` holds the bytes written, and `run` is what it does where it is let through. Nothing arrives through a port die
that is lost (R21). [DEDUCED, log entries 139 and 179] -/
def State.hostDo (s : State) (qp : Nat) (rkeyOk : Bool) (addr n : Nat) (wr : Option (List Byte)) (run : AccessRun) : State :=
  if !s.ptd.hostUp then s
  else match s.ptd.qp? qp with
  | none => { s with ptd := { s.ptd with qpDiscard := satAdd s.ptd.qpDiscard 1 } }
  | some q =>
    if q.error then { s with ptd := { s.ptd with qpDiscard := satAdd s.ptd.qpDiscard 1 } }
    else if !rkeyOk then s.nakAccess qp
    else
      let w : Writer := if q.secure then .secureHost else .host
      match targetChan q.target with
      | none =>
        let r := run s w
        r.1.hostAnswer qp wr.isSome r.2.1 r.2.2
      | some c =>
        let ch := s.ch c
        if !ch.hostReaches q addr n then s.nakAccess qp
        else if !ch.hostAvailable then
          match setBell (addr - csrBase), wr with
          | some g, some b => if b.length = 8 then (s.deadBell c g (leNat b)).emit (.rdmaAck qp) else s.nakAccess qp
          | _, _ => s.nakAccess qp
        else
          let r := run s w
          r.1.hostAnswer qp wr.isSome r.2.1 r.2.2

/-! ### Accesses to registers and memory -/

/-- A read of the PTD block: one aligned word. -/
def State.ptdGet (s : State) (off n : Nat) : State × CompCode × List Byte :=
  if n ≠ 8 ∨ off % 8 ≠ 0 then (s, .alignErr, [])
  else match s.ptdRead off with
    | some v => ({ s with ptd := s.ptd.clear off }.tookFree 1, .ok, leBytes 8 v)
    | none => (s, .addrErr, [])

/-- A write of the PTD block. -/
def State.ptdPut (s : State) (off : Nat) (bytes : List Byte) : State × CompCode × List Byte :=
  if bytes.length ≠ 8 ∨ off % 8 ≠ 0 then (s, .alignErr, [])
  else if (s.ptdRead off).isNone then (s, .addrErr, [])
  else (s.ptdWrite off (BitVec.ofNat 64 (leNat bytes)), .ok, [])

/-- The access itself, to a register of a channel or of the port die. [DEDUCED, log entry 39] -/
def regRun (t : Fin 3) (o : Origin) (off n : Nat) (wr : Option (List Byte)) : AccessRun := fun s w =>
  match islandChan t, wr with
  | some c, some b =>
    let r := s.csrWrite c o w off b
    (r.1, r.2, [])
  | some c, none => s.csrRead c off n
  | none, some b => s.ptdPut off b
  | none, none => s.ptdGet off n

/-- The access itself, to the channel window. [DEDUCED, log entry 114] -/
def windowRun (c : ChanId) (o : Origin) (addr n : Nat) (wr : Option (List Byte)) : AccessRun := fun s w =>
  match placeOf addr n with
  | some (.hbm h) => match wr with
    | some b => (s.onCh c fun ch => ch.hbmWrite h b, .ok, [])
    | none => s.readPlace c (.hbm h) n
  | some (.csr r) => regRun (if c = 0 then 0 else 1) o r n wr s w
  | _ => (s, .addrErr, [])

/-- An RDMA access: an offset of the channel window, or of the PTD block. -/
def State.rdma (s : State) (qp : Nat) (rkey : U32) (addr n : Nat) (wr : Option (List Byte)) : State :=
  match s.ptd.qp? qp with
  | none => s.hostDo qp false addr n wr fun t _ => (t, .addrErr, [])
  | some q =>
    let run := match targetChan q.target with
      | some c => windowRun c (.host qp) addr n wr
      | none => regRun 2 (.host qp) addr n wr
    s.hostDo qp (rkey == q.rkey) addr n wr run

def execRdmaWrite (qp : Nat) (rkey : U32) (addr : Nat) (data : List Byte) (s : State) : Result :=
  .next (s.rdma qp rkey addr data.length (some data))

def execRdmaRead (qp : Nat) (rkey : U32) (addr len : Nat) (s : State) : Result := .next (s.rdma qp rkey addr len none)

/-! ### Commands that are accesses to a register -/

/-- The answer to firmware, JTAG, a core or a link. -/
def State.regAnswer (s : State) (t : Fin 3) (write : Bool) (code : CompCode) (data : List Byte) : State :=
  if write ∨ code ≠ .ok then s.emit (.csrStatus t code) else s.emit (.csrData t (BitVec.ofNat 64 (leNat data)))

/-- JTAG reads registers outside the island at level OBSERVE and writes them at INVASIVE; the island's own are open to it (R369, R370).
 [DEDUCED, log entry 42] -/
def Sec.jtagAllows (x : Sec) (island write : Bool) : Bool :=
  island || x.dbgLevel == .invasive || (!write && x.dbgLevel == .observe)

/-- The units of the JTAG chain in its order: port die, channel 0, channel 1 (R19, R419). [DEDUCED, log entry 203] -/
def jtagChain : List (Fin 3) := [2, 0, 1]

/-- The chain is broken at a unit: at a port die that is lost; a channel without power leaves it whole (R18). [DEDUCED, log entry 203] -/
def State.jtagBroken (s : State) (u : Fin 3) : Bool := u == 2 && !(s.ptd.up && !s.ptd.failed)

/-- The chain reaches a unit when it is broken neither there nor before (R21). [DEDUCED, log entries 139 and 203] -/
def State.jtagReaches (s : State) (t : Fin 3) : Bool := (jtagChain.takeWhile (· != t) ++ [t]).all fun u => !s.jtagBroken u

/-- Code of a register access from another channel before it takes effect (R252). -/
def Channel.linkCode (ch : Channel) (l : LinkId) (write : Bool) (off n : Nat) : CompCode :=
  if !ch.joined then .addrErr
  else if ch.pss.withdrawn then .gone
  else if !ch.windowAllows (ch.link l.val).peerModule (if write then 2 else 1) (csrBase + off) n then .addrErr
  else .ok

/-- An access to a register at an offset from the CSR base, or of the PTD block for unit 2. `run` is what it does once it is let through.
Firmware runs from CALIBRATE on; an origin that has no path to the unit makes no access. [DEDUCED, log entries 39, 41, 42 and 179] -/
def State.regDo (s : State) (t : Fin 3) (o : Origin) (off n : Nat) (wr : Option (List Byte)) (run : AccessRun) : State :=
  let answer (r : State × CompCode × List Byte) : State := r.1.regAnswer t wr.isSome r.2.1 r.2.2
  match o, islandChan t with
  | .host q, some c => match s.ptd.qp? q with
    | some x => if x.target = c.val then s.hostDo q true (csrBase + off) n wr run else s
    | none => s.hostDo q true (csrBase + off) n wr run
  | .host q, none => match s.ptd.qp? q with
    | some x => if x.target = 2 then s.hostDo q true off n wr run else s
    | none => s.hostDo q true off n wr run
  | .firmware, some c => if (s.ch c).calibrated ∧ !(s.ch c).dead ∧ (s.ch c).domain.st ≠ .off then answer (run s .firmware) else s
  | .firmware, none => s
  | .jtag, some c =>
    if !s.jtagReaches t ∨ (s.ch c).domain.st = .off then s
    else if (s.sec t).jtagAllows (off / 0x10000 == 0x0F) wr.isSome then answer (run s .jtag)
    else answer (s, .addrErr, [])
  | .jtag, none => if !s.jtagReaches t then s
    else if (s.sec t).jtagAllows (decide (0x8000 ≤ off)) wr.isSome then answer (run s .jtag)
    else answer (s, .addrErr, [])
  | .ownCore _, some c => if (s.ch c).calibrated then answer (run s .warren) else s
  | .ownCore _, none => s
  | .warren l, some c =>
    let code := (s.ch c).linkCode l wr.isSome off n
    let r := if code = .ok then run s .warren else (s, code, [])
    answer (r.1.onCh c fun ch => ch.countRefused o r.2.1, r.2)
  | .warren _, none => s

/-- A write of a whole register. -/
def State.writeReg (s : State) (t : Fin 3) (o : Origin) (off : Nat) (v : U64) : State :=
  let b := leBytes 8 v.toNat
  s.regDo t o off 8 (some b) (regRun t o off 8 (some b))

def unitOf (c : ChanId) : Fin 3 := if c = 0 then 0 else 1

/-- `len` bytes of `v` are written. -/
def execCsrWrite (t : Fin 3) (o : Origin) (off len : Nat) (v : U64) (s : State) : Result :=
  let b := leBytes len v.toNat
  .next (s.regDo t o off len (some b) (regRun t o off len (some b)))

def execRcRead (t : Fin 3) (o : Origin) (off len : Nat) (s : State) : Result := .next (s.regDo t o off len none (regRun t o off len none))

/-- A write of BEAT_CTRL. -/
def execBeatResume (c : ChanId) (o : Origin) (v : U64) (s : State) : Result := .next (s.writeReg (unitOf c) o 0x010000 v)

/-- A write of WRN_LINK.RESTART while WRN_LINK_SEL selects the link. -/
def execWrnLinkRestart (c : ChanId) (o : Origin) (link : LinkId) (s : State) : Result :=
  let b := leBytes 8 (2 ^ 32)
  .next (s.regDo (unitOf c) o 0x070040 8 (some b) fun t _ => (t.restartLink c link, .ok, []))

def execUpdLrWrite (c : ChanId) (o : Origin) (group : Fin 64) (v : U64) (s : State) : Result :=
  .next (s.writeReg (unitOf c) o (0x130100 + 8 * group.val) v)

def execReshardGo (c : ChanId) (o : Origin) (v : U64) (s : State) : Result := .next (s.writeReg (unitOf c) o 0x060038 v)

def execPssLoad (c : ChanId) (o : Origin) (s : State) : Result := .next (s.writeReg (unitOf c) o 0x0B0000 1)
def execPssStart (c : ChanId) (o : Origin) (s : State) : Result := .next (s.writeReg (unitOf c) o 0x0B0000 2)
def execPssUnload (c : ChanId) (o : Origin) (s : State) : Result := .next (s.writeReg (unitOf c) o 0x0B0000 4)

def execLedgLimitWrite (c : ChanId) (o : Origin) (v : U64) (s : State) : Result := .next (s.writeReg (unitOf c) o 0x0C0008 v)
def execLedgCtrlWrite (c : ChanId) (o : Origin) (v : U64) (s : State) : Result := .next (s.writeReg (unitOf c) o 0x0C0000 v)

def execPwrReqOn (c : ChanId) (o : Origin) (domain : Nat) (s : State) : Result :=
  .next (s.writeReg (unitOf c) o 0x120008 (BitVec.ofNat 64 (2 ^ 8 + domain % 256)))
def execPwrReqOff (c : ChanId) (o : Origin) (domain : Nat) (s : State) : Result :=
  .next (s.writeReg (unitOf c) o 0x120008 (BitVec.ofNat 64 (2 ^ 9 + domain % 256)))

/-- PTD_CHPWR.ON. `expired`: the 10 s after a trip have passed (R417). [DEDUCED, log entry 137] -/
def execPtdChpwrOn (o : Origin) (c : ChanId) (expired : Bool) (s : State) : Result :=
  let s1 := if expired then s.onCh c fun ch => { ch with tripLock := false } else s
  .next (s1.writeReg 2 o 0x010 (BitVec.ofNat 64 (1 + c.val * 2 ^ 8)))
def execPtdChpwrOff (o : Origin) (c : ChanId) (s : State) : Result :=
  .next (s.writeReg 2 o 0x010 (BitVec.ofNat 64 (2 + c.val * 2 ^ 8)))

def execBdgReportWrite (c : ChanId) (o : Origin) (v : U64) (s : State) : Result := .next (s.writeReg (unitOf c) o 0x0D0100 v)

/-- Offset of SEC_DBG in a channel's CSR window and in the PTD block. -/
def secDbgAt (t : Fin 3) : Nat := if t = 2 then 0x8018 else secBlock + 0x018

/-- A write of the level field of SEC_DBG. -/
def execDbgReq (t : Fin 3) (o : Origin) (v : U64) (s : State) : Result := .next (s.writeReg t o (secDbgAt t) (v &&& 3))

/-- `sigOk`: the token's signature verifies under the key its SIGNER names. -/
def execDbgSubmit (t : Fin 3) (o : Origin) (sigOk : Bool) (s : State) : Result :=
  let b := leBytes 8 8
  .next (s.regDo t o (secDbgAt t) 8 (some b) fun r w =>
    if w = .warren then (r, .addrErr, []) else (r.writeSecDbg t 8 sigOk, .ok, []))

def execDbgLock (t : Fin 3) (o : Origin) (s : State) : Result := .next (s.writeReg t o (secDbgAt t) 16)

/-- Offset of a register of a doorbell group: VAL, SET, CLR, MASK. -/
def bellAt (g : Fin 4) (k : Nat) : Nat := mbxBlock + 0x100 + 32 * g.val + 8 * k

def execDbSet (c : ChanId) (o : Origin) (group : Fin 4) (v : U32) (s : State) : Result :=
  .next (s.writeReg (unitOf c) o (bellAt group 1) (v.setWidth 64))
def execDbClr (c : ChanId) (o : Origin) (group : Fin 4) (v : U32) (s : State) : Result :=
  .next (s.writeReg (unitOf c) o (bellAt group 2) (v.setWidth 64))
def execDbMask (c : ChanId) (o : Origin) (group : Fin 4) (v : U32) (s : State) : Result :=
  .next (s.writeReg (unitOf c) o (bellAt group 3) (v.setWidth 64))

def execMbxRingPiWrite (c : ChanId) (o : Origin) (ring : Fin 8) (v : U64) (s : State) : Result :=
  .next (s.writeReg (unitOf c) o (mbxBlock + 0x208 + 32 * ring.val) v)

/-- A write of MBX_EQn_IDX.CI; the port die's queues, which have no registers, take the host's index directly. -/
def execMbxEqCiWrite (t : Fin 3) (o : Origin) (cls : Fin 16) (v : U64) (s : State) : Result :=
  if t = 2 then (if cls.val < 8 then .next (s.writeEqCi 2 cls.val (bv 32 v 31 0)) else .next s)
  else .next (s.writeReg t o (mbxBlock + 0x410 + 32 * cls.val) v)

def execCfgLeave (c : ChanId) (o : Origin) (s : State) : Result := .next (s.writeReg (unitOf c) o 0x110000 1)

/-! ### The I3C target (R390) -/

/-- ENTDAA gives the port die its dynamic address. -/
def execI3cEntdaa (addr : BitVec 7) (s : State) : Result :=
  if s.ptd.up then .next { s with ptd := { s.ptd with i3cAddr := some addr } } else .next s

/-- A write of the slot: accepted once after each power-up; a later one is acknowledged and changes nothing. [DEDUCED, log entry 178] -/
def execI3cSlotWrite (v : U16) (s : State) : Result :=
  if !s.ptd.up ∨ s.ptd.i3cAddr.isNone then .next s
  else if s.ptd.slotTaken then .next (s.emit .i3cAck)
  else
    let n : BitVec 3 := v.setWidth 3
    let set (ch : Channel) : Channel := { ch with wrn := { ch.wrn with slotValid := true, slot := n } }
    .next (({ s with ptd := { s.ptd with slotTaken := true, slotValid := true, slot := n } }.onCh 0 set).onCh 1 set |>.emit .i3cAck)

/-- Alert causes, Table 18-8. -/
def Ptd.alerts (p : Ptd) : Nat := b2n p.alertTemp + at_ (b2n p.alertInput) 1 + at_ (b2n p.alertHotswap) 2

/-- The read of the alert causes clears them. [DEDUCED, log entries 134 and 178] -/
def execI3cAlertRead (s : State) : Result :=
  if !s.ptd.up ∨ s.ptd.i3cAddr.isNone then .next s
  else .next ({ s with ptd := { s.ptd with alertTemp := false, alertInput := false, alertHotswap := false } }.emit
    (.i3cData (BitVec.ofNat 16 s.ptd.alerts)))

/-- The other readable items of Table 18-8, which a read leaves as they are; the table of commands has no row for their read.
 [DEDUCED, log entry 178] -/
def State.i3cRead (s : State) (off : Nat) : Option Nat :=
  let on (ch : Channel) : Nat := b2n (ch.domain.st != .off && (ch.refclkOk || ch.chn.state != .reset))
  if off = 0x00 then some 0x2096
  else if off = 0x02 then some (at_ (on s.ch1) 5 + at_ (on s.ch0) 4 + s.moduleState)
  else if off = 0x04 then some s.sup.vin.toNat
  else if off = 0x06 then some s.sup.iin.toNat
  else if off = 0x08 then some (if s.ch0.tlm.jctMax.toInt < s.ch1.tlm.jctMax.toInt then s.ch1.tlm.jctMax.toNat else s.ch0.tlm.jctMax.toNat)
  else if off = 0x0A then some s.ptd.alerts
  else none

end Sys2Proof.Machine
end

