-- ==== Sys2Proof/Machine/Dispatch.lean ====
section
/-! DEFINITION. The effect of each command on everything but the queue: one arm per command of the table. -/

namespace Sys2Proof.Machine

def exec (i : Instr) (s : State) : Host.Outcome State Fault Refusal :=
  match i with
  | .csrWrite t o off len v => Sys2Proof.Machine.execCsrWrite t o off len v s
  | .rcRead t o off len => Sys2Proof.Machine.execRcRead t o off len s
  | .beatBoundary c => Sys2Proof.Machine.execBeatBoundary c s
  | .beatAdmission c => Sys2Proof.Machine.execBeatAdmission c s
  | .leadinWindowStart c => Sys2Proof.Machine.execLeadinWindowStart c s
  | .beatrefEdge off0 off1 => Sys2Proof.Machine.execBeatrefEdge off0 off1 s
  | .beatResume c o v => Sys2Proof.Machine.execBeatResume c o v s
  | .timeRequestTimer c => Sys2Proof.Machine.execTimeRequestTimer c s
  | .timeRequest c link m => Sys2Proof.Machine.execTimeRequest c link m s
  | .timeResponse c link m t4 => Sys2Proof.Machine.execTimeResponse c link m t4 s
  | .timeAnnounce c m signer => Sys2Proof.Machine.execTimeAnnounce c m signer s
  | .taskDispatch c core => Sys2Proof.Machine.execTaskDispatch c core s
  | .taskComplete c core ended => Sys2Proof.Machine.execTaskComplete c core ended s
  | .sampleCopyDone c sample => Sys2Proof.Machine.execSampleCopyDone c sample s
  | .opIssue c core slot op => Sys2Proof.Machine.execOpIssue c core slot op s
  | .fence c core slot mask => Sys2Proof.Machine.execFence c core slot mask s
  | .remoteResponse c p => Sys2Proof.Machine.execRemoteResponse c p s
  | .get c o p => Sys2Proof.Machine.execGet c o p s
  | .put c o p => Sys2Proof.Machine.execPut c o p s
  | .putAdd c o p => Sys2Proof.Machine.execPutAdd c o p s
  | .cas c o p => Sys2Proof.Machine.execCas c o p s
  | .fetchAdd64 c o p => Sys2Proof.Machine.execFetchAdd64 c o p s
  | .signal c o p use => Sys2Proof.Machine.execSignal c o p use s
  | .rspTimeoutExpiry c tag => Sys2Proof.Machine.execRspTimeoutExpiry c tag s
  | .lostAfterExpiry c tag => Sys2Proof.Machine.execLostAfterExpiry c tag s
  | .packetRoute c arrival p => Sys2Proof.Machine.execPacketRoute c arrival p s
  | .linkFrameRx c link p seq ack flags crc fec => Sys2Proof.Machine.execLinkFrameRx c link p seq ack flags crc fec s
  | .linkSignalDetect c link => Sys2Proof.Machine.execLinkSignalDetect c link s
  | .linkTrainingDone c link peerModule peerChannel peerLink peerSett => Sys2Proof.Machine.execLinkTrainingDone c link peerModule peerChannel peerLink peerSett s
  | .linkTrainingTimeout c link => Sys2Proof.Machine.execLinkTrainingTimeout c link s
  | .linkAuth c link verified peerLifecycle peerDomainKey peerInvasive peerStratum => Sys2Proof.Machine.execLinkAuth c link verified peerLifecycle peerDomainKey peerInvasive peerStratum s
  | .linkAuthTimeout c link => Sys2Proof.Machine.execLinkAuthTimeout c link s
  | .linkLossOfLock c link => Sys2Proof.Machine.execLinkLossOfLock c link s
  | .linkRetrainDone c link => Sys2Proof.Machine.execLinkRetrainDone c link s
  | .linkRetrainFail c link => Sys2Proof.Machine.execLinkRetrainFail c link s
  | .wrnLinkRestart c o link => Sys2Proof.Machine.execWrnLinkRestart c o link s
  | .mgmtFragmentRx c link f => Sys2Proof.Machine.execMgmtFragmentRx c link f s
  | .mgmtPartialTimeout c link => Sys2Proof.Machine.execMgmtPartialTimeout c link s
  | .routeUpdate c m => Sys2Proof.Machine.execRouteUpdate c m s
  | .adopt c m => Sys2Proof.Machine.execAdopt c m s
  | .tileDrain c core slot wrong => Sys2Proof.Machine.execTileDrain c core slot wrong s
  | .vecAdd c core p d a b => Sys2Proof.Machine.execVecAdd c core p d a b s
  | .vecSub c core p d a b => Sys2Proof.Machine.execVecSub c core p d a b s
  | .vecMul c core p d a b => Sys2Proof.Machine.execVecMul c core p d a b s
  | .vecFma c core p d a b x => Sys2Proof.Machine.execVecFma c core p d a b x s
  | .vecMin c core p d a b => Sys2Proof.Machine.execVecMin c core p d a b s
  | .vecMax c core p d a b => Sys2Proof.Machine.execVecMax c core p d a b s
  | .vecAbs c core p d a => Sys2Proof.Machine.execVecAbs c core p d a s
  | .vecNeg c core p d a => Sys2Proof.Machine.execVecNeg c core p d a s
  | .vecCompare c core p op d a b => Sys2Proof.Machine.execVecCompare c core p op d a b s
  | .div32 c core d a b => Sys2Proof.Machine.execDiv32 c core d a b s
  | .sqrt32 c core d a => Sys2Proof.Machine.execSqrt32 c core d a s
  | .div64 c core d a b => Sys2Proof.Machine.execDiv64 c core d a b s
  | .sqrt64 c core d a => Sys2Proof.Machine.execSqrt64 c core d a s
  | .vecConvert c core k sr d a => Sys2Proof.Machine.execVecConvert c core k sr d a s
  | .intAdd c core wide d a b => Sys2Proof.Machine.execIntAdd c core wide d a b s
  | .intSub c core wide d a b => Sys2Proof.Machine.execIntSub c core wide d a b s
  | .intMulLow c core wide d a b => Sys2Proof.Machine.execIntMulLow c core wide d a b s
  | .intShift c core wide op d a b => Sys2Proof.Machine.execIntShift c core wide op d a b s
  | .intAnd c core wide d a b => Sys2Proof.Machine.execIntAnd c core wide d a b s
  | .intOr c core wide d a b => Sys2Proof.Machine.execIntOr c core wide d a b s
  | .intXor c core wide d a b => Sys2Proof.Machine.execIntXor c core wide d a b s
  | .intSelect c core wide d m a b => Sys2Proof.Machine.execIntSelect c core wide d m a b s
  | .intCompare c core wide signed op d a b => Sys2Proof.Machine.execIntCompare c core wide signed op d a b s
  | .exp2 c core d a => Sys2Proof.Machine.execExp2 c core d a s
  | .log2 c core d a => Sys2Proof.Machine.execLog2 c core d a s
  | .rcp c core d a => Sys2Proof.Machine.execRcp c core d a s
  | .rsqrt c core d a => Sys2Proof.Machine.execRsqrt c core d a s
  | .sqrt c core d a => Sys2Proof.Machine.execSqrt c core d a s
  | .tanh c core d a => Sys2Proof.Machine.execTanh c core d a s
  | .sigmoid c core d a => Sys2Proof.Machine.execSigmoid c core d a s
  | .gelu c core d a => Sys2Proof.Machine.execGelu c core d a s
  | .silu c core d a => Sys2Proof.Machine.execSilu c core d a s
  | .sin c core d a => Sys2Proof.Machine.execSin c core d a s
  | .cos c core d a => Sys2Proof.Machine.execCos c core d a s
  | .welford c core p first active a => Sys2Proof.Machine.execWelford c core p first active a s
  | .sumsq c core p first active a => Sys2Proof.Machine.execSumsq c core p first active a s
  | .merge c core p sumsq a b => Sys2Proof.Machine.execMerge c core p sumsq a b s
  | .finish c core p sumsq bessel eps lane dMean dVar dR => Sys2Proof.Machine.execFinish c core p sumsq bessel eps lane dMean dVar dR s
  | .rowmax c core d a b => Sys2Proof.Machine.execRowmax c core d a b s
  | .expsub c core k d a m => Sys2Proof.Machine.execExpsub c core k d a m s
  | .xsum c core first active a => Sys2Proof.Machine.execXsum c core first active a s
  | .smdiv c core d p l => Sys2Proof.Machine.execSmdiv c core d p l s
  | .treeAdd c core p exact d a => Sys2Proof.Machine.execTreeAdd c core p exact d a s
  | .treeMax c core p d a => Sys2Proof.Machine.execTreeMax c core p d a s
  | .treeMerge c core p sumsq => Sys2Proof.Machine.execTreeMerge c core p sumsq s
  | .broadcast c core d a lane => Sys2Proof.Machine.execBroadcast c core d a lane s
  | .quant c core slot fmt sr upper eaddr saddr a => Sys2Proof.Machine.execQuant c core slot fmt sr upper eaddr saddr a s
  | .blk8Encode c core slot mom sr agreed upper group blk a => Sys2Proof.Machine.execBlk8Encode c core slot mom sr agreed upper group blk a s
  | .blk8Decode c core slot upper group blk d => Sys2Proof.Machine.execBlk8Decode c core slot upper group blk d s
  | .philox c core k a b d0 d1 d2 d3 => Sys2Proof.Machine.execPhilox c core k a b d0 d1 d2 d3 s
  | .vecLoad c core slot ty addr stride d => Sys2Proof.Machine.execVecLoad c core slot ty addr stride d s
  | .vecLoadTranspose c core slot ty base pitch col d => Sys2Proof.Machine.execVecLoadTranspose c core slot ty base pitch col d s
  | .vecStore c core slot ty sr addr stride a => Sys2Proof.Machine.execVecStore c core slot ty sr addr stride a s
  | .gather c core slot size base d idx => Sys2Proof.Machine.execGather c core slot size base d idx s
  | .srUpd c core sr d w delta => Sys2Proof.Machine.execSrUpd c core sr d w delta s
  | .kvOpen c owner region layer pool maxPages seq => Sys2Proof.Machine.execKvOpen c owner region layer pool maxPages seq s
  | .kvRelease c owner region => Sys2Proof.Machine.execKvRelease c owner region s
  | .kvShare c owner src dst first count => Sys2Proof.Machine.execKvShare c owner src dst first count s
  | .pageWalk c core slot => Sys2Proof.Machine.execPageWalk c core slot s
  | .slotFill c core slot => Sys2Proof.Machine.execSlotFill c core slot s
  | .cowFirstWrite c core slot region page => Sys2Proof.Machine.execCowFirstWrite c core slot region page s
  | .spillCopyDone c frame => Sys2Proof.Machine.execSpillCopyDone c frame s
  | .fetchCopyDone c frame incarnation => Sys2Proof.Machine.execFetchCopyDone c frame incarnation s
  | .prefetch c => Sys2Proof.Machine.execPrefetch c s
  | .lastUseSweep c => Sys2Proof.Machine.execLastUseSweep c s
  | .cmdStep c ring => Sys2Proof.Machine.execCmdStep c ring s
  | .cmdKvOpen c ring => Sys2Proof.Machine.execCmdKvOpen c ring s
  | .cmdKvRelease c ring => Sys2Proof.Machine.execCmdKvRelease c ring s
  | .cmdKvShare c ring => Sys2Proof.Machine.execCmdKvShare c ring s
  | .cmdNop c ring => Sys2Proof.Machine.execCmdNop c ring s
  | .updLrWrite c o group v => Sys2Proof.Machine.execUpdLrWrite c o group v s
  | .settStageDeadline c bucket => Sys2Proof.Machine.execSettStageDeadline c bucket s
  | .domainStageDeadline c bucket => Sys2Proof.Machine.execDomainStageDeadline c bucket s
  | .commitWordSignal c o step => Sys2Proof.Machine.execCommitWordSignal c o step s
  | .abandonBroadcast c step => Sys2Proof.Machine.execAbandonBroadcast c step s
  | .reshardGo c o v => Sys2Proof.Machine.execReshardGo c o v s
  | .permuteComplete m => Sys2Proof.Machine.execPermuteComplete m s
  | .dmaCopy c d owner => Sys2Proof.Machine.execDmaCopy c d owner s
  | .dmaGather c d owner => Sys2Proof.Machine.execDmaGather c d owner s
  | .dmaScatter c d owner => Sys2Proof.Machine.execDmaScatter c d owner s
  | .dmaStride2d c d owner => Sys2Proof.Machine.execDmaStride2d c d owner s
  | .dmaTranspose c d owner => Sys2Proof.Machine.execDmaTranspose c d owner s
  | .dmaBlkt c d owner => Sys2Proof.Machine.execDmaBlkt c d owner s
  | .dmaPagelist c d owner => Sys2Proof.Machine.execDmaPagelist c d owner s
  | .dmaDescComplete c xfer => Sys2Proof.Machine.execDmaDescComplete c xfer s
  | .hbmPatrolScrubStep c bad => Sys2Proof.Machine.execHbmPatrolScrubStep c bad s
  | .sramScrubStep c p bad => Sys2Proof.Machine.execSramScrubStep c p bad s
  | .scrubDeadline c => Sys2Proof.Machine.execScrubDeadline c s
  | .cxlPortLeavesUp c port failed => Sys2Proof.Machine.execCxlPortLeavesUp c port failed s
  | .cxlReadTimeout c port xfer => Sys2Proof.Machine.execCxlReadTimeout c port xfer s
  | .cxlWriteTimeout c port xfer => Sys2Proof.Machine.execCxlWriteTimeout c port xfer s
  | .pssLoad c o => Sys2Proof.Machine.execPssLoad c o s
  | .streamVerifyDone c signer => Sys2Proof.Machine.execStreamVerifyDone c signer s
  | .pssStart c o => Sys2Proof.Machine.execPssStart c o s
  | .pssUnload c o => Sys2Proof.Machine.execPssUnload c o s
  | .ledgLimitWrite c o v => Sys2Proof.Machine.execLedgLimitWrite c o v s
  | .ledgCtrlWrite c o v => Sys2Proof.Machine.execLedgCtrlWrite c o v s
  | .loanOffer c arrived => Sys2Proof.Machine.execLoanOffer c arrived s
  | .reconcile c valid eIn loss s0 s1 sp => Sys2Proof.Machine.execReconcile c valid eIn loss s0 s1 sp s
  | .calKWriteback c => Sys2Proof.Machine.execCalKWriteback c s
  | .pwrReqOn c o domain => Sys2Proof.Machine.execPwrReqOn c o domain s
  | .pwrReqOff c o domain => Sys2Proof.Machine.execPwrReqOff c o domain s
  | .domainDrainDone c domain => Sys2Proof.Machine.execDomainDrainDone c domain s
  | .domainWakeDone c domain => Sys2Proof.Machine.execDomainWakeDone c domain s
  | .domainWakeFail c domain => Sys2Proof.Machine.execDomainWakeFail c domain s
  | .cxlIdleTimeout c port => Sys2Proof.Machine.execCxlIdleTimeout c port s
  | .ptdChpwrOn o c expired => Sys2Proof.Machine.execPtdChpwrOn o c expired s
  | .ptdChpwrOff o c => Sys2Proof.Machine.execPtdChpwrOff o c s
  | .owlChunkDone c matches_ rerunsOk => Sys2Proof.Machine.execOwlChunkDone c matches_ rerunsOk s
  | .owlPassDeadline c p => Sys2Proof.Machine.execOwlPassDeadline c p s
  | .bdgReportWrite c o v => Sys2Proof.Machine.execBdgReportWrite c o v s
  | .holdoffExpiry c u => Sys2Proof.Machine.execHoldoffExpiry c u s
  | .channelReset c => Sys2Proof.Machine.execChannelReset c s
  | .bootComplete c selftestOk => Sys2Proof.Machine.execBootComplete c selftestOk s
  | .entropyHealthFail c => Sys2Proof.Machine.execEntropyHealthFail c s
  | .entropyRecover c => Sys2Proof.Machine.execEntropyRecover c s
  | .dbgReq t o v => Sys2Proof.Machine.execDbgReq t o v s
  | .dbgSubmit t o sigOk => Sys2Proof.Machine.execDbgSubmit t o sigOk s
  | .dbgLock t o => Sys2Proof.Machine.execDbgLock t o s
  | .dbgSessionExpiry t => Sys2Proof.Machine.execDbgSessionExpiry t s
  | .mbxQuote c box plain => Sys2Proof.Machine.execMbxQuote c box plain s
  | .mbxMrExtend c box plain => Sys2Proof.Machine.execMbxMrExtend c box plain s
  | .sessionHello c vendor index => Sys2Proof.Machine.execSessionHello c vendor index s
  | .sessionKem c sigOk => Sys2Proof.Machine.execSessionKem c sigOk s
  | .sessionFinish c => Sys2Proof.Machine.execSessionFinish c s
  | .fwInstall c box plain sigOk => Sys2Proof.Machine.execFwInstall c box plain sigOk s
  | .repairInstall c box plain bad sigOk => Sys2Proof.Machine.execRepairInstall c box plain bad sigOk s
  | .lifecycleInstall c box plain sigOk => Sys2Proof.Machine.execLifecycleInstall c box plain sigOk s
  | .installWriteDone c => Sys2Proof.Machine.execInstallWriteDone c s
  | .settingsWrite c box plain => Sys2Proof.Machine.execSettingsWrite c box plain s
  | .mbxFirmwareOpcode c box => Sys2Proof.Machine.execMbxFirmwareOpcode c box s
  | .cmConnectRequest port target secure => Sys2Proof.Machine.execCmConnectRequest port target secure s
  | .rdmaWrite qp rkey addr data => Sys2Proof.Machine.execRdmaWrite qp rkey addr data s
  | .rdmaRead qp rkey addr len => Sys2Proof.Machine.execRdmaRead qp rkey addr len s
  | .rdmaUnsupported qp => Sys2Proof.Machine.execRdmaUnsupported qp s
  | .ethPortLinkDown port => Sys2Proof.Machine.execEthPortLinkDown port s
  | .qpError qp => Sys2Proof.Machine.execQpError qp s
  | .dbSet c o group v => Sys2Proof.Machine.execDbSet c o group v s
  | .dbClr c o group v => Sys2Proof.Machine.execDbClr c o group v s
  | .dbMask c o group v => Sys2Proof.Machine.execDbMask c o group v s
  | .mbxRingPiWrite c o ring v => Sys2Proof.Machine.execMbxRingPiWrite c o ring v s
  | .mbxEqCiWrite t o cls v => Sys2Proof.Machine.execMbxEqCiWrite t o cls v s
  | .eventRecordPost t => Sys2Proof.Machine.execEventRecordPost t s
  | .watchdogExpiry c => Sys2Proof.Machine.execWatchdogExpiry c s
  | .i3cEntdaa addr => Sys2Proof.Machine.execI3cEntdaa addr s
  | .i3cSlotWrite v => Sys2Proof.Machine.execI3cSlotWrite v s
  | .i3cAlertRead => Sys2Proof.Machine.execI3cAlertRead s
  | .powerUp => Sys2Proof.Machine.execPowerUp s
  | .hbmTrainDone c => Sys2Proof.Machine.execHbmTrainDone c s
  | .cxlTrainDone c port0 port1 => Sys2Proof.Machine.execCxlTrainDone c port0 port1 s
  | .scanStoreCheck c => Sys2Proof.Machine.execScanStoreCheck c s
  | .historyRingLoad c => Sys2Proof.Machine.execHistoryRingLoad c s
  | .cfgLeave c o => Sys2Proof.Machine.execCfgLeave c o s
  | .pwrEnFall => Sys2Proof.Machine.execPwrEnFall s
  | .tlmUpdate c hbm jct => Sys2Proof.Machine.execTlmUpdate c hbm jct s
  | .thermTripTimer c => Sys2Proof.Machine.execThermTripTimer c s
  | .inputOutOfRange below => Sys2Proof.Machine.execInputOutOfRange below s
  | .holdupExpiry => Sys2Proof.Machine.execHoldupExpiry s
  | .inputOvervoltage => Sys2Proof.Machine.execInputOvervoltage s
  | .inputOvercurrent => Sys2Proof.Machine.execInputOvercurrent s
  | .autoRestart => Sys2Proof.Machine.execAutoRestart s
  | .refclkSysLoss c => Sys2Proof.Machine.execRefclkSysLoss c s
  | .ethPortLinkUp port => Sys2Proof.Machine.execEthPortLinkUp port s
  | .congestionNotificationRx port => Sys2Proof.Machine.execCongestionNotificationRx port s
  | .cmDisconnect qp => Sys2Proof.Machine.execCmDisconnect qp s
  | .inputBackInRange => Sys2Proof.Machine.execInputBackInRange s
  | .holdupTimerClear => Sys2Proof.Machine.execHoldupTimerClear s
  | .refclkSysLock c => Sys2Proof.Machine.execRefclkSysLock c s
  | .converterFault => Sys2Proof.Machine.execConverterFault s
  | .portDieFailure => Sys2Proof.Machine.execPortDieFailure s

end Sys2Proof.Machine
end

