-- ==== Sys2Proof/Machine/Step.lean ====
section
/-! DEFINITION. One step of the module: the command at the front of the queue, or one clk of an idle module (log entry 7). -/

namespace Sys2Proof.Machine

/-- Takes the command at the front of the queue and applies it to the state with the rest of the queue. On an empty queue the
module idles: one array clock passes. -/
def step (s : State) : Host.Outcome State Fault Refusal :=
  match s.pending with
  | [] => .next s.tick
  | i :: rest => exec i { s with pending := rest }

/-- The table of commands gives its rows no bits, so no word spells a command. [DESIGN CHOICE, log entry 6] -/
def State.withFetchWord (s : State) (nbits w : Nat) : State :=
  match Sys2Proof.decodeTableWord nbits w with
  | some i => { s with pending := i :: s.pending }
  | none => s

end Sys2Proof.Machine
end

