-- ==== Sys2Proof/Safety.lean ====
section
/-! DEFINITION. What counts as a safe state, and the shapes in which claims say what a command leaves unchanged. -/

namespace Sys2Proof.Machine

/-! ### Safe states -/

/-- The shared supply delivers power only while PWR_EN is high, no overcurrent locks it out, and its converter works (R404, R412,
R413, R418). -/
def Supply.safe (p : Supply) : Bool := !p.outputOn || (p.pwrEn && !p.lockout && p.converterOk)

/-- Every memory of a channel is in canonical form. -/
def Channel.memWf (ch : Channel) : Bool :=
  smWf 0 ch.mem.hbm && smWf 0 ch.mem.sram && smWf 0 ch.cxl.mem

/-- The memories of the module are in canonical form. -/
def State.memWf (s : State) : Bool := s.ch0.memWf && s.ch1.memWf

/-! ### Frames -/

/-- Nothing differs from `s` but channel `c`. -/
def onlyChannel (c : ChanId) (s t : State) : Prop := t = s.setCh c (t.ch c)

/-- Nothing differs from `s` but channel `c` and the count of free values taken. -/
def onlyChannelFree (c : ChanId) (s t : State) : Prop := t = { s.setCh c (t.ch c) with free := t.free }

/-- Nothing differs from `s` but channel `c`, what the module has sent, and the count of free values taken. -/
def onlyChannelSent (c : ChanId) (s t : State) : Prop := t = { s.setCh c (t.ch c) with out := t.out, free := t.free }

/-! ### Operations of a vector engine -/

/-- Nothing differs from `s` but vector registers and issue counts of channel `c`, and `n` free values taken: memory, events, tasks and
every other register stay. -/
def onlyVector (c : ChanId) (n : Nat) (s t : State) : Prop :=
  t = { s.setCh c { s.ch c with vec := { (s.ch c).vec with regs := (t.ch c).vec.regs, busy := (t.ch c).vec.busy } } with
    free := s.free + n }

/-- The engine of `core` issued for `clk` clk more in this beat, and no other engine did. -/
def issuedFor (c : ChanId) (core : LCore) (clk : Nat) (s t : State) : Prop :=
  ∀ k : LCore, smGet {} (t.ch c).vec.busy k.val =
    (if k = core then { smGet {} (s.ch c).vec.busy k.val with now := wrapAdd (smGet {} (s.ch c).vec.busy k.val).now clk }
     else smGet {} (s.ch c).vec.busy k.val)

/-- Vector registers other than `ds` of `core` are unchanged. -/
def vregsKept (c : ChanId) (core : LCore) (ds : List VReg) (s t : State) : Prop :=
  ∀ (k : LCore) (r : VReg), ¬(k = core ∧ r ∈ ds) → (t.ch c).vreg k r = (s.ch c).vreg k r

/-- Command `i` completes: lane l of register `d` becomes `f l`, the engine issues for `clk` clk, and nothing else changes. -/
def laneStep (i : Instr) (c : ChanId) (core : LCore) (d : VReg) (clk n : Nat) (f : Lane → U64) (s : State) : Prop :=
  ∃ t, exec i s = .next t ∧ (∀ l : Lane, ((t.ch c).vreg core d)[l] = f l) ∧ vregsKept c core [d] s t ∧ issuedFor c core clk s t ∧
    onlyVector c n s t

/-- Operand bits of lane l of a register. -/
def State.lane (s : State) (c : ChanId) (core : LCore) (w : Nat) (r : VReg) (l : Lane) : Nat := lowBits w ((s.ch c).vreg core r)[l]

/-- Nothing differs from `s` but the lane states, accumulators, registers and issue counts of the engine of `core`, and `n` free
values taken. -/
def onlyEngine (c : ChanId) (core : LCore) (n : Nat) (s t : State) : Prop :=
  t = { s.setCh c { s.ch c with vec := { (s.ch c).vec with
      regs := (t.ch c).vec.regs, lanes := (t.ch c).vec.lanes, xacc := (t.ch c).vec.xacc, busy := (t.ch c).vec.busy } } with free := s.free + n } ∧
  ∀ k : LCore, k ≠ core → (t.ch c).laneStates k = (s.ch c).laneStates k ∧ (t.ch c).xaccs k = (s.ch c).xaccs k

/-- Command `i` completes: lane state l of `core` becomes `f l`, and nothing else changes but the issue clks. -/
def laneStateStep (i : Instr) (c : ChanId) (core : LCore) (clk : Nat) (f : Lane → LaneState) (s : State) : Prop :=
  ∃ t, exec i s = .next t ∧ (∀ l : Lane, ((t.ch c).laneStates core)[l] = f l) ∧ (t.ch c).vec.regs = (s.ch c).vec.regs ∧
    (t.ch c).vec.xacc = (s.ch c).vec.xacc ∧ issuedFor c core clk s t ∧ onlyEngine c core 0 s t

/-- Nothing differs from `s` but the VEC block of channel `c` and the event it raised. -/
def onlyVecEvents (c : ChanId) (s t : State) : Prop :=
  t = s.setCh c { s.ch c with
    vec := (t.ch c).vec, events := (t.ch c).events, beat := { (s.ch c).beat with raised := (t.ch c).beat.raised } }

/-! ### Stores of a vector engine -/

/-- Whether a program may store n bytes at an offset of its core's SRAM (R280, log entry 23). -/
def storable (off n : Nat) : Prop := off + n ≤ sramSize ∧ systemBlocked false off n = false

/-- Ranges of a list of stores do not overlap. -/
def disjointStores (l : List (Nat × List Byte)) : Prop :=
  l.Pairwise fun x y => x.1 + x.2.length ≤ y.1 ∨ y.1 + y.2.length ≤ x.1

/-- Command `i` completes: the core's SRAM takes the stores of `l` that are allowed, every other byte keeps its value, the ranges are noted
with the task of the slot, BLK8_SAT becomes `sat` and GXC_STAT.SAT `gsat`, the register that `reg` names takes its value, and nothing else
changes but the issue clks. -/
def storeStep (i : Instr) (c : ChanId) (core : LCore) (slot : Nat) (l : List (Nat × List Byte)) (sat gsat : U32)
    (reg : Option (VReg × LaneVec)) (s : State) : Prop :=
  ∃ t, exec i s = .next t ∧
    (∀ x : Nat, (∀ e ∈ l, storable e.1 e.2.length →
        x < sramAt ((s.ch c).pcore core.val) e.1 ∨ sramAt ((s.ch c).pcore core.val) e.1 + e.2.length ≤ x) →
      smGet 0 (t.ch c).mem.sram x = smGet 0 (s.ch c).mem.sram x) ∧
    ((s.ch c).mem.sramPoison = [] → disjointStores l → ∀ e ∈ l, storable e.1 e.2.length →
      (t.ch c).sramBytes ((s.ch c).pcore core.val) e.1 e.2.length = e.2) ∧
    (∀ k m : Nat, (k ≠ core.val ∨ m ≠ slot) → (t.ch c).task? k m = (s.ch c).task? k m) ∧
    (t.ch c).tsk.tasks.map (fun (k : Task) => { k with written := [] }) =
      (s.ch c).tsk.tasks.map (fun (k : Task) => { k with written := [] }) ∧
    issuedFor c core 1 s t ∧ (t.ch c).vec.blk8Sat = sat ∧ (t.ch c).gxc.sat = gsat ∧
    vregsKept c core (reg.map (·.1)).toList s t ∧ (∀ e ∈ reg, (t.ch c).vreg core e.1 = e.2) ∧
    (reg = none → (t.ch c).vec.regs = (s.ch c).vec.regs) ∧
    t = s.setCh c { s.ch c with
      mem := { (s.ch c).mem with
        sram := (t.ch c).mem.sram, sramPoison := (t.ch c).mem.sramPoison, sramErr := (t.ch c).mem.sramErr }
      vec := { (s.ch c).vec with regs := (t.ch c).vec.regs, busy := (t.ch c).vec.busy, blk8Sat := (t.ch c).vec.blk8Sat }
      gxc := { (s.ch c).gxc with sat := (t.ch c).gxc.sat }
      tsk := { (s.ch c).tsk with tasks := (t.ch c).tsk.tasks } }

/-! ### Memory as a whole -/

/-- Every byte of HBM, core SRAM and the CXL tier reads in `b` as in `a`. -/
def Channel.sameBytes (a b : Channel) : Prop := b.mem.hbm = a.mem.hbm ∧ b.mem.sram = a.mem.sram ∧ b.cxl.mem = a.cxl.mem

/-- Every task but that of one slot is in `b` as in `a`. -/
def Channel.otherTasks (core slot : Nat) (a b : Channel) : Prop :=
  ∀ k m : Nat, (k ≠ core ∨ m ≠ slot) → b.task? k m = a.task? k m

/-! ### Links -/

/-- Nothing differs from `s` but one link of channel `c`. -/
def onlyLink (c : ChanId) (link : LinkId) (s t : State) : Prop :=
  (∀ l : Nat, l ≠ link.val → (t.ch c).link l = (s.ch c).link l) ∧
    t = s.setCh c { s.ch c with wrn := { (s.ch c).wrn with links := (t.ch c).wrn.links } }

/-- Command `i` completes: this link becomes `k`, and nothing else changes. -/
def linkStep (i : Instr) (c : ChanId) (link : LinkId) (k : Link) (s : State) : Prop :=
  ∃ t, exec i s = .next t ∧ (t.ch c).link link.val = k ∧ onlyLink c link s t

/-- Command `i` completes: this link becomes `k`, the module sends `outs`, takes `n` free values, and nothing else changes. -/
def linkStepSent (i : Instr) (c : ChanId) (link : LinkId) (k : Link) (outs : List Out) (n : Nat) (s : State) : Prop :=
  ∃ t, exec i s = .next t ∧ (t.ch c).link link.val = k ∧ t.out = s.out ++ outs ∧ t.free = s.free + n ∧
    onlyLink c link { s with out := t.out, free := t.free } t

/-- Command `i` completes: this link becomes `k`, the module sends `outs`, takes `n` free values, and then sends what the link's queue holds as far
as its credits go. -/
def linkStepSends (i : Instr) (c : ChanId) (link : LinkId) (k : Link) (outs : List Out) (n : Nat) (s : State) : Prop :=
  ∃ u, exec i s = .next (u.sendLink c link) ∧ (u.ch c).link link.val = k ∧ u.out = s.out ++ outs ∧ u.free = s.free + n ∧
    onlyLink c link { s with out := u.out, free := u.free } u

/-! ### Accesses to registers -/

/-- The channel's firmware runs (R363, R389): it can reach the registers. -/
def fwReady (s : State) (c : ChanId) : Prop :=
  (s.ch c).calibrated = true ∧ (s.ch c).dead = false ∧ (s.ch c).domain.st ≠ .off

/-- Command `i` completes as a register write of channel `c`: the state becomes `t`, and the write is answered OK. -/
def regWrites (i : Instr) (c : ChanId) (s t : State) : Prop := exec i s = .next (t.emit (.csrStatus (unitOf c) .ok))

/-! ### Squirrel -/

/-- Nothing differs from `s` but Squirrel's own state of channel `c`, and which of its tasks are COMMITTED. -/
def onlySquirrel (c : ChanId) (owner : Option (LCore × Nat)) (s t : State) : Prop :=
  t = s.setCh c { s.ch c with sql := (t.ch c).sql, tsk := ((s.ch c).commit owner).tsk }

/-- A key-value fault for which no task is named (R193): its event, TSK_FAULTED and LAST_FAULT. -/
def Channel.kvFaulted (ch : Channel) (c : ChanId) (code : Nat) : Channel :=
  ({ ch.raise c code with tsk := { ch.tsk with
    faulted := satAdd ch.tsk.faulted 1, lastCode := BitVec.ofNat 16 code } }).lastFault code

/-- Command `i` ends the task of a slot with a fault: the slot is free, the fault counted and its code kept; channel `c` alone changes. -/
def faultsTask (i : Instr) (c : ChanId) (core slot code : Nat) (s : State) : Prop :=
  ∃ t, exec i s = .next t ∧ (t.ch c).task? core slot = none ∧ (t.ch c).tsk.faulted = satAdd (s.ch c).tsk.faulted 1 ∧
    (t.ch c).tsk.lastCode = BitVec.ofNat 16 code ∧ (t.ch c).chn.lastFault = BitVec.ofNat 16 code ∧
    (s.ch c).otherTasks core slot (t.ch c) ∧ (t.ch c).mem = (s.ch c).mem ∧ (t.ch c).vec.regs = (s.ch c).vec.regs ∧
    onlyChannel c s t

/-! ### The DMA engine -/

/-- HBM offset of a range of the issuing channel that lies whole in HBM. -/
def Channel.hbmPlace (ch : Channel) (c : ChanId) (a n : Nat) : Option Nat :=
  match ch.localPlace c a n with
  | some (.hbm o) => some o
  | _ => none

/-- A part whose bytes the engine can move within this channel's HBM, below the Badger area at its destination. -/
def Channel.hbmPart (ch : Channel) (c : ChanId) (p : Part3) : Prop :=
  p.len ≠ 0 ∧ (ch.hbmPlace c p.src p.len).isSome = true ∧ ∃ o, ch.hbmPlace c p.dst p.len = some o ∧ o + p.len ≤ badgerArea

/-- n bytes of HBM as a local read of the engine meets them: in the Squirrel-private area, Squirrel's own structures (R169). -/
def Channel.hbmRead (ch : Channel) (o n : Nat) : List Byte := ch.spaView o (ch.hbmBytes o n)

/-- The bytes that a part reads from HBM. -/
def Channel.partBytes (ch : Channel) (c : ChanId) (p : Part3) : List Byte := ch.hbmRead ((ch.hbmPlace c p.src p.len).getD 0) p.len

/-- Command `i` completes: the engine holds one more transfer of the control complex, with these writes, no remote part outstanding and
`n` bytes moved; nothing else changes, memory included, until the transfer completes. Bytes written where the destination meets one of the
source ranges `srcs` are undefined (R286): free values. -/
def dmaStarts (i : Instr) (c : ChanId) (d : DmaDesc) (srcs : List (Nat × Nat)) (w : List (U64 × List Byte)) (n : Nat)
    (walked : Option WalkedList) (s : State) : Prop :=
  let hit := meetsSource srcs w
  exec i s = .next { s.setCh c { s.ch c with dma := { (s.ch c).dma with
    xfers := (s.ch c).dma.xfers ++ [{ id := (s.ch c).dma.nextId, owner := .control, desc := d
                                      writes := if hit then overlapFree s.free srcs w else w, bytes := n
                                      leadin := d.leadin, walked := walked }]
    nextId := (s.ch c).dma.nextId + 1 } } with free := s.free + if hit then w.length else 0 }

/-- Writes that lie in HBM apart from each other. -/
def Channel.apartWrites (ch : Channel) (c : ChanId) (l : List (U64 × List Byte)) : Prop :=
  l.Pairwise fun x y => ∀ a b : Nat, ch.hbmPlace c x.1.toNat x.2.length = some a → ch.hbmPlace c y.1.toNat y.2.length = some b →
    a + x.2.length ≤ b ∨ b + y.2.length ≤ a

/-! ### A channel that is gone -/

/-- The state in which channel `c` has become `k`: its session has ended, its QP is unbound, and the port die has recorded each mailbox and ring
that was at work. -/
def State.lost (s : State) (c : ChanId) (k : Channel) : State :=
  let x := (s.ch c).sec.session
  let p := (s.ch c).mbx.lostWork.foldl (fun (q : Ptd) e => q.abort c e.1 e.2) s.ptd
  { s.setCh c k with ptd := if x.stage = 0 then p else p.onQp x.qp fun q => { q with bound := false } }

/-- A channel without power. -/
def Channel.unpowered (ch : Channel) (p : Ptd) : Channel := { ch.fresh p .reset with mem := {}, domain := { st := .off }, dead := false }

/-- Channel `k` is `ch` after a channel reset into `st`. -/
def Channel.isReset (ch k : Channel) (c : ChanId) (p : Ptd) (st : ChState) : Prop :=
  let f := ch.fresh p st
  k = { f with events := k.events, beat := { f.beat with raised := k.beat.raised } } ∧
    k.events = (if ch.sec.dbgLevel = .closed then [] else (f.raise c 0x8005).events)

/-- Channel `k` is `ch` at entry to DRAINING: keys, session and debug session are gone, and the stream unloads or the windows are withdrawn. -/
def Channel.drains (ch k : Channel) : Prop :=
  k.domain = { st := .draining } ∧ k.sec.keys = false ∧ k.sec.session = {} ∧ k.sec.dbgLevel = .closed ∧ k.sec.nonce = none ∧
    k.sec.reqLevel = none ∧ k.pss.stream = ch.pss.stream ∧ (ch.pss.stream = none → k.pss.withdrawn = true) ∧
    (ch.pss.stream.isSome = true → (ch.chn.state = .loaded ∨ ch.chn.state = .running) → k.pss.unloadReq = true) ∧
    (ch.pss.verifyFrom ≠ .verifying → k.pss.phase ≠ .verifying) ∧ k.mem = ch.mem ∧ k.chn = ch.chn ∧ k.tsk = ch.tsk ∧ k.sql = ch.sql ∧ k.wrn = ch.wrn ∧ k.ledg = ch.ledg

/-! ### Mailbox requests -/

/-- Mailbox m holds a request for its server: BUSY with the opcode, and not the channel's own. -/
def Channel.requested (ch : Channel) (m op : Nat) : Prop :=
  (ch.box m).hdr.st = 2 ∧ (ch.box m).hdr.fromChannel = false ∧ (ch.box m).hdr.opcode.toNat = op

/-- Payload of the request in mailbox m, in the clear. -/
def Channel.payload (ch : Channel) (m : Nat) : List Byte := smGetAll 0 (ch.box m).payload 0 (ch.box m).hdr.len.toNat

/-- The request in mailbox m is whole: no fragment came before it and none follows. -/
def Channel.single (ch : Channel) (m : Nat) : Prop :=
  (ch.box m).hdr.more = false ∧ (ch.box m).nextFrag = none ∧ (ch.box m).object = []

/-- The request in mailbox m came over the bound session under a counter that exceeds the previous one. -/
def Channel.secured (ch : Channel) (m : Nat) : Prop :=
  ch.boxBound m = true ∧ (ch.box m).hdr.iv.toNat % 2 ^ 32 = 1 ∧ ch.sec.session.ivIn < (ch.box m).hdr.iv.toNat / 2 ^ 32

/-- Channel `k` is `ch` with the request of mailbox m completed: RESPONSE with the status under the request's opcode and SEQ, and its outbound
doorbell bit set. -/
def Channel.answered (ch k : Channel) (m status : Nat) : Prop :=
  let h := (k.box m).hdr
  h.st = 3 ∧ h.flags = 0 ∧ h.opcode = (ch.box m).hdr.opcode ∧ h.seq = (ch.box m).hdr.seq ∧ h.status = BitVec.ofNat 16 status ∧
    (k.db (if m < 8 then 1 else 3)).val = (ch.db (if m < 8 then 1 else 3)).val ||| BitVec.ofNat 32 (2 ^ (m % 8)) ∧
    (∀ n : Nat, n ≠ m → k.box n = ch.box n)

/-! ### The module without power and with it -/

/-- The module with its output off: both channels without power, the port die with its serial memory and the records kept there. -/
def State.dark (s : State) (sup : Supply) (kept : List EvRec) (hotswap : Bool) : State :=
  let off (ch : Channel) : Channel := let u := ch.unpowered s.ptd; { u with chn := { u.chn with supplyOk := false } }
  { s with
    ch0 := off s.ch0, ch1 := off s.ch1, sup := sup
    ptd := { ser := s.ptd.ser, stored := kept, alertHotswap := hotswap, failed := s.ptd.failed } }

/-- State `t` is the module out of power-up: the output on, the port die ready with what it kept, and both channels reset, each in BOOT unless it lacks
its reference clock. -/
def State.poweredUp (s t : State) : Prop :=
  t.sup = { s.sup with pwrEn := t.sup.pwrEn, outputOn := true, converterOk := true, holdupUs := 0 } ∧
    t.ptd.up = true ∧ t.ptd.failed = false ∧ t.ptd.ser = s.ptd.ser ∧ t.ptd.stored = s.ptd.stored ∧ t.ptd.qps = [] ∧ t.ptd.slotValid = false ∧
    (∀ c : ChanId, (t.ch c).chn.state = (if (s.ch c).refclkOk then .boot else .reset) ∧ (t.ch c).chn.supplyOk = true ∧
      (t.ch c).domain = { st := .active } ∧ (t.ch c).mem.sram = [] ∧ (t.ch c).mem.hbm = (s.ch c).mem.hbm ∧ (t.ch c).cxl.mem = (s.ch c).cxl.mem ∧
      (t.ch c).ser = { (s.ch c).ser with installing := .none } ∧ (t.ch c).pss = {} ∧ (t.ch c).sec.keys = false ∧ (t.ch c).tripLock = false)

end Sys2Proof.Machine
end

