-- ==== Sys2Proof/WellFormed.lean ====
section
/-! DEFINITION. When the operands of a command lie within the ranges that the manual gives them. exec is total: a command whose operands
lie outside still answers a next state. -/

namespace Sys2Proof

open Sys2Proof.Machine

/-- A register access names 1 to 8 bytes (R8). -/
def wordLen (n : Nat) : Bool := decide (1 ≤ n) && decide (n ≤ 8)
/-- A task slot of a core (R38: 4,096 slots). -/
def slotOk (n : Nat) : Bool := decide (n < 4096)
/-- A region id, a pool id and a page of a region (Tables 09-1 and 09-4). -/
def regionOk (n : Nat) : Bool := decide (n < 2 ^ 24)
def poolOk (n : Nat) : Bool := decide (n < 256)
def pageOk (n : Nat) : Bool := decide (n < 2 ^ 18)
/-- A physical core (R17). -/
def pcoreOk (p : Nat) : Bool := decide (p < 136)
/-- A bucket of a step (R220: up to 4,096). -/
def bucketOk (b : Nat) : Bool := decide (b < 4096)
/-- A power domain as PWR_REQ names it. -/
def domainOk (d : Nat) : Bool := decide (d < 256)
/-- An offset in a core's SRAM. -/
def sramOk (n : Nat) : Bool := decide (n < 2 ^ 22)
/-- Lanes that take part (R123). -/
def lanesOk (n : Nat) : Bool := decide (n ≤ 64)
/-- A packet that carries an operation: its OP, and LEN equal to its payload (R253). -/
def carries (op : Nat) (p : Packet) : Bool := decide (p.op.toNat = op) && decide (p.len.toNat = p.payload.length)
/-- A DMA descriptor of an operation (Table 13-2). -/
def describes (op : Nat) (d : DmaDesc) : Bool := decide (d.op.toNat = op)
/-- A task slot that owns a key-value operation. -/
def ownerOk (o : Option (LCore × Nat)) : Bool := o.all fun e => slotOk e.2

/-- The work of a fixed program names a bucket of the step (R220). -/
def workOk : TaskWork → Bool
  | .settAdd _ b => bucketOk b
  | .requantise _ b => bucketOk b
  | .chainAdd _ b => bucketOk b
  | .lowOrth b => bucketOk b
  | .lowEnd b _ _ _ => bucketOk b
  | _ => true

/-- The operands lie within the manual's ranges. The rows without an arm have operands that their types already bound.
 [DEDUCED, log entry 206] -/
def Instr.wf : Instr → Bool
  | .csrWrite _ _ _ len _ => wordLen len
  | .rcRead _ _ _ len => wordLen len
  | .taskComplete _ _ x => slotOk x.slot && workOk x.work
  | .opIssue _ _ slot _ => slotOk slot
  | .fence _ _ slot _ => slotOk slot
  | .get _ _ p => carries 1 p
  | .put _ _ p => carries 2 p
  | .putAdd _ _ p => carries 3 p
  | .cas _ _ p => carries 4 p
  | .fetchAdd64 _ _ p => carries 5 p
  | .signal _ _ p _ => carries 6 p
  | .linkTrainingDone _ _ _ _ _ sett => decide (sett < 16)
  | .tileDrain _ _ slot _ => slotOk slot
  | .welford _ _ _ _ active _ => lanesOk active
  | .sumsq _ _ _ _ active _ => lanesOk active
  | .xsum _ _ _ active _ => lanesOk active
  | .quant _ _ slot _ _ _ eaddr saddr _ => slotOk slot && sramOk eaddr && sramOk saddr
  | .blk8Encode _ _ slot _ _ agreed _ group _ _ => slotOk slot && sramOk group && agreed != some 0xFF
  | .blk8Decode _ _ slot _ group _ _ => slotOk slot && sramOk group
  | .vecLoad _ _ slot _ addr _ _ => slotOk slot && sramOk addr
  | .vecLoadTranspose _ _ slot _ base _ _ _ => slotOk slot && sramOk base
  | .vecStore _ _ slot _ _ addr _ _ => slotOk slot && sramOk addr
  | .gather _ _ slot _ base _ _ => slotOk slot && sramOk base
  | .kvOpen _ o r layer pool pages _ => ownerOk o && regionOk r && decide (layer < 256) && poolOk pool && decide (pages ≤ 2 ^ 18)
  | .kvRelease _ o r => ownerOk o && regionOk r
  | .kvShare _ o a b first count => ownerOk o && regionOk a && regionOk b && pageOk first && decide (first + count ≤ 2 ^ 18)
  | .pageWalk _ _ slot => slotOk slot
  | .cowFirstWrite _ _ slot r p => slotOk slot && regionOk r && pageOk p
  | .settStageDeadline _ b => bucketOk b
  | .domainStageDeadline _ b => bucketOk b
  | .dmaCopy _ d _ => describes 1 d
  | .dmaGather _ d _ => describes 2 d
  | .dmaScatter _ d _ => describes 3 d
  | .dmaStride2d _ d _ => describes 4 d
  | .dmaTranspose _ d _ => describes 5 d
  | .dmaBlkt _ d _ => describes 6 d
  | .dmaPagelist _ d _ => describes 7 d
  | .sramScrubStep _ p _ => pcoreOk p
  | .pwrReqOn _ _ d => domainOk d
  | .pwrReqOff _ _ d => domainOk d
  | .domainDrainDone _ d => domainOk d
  | .domainWakeDone _ d => domainOk d
  | .domainWakeFail _ d => domainOk d
  | .owlPassDeadline _ p => pcoreOk p
  | .repairInstall _ _ _ bad _ => bad.all pcoreOk
  | .mbxEqCiWrite _ _ cls _ => decide (cls.val < 8)
  | .cmConnectRequest _ target _ => decide (target < 256)
  | _ => true

end Sys2Proof
end

