-- ==== Sys2Proof/Certificates/Slice0/Obligations.lean ====
section
/-! DEFINITION. The statements about the module: for every command what it completes with and what it leaves unchanged, the rules that
hold of every step, and the invariants that every step keeps. -/

namespace Sys2Proof.Machine
end Sys2Proof.Machine

open Sys2Proof Sys2Proof.Machine

/-! ### The vector engine: one register from one, two or three (R123, R126 to R131, Table 07-1) -/

/-- Table 07-1, R126: the floating-point arithmetic, lane by lane, in FP32 and FP64, with its issue clks; FP32 results clear bits
[63:32] of the lane (R123). DIV and SQRT are correctly rounded operations of their own rate.
Table 07-1: integers and logic of 32 and 64 bits, lane by lane, and conversions. A 32-bit result clears bits [63:32] (R123). A shift
by the width or more writes a free value in that lane (log entry 13), whatever it is; the model takes 64 of them.
Table 07-2, R128 to R131: each special function acts on every FP32 lane. -/
def Obligations.VectorLaneResults : Prop :=
  (∀ (c : ChanId) (core : LCore) (p : Prec) (op : CmpOp) (d a b x : VReg) (s : State),
    laneStep (.vecAdd c core p d a b) c core d (precClk p) 0 (fun l => laneOf (precBits p)
      (fpAdd (precFmt p) (s.ch c).vsat (s.lane c core (precBits p) a l) (s.lane c core (precBits p) b l))) s ∧
    laneStep (.vecSub c core p d a b) c core d (precClk p) 0 (fun l => laneOf (precBits p)
      (fpSub (precFmt p) (s.ch c).vsat (s.lane c core (precBits p) a l) (s.lane c core (precBits p) b l))) s ∧
    laneStep (.vecMul c core p d a b) c core d (precClk p) 0 (fun l => laneOf (precBits p)
      (fpMul (precFmt p) (s.ch c).vsat (s.lane c core (precBits p) a l) (s.lane c core (precBits p) b l))) s ∧
    laneStep (.vecFma c core p d a b x) c core d (precClk p) 0 (fun l => laneOf (precBits p)
      (fpFma (precFmt p) (s.ch c).vsat (s.lane c core (precBits p) a l) (s.lane c core (precBits p) b l)
        (s.lane c core (precBits p) x l))) s ∧
    laneStep (.vecMin c core p d a b) c core d (precClk p) 0 (fun l => laneOf (precBits p)
      (fpMin (precFmt p) (s.lane c core (precBits p) a l) (s.lane c core (precBits p) b l))) s ∧
    laneStep (.vecMax c core p d a b) c core d (precClk p) 0 (fun l => laneOf (precBits p)
      (fpMax (precFmt p) (s.lane c core (precBits p) a l) (s.lane c core (precBits p) b l))) s ∧
    laneStep (.vecAbs c core p d a) c core d (precClk p) 0 (fun l => laneOf (precBits p)
      (fpAbs (precFmt p) (s.lane c core (precBits p) a l))) s ∧
    laneStep (.vecNeg c core p d a) c core d (precClk p) 0 (fun l => laneOf (precBits p)
      (fpNeg (precFmt p) (s.lane c core (precBits p) a l))) s ∧
    laneStep (.vecCompare c core p op d a b) c core d (precClk p) 0 (fun l => laneOf (precBits p)
      (b2n (fpCmp (precFmt p) op (s.lane c core (precBits p) a l) (s.lane c core (precBits p) b l)))) s ∧
    laneStep (.div32 c core d a b) c core d 4 0 (fun l => laneOf 32
      (fpDiv fpF32 (s.ch c).vsat (s.lane c core 32 a l) (s.lane c core 32 b l))) s ∧
    laneStep (.sqrt32 c core d a) c core d 4 0 (fun l => laneOf 32 (fpSqrt fpF32 (s.ch c).vsat (s.lane c core 32 a l))) s ∧
    laneStep (.div64 c core d a b) c core d 16 0 (fun l => laneOf 64
      (fpDiv fpF64 (s.ch c).vsat (s.lane c core 64 a l) (s.lane c core 64 b l))) s ∧
    laneStep (.sqrt64 c core d a) c core d 16 0 (fun l => laneOf 64 (fpSqrt fpF64 (s.ch c).vsat (s.lane c core 64 a l))) s) ∧
  (∀ (c : ChanId) (core : LCore) (wide signed : Bool) (op : CmpOp) (sh : ShiftOp) (k : Conv) (sr : SrArg) (d a b m : VReg) (s : State),
    laneStep (.intAdd c core wide d a b) c core d 1 0 (fun l => laneOf (intBits wide)
      (s.lane c core (intBits wide) a l + s.lane c core (intBits wide) b l)) s ∧
    laneStep (.intSub c core wide d a b) c core d 1 0 (fun l => laneOf (intBits wide)
      (s.lane c core (intBits wide) a l + (2 ^ intBits wide - s.lane c core (intBits wide) b l))) s ∧
    laneStep (.intMulLow c core wide d a b) c core d 1 0 (fun l => laneOf (intBits wide)
      (s.lane c core (intBits wide) a l * s.lane c core (intBits wide) b l)) s ∧
    laneStep (.intAnd c core wide d a b) c core d 1 0 (fun l => laneOf (intBits wide)
      (s.lane c core (intBits wide) a l &&& s.lane c core (intBits wide) b l)) s ∧
    laneStep (.intOr c core wide d a b) c core d 1 0 (fun l => laneOf (intBits wide)
      (s.lane c core (intBits wide) a l ||| s.lane c core (intBits wide) b l)) s ∧
    laneStep (.intXor c core wide d a b) c core d 1 0 (fun l => laneOf (intBits wide)
      (s.lane c core (intBits wide) a l ^^^ s.lane c core (intBits wide) b l)) s ∧
    laneStep (.intSelect c core wide d m a b) c core d 1 0 (fun l => laneOf (intBits wide)
      (if s.lane c core (intBits wide) m l = 0 then s.lane c core (intBits wide) b l else s.lane c core (intBits wide) a l)) s ∧
    laneStep (.intCompare c core wide signed op d a b) c core d 1 0 (fun l => laneOf (intBits wide)
      (b2n (intCmp (intBits wide) signed op (s.lane c core (intBits wide) a l) (s.lane c core (intBits wide) b l)))) s ∧
    laneStep (.intShift c core wide sh d a b) c core d 1 64 (fun l =>
      if s.lane c core (intBits wide) b l < intBits wide then
        laneOf (intBits wide) (shiftVal (intBits wide) sh (s.lane c core (intBits wide) a l) (s.lane c core (intBits wide) b l))
      else laneOf (intBits wide) (Config.freeValue (s.free + l.val))) s ∧
    laneStep (.vecConvert c core k sr d a) c core d 1 0 (fun l =>
      convLane k (s.ch c).vsat ((s.ch c).bf16Rnd core { sr with on := true } l.val) ((s.ch c).vreg core a)[l]) s) ∧
  (∀ (c : ChanId) (core : LCore) (d a : VReg) (s : State),
    let sfuStep (i : Instr) (f : Sfu) : Prop :=
      laneStep i c core d 1 0 (fun l => laneOf 32 (sfu f (s.ch c).vsat (s.lane c core 32 a l))) s
    sfuStep (.exp2 c core d a) .exp2 ∧ sfuStep (.log2 c core d a) .log2 ∧ sfuStep (.rcp c core d a) .rcp ∧
    sfuStep (.rsqrt c core d a) .rsqrt ∧ sfuStep (.sqrt c core d a) .sqrt ∧ sfuStep (.tanh c core d a) .tanh ∧
    sfuStep (.sigmoid c core d a) .sigmoid ∧ sfuStep (.gelu c core d a) .gelu ∧ sfuStep (.silu c core d a) .silu ∧
    sfuStep (.sin c core d a) .sin ∧ sfuStep (.cos c core d a) .cos)

/-! ### Softmax, trees, random words and the update (R125, R137, R141, R215) -/

/-- R137: row maximum, exponential and division of the softmax, lane by lane; R125: the fixed tree over the 64 lanes leaves its result in
position 0 (that the other lanes keep their values is the model's choice, log entry 16); the broadcast of one lane; R215: SR_UPD draws the word
of lane l for element index + l (R64). -/
def Obligations.SoftmaxTreeUpdateLaneResults : Prop :=
  ∀ (c : ChanId) (core : LCore) (p : Prec) (k : U32) (sr : SrArg) (lane : Lane) (d a b : VReg) (s : State),
    laneStep (.rowmax c core d a b) c core d 1 0 (fun l => laneOf 32 (fpMax fpF32 (s.lane c core 32 a l) (s.lane c core 32 b l))) s ∧
    laneStep (.expsub c core k d a b) c core d 1 0 (fun l => laneOf 32
      (expsubLane (s.ch c).vsat k.toNat (s.lane c core 32 a l) (s.lane c core 32 b l))) s ∧
    laneStep (.smdiv c core d a b) c core d 4 0 (fun l => laneOf 32
      (smdivLane (s.ch c).vsat (s.lane c core 32 a l) (s.lane c core 32 b l))) s ∧
    laneStep (.treeAdd c core p false d a) c core d (6 * precClk p) 0 (fun l =>
      if l = 0 then laneOf (precBits p) ((treeFold (fpAdd (precFmt p) (s.ch c).vsat)
        (((s.ch c).vreg core a).toList.map (lowBits (precBits p)))).headD 0)
      else ((s.ch c).vreg core d)[l]) s ∧
    laneStep (.treeMax c core p d a) c core d (6 * precClk p) 0 (fun l =>
      if l = 0 then laneOf (precBits p) ((treeFold (fpMax (precFmt p)) (((s.ch c).vreg core a).toList.map (lowBits (precBits p)))).headD 0)
      else ((s.ch c).vreg core d)[l]) s ∧
    laneStep (.broadcast c core d a lane) c core d 6 0 (fun _ => ((s.ch c).vreg core a)[lane]) s ∧
    laneStep (.srUpd c core sr d a b) c core d 2 0 (fun l => laneOf 32 (srUpd (s.ch c).vsat
      (srWord (s.ch c).srSeed ((s.ch c).srStep core) sr.tensor ((sr.index + l.val) / 32) selBf16 ((sr.index + l.val) % 32))
      (s.lane c core 32 a l) (s.lane c core 32 b l) * 2 ^ 16)) s

/-- R141, R64: PHILOX writes the four words of a Philox-4x32-10 call per lane, with the key in one register and the counter in two; where
destinations coincide, the later word stands.
R133, R134: WELFORD and SUMSQ take one element into each active lane's state, from the empty state when `first`; MERGE joins a lane with
another, or with a state that lies in one lane of three registers, leaves its result in its first lane, and, where registers are named, in one
lane of those too (the layout in registers is the model's choice, log entry 211); TREE-MERGE folds all 64 states by the fixed tree of
R125 into lane 0. -/
def Obligations.PhiloxAndStatistics : Prop :=
  (∀ (c : ChanId) (core : LCore) (k a b d0 d1 d2 d3 : VReg) (s : State),
    ∃ t, exec (.philox c core k a b d0 d1 d2 d3) s = .next t ∧
      (∀ l : Lane,
        let w := philox10 ((s.ch c).vreg core k)[l].toNat
          (((s.ch c).vreg core a)[l].toNat % 2 ^ 32, ((s.ch c).vreg core a)[l].toNat / 2 ^ 32,
            ((s.ch c).vreg core b)[l].toNat % 2 ^ 32, ((s.ch c).vreg core b)[l].toNat / 2 ^ 32)
        ((t.ch c).vreg core d3)[l] = laneOf 32 w.2.2.2 ∧
        (d2 ≠ d3 → ((t.ch c).vreg core d2)[l] = laneOf 32 w.2.2.1) ∧
        (d1 ≠ d3 → d1 ≠ d2 → ((t.ch c).vreg core d1)[l] = laneOf 32 w.2.1) ∧
        (d0 ≠ d3 → d0 ≠ d2 → d0 ≠ d1 → ((t.ch c).vreg core d0)[l] = laneOf 32 w.1)) ∧
      vregsKept c core [d0, d1, d2, d3] s t ∧ issuedFor c core 4 s t ∧ onlyVector c 0 s t) ∧
  (∀ (c : ChanId) (core : LCore) (p : Prec) (first sumsq : Bool) (active : Nat) (r : VReg) (a b : Lane)
    (src : Option (VReg × VReg × VReg)) (q : VReg × VReg × VReg) (s : State),
    let second := match src with
      | some r => (s.ch c).stateIn core p r b
      | none => ((s.ch c).laneStates core)[b]
    let merged := mergeAny sumsq (precFmt p) (s.ch c).vsat ((s.ch c).laneStates core)[a] second
    let old (l : Lane) : LaneState := if first then {} else ((s.ch c).laneStates core)[l]
    laneStateStep (.welford c core p first active r) c core (2 * precClk p) (fun l =>
      if l.val < active then welfordLane (precFmt p) (s.ch c).vsat (s.lane c core (precBits p) r l) (old l) else old l) s ∧
    laneStateStep (.sumsq c core p first active r) c core (2 * precClk p) (fun l =>
      if l.val < active then sumsqLane (precFmt p) (s.ch c).vsat (s.lane c core (precBits p) r l) (old l) else old l) s ∧
    laneStateStep (.merge c core p sumsq { lane := a } { lane := b, regs := src }) c core (2 * precClk p) (fun l =>
      if l = a then merged else ((s.ch c).laneStates core)[l]) s ∧
    (∃ t, exec (.merge c core p sumsq { lane := a, regs := some q } { lane := b, regs := src }) s = .next t ∧
      (∀ l : Lane, ((t.ch c).laneStates core)[l] = if l = a then merged else ((s.ch c).laneStates core)[l]) ∧
      ((t.ch c).vreg core q.2.2)[a] = merged.m2 ∧ (q.2.1 ≠ q.2.2 → ((t.ch c).vreg core q.2.1)[a] = merged.mean) ∧
      (q.1 ≠ q.2.2 → q.1 ≠ q.2.1 → ((t.ch c).vreg core q.1)[a] = BitVec.ofNat 64 (merged.n.toNat + 2 ^ 32 * b2n merged.poison)) ∧
      (∀ (v : VReg) (l : Lane), l ≠ a → ((t.ch c).vreg core v)[l] = ((s.ch c).vreg core v)[l]) ∧
      vregsKept c core [q.1, q.2.1, q.2.2] s t ∧ (t.ch c).vec.xacc = (s.ch c).vec.xacc ∧ issuedFor c core (2 * precClk p) s t ∧
      onlyEngine c core 0 s t) ∧
    laneStateStep (.treeMerge c core p sumsq) c core (12 * precClk p) (fun l =>
      if l = 0 then (treeFold (mergeAny sumsq (precFmt p) (s.ch c).vsat) ((s.ch c).laneStates core).toList).headD {}
      else ((s.ch c).laneStates core)[l]) s)

/-! ### Statistics (R133 to R136, R138) -/

/-- R136: FINISH writes mean, variance and reciprocal root of one lane's state into that lane of three registers (a later one stands where
they coincide; SUMSQ writes no mean). The FP64 root is a free value (log entry 15).
R137, R138: XSUM adds each active lane's value exactly to its accumulator; an accumulator that newly reaches 2^171 sets XSUM_OVF and
raises its event. TREE-ADD over accumulators combines them exactly by the fixed tree and rounds once. -/
def Obligations.FinishAndExactSums : Prop :=
  (∀ (c : ChanId) (core : LCore) (p : Prec) (sumsq bessel : Bool) (eps : U32) (lane : Lane) (dMean dVar dR : VReg) (s : State),
    let r := finishLane p sumsq bessel (s.ch c).vsat eps.toNat (Config.freeValue s.free) ((s.ch c).laneStates core)[lane]
    ∃ t, exec (.finish c core p sumsq bessel eps lane dMean dVar dR) s = .next t ∧
      ((t.ch c).vreg core dR)[lane] = laneOf (precBits p) r.2.2 ∧
      (dVar ≠ dR → ((t.ch c).vreg core dVar)[lane] = laneOf (precBits p) r.2.1) ∧
      (dMean ≠ dR → dMean ≠ dVar →
        ((t.ch c).vreg core dMean)[lane] = if sumsq then ((s.ch c).vreg core dMean)[lane] else laneOf (precBits p) r.1) ∧
      (∀ (q : VReg) (l : Lane), l ≠ lane → ((t.ch c).vreg core q)[l] = ((s.ch c).vreg core q)[l]) ∧
      vregsKept c core [dMean, dVar, dR] s t ∧ issuedFor c core (2 * precClk p) s t ∧ onlyVector c 1 s t) ∧
  (∀ (c : ChanId) (core : LCore) (p : Prec) (first : Bool) (active : Nat) (d a : VReg) (s : State),
    let ch := s.ch c
    let old (l : Lane) : Xacc := if first then {} else (ch.xaccs core)[l]
    let new (l : Lane) : Xacc := if l.val < active then xsumLane (s.lane c core 32 a l) (old l) else old l
    let sum := (treeFold xaccAdd (ch.xaccs core).toList).headD {}
    (∃ t, exec (.xsum c core first active a) s = .next t ∧ (∀ l : Lane, ((t.ch c).xaccs core)[l] = new l) ∧
      (t.ch c).vec.regs = ch.vec.regs ∧ (t.ch c).vec.lanes = ch.vec.lanes ∧ issuedFor c core 1 s t ∧
      ((∀ l : Lane, (new l).ovf = true → (old l).ovf = true) → onlyEngine c core 0 s t) ∧
      (∀ l : Lane, (new l).ovf = true → (old l).ovf = false →
        (t.ch c).vec.xsumOvf = true ∧ (t.ch c).events = (ch.raise c 0x1007).events ∧ onlyVecEvents c s t)) ∧
    (∃ t, exec (.treeAdd c core p true d a) s = .next t ∧ ((t.ch c).xaccs core)[0] = sum ∧
      ((t.ch c).vreg core d)[0] = laneOf 32 (xaccRound ch.vsat sum) ∧
      (∀ l : Lane, l ≠ 0 → ((t.ch c).xaccs core)[l] = (ch.xaccs core)[l] ∧ ((t.ch c).vreg core d)[l] = (ch.vreg core d)[l]) ∧
      vregsKept c core [d] s t ∧ (t.ch c).vec.lanes = ch.vec.lanes ∧ issuedFor c core 6 s t ∧
      ((sum.ovf = true → ∃ l : Lane, (ch.xaccs core)[l].ovf = true) → onlyEngine c core 0 s t) ∧
      (sum.ovf = true → (∀ l : Lane, (ch.xaccs core)[l].ovf = false) →
        (t.ch c).vec.xsumOvf = true ∧ (t.ch c).events = (ch.raise c 0x1007).events ∧ onlyVecEvents c s t)))

/-! ### Operations of the vector engine on core SRAM (R123, R139, R140, R142, R281) -/

/-- Loads of the vector engine on SRAM without poison or errors: R123 (BF16 widens exactly; log entry 23 for an element beyond the SRAM), R281
(a misaligned element of a transposed load gives +0), R140 (the decoder of BLK8; its codes come from SRAM or from a packed register, R123).
Stores of the vector engine: the element of each lane, the packed codes and scale of QUANT (R139), the exponent and codes of a BLK8
block (R140; MOM8 takes the exponent of its own block, R68), whose saturations count in BLK8_SAT and, under an agreed exponent, in GXC_STAT.SAT
(log entry 77). Both encoders leave their codes in a packed register where one is named (log entry 205). Every byte outside the stored ranges keeps its value, a range beyond the SRAM or in the system area stores nothing (log
entry 23), and no register, event or other memory changes. -/
def Obligations.VecLoadsAndStores : Prop :=
  (∀ (c : ChanId) (core : LCore) (slot : Nat) (ty : ElemTy) (addr stride col : Nat) (upper : Bool) (blk : Fin 4)
    (packed : Option VReg) (d : VReg) (s : State),
    (s.ch c).mem.sramPoison = [] → (s.ch c).mem.sramErr = [] →
    let p := (s.ch c).pcore core.val
    let at_ (off n : Nat) : List Byte := if off + n ≤ sramSize then (s.ch c).sramBytes p off n else []
    laneStep (.vecLoad c core slot ty addr stride d) c core d 1 64 (fun l =>
      loadLane ty (s.free + l.val) (at_ (addr + l.val * stride) ty.size)) s ∧
    laneStep (.vecLoadTranspose c core slot ty addr stride col d) c core d 1 64 (fun l =>
      if (addr + l.val * stride + col * ty.size) % ty.size = 0 then
        loadLane ty (s.free + l.val) (at_ (addr + l.val * stride + col * ty.size) ty.size)
      else 0) s ∧
    let codes := match packed with
      | some v => unpackLanes ((s.ch c).vreg core v)
      | none => at_ (addr + 4 + 32 * blk.val) 32
    laneStep (.blk8Decode c core slot upper addr blk { lanes := d, packed := packed }) c core d 1 0 (fun l =>
      if upper = decide (32 ≤ l.val) then
        laneOf 32 ((codes.map (blk8Decode (leNat (at_ (addr + blk.val) 1)))).getD (l.val % 32) 0)
      else ((s.ch c).vreg core d)[l]) s) ∧
  (∀ (c : ChanId) (core : LCore) (slot : Nat) (ty : ElemTy) (sr : SrArg) (fmt : Fin 3) (mom upper : Bool) (agreed : Option U8)
    (addr stride eaddr saddr group : Nat) (blk : Fin 4) (packed : Option VReg) (a : VReg) (s : State),
    let ch := s.ch c
    let inReg (codes : List Nat) : Option (VReg × LaneVec) := packed.map fun v => (v, packLanes (ch.vreg core v) codes)
    let half := halfLanes (ch.vreg core a) upper
    let q := quantBlock (elFmt fmt.val) (rndOf sr.on ch.srSeed (ch.srStep core) sr.tensor sr.index selQuant) half
    let e := match agreed with
      | some e => if mom then blk8Exp half else min 0xFE e.toNat
      | none => blk8Exp half
    let r := blk8Encode (!mom && agreed.isSome) (rndOf (mom || sr.on) ch.srSeed (ch.srStep core) sr.tensor sr.index selBlk8) e half
    storeStep (.vecStore c core slot ty sr addr stride a) c core slot ((List.finRange 64).map fun l =>
      (addr + l.val * stride, ch.storeBytes core ty sr l.val (ch.vreg core a)[l])) ch.vec.blk8Sat ch.gxc.sat none s ∧
    storeStep (.quant c core slot fmt sr upper eaddr saddr { lanes := a, packed := packed }) c core slot
      [(eaddr, packCodes (elFmt fmt.val) q.2), (saddr, [BitVec.ofNat 8 q.1])] ch.vec.blk8Sat ch.gxc.sat (inReg q.2) s ∧
    storeStep (.blk8Encode c core slot mom sr agreed upper group blk { lanes := a, packed := packed }) c core slot
      [(group + blk.val, [BitVec.ofNat 8 e]), (group + 4 + 32 * blk.val, r.1)] (satAdd ch.vec.blk8Sat r.2)
      (if !mom && agreed.isSome then satAdd ch.gxc.sat r.2 else ch.gxc.sat) (inReg (r.1.map BitVec.toNat)) s)

/-- R142: GATHER loads, from the core's own SRAM (here without poison or errors), the element at base + index × size into each lane; a lane at or beyond
0x40_0000, or misaligned, receives +0, counts in GATHER_OOR and sets its status bit, and the other lanes are as ever. Only the destination, the
counts, the status bit and the event change. -/
def Obligations.GatherLoadsItsLanes : Prop :=
  ∀ (c : ChanId) (core : LCore) (slot : Nat) (size : Fin 4) (base : Nat) (d idx : VReg) (s : State),
    (s.ch c).mem.sramPoison = [] → (s.ch c).mem.sramErr = [] →
    let ch := s.ch c
    let n := 2 ^ size.val
    let elem (l : Lane) : Nat := base + s.lane c core 32 idx l * n
    let good (l : Lane) : Bool := decide (elem l < 0x400000) && decide (elem l % n = 0)
    let cnt := countIf (fun l => !good l) (List.finRange 64)
    ∃ t, exec (.gather c core slot size base d idx) s = .next t ∧
      (∀ l : Lane, ((t.ch c).vreg core d)[l] = if good l then laneOf 64 (leNat (ch.sramBytes (ch.pcore core.val) (elem l) n)) else 0) ∧
      (t.ch c).vec.gatherOorCnt = satAdd ch.vec.gatherOorCnt cnt ∧ (t.ch c).vec.gatherOor = (ch.vec.gatherOor || decide (0 < cnt)) ∧
      (cnt = 0 → (t.ch c).events = ch.events) ∧ (0 < cnt → (t.ch c).events = (ch.raise c 0x1006).events) ∧
      vregsKept c core [d] s t ∧ issuedFor c core 2 s t ∧ onlyVecEvents c s t

/-! ### Tasks and tiles (R40, R41, R47, R48, R80 to R88, R102, R121, R256 to R258, R338) -/

/-- TASK_DISPATCH: without a READY task that its core can take nothing changes; a task that lacks nothing runs, with its live registers
restored (R40, R124), and a tile takes a clk of the array, in which its operand buffer fills (R77; the clks are the model's count, log entry
33); a fully masked tile completes without running, and is counted in ARR_SKIPPED (R84). -/
def Obligations.TaskDispatchRunsOrSkips : Prop :=
  ∀ (c : ChanId) (core : LCore) (s : State) (k : Task),
    let ch := s.ch c
    let go := (ch.restoreContext k).onTask k.core k.slot fun x =>
      { x with st := .running, cause := .none, hasRun := true, started := ch.tsk.starts }
    ((ch.readyTasks core.val).find? ch.mayRun = none → exec (.taskDispatch c core) s = .next s) ∧
    ((ch.readyTasks core.val).find? ch.mayRun = some k → ¬(k.exec = 0 ∧ fullyMasked k.desc ∧ k.dup = none) → k.waitPages = false →
      ch.readsAny c k ch.upd.actGone = false → ch.readsAny c k ch.upd.actPending = false →
      (k.exec = 2 → k.dmaDone.length ≠ k.dmaDescs.length) → (k.tileRec = none ∨ ch.sql.slots = []) →
      exec (.taskDispatch c core) s = .next (s.setCh c { go with
        tsk := { go.tsk with starts := ch.tsk.starts + 1 }
        arr := if k.exec = 0 then { ch.arr with
            busy := addClk ch.arr.busy k.core 1, feedStall := addClk ch.arr.feedStall k.core 1 } else ch.arr })) ∧
    ((ch.readyTasks core.val).find? ch.mayRun = some k → k.exec = 0 → fullyMasked k.desc → k.dup = none → k.sample = none →
      k.desc.doneSig = 0 → ch.pss.stopping = false → ch.stepOkDue = false →
      ∃ t, exec (.taskDispatch c core) s = .next t ∧ (t.ch c).task? k.core k.slot = none ∧
        (t.ch c).arr = { ch.arr with skipped := satAdd ch.arr.skipped 1 } ∧ (t.ch c).tsk.completed = wrapAdd ch.tsk.completed 1 ∧
        (t.ch c).mem = ch.mem ∧ (t.ch c).cxl = ch.cxl ∧ (t.ch c).events = ch.events ∧ (t.ch c).chn = ch.chn ∧
        (t.ch c).beat = ch.beat ∧ ch.otherTasks k.core k.slot (t.ch c) ∧ onlyChannel c s t)

/-- TILE_DRAIN of a tile on SRAM without poison or errors: the bytes that the tile's arithmetic gives (R92 to R118), or undefined ones, free values, where its
output meets what it reads (R80), are written to core SRAM and no other byte changes; the tile is counted in ARR_TILES, the window flags are sticky (R102), and its task completes (R40, R81). The
`wrong` operand of the command is empty: a sound core. A tile behind another that still runs on its core does not drain (R82). -/
def Obligations.TileDrainWritesItsOutput : Prop :=
  ∀ (c : ChanId) (core : LCore) (slot : Nat) (s : State) (k : Task) (rec : TileRec),
    let ch := s.ch c
    let p := ch.pcore core.val
    let tr := rec.withPageFmt k.pageFmt
    let o := runTile tr (ch.tileEnv tr ch.arr.ovfMode k.step.toNat) k.desc.arg1.toNat k.desc.arg2.toNat (ch.tileRead p)
    let meet := tr.selfOverlap k.desc.arg1.toNat k.desc.arg2.toNat
    let w := if meet then freeRows s.free o.writes else o.writes
    let earlier : Prop := ∃ x ∈ ch.tsk.tasks, x.core = core.val ∧ x.exec = 0 ∧ x.st = .running ∧ x.started < k.started
    (ch.task? core.val slot = some k → earlier → exec (.tileDrain c core slot []) s = .next s) ∧
    (ch.task? core.val slot = some k → k.st = .running → ¬ earlier → k.dup = none → k.tileRec = some rec → k.exec = 0 → k.sample = none →
    k.desc.doneSig = 0 → ch.pss.stopping = false → ch.stepOkDue = false → ch.mem.sramPoison = [] → ch.mem.sramErr = [] →
    ∃ t, exec (.tileDrain c core slot []) s = .next t ∧
      (∀ x : Nat, (∀ e ∈ w, x < sramAt p e.1 ∨ sramAt p e.1 + e.2.length ≤ x) →
        smGet 0 (t.ch c).mem.sram x = smGet 0 ch.mem.sram x) ∧
      (disjointStores w → ∀ e ∈ w, (t.ch c).sramBytes p e.1 e.2.length = e.2) ∧
      (t.ch c).mem.hbm = ch.mem.hbm ∧ (t.ch c).cxl = ch.cxl ∧
      (t.ch c).arr.tiles = wrapAdd ch.arr.tiles 1 ∧ (t.ch c).arr.fxOvf = (ch.arr.fxOvf || o.sat) ∧
      (t.ch c).arr.fxUfl = (ch.arr.fxUfl || o.ufl) ∧
      (t.ch c).arr.sliceTiles = (if tr.isSlice then wrapAdd ch.arr.sliceTiles 1 else ch.arr.sliceTiles) ∧
      (t.ch c).arr.fallbackElems = satAdd ch.arr.fallbackElems o.fell ∧
      (t.ch c).tsk.completed = wrapAdd ch.tsk.completed 1 ∧ (t.ch c).task? core.val slot = none ∧
      ch.otherTasks core.val slot (t.ch c) ∧ (t.ch c).vec.regs = ch.vec.regs ∧ (t.ch c).chn = ch.chn ∧
      t = { s.setCh c (t.ch c) with free := s.free + if meet then w.length else 0 })

/-- R40, R48: a running task whose program ends completes and gives back its slot when nothing of it is outstanding; with an
operation outstanding it parks and keeps its slot. A work of the exchange or of the update (R210, R226 to R228) takes effect first, on HBM
without poison or errors, when its class may do it, and the task ends as any other. -/
def Obligations.TaskCompleteEndsOrParks : Prop :=
  ∀ (c : ChanId) (core : LCore) (slot : Nat) (work : TaskWork) (s : State) (k : Task),
    let ch := s.ch c
    let ends (w : TaskWork) := Instr.taskComplete c core { slot := slot, work := w }
    ch.task? core.val slot = some k → k.st = .running → k.exec ≠ 0 → k.exec ≠ 2 → k.dup = none →
    (k.mayWork work = false → exec (ends work) s = exec (ends .own) s) ∧
    (k.mayWork work = true → ch.mem.hbmPoison = [] → ch.mem.hbmErr = [] →
      exec (ends work) s = exec (ends .own) (s.setCh c (ch.doWork c work))) ∧
    (ch.opsOf core.val slot = [] → k.retry = [] → k.sample = none → k.desc.doneSig = 0 → ch.pss.stopping = false → ch.stepOkDue = false →
      ∃ t, exec (ends .own) s = .next t ∧ (t.ch c).task? core.val slot = none ∧
        (t.ch c).tsk.completed = wrapAdd ch.tsk.completed 1 ∧ (t.ch c).tsk.faulted = ch.tsk.faulted ∧ (t.ch c).mem = ch.mem ∧
        (t.ch c).cxl = ch.cxl ∧ (t.ch c).arr = ch.arr ∧ (t.ch c).vec.regs = ch.vec.regs ∧ (t.ch c).events = ch.events ∧
        (t.ch c).chn = ch.chn ∧ ch.otherTasks core.val slot (t.ch c) ∧ onlyChannel c s t) ∧
    (ch.opsOf core.val slot ≠ [] → k.retry = [] →
      ∃ t, exec (ends .own) s = .next t ∧
        (t.ch c).task? core.val slot = some { k with programEnded := true, st := .parked, cause := .programEnd } ∧
        ch.otherTasks core.val slot (t.ch c) ∧ t = s.setCh c { ch with tsk := { ch.tsk with tasks := (t.ch c).tsk.tasks } })

/-- R46 to R48, R253, R269: a running task's operation on its own channel leaves as a NoC request and is outstanding; GET, CAS and
FETCH_ADD64 park the task, and all but GET and PUT commit it (R42). A tile issues no non-idempotent operation (R88). At 64 outstanding
operations the issue parks the task; at 16,384 requests of the channel the operation waits and ISSUE_STALL counts. A task that parks saves its
live registers (R124). A FENCE parks while an operation of its classes is outstanding, and
otherwise changes nothing. -/
def Obligations.OpIssueAndFence : Prop :=
  ∀ (c : ChanId) (core : LCore) (slot : Nat) (op : RemOp) (mask : U8) (s : State) (k : Task),
    let ch := s.ch c
    let parks := op.kind.blocks
    ch.task? core.val slot = some k → k.st = .running → k.programEnded = false →
    (k.exec = 0 → op.kind.idempotent = false → exec (.opIssue c core slot op) s = .next s) ∧
    ((k.exec = 0 → op.kind.idempotent = true) → ch.issueFull = true → (parks = true ∨ (ch.opsOf core.val slot).length < 64) →
      op.bucket = none →
      ∃ t, exec (.opIssue c core slot op) s = .next t ∧
        (t.ch c).wrn = { ch.wrn with
          issueStall := satAdd ch.wrn.issueStall 1
          waiting := ch.wrn.waiting ++ [{ owner := .task core.val slot, agent := BitVec.ofNat 8 core.val, op := op }] } ∧
        (t.ch c).task? core.val slot = some { k with
          committed := k.committed || !op.kind.idempotent
          st := if parks then .parked else .running
          cause := if parks then .response else k.cause } ∧
        (t.ch c).mem = (if parks then (ch.saveContext k).mem else ch.mem) ∧ ch.otherTasks core.val slot (t.ch c) ∧ onlyChannel c s t) ∧
    ((k.exec = 0 → op.kind.idempotent = true) → parks = false → 64 ≤ (ch.opsOf core.val slot).length →
      ∃ t, exec (.opIssue c core slot op) s = .next t ∧
        (t.ch c).task? core.val slot = some { k with st := .parked, cause := .opLimit, held := some op } ∧
        (t.ch c).wrn = ch.wrn ∧ (t.ch c).mem = (ch.saveContext k).mem ∧ (t.ch c).vec = (ch.saveContext k).vec ∧ ch.otherTasks core.val slot (t.ch c) ∧ onlyChannel c s t) ∧
    ((k.exec = 0 → op.kind.idempotent = true) → ch.issueFull = false → (parks = true ∨ (ch.opsOf core.val slot).length < 64) →
      ch.isOwn c op.addr.toNat = true →
      op.bucket = none → op.forward = none →
      ∃ t, exec (.opIssue c core slot op) s = .next t ∧ t.out = s.out ++ [.nocRequest c (ch.mkRequest c core.val 0 op)] ∧
        (∃ r : Request, (t.ch c).wrn.reqs = ch.wrn.reqs ++ [r] ∧ r.tag = ch.wrn.nextTag ∧ r.owner = .task core.val slot ∧ r.op = op ∧
          r.timeoutUs = ch.rspTimeoutUs ∧ r.lostAfterMs = ch.lostAfterMs) ∧
        (t.ch c).task? core.val slot = some { k with
          committed := k.committed || !op.kind.idempotent
          st := if parks then .parked else .running
          cause := if parks then .response else k.cause } ∧
        (t.ch c).mem = (if parks then (ch.saveContext k).mem else ch.mem) ∧ (t.ch c).cxl = ch.cxl ∧ (t.ch c).events = ch.events ∧ (t.ch c).vec.regs = ch.vec.regs ∧
        ch.otherTasks core.val slot (t.ch c) ∧ onlyChannelSent c s t) ∧
    ((ch.opsOf core.val slot).any (inFence mask) = true →
      ∃ t, exec (.fence c core slot mask) s = .next t ∧
        (t.ch c).task? core.val slot = some { k with st := .parked, cause := .fence, fenceMask := mask } ∧
        (t.ch c).wrn = ch.wrn ∧ (t.ch c).mem = (ch.saveContext k).mem ∧ (t.ch c).vec = (ch.saveContext k).vec ∧ ch.otherTasks core.val slot (t.ch c) ∧ onlyChannel c s t) ∧
    ((ch.opsOf core.val slot).any (inFence mask) = false → exec (.fence c core slot mask) s = .next s)

/-- R338: when the copy of a sampled tile's operands has completed, its duplicate is offered to the partner from the next beat on, and only
the partner's duplicate area has changed (what lies there is the Badger's own layout, log entry 32). -/
def Obligations.SampleCopyOffersTheDuplicate : Prop :=
  ∀ (c : ChanId) (id : Nat) (x : Sample) (s : State),
    let ch := s.ch c
    let p := ch.pcore x.partner
    let n := sampleBytes x.tile x.desc
    ch.sample? id = some x → x.phase = 1 →
    ∃ t, exec (.sampleCopyDone c id) s = .next t ∧
      (t.ch c).tsk = { ch.tsk with offers := ch.tsk.offers ++
        [x.offer x.partner (ch.beat.number.toNat + 1) ch.bdg.dupPatience.toNat false] } ∧
      (t.ch c).sample? id = some { x with phase := 2 } ∧
      (∀ a : Nat, (a < sramAt p ch.dupArea.1 ∨ sramAt p ch.dupArea.1 + n ≤ a) →
        smGet 0 (t.ch c).mem.sram a = smGet 0 ch.mem.sram a) ∧
      (t.ch c).mem.hbm = ch.mem.hbm ∧ (t.ch c).cxl = ch.cxl ∧ (t.ch c).events = ch.events ∧ t.free = s.free + 1 ∧
      onlyChannelFree c s t

/-- R256 to R258: what the end of a request does at its source. A response after LOST is discarded and counted; an expired response time
holds the request, or completes it GONE toward a departed channel; a held request toward a LIVE channel completes LOST and is
counted; with OK, a task that waited for this response alone goes on with its bytes. An operation that waited for room among the requests leaves
when one ends (R269). -/
def Obligations.RequestsEndAtTheirSource : Prop :=
  ∀ (c : ChanId) (p : Packet) (tag : U32) (r : Request) (s : State),
    let ch := s.ch c
    let plain (q : Request) : Prop := q.op.bucket = none ∧ q.op.forward = none ∧ q.pinned = none
    let st := ch.routeState r.module.toNat r.channel.toNat
    (p.isResponse = true → ch.req? p.tag = none → ch.wrn.lostTags.contains p.tag = true →
      exec (.remoteResponse c p) s = .next (s.setCh c { ch with wrn := { ch.wrn with
        lateRsp := satAdd ch.wrn.lateRsp 1, lostTags := ch.wrn.lostTags.filter (· != p.tag) } })) ∧
    (∀ (core slot : Nat) (k : Task), p.isResponse = true → ch.req? p.tag = some r → p.status = 0 → r.owner = .task core slot →
      r.op.kind.blocks = true → plain r → ch.wrn.waiting = [] → ch.task? core slot = some k → k.st = .parked →
      k.cause = .response → k.programEnded = false → k.held = none → k.retry = [] → ch.dma.xfers = [] →
      (∀ q ∈ ch.wrn.reqs, q.owner = .task core slot → q.tag = r.tag) →
      ∃ t, exec (.remoteResponse c p) s = .next t ∧
        (t.ch c).task? core slot = some { k with
          answer := p.payload, answerCode := 0, st := .ready, cause := .none, fenceMask := 0, held := none } ∧
        (t.ch c).wrn = { ch.wrn with reqs := ch.wrn.reqs.filter fun q => q.tag != r.tag } ∧ (t.ch c).mem = ch.mem ∧
        (t.ch c).vec = ch.vec ∧ (t.ch c).events = ch.events ∧ ch.otherTasks core slot (t.ch c) ∧ onlyChannel c s t) ∧
    (ch.req? tag = some r → st ≠ 2 → exec (.rspTimeoutExpiry c tag) s = .next (s.setCh c { ch with wrn := { ch.wrn with
      reqs := ch.wrn.reqs.map fun q => if q.tag = tag then { q with held := true } else q } })) ∧
    (ch.req? tag = some r → st = 2 → r.owner = .orphan → plain r → ch.wrn.waiting = [] →
      exec (.rspTimeoutExpiry c tag) s = .next (s.setCh c { ch with wrn := { ch.wrn with
        reqs := ch.wrn.reqs.filter (fun q => q.tag != r.tag), goneCnt := satAdd ch.wrn.goneCnt 1 } })) ∧
    (∀ (w : Request) (rest : List Request), ch.req? tag = some r → st = 2 → r.owner = .orphan → plain r → ch.wrn.waiting = w :: rest →
      plain w → ch.isOwn c w.op.addr.toNat = true → ch.wrn.reqs.length ≤ 16384 →
      ∃ t, exec (.rspTimeoutExpiry c tag) s = .next t ∧ t.out = s.out ++ [.nocRequest c (ch.mkRequest c w.agent.toNat 0 w.op)] ∧
        (t.ch c).wrn.waiting = rest ∧ (t.ch c).wrn.goneCnt = satAdd ch.wrn.goneCnt 1 ∧
        (∃ q : Request, (t.ch c).wrn.reqs = (ch.wrn.reqs.filter fun x => x.tag != r.tag) ++ [q] ∧ q.op = w.op ∧ q.owner = w.owner ∧
          q.tag = ch.wrn.nextTag) ∧
        (t.ch c).mem = ch.mem ∧ (t.ch c).tsk = ch.tsk ∧ onlyChannelSent c s t) ∧
    (ch.req? tag = some r → r.held = true → st = 1 → r.owner = .orphan → plain r → ch.wrn.waiting = [] →
      exec (.lostAfterExpiry c tag) s = .next (s.setCh c ({ ch with wrn := { ch.wrn with
        reqs := ch.wrn.reqs.filter (fun q => q.tag != r.tag), lostTags := ch.wrn.lostTags ++ [tag]
        lostCnt := satAdd ch.wrn.lostCnt 1, lost := true } }.raise c 0x3004))) ∧
    (ch.req? tag = some r → r.held = false → exec (.lostAfterExpiry c tag) s = .next s)

/-! ### Remote operations at their target, and the router (R143 to R146, R252 to R256, R260 to R262, R274, R280, R282) -/

/-- R252, R256: the code with which the target turns a request away, lowest first: GONE while withdrawn (remote requests), OP_ERR for a
malformed one, ADDR_ERR for an unoccupied place, a place the operation does not reach or no window that grants it, ALIGN_ERR. Each of the
six operations then answers with that code and changes nothing but REFUSED, which counts remote requests so refused (R28). A channel that is not
JOINED answers ADDR_ERR on the link of arrival. A link carries operations only in UP (R247). -/
def Obligations.RemoteOpsRefuseByLowestCode : Prop :=
  ∀ (c : ChanId) (o : Origin) (p : Packet) (use : CounterUse) (s : State),
    let ch := s.ch c
    let off := gaOffset p.addr.toNat
    let six (code : Nat) (t : State) : Prop :=
      (code = 1 → exec (.get c o p) s = .next t) ∧ (code = 2 → exec (.put c o p) s = .next t) ∧
      (code = 3 → exec (.putAdd c o p) s = .next t) ∧ (code = 4 → exec (.cas c o p) s = .next t) ∧
      (code = 5 → exec (.fetchAdd64 c o p) s = .next t) ∧ (code = 6 → exec (.signal c o p use) s = .next t)
    o.sendsOps = true →
    (ch.hears o = false → six p.op.toNat s) ∧
    (ch.hears o = true → o.remote = true → ch.joined = false → six p.op.toNat (s.refuseEarly c o p)) ∧
    (ch.hears o = true → o.remote = true → ch.joined = true → ch.isOwn c p.addr.toNat = false → six p.op.toNat (s.forward c p)) ∧
    (ch.hears o = true → (o.remote = true → ch.joined = true) → ch.isOwn c p.addr.toNat = true →
      (o.remote = true → ch.pss.withdrawn = true → six p.op.toNat (s.respondTo c o p .gone [])) ∧
      ((o.remote = true → ch.pss.withdrawn = false) →
        (p.opBad = true → six p.op.toNat (s.respondTo c o p .opErr [])) ∧
        (p.opBad = false → placeOf off p.span = none → six p.op.toNat (s.respondTo c o p .addrErr [])) ∧
        (∀ pl : Place, p.opBad = false → placeOf off p.span = some pl →
          (ch.placeBad p.op.toNat pl p.span = true ∨
            (o.remote = true ∧ ch.windowAllows p.srcModule p.op.toNat off p.span = false) →
            six p.op.toNat (s.respondTo c o p .addrErr [])) ∧
          (ch.placeBad p.op.toNat pl p.span = false → (o.remote = true → ch.windowAllows p.srcModule p.op.toNat off p.span = true) →
            p.misaligned = true → six p.op.toNat (s.respondTo c o p .alignErr [])))))

/-- R254: GET reads, and PUT writes, exactly its range of HBM or core SRAM; a PUT that covers a poisoned line in part completes MEM_ERR and
changes nothing (R256, R274). Every byte outside the range keeps its value. -/
def Obligations.GetReadsPutWrites : Prop :=
  ∀ (c : ChanId) (o : Origin) (p : Packet) (s : State),
    let ch := s.ch c
    let n := p.payload.length
    o.sendsOps = true → ch.hears o = true → (o.remote = true → ch.joined = true) → ch.isOwn c p.addr.toNat = true →
    (∀ off : Nat, p.op.toNat = 1 → ch.reach o p = (.ok, .hbm off) → ch.mem.hbmPoison = [] → ch.mem.hbmErr = [] →
      exec (.get c o p) s = .next (s.respondTo c o p .ok (ch.hbmBytes off p.operand.toNat))) ∧
    (∀ slot off : Nat, p.op.toNat = 1 → ch.reach o p = (.ok, .sram slot off) → ch.mem.sramPoison = [] → ch.mem.sramErr = [] →
      exec (.get c o p) s = .next (s.respondTo c o p .ok (ch.sramBytes (ch.pcore slot) off p.operand.toNat))) ∧
    (∀ off : Nat, p.op.toNat = 2 → ch.reach o p = (.ok, .hbm off) → ch.mem.hbmPoison = [] →
      ∃ t, exec (.put c o p) s = .next (t.respondTo c o p .ok []) ∧ (t.ch c).hbmBytes off n = p.payload ∧
        (∀ x : Nat, x < off ∨ off + n ≤ x → smGet 0 (t.ch c).mem.hbm x = smGet 0 ch.mem.hbm x) ∧
        t = s.setCh c { ch with mem := { ch.mem with
          hbm := (t.ch c).mem.hbm, hbmErr := uncovered 64 off n ch.mem.hbmErr } }) ∧
    (∀ slot off : Nat, p.op.toNat = 2 → ch.reach o p = (.ok, .sram slot off) → ch.mem.sramPoison = [] →
      let a := sramAt (ch.pcore slot) off
      ∃ t, exec (.put c o p) s = .next (t.respondTo c o p .ok []) ∧ (t.ch c).sramBytes (ch.pcore slot) off n = p.payload ∧
        (∀ x : Nat, x < a ∨ a + n ≤ x → smGet 0 (t.ch c).mem.sram x = smGet 0 ch.mem.sram x) ∧
        t = s.setCh c { ch with mem := { ch.mem with
          sram := (t.ch c).mem.sram, sramErr := uncovered 8 a n ch.mem.sramErr } }) ∧
    (∀ off line : Nat, p.op.toNat = 2 → ch.reach o p = (.ok, .hbm off) → (line, true) ∈ ch.mem.hbmPoison → touchesLine 64 off n line = true →
      coversLine 64 off n line = false → exec (.put c o p) s = .next (s.respondTo c o p .memErr []))

/-- R143 to R145, R254: the atomic operations on a clean word or range of a core's SRAM: PUT_ADD adds element by element and answers OK, or
SCALE_MISMATCH when a BLK8 block stays unchanged; CAS, FETCH_ADD64 and SIGNAL rewrite one word and answer its prior value (SIGNAL: OK); tasks
that wait on the counter are READY at its target. Every byte outside the range keeps its value. -/
def Obligations.AtomicsRewriteTheirWord : Prop :=
  ∀ (c : ChanId) (o : Origin) (p : Packet) (slot off : Nat) (s : State),
    let ch := s.ch c
    let pc := ch.pcore slot
    let a := sramAt pc off
    let old := leNat (ch.sramBytes pc off 8)
    let x := addPayload p.arg.toNat ch.vec.ovfMode (ch.sramBytes pc off p.payload.length) p.payload
    let rewritten (t : State) (new : Nat) : Prop :=
      leNat ((t.ch c).sramBytes pc off 8) = new ∧
      (∀ y : Nat, y < a ∨ a + 8 ≤ y → smGet 0 (t.ch c).mem.sram y = smGet 0 ch.mem.sram y) ∧
      (t.ch c).tsk = (ch.counterMoved slot off new).tsk ∧
      t = s.setCh c { ch with mem := { ch.mem with sram := (t.ch c).mem.sram }, tsk := (t.ch c).tsk }
    o.sendsOps = true → ch.hears o = true → (o.remote = true → ch.joined = true) → ch.isOwn c p.addr.toNat = true →
    ch.reach o p = (.ok, .sram slot off) → ch.mem.sramPoison = [] → ch.mem.sramErr = [] →
    (p.op.toNat = 3 → ∃ t, exec (.putAdd c o p) s = .next (t.respondTo c o p (if x.2.2 = 0 then .ok else .scaleMismatch) []) ∧
      (t.ch c).sramBytes pc off x.1.length = x.1 ∧
      (∀ y : Nat, y < a ∨ a + x.1.length ≤ y → smGet 0 (t.ch c).mem.sram y = smGet 0 ch.mem.sram y) ∧
      (t.ch c).mem.hbm = ch.mem.hbm ∧ (t.ch c).tsk = ch.tsk ∧ (t.ch c).vec.blk8Sat = satAdd ch.vec.blk8Sat x.2.1 ∧
      (t.ch c).vec.scaleMismatchCnt = satAdd ch.vec.scaleMismatchCnt x.2.2 ∧
      (t.ch c).vec.scaleMismatch = (ch.vec.scaleMismatch || x.2.2 != 0) ∧ (t.ch c).vec.regs = ch.vec.regs ∧
      (x.2.2 = 0 → (t.ch c).events = ch.events) ∧ onlyChannel c s t) ∧
    (p.op.toNat = 4 → ∃ t, exec (.cas c o p) s = .next (t.respondTo c o p .ok (leBytes 8 old)) ∧
      rewritten t ((if old = p.operand.toNat then leNat p.payload else old) % 2 ^ 64)) ∧
    (p.op.toNat = 5 → ∃ t, exec (.fetchAdd64 c o p) s = .next (t.respondTo c o p .ok (leBytes 8 old)) ∧
      rewritten t ((old + p.operand.toNat) % 2 ^ 64)) ∧
    (p.op.toNat = 6 → p.arg.getLsbD 0 = false → ∃ t, exec (.signal c o p .plain) s = .next (t.respondTo c o p .ok []) ∧
      rewritten t ((old + p.operand.toNat) % 2 ^ 64))

/-- R253, R260 to R262: a packet that arrived over a link has crossed it (its buffer class or LAST_INTRA moves on); one for this channel is handed
over, a packet for another channel leaves on its output link, and none in breach of the buffer-class rule does: it is answered ROUTE_ERR,
counted, and ROUTE_ERR is set. Toward a DEPARTED channel it is answered GONE, toward an ABSENT one ADDR_ERR, which counts in REFUSED. A malformed
request is answered OP_ERR, but GONE here after withdrawal, and with the code of its way where that is lower (R256). A management message
moves on like a request. A link that is not UP brings nothing (R247), and a channel that is not JOINED answers ADDR_ERR (R252). -/
def Obligations.PacketRouteMovesOrEnds : Prop :=
  ∀ (c : ChanId) (l : LinkId) (p : Packet) (s : State),
    let ch := s.ch c
    let x := p.crossed l
    let q := if x.isResponse then x.checkedRsp else x
    let st := ch.routeState q.dest.1 q.dest.2
    let own : Prop := q.dest = (ch.chn.moduleId.toNat, c.val)
    let goes (t : State) : Prop := exec (.packetRoute c (some l) p) s = .next t
    (ch.linkSt l ≠ .up → goes s) ∧
    (ch.linkSt l = .up → ch.joined = false → p.isResponse = false → p.isMgmt = false → goes (s.refuseEarly c (.warren l) p)) ∧
    (ch.linkSt l = .up → ch.joined = true →
      (p.isMgmt = true → (own ∨ q.mgmtBad = true) → goes s) ∧
      (p.isMgmt = true → ¬ own → q.mgmtBad = false → goes (s.forward c q)) ∧
      (p.isMgmt = false → q.isResponse = false → q.opBad = true →
        (own → ch.pss.withdrawn = true → goes (s.respondTo c (.warren l) q .gone [])) ∧
        (own → ch.pss.withdrawn = false → goes (s.respondTo c (.warren l) q .opErr [])) ∧
        (¬ own → ch.transitCode q = none → goes (s.respondTo c (.warren l) q .opErr [])) ∧
        (¬ own → ch.transitCode q ≠ none → goes (s.forward c q))) ∧
      (p.isMgmt = false → (q.isResponse = true ∨ q.opBad = false) →
        (own → goes (s.emit (.deliver c q))) ∧
        (¬ own → st = 2 → goes (s.answer c q .gone [])) ∧
        (¬ own → st = 0 → goes ((if q.isResponse then s else s.setCh c ch.refusedOne).answer c q .addrErr [])) ∧
        (¬ own → st ≠ 2 → st ≠ 0 → ch.outLink q = none → goes (s.answer c q .gone [])) ∧
        (∀ k : LinkId, ¬ own → st ≠ 2 → st ≠ 0 → ch.outLink q = some k →
          (breaksClassRule q k = false → goes (s.enqueue c k q)) ∧
          (breaksClassRule q k = true → goes ((s.setCh c (ch.routeErr c)).answer c q .routeErr []))))) ∧
    (isIntra l.val = true → x = { p with lastIntra := true }) ∧
    (isIntra l.val = false → x = { p with buf := p.buf + 1, lastIntra := false })

/-! ### Links, frames and management messages (R246 to R249, R263 to R267, R357, R366, R371) -/

/-- Table 12-1, R246, R247, R366: the transitions of a link that do not fail, each changing this link alone, and a link in another state
unchanged by them. A link that trains sends its slot, channel and number, one that authenticates its hello and its signature, and one that comes
back from RETRAIN every unacknowledged frame again (R248). A mis-wired intra-sett link goes back to DOWN with WRN_MISWIRE. Authentication leads to UP when the verdict, the keys, the
lifecycle, the domain key and the closed INVASIVE level agree.
R247, R264, R357, R366: a link whose authentication fails, cannot start for want of random bits, or times out, and one whose third retraining fails, fails by
one operation, which moves what was queued on it. With nothing queued there it is FAILED, not eligible and empty; WRN_LINK_DOWN is recorded, for
authentication WRN_AUTH_FAIL too; every other link, every task and all of memory below the Badger's own are as before. -/
def Obligations.LinksFollowTheirTable : Prop :=
  (∀ (c : ChanId) (link : LinkId) (pm : BitVec 14) (pc : BitVec 1) (pl : BitVec 6) (sett : Nat) (ver inv : Bool) (lc : Lifecycle)
    (key : Option Key) (stratum : U8) (s : State),
    let ch := s.ch c
    let k := ch.link link.val
    let done := Instr.linkTrainingDone c link pm pc pl sett
    let auth := Instr.linkAuth c link ver lc key inv stratum
    let agrees : Prop := ver = true ∧ ch.sec.keys = true ∧ lc = ch.sec.lifecycle ∧ inv = false ∧ ch.sec.dbgLevel ≠ .invasive ∧
      key = ch.sec.settings.domainKey
    let wired : Prop := isIntra link.val = true → (sett, pl.toNat) = wiring (ch.settIndex c) link.val
    (k.st = .down → ch.mayTrain link = true →
      linkStepSent (.linkSignalDetect c link) c link { k with st := .training } [.training c link ch.wrn.slot] 0 s) ∧
    ((k.st ≠ .down ∨ ch.mayTrain link = false) → exec (.linkSignalDetect c link) s = .next s) ∧
    (k.st = .training → linkStep (.linkTrainingTimeout c link) c link { k with st := .down } s) ∧
    (k.st ≠ .training → exec (.linkTrainingTimeout c link) s = .next s ∧ exec done s = .next s) ∧
    (k.st = .training → ¬ wired → exec done s = .next (s.setCh c
      (({ ch with wrn := { ch.wrn with miswire := true } }.setLinkSt link .down).raise c 0x3002))) ∧
    (k.st = .training → wired → ch.sec.entropyFail = false → linkStepSent done c link
      { k with st := .auth, peerModule := pm, peerChannel := pc, peerLink := pl }
      [.authHello c link (BitVec.ofNat 256 (Config.drbg s.free)) ch.ser.certs.identity ch.ser.certs.chain ch.sec.lifecycle
        ch.sec.dbgLevel ch.sec.settings.domainKey] 1 s) ∧
    (k.st = .auth → agrees → ∃ u, exec auth s = .next ((u.sendLink c link).tryJoin c) ∧
      (u.ch c).link link.val = { k with st := .up, peerStratum := stratum } ∧ u.out = s.out ++ [.authSign c link] ∧ u.free = s.free ∧
      onlyLink c link { s with out := u.out } u) ∧
    (k.st = .auth → agrees → k.queue = [] → (ch.chn.state = .calibrate → ch.cfg.selfRx = false) →
      linkStepSent auth c link { k with st := .up, peerStratum := stratum } [.authSign c link] 0 s) ∧
    (k.st = .auth → ¬ agrees → exec auth s = .next ((s.emit (.authSign c link)).linkUnauthenticated c link)) ∧
    (k.st = .auth → exec (.linkAuthTimeout c link) s = .next (s.linkUnauthenticated c link)) ∧
    (k.st ≠ .auth → exec auth s = .next s ∧ exec (.linkAuthTimeout c link) s = .next s) ∧
    (k.st = .up → linkStep (.linkLossOfLock c link) c link
      { k with st := .retrain, retrains := satAdd k.retrains 1, attempts := 0, replayRuns := 0 } s) ∧
    (k.st ≠ .up → exec (.linkLossOfLock c link) s = .next s) ∧
    (k.st ≠ .retrain → exec (.linkRetrainDone c link) s = .next s ∧ exec (.linkRetrainFail c link) s = .next s) ∧
    (k.st = .retrain → 3 ≤ k.attempts + 1 → exec (.linkRetrainFail c link) s = .next (s.linkFailed c link)) ∧
    (k.st = .retrain → linkStepSends (.linkRetrainDone c link) c link
      { k with st := .up, attempts := 0, replay := satAdd k.replay k.replayBuf.length } (k.replayBuf.map (k.frameOut c link)) 0 s) ∧
    (k.st = .retrain → k.attempts + 1 < 3 → linkStep (.linkRetrainFail c link) c link { k with attempts := k.attempts + 1 } s)) ∧
  (∀ (c : ChanId) (link : LinkId) (pm : BitVec 14) (pc : BitVec 1) (pl : BitVec 6) (sett : Nat) (ver inv : Bool) (lc : Lifecycle)
    (key : Option Key) (stratum : U8) (s : State),
    let ch := s.ch c
    let k := ch.link link.val
    let fails (i : Instr) (auth : Bool) : Prop := ∃ t, exec i s = .next t ∧
      ((t.ch c).link link.val).st = .failed ∧ ((t.ch c).link link.val).eligible = false ∧ ((t.ch c).link link.val).queue = [] ∧
      (t.ch c).wrn.linkDown = true ∧ (t.ch c).wrn.authFail = (ch.wrn.authFail || auth) ∧ (t.ch c).wrn.reqs = ch.wrn.reqs ∧
      (t.ch c).wrn.routes = ch.wrn.routes ∧ (t.ch c).tsk = ch.tsk ∧ (t.ch c).vec = ch.vec ∧ (t.ch c).mem.sram = ch.mem.sram ∧
      (∀ l : Nat, l ≠ link.val → (t.ch c).link l = ch.link l) ∧ onlyChannelSent c s t
    k.queue = [] →
    (k.st = .training → (isIntra link.val = true → (sett, pl.toNat) = wiring (ch.settIndex c) link.val) → ch.sec.entropyFail = true →
      fails (.linkTrainingDone c link pm pc pl sett) true) ∧
    (k.st = .auth → (ver = false ∨ ch.sec.keys = false ∨ lc ≠ ch.sec.lifecycle ∨ inv = true ∨ ch.sec.dbgLevel = .invasive ∨
      key ≠ ch.sec.settings.domainKey) → fails (.linkAuth c link ver lc key inv stratum) true) ∧
    (k.st = .auth → fails (.linkAuthTimeout c link) true) ∧
    (k.st = .retrain → 3 ≤ k.attempts + 1 → fails (.linkRetrainFail c link) false))

/-- R248: a frame with a bad CRC or an uncorrectable FEC block is counted and answered with NAK; the next frame in sequence is accepted, one out of
sequence is not, and is answered with NAK when frames are missing before it; an acknowledgement frees what it covers, and the link then sends what its credits allow; a NAK sends every
unacknowledged frame again, in order, and the sixteenth in a row sends the link to RETRAIN (R247). -/
def Obligations.FramesInSequenceAreAccepted : Prop :=
  ∀ (c : ChanId) (link : LinkId) (p : Option Packet) (seq ack : BitVec 12) (flags : Byte) (crc : U32) (corr uncorr : Nat) (s : State),
    let ch := s.ch c
    let k := ch.link link.val
    let counted : Link := { k with fecCorr := satAdd k.fecCorr corr, fecUncorr := satAdd k.fecUncorr uncorr }
    let rx := Instr.linkFrameRx c link p seq ack flags crc { corr := corr, uncorr := uncorr }
    let ok := frameOk ((p.map Packet.bytes).getD []) (crc ++ flags ++ ack ++ seq)
    let nak : Out := .nak c link (frameTrailer [] k.txSeq (k.rxSeq - 1) true)
    let freed := counted.acked (ack)
    (k.st ≠ .up → k.st ≠ .auth → exec rx s = .next s) ∧
    ((k.st = .up ∨ k.st = .auth) → (ok = false ∨ 0 < uncorr) → linkStepSent rx c link counted [nak] 0 s) ∧
    ((k.st = .up ∨ k.st = .auth) → ok = true → uncorr = 0 → flags.getLsbD 0 = false →
      (p = none → linkStepSends rx c link freed [] 0 s) ∧
      (p.isSome = true → seq = k.rxSeq → linkStepSends rx c link { freed with rxSeq := k.rxSeq + 1 } [] 0 s) ∧
      (p.isSome = true → seq ≠ k.rxSeq → k.gapBefore (seq) = false → linkStepSends rx c link freed [] 0 s) ∧
      (p.isSome = true → k.gapBefore (seq) = true → linkStepSends rx c link freed [nak] 0 s)) ∧
    ((k.st = .up ∨ k.st = .auth) → ok = true → uncorr = 0 → flags.getLsbD 0 = true → p = none → freed.replayBuf = [] →
      linkStepSends rx c link freed [] 0 s) ∧
    (k.st = .up → ok = true → uncorr = 0 → flags.getLsbD 0 = true → p = none →
      k.replayBuf.findIdx? (fun e => e.1 == ack) = none → k.replayBuf ≠ [] →
      linkStepSends rx c link { counted with
        replay := satAdd k.replay k.replayBuf.length
        st := if k.replayRuns + 1 < 16 then .up else .retrain
        replayRuns := if k.replayRuns + 1 < 16 then k.replayRuns + 1 else 0
        retrains := if k.replayRuns + 1 < 16 then k.retrains else satAdd k.retrains 1
        attempts := if k.replayRuns + 1 < 16 then k.attempts else 0 } (k.replayBuf.map (k.frameOut c link)) 0 s)

/-- R265: fragments of a management message are kept until its last byte has come or its time is up; a fragment that no message can have, one with
another TAG, and a partial message that times out, raise WRN_MGMT_BAD. A link in AUTH brings only messages of authentication (R247).
R267: an ADOPT that fails a check is answered with its code and adopts nothing; a spare that is addressed, with the incarnation next after the
failed module's, takes the identity and the incarnation and raises WRN_ADOPTED (what MR5 extends with is a free value, log entry 37). -/
def Obligations.MgmtMessagesAndAdoption : Prop :=
  (∀ (c : ChanId) (link : LinkId) (f : MgmtFrag) (s : State),
    let ch := s.ch c
    let k := ch.link link.val
    let got := mergeBytes [] f.offset f.bytes
    let hears : Prop := k.st = .up ∨ (k.st = .auth ∧ f.op = 0xC3)
    let start : MgmtPartial := { op := f.op, tag := f.tag, seq := f.seq, total := f.total, got := got }
    (¬ hears → exec (.mgmtFragmentRx c link f) s = .next s) ∧
    (hears → f.bad = true → exec (.mgmtFragmentRx c link f) s = .next (s.setCh c (ch.mgmtBad c))) ∧
    (hears → f.bad = false → k.partMsg = none →
      (got.length < f.total → linkStep (.mgmtFragmentRx c link f) c link { k with partMsg := some start } s) ∧
      (f.total ≤ got.length → linkStep (.mgmtFragmentRx c link f) c link k s)) ∧
    (∀ m : MgmtPartial, hears → f.bad = false → k.partMsg = some m →
      (m.tag = f.tag → m.follows f.seq = true →
        let all := mergeBytes m.got f.offset f.bytes
        (all.length < m.total → linkStep (.mgmtFragmentRx c link f) c link { k with partMsg := some { m with seq := f.seq, got := all } } s) ∧
        (m.total ≤ all.length → linkStep (.mgmtFragmentRx c link f) c link { k with partMsg := none } s)) ∧
      (m.tag ≠ f.tag → got.length < f.total → exec (.mgmtFragmentRx c link f) s =
        .next (s.setCh c ((ch.mgmtBad c).onLink link.val fun x => { x with partMsg := some start })))) ∧
    (k.partMsg = none → exec (.mgmtPartialTimeout c link) s = .next s) ∧
    (k.partMsg.isSome = true →
      exec (.mgmtPartialTimeout c link) s = .next (s.setCh c ((ch.onLink link.val fun x => { x with partMsg := none }).mgmtBad c)))) ∧
  (∀ (c : ChanId) (m : AdoptMsg) (s : State),
    let ch := s.ch c
    let signed : Prop := m.signer.isSome = true ∧ m.signer = ch.sec.settings.domainKey
    let refuses (code : Nat) : Prop := exec (.adopt c m) s =
      .next ((s.setCh c (ch.mgmtBad c)).mgmtAnswer c 0xC2 m.link m.srcModule m.srcChannel code m.newInc.toNat)
    (ch.calibrated = false → exec (.adopt c m) s = .next s) ∧
    (ch.calibrated = true →
      (m.formatOk = false → refuses 4) ∧
      (m.formatOk = true → ¬ signed → refuses 1) ∧
      (m.formatOk = true → signed → m.newInc ≠ (ch.route m.failedId.toNat).inc + 1 → refuses 2) ∧
      (m.formatOk = true → signed → m.newInc = (ch.route m.failedId.toNat).inc + 1 →
        (m.standbyId ≠ ch.chn.moduleId ∨ ch.chn.state ≠ .joined) → refuses 3) ∧
      (m.formatOk = true → signed → m.newInc = (ch.route m.failedId.toNat).inc + 1 → m.standbyId = ch.chn.moduleId →
        ch.chn.state = .joined →
        ∃ t, exec (.adopt c m) s = .next (t.mgmtAnswer c 0xC2 m.link m.srcModule m.srcChannel 0 m.newInc.toNat) ∧
          (t.ch c).chn.moduleId = m.failedId ∧ (t.ch c).wrn.incarnation = m.newInc ∧
          (t.ch c).events = (ch.raise c 0x3008).events ∧ (∀ r : Nat, r ≠ 5 → smGet 0 (t.ch c).sec.mr r = smGet 0 ch.sec.mr r) ∧
          (t.ch c).mem = ch.mem ∧ (t.ch c).tsk = ch.tsk ∧ t.free = s.free + 1 ∧ onlyChannelFree c s t)))

/-- R263, R266: a ROUTE_UPDATE that fails a check is answered with the code of the first that fails and changes no route; one that passes
replaces all its entries at once, sets GEN, and makes the links eligible that carry operations then (here with nothing queued or
outstanding). -/
def Obligations.RouteUpdateAppliesOrRefuses : Prop :=
  ∀ (c : ChanId) (m : RouteUpdateMsg) (s : State),
    let ch := s.ch c
    let signed : Prop := m.signer.isSome = true ∧ m.signer = ch.sec.settings.domainKey
    let refuses (code : Nat) : Prop := exec (.routeUpdate c m) s =
      .next ((s.setCh c (ch.mgmtBad c)).mgmtAnswer c 0xC1 m.link m.srcModule m.srcChannel code m.gen.toNat)
    (ch.calibrated = false → exec (.routeUpdate c m) s = .next s) ∧
    (ch.calibrated = true →
      (m.formatOk = false → refuses 4) ∧
      (m.formatOk = true → ¬ signed → refuses 1) ∧
      (m.formatOk = true → signed → m.gen.toNat ≤ ch.wrn.gen.toNat → refuses 2) ∧
      (m.formatOk = true → signed → ch.wrn.gen.toNat < m.gen.toNat → ch.joined = true →
        (∃ e ∈ selfStates m.entries, e ≠ (ch.chn.moduleId.toNat, c.val)) → refuses 3) ∧
      (m.formatOk = true → signed → ch.wrn.gen.toNat < m.gen.toNat → ch.joined = true → selfStates m.entries = [] →
        ch.wrn.reqs = [] → ch.dma.xfers = [] → ch.tsk.tasks = [] → (∀ l : Nat, (ch.link l).queue = []) →
        ∃ t, exec (.routeUpdate c m) s = .next t ∧ (t.ch c).wrn.gen = m.gen ∧
          (∀ i : Nat, (∀ e ∈ m.entries, e.1.toNat ≠ i) → (t.ch c).route i = ch.route i) ∧
          ((m.entries.map (·.1)).Nodup → ∀ e ∈ m.entries, (t.ch c).route e.1.toNat = e.2) ∧
          (∀ e ∈ (t.ch c).wrn.links, e.2.eligible = (e.2.st == .up || e.2.st == .retrain)) ∧
          (t.ch c).chn = ch.chn ∧ (t.ch c).mem = ch.mem ∧ (t.ch c).tsk = ch.tsk ∧ (t.ch c).events = ch.events ∧
          onlyChannelSent c s t))

/-! ### Domain time (R265) -/

/-- R265: a channel that is not the time root asks its reference once per millisecond; a synchronised one answers on an UP link with its own
time; a RESPONSE tells the stratum of its sender, and nothing else unless that is the reference; one of the reference sets the stratum one below its sender's, and the first accepted message of a channel that is not RUNNING steps the
timestamp by the estimated offset; an ANNOUNCE signed by the domain key with a higher TGEN makes the channel the time root, any other raises
WRN_MGMT_BAD. -/
def Obligations.TimeMessages : Prop :=
  ∀ (c : ChanId) (link : LinkId) (m : TimeMsg) (t4 : U64) (signer : Option Key) (s : State),
    let ch := s.ch c
    let k := ch.link link.val
    let signed : Prop := signer.isSome = true ∧ signer = ch.sec.settings.domainKey
    let told := ch.onLink link.val fun x => { x with peerStratum := m.stratum }
    ((ch.wrn.isRoot = true ∨ ch.clocked = false) → exec (.timeRequestTimer c) s = .next s) ∧
    (ch.wrn.isRoot = false → ch.clocked = true → ch.timeRef = some link →
      exec (.timeRequestTimer c) s = .next (s.sendTime c link 0 { ch.timeMsg with t1 := ch.beat.time })) ∧
    (k.st ≠ .up → exec (.timeRequest c link m) s = .next s ∧ exec (.timeResponse c link m t4) s = .next s) ∧
    (k.st = .up → ch.wrn.stratum = 0xFF → linkStep (.timeRequest c link m) c link { k with peerStratum := m.stratum } s) ∧
    (k.st = .up → ch.wrn.stratum ≠ 0xFF → ∃ t, exec (.timeRequest c link m) s =
        .next (t.sendTime c link 1 { ch.timeMsg with t1 := m.t1, t2 := ch.beat.time, t3 := ch.beat.time }) ∧
      (t.ch c).link link.val = { k with peerStratum := m.stratum } ∧ onlyLink c link s t) ∧
    (k.st = .up → (ch.wrn.isRoot = true ∨ told.timeRef ≠ some link) →
      linkStep (.timeResponse c link m t4) c link { k with peerStratum := m.stratum } s) ∧
    (k.st = .up → ch.wrn.isRoot = false → told.timeRef = some link → m.stratum.toNat < 0xFE → ch.chn.state = .joined → ch.cfg.timeRx = false →
      m.periodUs.toNat = ch.beat.periodUs.toNat →
      ∃ t, exec (.timeResponse c link m t4) s = .next t ∧ (t.ch c).wrn.stratum = m.stratum + 1 ∧ (t.ch c).wrn.tgen = m.tgen ∧
        (t.ch c).wrn.utcSec = m.utcSec ∧ (t.ch c).wrn.utcAt = m.utcAt ∧ (t.ch c).cfg.timeRx = true ∧
        (t.ch c).beat.time = BitVec.ofInt 64 ((ch.beat.time.toNat : Int) + timeOffset m t4) ∧
        ((t.ch c).link link.val).peerStratum = m.stratum ∧ (t.ch c).mem = ch.mem ∧ (t.ch c).tsk = ch.tsk ∧
        (t.ch c).events = ch.events ∧ onlyChannel c s t) ∧
    (ch.calibrated = false → exec (.timeAnnounce c m signer) s = .next s) ∧
    (ch.calibrated = true → (¬ signed ∨ m.tgen.toNat ≤ ch.wrn.tgen.toNat) →
      exec (.timeAnnounce c m signer) s = .next (s.setCh c (ch.mgmtBad c))) ∧
    (ch.chn.state = .joined → signed → ch.wrn.tgen.toNat < m.tgen.toNat → m.periodUs.toNat = ch.beat.periodUs.toNat →
      ∃ t, exec (.timeAnnounce c m signer) s = .next t ∧ (t.ch c).wrn.isRoot = true ∧ (t.ch c).wrn.stratum = 0 ∧
        (t.ch c).wrn.tgen = m.tgen ∧ (t.ch c).beat.time = m.t3 ∧ (t.ch c).wrn.links = ch.wrn.links ∧ (t.ch c).mem = ch.mem ∧
        (t.ch c).tsk = ch.tsk ∧ (t.ch c).events = ch.events ∧ onlyChannel c s t)

/-! ### Registers (R8, R9, R28, R252, R369, R375) -/

/-- R8, R28, R369, R375: who may reach a register, and what an access does. Firmware that does not run makes no access; of firmware, one aligned
8-byte word with a register is read or written, an offset without a register is ADDR_ERR and another length ALIGN_ERR; JTAG at level CLOSED
gets ADDR_ERR outside the SEC block; a Warren write of the SEC block is ADDR_ERR whatever the windows grant. A refused access changes
nothing but REFUSED. -/
def Obligations.RegisterAccessByOrigin : Prop :=
  ∀ (c : ChanId) (l : LinkId) (off len : Nat) (v : U64) (s : State) (r : Reg),
    let ch := s.ch c
    let u := unitOf c
    let tells (i : Instr) (code : CompCode) : Prop := exec i s = .next (s.emit (.csrStatus u code))
    (¬ fwReady s c → exec (.csrWrite u .firmware off len v) s = .next s ∧ exec (.rcRead u .firmware off len) s = .next s) ∧
    (fwReady s c → inMailbox off 8 = false → off % 8 = 0 → regAt off = some r →
      regWrites (.csrWrite u .firmware off 8 v) c s (r.write s c .firmware v) ∧
      exec (.rcRead u .firmware off 8) s =
        .next (((s.onCh c r.clear).tookFree 1).emit (.csrData u (BitVec.ofNat 64 (r.read s c))))) ∧
    (fwReady s c → inMailbox off 8 = false → off % 8 = 0 → regAt off = none →
      tells (.csrWrite u .firmware off 8 v) .addrErr ∧ tells (.rcRead u .firmware off 8) .addrErr) ∧
    (fwReady s c → inMailbox off 4 = false → off % 8 = 0 → regAt off = some r →
      tells (.csrWrite u .firmware off 4 v) .alignErr ∧ tells (.rcRead u .firmware off 4) .alignErr) ∧
    (s.jtagReaches u = true → ch.domain.st ≠ .off → ch.sec.dbgLevel = .closed → off / 0x10000 ≠ 0x0F →
      tells (.csrWrite u .jtag off len v) .addrErr ∧ tells (.rcRead u .jtag off len) .addrErr) ∧
    (s.jtagReaches u = true → ch.domain.st ≠ .off → ch.sec.dbgLevel = .observe → off / 0x10000 ≠ 0x0F →
      tells (.csrWrite u .jtag off len v) .addrErr) ∧
    (s.ptd.failed = true → ∀ n : Fin 3, exec (.csrWrite n .jtag off len v) s = .next s ∧ exec (.rcRead n .jtag off len) s = .next s) ∧
    (s.ptd.hostUp = false → ∀ (n : Fin 3) (qp : Nat), exec (.csrWrite n (.host qp) off len v) s = .next s ∧
      exec (.rcRead n (.host qp) off len) s = .next s) ∧
    (ch.linkCode l true off 8 = .ok → inMailbox off 8 = false → off / 0x10000 = 0x0F →
      ∃ t, exec (.csrWrite u (.warren l) off 8 v) s = .next t ∧ t.out = s.out ++ [.csrStatus u .addrErr] ∧
        t = { s.setCh c { ch with wrn := { ch.wrn with refused := satAdd ch.wrn.refused 1 } } with out := t.out })

/-- R52, R8: a read of BEAT_CNT returns its counts and clears them; a write of BEAT_CTRL sets OVR_LIMIT, URGENT_PCT and BEATREF_EN, and RESUME waits
for the next boundary; WRN_LINK.RESTART starts training of a FAILED link alone (R247). -/
def Obligations.BeatAndLinkControls : Prop :=
  ∀ (c : ChanId) (link : LinkId) (v : U64) (s : State),
    let ch := s.ch c
    let u := unitOf c
    fwReady s c →
    exec (.rcRead u .firmware 0x010028 8) s = .next (({ s.setCh c { ch with beat :=
        { ch.beat with creditStall := 0, defer := 0, overrun := 0 } } with free := s.free + 1 }).emit (.csrData u (BitVec.ofNat 64
          (ch.beat.creditStall.toNat * 2 ^ 48 + ch.beat.defer.toNat * 2 ^ 32 + ch.beat.overrun.toNat * 2 ^ 16 + b2n ch.beat.paused)))) ∧
    regWrites (.beatResume c .firmware v) c s (s.setCh c { ch with beat := { ch.beat with
      ovrLimit := BitVec.ofNat 8 (bits v 31 24), urgentPct := BitVec.ofNat 8 (bits v 23 16), beatrefEn := bit v 1
      resume := ch.beat.resume || bit v 0 } }) ∧
    ((ch.link link.val).st = .failed → ∃ t, regWrites (.wrnLinkRestart c .firmware link) c s t ∧
      (t.ch c).link link.val = { ch.link link.val with st := .training } ∧ t.out = s.out ++ [.training c link ch.wrn.slot] ∧
      onlyLink c link { s with out := t.out } t) ∧
    ((ch.link link.val).st ≠ .failed → regWrites (.wrnLinkRestart c .firmware link) c s s)

/-! ### Beats (R33 to R37, R41, R49, R50, R52) -/

/-- R33: at a boundary of a clocked channel the beat number advances by one, and the shared supply and the queue are as before; a channel whose
clocks do not run has no boundary. R37: the lead-in window opens only in a RUNNING channel with a lead-in share. R19, R21, R35: an edge of BEATREF_IN
reaches both channels unless the port die is lost; a clocked channel judges it only while BEATREF_EN is set and within ±1 µs; within ±40 ns it
sets the offset to correct and raises nothing, beyond it raises BEAT_ALIGN_WARN. -/
def Obligations.BeatBoundaryAndEdges : Prop :=
  ∀ (c : ChanId) (d0 d1 : Int) (s : State),
    let ch := s.ch c
    let met (e : ChanId) (d : Int) : Channel :=
      let k := s.ch e
      let edge : Channel := { k with beat := { k.beat with
        edgeSeen := true, offset := d, errNs := errNsOf d, inBand := k.beat.inBand && offInBand d } }
      if k.clocked = false ∨ k.beat.beatrefEn = false ∨ offInCapture d = false then k
      else if offInBand d then edge else edge.raise e 0x4003
    (ch.clocked = false → exec (.beatBoundary c) s = .next s) ∧
    (ch.clocked = true → ∃ t, exec (.beatBoundary c) s = .next t ∧ (t.ch c).beat.number = ch.beat.number + 1 ∧ t.sup = s.sup ∧
      t.pending = s.pending) ∧
    (ch.running = true → ch.beat.leadinPct ≠ 0 →
      exec (.leadinWindowStart c) s = .next (s.setCh c { ch with beat := { ch.beat with leadin := true } })) ∧
    ((ch.running = false ∨ ch.beat.leadinPct = 0) → exec (.leadinWindowStart c) s = .next s) ∧
    (s.ptd.failed = true → exec (.beatrefEdge d0 d1) s = .next s) ∧
    (s.ptd.failed = false → exec (.beatrefEdge d0 d1) s = .next { s with ch0 := met 0 d0, ch1 := met 1 d1 })

/-- R36, R39, R49, R50, R53, R319: BEAT_ADMISSION runs once in a beat of a RUNNING channel. With nothing offered it leaves only the sampled task
counts. One offered task that its budget can pay and whose queue has a credit takes the lowest free slot of its core, READY, with its credit,
and is charged: foreground work to the budget, background work to the reserve, urgent work to the slice, its overflow of the reserve to the
budget; where its descriptor is refused it is counted in BAD_DESC and takes no slot, credit or energy, also where the shares of an open budget only
counted it (log entry 55). One that is neither paid nor refused stays offered. -/
def Obligations.BeatAdmissionTakesWork : Prop :=
  ∀ (c : ChanId) (o : Offer) (r : Nat × Option Nat) (s : State),
    let ch := s.ch c
    let quiet : Prop := ch.running = true ∧ ch.beat.admitted = false ∧ ch.planOffers = [] ∧ ch.tsk.tasks = []
    let due : Prop := ch.tsk.offers = [o] ∧ o.beat ≤ ch.beat.number.toNat ∧ ch.holds o = false
    let q := o.desc.creditQ.toNat
    let n0 := ch.charge o.desc
    let room := ch.reserveNow - ch.ledg.bgAdmitted
    let credit : Prop := o.desc.producer = true → 0 < (smGet {} ch.tsk.credits q).available.toNat
    let paid : Prop := match o.kind with
      | .foreground => 0 < ch.ledg.admissible ∧ (ch.ledg.admitted + n0 : Int) ≤ ch.ledg.admissible
      | .background => n0 ≤ room
      | .urgent => ch.ledg.urgentAdmitted + n0 ≤ ch.slice
    let counted : Prop := paid ∨ (o.kind = .foreground ∧ 0 < ch.ledg.admissible ∧ o.secondChance = false)
    ((ch.running = false ∨ ch.beat.admitted = true) → exec (.beatAdmission c) s = .next s) ∧
    (quiet → ch.tsk.offers = [] → ∃ t, exec (.beatAdmission c) s = .next t ∧ t = s.setCh c { ch with
      beat := { ch.beat with admitted := true }, tsk := { ch.tsk with sample := (t.ch c).tsk.sample } } ∧
      (∀ l : LCore, smGet {} (t.ch c).tsk.sample l.val = {})) ∧
    (quiet → due → counted → credit → ch.refusal o = some r → ∃ t, exec (.beatAdmission c) s = .next t ∧ (t.ch c).tsk.tasks = [] ∧
      (t.ch c).tsk.offers = [] ∧ (t.ch c).tsk.badDesc = satAdd ch.tsk.badDesc 1 ∧ (t.ch c).events = (ch.raise c r.1).events ∧
      (t.ch c).beat.admitted = true ∧ (t.ch c).mem = ch.mem ∧ (t.ch c).vec = ch.vec ∧ (t.ch c).ledg = ch.ledg ∧
      (t.ch c).tsk.credits = ch.tsk.credits ∧ onlyChannel c s t) ∧
    (∀ n : Nat, quiet → due → paid → credit → ch.refusal o = none → o.core < 128 → o.desc.dep = false → ch.execOf o.desc = some n →
      n ≠ 0 → n ≠ 2 →
      ∃ t k, exec (.beatAdmission c) s = .next t ∧ (t.ch c).tsk.tasks = [k] ∧ k.core = o.core ∧ k.slot = 0 ∧ k.desc = o.desc ∧
        k.st = .ready ∧ k.exec = n ∧ k.step = o.step.getD ch.upd.sJob ∧ (t.ch c).tsk.offers = [] ∧ (t.ch c).beat.admitted = true ∧
        (o.kind = .foreground → (t.ch c).ledg = { ch.ledg with admitted := ch.ledg.admitted + n0 }) ∧
        (o.kind = .background → (t.ch c).ledg = { ch.ledg with bgAdmitted := ch.ledg.bgAdmitted + n0 }) ∧
        (o.kind = .urgent → (t.ch c).ledg = { ch.ledg with
          urgentAdmitted := ch.ledg.urgentAdmitted + n0
          bgAdmitted := ch.ledg.bgAdmitted + min n0 room
          admitted := ch.ledg.admitted + (n0 - room) }) ∧
        (∀ m : Nat, smGet {} (t.ch c).tsk.credits m = (if o.desc.producer = true ∧ m = q then
          { smGet {} ch.tsk.credits m with available := (smGet {} ch.tsk.credits m).available - 1 } else smGet {} ch.tsk.credits m)) ∧
        (t.ch c).mem = ch.mem ∧ (t.ch c).vec = ch.vec ∧ (t.ch c).events = ch.events ∧ onlyChannel c s t) ∧
    (quiet → due → ¬ paid → (counted → ch.refusal o = none) → credit → 0 < n0 → ∃ t o', exec (.beatAdmission c) s = .next t ∧
      (t.ch c).tsk.tasks = [] ∧ (t.ch c).tsk.offers = [o'] ∧ o'.desc = o.desc ∧ o'.core = o.core ∧ o'.secondChance = (o.kind == .foreground) ∧ o'.missed = o.desc.isBg ∧
      (t.ch c).ledg = { ch.ledg with
        energyDefer := if o.kind = .foreground then satAdd ch.ledg.energyDefer 1 else ch.ledg.energyDefer } ∧
      (t.ch c).beat.defer = satAdd ch.beat.defer 1 ∧ (t.ch c).events = ch.events ∧ (t.ch c).tsk.credits = ch.tsk.credits ∧
      (t.ch c).mem = ch.mem ∧ onlyChannel c s t)

/-! ### Squirrel: regions, pages and frames (R168 to R193) -/

/-- R170, R179, R182: KV_OPEN makes the region LIVE with every page invalid, or faults (KV_REGION); KV_RELEASE of a LIVE region that is no transit
region leaves it closed with every page invalid (log entry 26); KV_SHARE copies the PTEs of shared pages and counts each copy at its
frame, or faults (KV_SHARE). Every other region and page stays. R43: release and share of a task commit it, and wait for its COMPLETE. -/
def Obligations.KvRegionOperations : Prop :=
  ∀ (c : ChanId) (owner : Option (LCore × Nat)) (r layer pool pages seq src dst first count base : Nat) (s : State),
    let ch := s.ch c
    let others (t : State) (k : Nat) : Prop := ∀ x p : Nat, x ≠ k → p < 2 ^ 18 →
      (t.ch c).region x = ch.region x ∧ (t.ch c).pte x p = ch.pte x p
    (ch.openPlace r pool pages = some base → ∃ t, exec (.kvOpen c owner r layer pool pages seq) s = .next t ∧
      (t.ch c).region r = { pteBase := BitVec.ofNat 40 base, pool := BitVec.ofNat 8 pool, live := true, layer := BitVec.ofNat 8 layer
                            maxPages := BitVec.ofNat 32 pages, seq := BitVec.ofNat 32 seq } ∧
      (∀ p : Nat, p < pages → (t.ch c).pte r p = {}) ∧ others t r ∧ (t.ch c).sql.hbm = ch.sql.hbm ∧ (t.ch c).sql.back = ch.sql.back ∧
      onlySquirrel c none s t) ∧
    (ch.openPlace r pool pages = none → exec (.kvOpen c none r layer pool pages seq) s = .next (s.setCh c (ch.kvFaulted c 0x5008))) ∧
    (ch.transitPool? r = none → (ch.region r).live = true → ∃ t, exec (.kvRelease c none r) s = .next t ∧
      (t.ch c).region r = {} ∧ (∀ p : Nat, p < 2 ^ 18 → (t.ch c).pte r p = {}) ∧ others t r ∧
      (ch.validPtes r = [] → (t.ch c).sql.hbm = ch.sql.hbm ∧ (t.ch c).sql.back = ch.sql.back) ∧ onlySquirrel c none s t) ∧
    ((ch.transitPool? r ≠ none ∨ (ch.region r).live = false) →
      exec (.kvRelease c none r) s = .next (s.setCh c (ch.kvFaulted c 0x5008))) ∧
    (ch.mayShare src dst first count = true → first + count ≤ 2 ^ 18 → ∃ t, exec (.kvShare c none src dst first count) s = .next t ∧
      (∀ i : Nat, i < count → (t.ch c).pte dst (first + i) = ch.pte src (first + i)) ∧
      (∀ f : Nat, ((t.ch c).hbmFrame f).refcount.toNat =
        (ch.hbmFrame f).refcount.toNat + countIf (fun i => (ch.pte src (first + i)).frame.toNat == f) (List.range count)) ∧
      others t dst ∧ (t.ch c).sql.back = ch.sql.back ∧ onlySquirrel c none s t) ∧
    (ch.mayShare src dst first count = false →
      exec (.kvShare c none src dst first count) s = .next (s.setCh c (ch.kvFaulted c 0x5006))) ∧
    (∀ o : LCore × Nat, owner = some o →
      let takes (a : KvAct) : Channel := (ch.commit owner).onTask o.1.val o.2 fun t => { t with kvActs := t.kvActs ++ [a] }
      (ch.transitPool? r = none → (ch.region r).live = true →
        exec (.kvRelease c owner r) s = .next (s.setCh c (takes (.release r)))) ∧
      (ch.mayShare src dst first count = true →
        exec (.kvShare c owner src dst first count) s = .next (s.setCh c (takes (.share src dst first count))))) ∧
    (∀ (k : Task) (o : LCore × Nat), owner = some o → ch.task? o.1.val o.2 = some k → ch.dma.xfers = [] →
      k.core = o.1.val → k.slot = o.2 →
      ((ch.transitPool? r ≠ none ∨ (ch.region r).live = false) → faultsTask (.kvRelease c owner r) c o.1.val o.2 0x5008 s) ∧
      (ch.openPlace r pool pages = none → faultsTask (.kvOpen c owner r layer pool pages seq) c o.1.val o.2 0x5008 s) ∧
      (ch.mayShare src dst first count = false → faultsTask (.kvShare c owner src dst first count) c o.1.val o.2 0x5006 s))

/-- R182 to R184, R189, R190: the walk of a page list of one entry, once every task admitted before has been walked. A page of a region that is not LIVE, or beyond it, faults the task (KV_REGION), and so
does a lost page (BACK_LOST); a page that is not valid, or whose frame can take no more pins, makes the task wait; a resident page is pinned once
more and its LAST_USE is this beat; so is the frame of a page that is written in place. A task that waits for no pages has no walk. -/
def Obligations.PageWalkPinsOrWaits : Prop :=
  ∀ (c : ChanId) (core : LCore) (slot : Nat) (k : Task) (e : PageEntry) (s : State),
    let ch := s.ch c
    let r := e.region.toNat
    let p := e.page.toNat
    let pte := ch.pte r p
    let f := pte.frame.toNat
    let reg := ch.region r
    let known : Prop := reg.live = true ∧ p < reg.maxPages.toNat
    ch.task? core.val slot = some k →
    ((k.waitPages = false ∨ ch.sql.walk = true ∨ ch.walkBehind k = true) → exec (.pageWalk c core slot) s = .next s) ∧
    (k.waitPages = true → ch.sql.walk = false → ch.walkBehind k = false → ch.pageList k.desc = [e] →
      (¬ known → ch.dma.xfers = [] → faultsTask (.pageWalk c core slot) c core.val slot 0x5008 s) ∧
      (known → ch.sql.lost.contains (r, p) = true → ch.dma.xfers = [] → faultsTask (.pageWalk c core slot) c core.val slot 0x5007 s) ∧
      (known → ch.sql.lost.contains (r, p) = false → e.isWrite = false → ch.holdsRead k e = false → ch.joinSlot k e = none →
        (pte.valid = false → exec (.pageWalk c core slot) s = .next (s.setCh c (ch.walkEnds core.val slot .page))) ∧
        (pte.valid = true → pte.tier ≠ 1 → pte.tier ≠ 2 → ch.pinFull f = true →
          exec (.pageWalk c core slot) s = .next (s.setCh c (ch.walkEnds core.val slot .walk))) ∧
        (∀ pool : Pool, pte.valid = true → pte.tier ≠ 1 → pte.tier ≠ 2 → ch.pinFull f = false → ch.poolOf true f = some pool → p < 2 ^ 18 →
          ∃ t, exec (.pageWalk c core slot) s = .next t ∧ ((t.ch c).hbmFrame f).pins = (ch.hbmFrame f).pins + 1 ∧
            (t.ch c).pte r p = { pte with lastUse := ch.beat16 } ∧ (t.ch c).mem = ch.mem ∧ (t.ch c).events = ch.events ∧
            (∀ n : Nat, n ≠ f → ((t.ch c).hbmFrame n).pins = (ch.hbmFrame n).pins) ∧ ch.otherTasks core.val slot (t.ch c) ∧
            onlyChannel c s t)) ∧
      (∀ pool : Pool, known → ch.sql.lost.contains (r, p) = false → e.isWrite = true → ch.sql.writes = [] → pte.valid = true → pte.tier = 0 →
        ch.pinFull f = false → ch.poolOf true f = some pool → p < 2 ^ 18 →
        ∃ t w, exec (.pageWalk c core slot) s = .next t ∧ ((t.ch c).hbmFrame f).pins = (ch.hbmFrame f).pins + 1 ∧
          (t.ch c).pte r p = { pte with lastUse := ch.beat16 } ∧ (t.ch c).sql.writes = [w] ∧ w.core = k.core ∧ w.taskSlot = k.slot ∧
          w.region = r ∧ w.page = p ∧ w.frame = f ∧ w.source = none ∧ w.fmt = e.fmt ∧ (t.ch c).mem = ch.mem ∧
          (t.ch c).events = ch.events ∧ (∀ n : Nat, n ≠ f → ((t.ch c).hbmFrame n).pins = (ch.hbmFrame n).pins) ∧
          ch.otherTasks core.val slot (t.ch c) ∧ onlyChannel c s t))

/-- R172, R186: a slot that is filled, or that no core uses, is left as it is; one whose descriptors name a frame that has been reused sets STALE and
raises KV_STALE; a slot with one page copies that page's planes from its frame on clean memory, and every other byte of core SRAM stays.
R180, R181: the first write of a task to a page under copy on write copies the source frame into the reserved one, counts in SQL_COW, and commits
the task; every byte of HBM outside the new frame stays. Without such a declaration nothing changes. -/
def Obligations.SlotFillAndCowCopyFrames : Prop :=
  (∀ (c : ChanId) (core : LCore) (slot : Nat) (k : KvSlot) (d : PageDesc) (s : State),
    let ch := s.ch c
    let found := ch.sql.slots.find? fun x => x.core == core.val && x.slot == slot
    let users := ch.tsk.tasks.filter fun t => t.core == k.core && k.users.contains t.slot
    let stale : Bool := k.descs.any fun d => d.epoch != (ch.hbmFrame d.frame.toNat).epoch
    (found = none → exec (.slotFill c core slot) s = .next s) ∧
    (found = some k → k.filled = true → exec (.slotFill c core slot) s = .next s) ∧
    (found = some k → k.filled = false → stale = true → users = [] →
      exec (.slotFill c core slot) s = .next (s.setCh c ({ ch with sql := { ch.sql with stale := true } }.raise c 0x5004))) ∧
    (∀ (t0 : Task) (p : Pool) (pl : Planes), found = some k → k.filled = false → k.descs = [d] → stale = false →
      users.head? = some t0 → ch.pool? d.pool.toNat = some p → ch.planesOf t0 d.region.toNat p = some pl → ch.mem.hbmPoison = [] → ch.mem.hbmErr = [] →
      let base := ch.slotBase k.core k.slot pl
      let put := pageToSlot pl (d.slot.toNat % 4) (fmtElemBits (d.fmt.toNat % 16)) (fmtElemBits (d.fmt.toNat / 16)) (ch.hbmBytes d.frameAddr.toNat pl.pageBytes)
      let q := ch.pcore k.core
      ∃ t, exec (.slotFill c core slot) s = .next t ∧
        (∀ x : Nat, (∀ e ∈ put, x < sramAt q (base + e.1) ∨ sramAt q (base + e.1) + e.2.length ≤ x) →
          smGet 0 (t.ch c).mem.sram x = smGet 0 ch.mem.sram x) ∧
        (ch.mem.sramPoison = [] → disjointStores put → ∀ e ∈ put, (t.ch c).sramBytes q (base + e.1) e.2.length = e.2) ∧
        (∀ x ∈ (t.ch c).sql.slots, x.core = k.core → x.slot = k.slot → x.filled = true) ∧
        (t.ch c).mem.hbm = ch.mem.hbm ∧ (t.ch c).cxl = ch.cxl ∧ (t.ch c).events = ch.events ∧ (t.ch c).vec = ch.vec ∧ onlyChannel c s t)) ∧
  (∀ (c : ChanId) (core : LCore) (slot region page src : Nat) (k : Task) (s : State),
    let ch := s.ch c
    let decl := ch.sql.writes.find? fun w => declOf k w && w.region == region && w.page == page && w.source.isSome && !w.copied
    ch.task? core.val slot = some k →
    (decl = none → exec (.cowFirstWrite c core slot region page) s = .next s) ∧
    (∀ (w : WriteDecl) (sp tp : Pool), decl = some w → w.source = some src → ch.poolOf true src = some sp →
      ch.poolOf true w.frame = some tp → ch.mem.hbmPoison = [] → ch.mem.hbmErr = [] →
      let n := min sp.frameKib.toNat tp.frameKib.toNat * 1024
      ∃ t, exec (.cowFirstWrite c core slot region page) s = .next t ∧
        (t.ch c).hbmBytes (tp.frameAddr w.frame) n = ch.hbmBytes (sp.frameAddr src) n ∧
        (∀ x : Nat, (x < tp.frameAddr w.frame ∨ tp.frameAddr w.frame + n ≤ x) → smGet 0 (t.ch c).mem.hbm x = smGet 0 ch.mem.hbm x) ∧
        (t.ch c).sql.cow = satAdd ch.sql.cow 1 ∧ (t.ch c).mem.sram = ch.mem.sram ∧
        t = s.setCh c { ch with
          mem := { ch.mem with hbm := (t.ch c).mem.hbm }
          sql := { ch.sql with cow := (t.ch c).sql.cow, writes := (t.ch c).sql.writes }
          tsk := (ch.commit (some (core, slot))).tsk }))

/-- R177, R190: a spill that completes leaves the HBM frame FREE under a new EPOCH, the backing frame SPILLED, and the page's PTE naming it; a fetch
that completes leaves the HBM frame ACTIVE, the backing frame FREE, and the PTE naming it with the beat of its first use. On the CXL tier the frame's bytes
are copied. A REMOTE fetch under another incarnation loses the page (BACK_LOST).
R176, R188: the sweep ages LAST_USE so that no age passes 32,768 beats; prefetch starts the fetch of a page of the next beat's plan that lies in a
CXL frame, into a free frame of its home pool (here one page, AHEAD 1). In WALK mode neither runs. -/
def Obligations.PagesMoveBetweenTiers : Prop :=
  (∀ (c : ChanId) (f : Nat) (inc : U16) (m : Move) (bp hp : Pool) (s : State),
    let ch := s.ch c
    let n := bp.frameKib.toNat * 1024
    let a := bp.frameAddr m.backFrame
    let h := hp.frameAddr f
    let rest (t : State) : Prop := (∀ x p : Nat, p < 2 ^ 18 → (x ≠ m.region ∨ p ≠ m.page) → (t.ch c).pte x p = ch.pte x p) ∧
      (∀ x : Nat, x ≠ f → (t.ch c).hbmFrame x = ch.hbmFrame x) ∧ (∀ x : Nat, x ≠ m.backFrame → (t.ch c).backFrame x = ch.backFrame x) ∧
      (t.ch c).mem.sram = ch.mem.sram ∧ (t.ch c).tsk = ch.tsk ∧ (t.ch c).events = ch.events ∧ onlyChannel c s t
    ch.poolOf false m.backFrame = some bp → ch.poolOf true f = some hp → m.retry = [] → m.page < 2 ^ 18 →
    (ch.sql.spills.find? (fun x => x.hbmFrame == f) = some m → (∀ r ∈ ch.wrn.reqs ++ ch.wrn.waiting, r.owner ≠ .spill f) →
      (bp.tier ≠ 2 → ∀ q ∈ ch.cxlPortsOf a n, (ch.cxlPort q).isUp = true) →
      ∃ t, exec (.spillCopyDone c f) s = .next t ∧ (t.ch c).hbmFrame f = (ch.hbmFrame f).toFree ∧
        (t.ch c).backFrame m.backFrame = { ch.backFrame m.backFrame with st := .spilled } ∧
        (t.ch c).pte m.region m.page = { ch.pte m.region m.page with tier := m.backTier, frame := BitVec.ofNat 36 m.backFrame } ∧
        (t.ch c).sql.spilled = wrapAdd ch.sql.spilled 1 ∧ (t.ch c).mem.hbm = ch.mem.hbm ∧
        (bp.tier ≠ 2 → (t.ch c).cxlBytes a n = ch.hbmBytes h n) ∧
        (∀ x : Nat, (x < a ∨ a + n ≤ x) → smGet 0 (t.ch c).cxl.mem x = smGet 0 ch.cxl.mem x) ∧ (bp.tier = 2 → (t.ch c).cxl.mem = ch.cxl.mem) ∧ rest t) ∧
    (ch.sql.fetches.find? (fun x => x.hbmFrame == f) = some m → (∀ r ∈ ch.wrn.reqs ++ ch.wrn.waiting, r.owner ≠ .fetch f) →
      (bp.tier = 2 → smGet 0 ch.sql.incs m.backFrame ≠ inc → exec (.fetchCopyDone c f inc) s = .next (s.setCh c (ch.pageLost c m))) ∧
      (m.released = false → (bp.tier = 2 → smGet 0 ch.sql.incs m.backFrame = inc) →
        (bp.tier ≠ 2 → ch.cxl.poison = [] ∧ ch.mem.hbmPoison = [] ∧ ∀ q ∈ ch.cxlPortsOf a n, (ch.cxlPort q).isUp = true) →
        ∃ t, exec (.fetchCopyDone c f inc) s = .next t ∧ (t.ch c).hbmFrame f = { ch.hbmFrame f with st := .active } ∧
          (t.ch c).backFrame m.backFrame = (ch.backFrame m.backFrame).toFree ∧
          (t.ch c).pte m.region m.page = { ch.pte m.region m.page with
            tier := 0, frame := BitVec.ofNat 36 f, lastUse := BitVec.ofNat 16 m.useBeat } ∧
          (t.ch c).sql.fetched = wrapAdd ch.sql.fetched 1 ∧ (t.ch c).cxl.mem = ch.cxl.mem ∧
          (bp.tier ≠ 2 → (t.ch c).hbmBytes h n = ch.cxlBytes a n) ∧
          (∀ x : Nat, (x < h ∨ h + n ≤ x) → smGet 0 (t.ch c).mem.hbm x = smGet 0 ch.mem.hbm x) ∧ (bp.tier = 2 → (t.ch c).mem.hbm = ch.mem.hbm) ∧ rest t))) ∧
  (∀ (c : ChanId) (r p f : Nat) (e : Nat × Bool × TaskDesc) (home bp : Pool) (s : State),
    let ch := s.ch c
    let pte := ch.pte r p
    let n := pte.frame.toNat
    let b := ch.backFrame n
    (ch.sql.walk = true → exec (.lastUseSweep c) s = .next s ∧ exec (.prefetch c) s = .next s) ∧
    (ch.sql.walk = false → exec (.lastUseSweep c) s = .next (s.setCh c { ch with sql := { ch.sql with ptes := ch.sql.ptes.map fun x =>
      if 32768 < (ch.beat16 - x.2.lastUse).toNat then (x.1, { x.2 with lastUse := ch.beat16 - 32768 }) else x } })) ∧
    (ch.running = false → exec (.prefetch c) s = .next s) ∧
    (ch.sql.walk = false → ch.running = true → ch.sql.ahead = 1 → ch.planOf (ch.beat.number.toNat + 1) = [e] →
      ch.namedPages e.2.2 = [(r, p)] → ch.sql.fetchedNow < ch.sql.prefetchMax.toNat → pte.valid = true → pte.tier = 1 →
      ch.sql.lost.contains (r, p) = false → b.st = .spilled → ch.homePool? b.owner.toNat = some home → ch.freeFrame? home = some f →
      ch.poolOf false n = some bp → ch.poolOf true f = some home → bp.tier ≠ 2 →
      ∃ t, exec (.prefetch c) s = .next t ∧ (t.ch c).hbmFrame f = { ch.hbmFrame f with
          st := .fetching, refcount := 1, pins := 0, owner := b.owner, page := b.page, pool := home.pool } ∧
        (t.ch c).backFrame n = { b with st := .fetching } ∧
        (t.ch c).sql.fetches = ch.sql.fetches ++
          [{ hbmFrame := f, backFrame := n, backTier := pte.tier, region := r, page := p, useBeat := ch.beat.number.toNat + 1 }] ∧
        (t.ch c).sql.fetchedNow = ch.sql.fetchedNow + 1 ∧ (t.ch c).sql.ptes = ch.sql.ptes ∧
        t = s.setCh c { ch with sql := (t.ch c).sql }))

/-! ### Command rings, doorbells and event records (R379, R380, R385 to R389) -/

/-- R385, R386: a command of a ring is met only as the oldest that has not completed, under its own opcode, and by a channel that is not DEAD. NOP
completes; a key-value command does what the operation of its name does for no task, and completes with 0 or the fault's code; without a
stream it completes with HOST_CMD_BAD; STEP hands over the step descriptor, and completes with 0 or STEP_BAD. -/
def Obligations.RingCommandsComplete : Prop :=
  ∀ (c : ChanId) (ring : Fin 8) (x : RingCmd) (s : State),
    let ch := s.ch c
    let b := x.entry.body
    let op := x.entry.opcode.toNat
    let met : Prop := ch.ringHead ring.val = some x ∧ ch.dead = false
    let fin (i : Instr) (t : State) (code : Nat) : Prop := exec i s = .next (t.setCh c ((t.ch c).finishCmd c x code))
    let kvOpen := Instr.kvOpen c none (natAt b 0 3) (natAt b 4 1) (natAt b 3 1) (natAt b 8 4) (natAt b 12 4)
    let kvRelease := Instr.kvRelease c none (natAt b 0 3)
    let kvShare := Instr.kvShare c none (natAt b 0 3) (natAt b 4 3) (natAt b 8 4) (natAt b 12 4)
    let live : Prop := ch.pss.stream.isSome = true ∧ ch.running = true
    let sJob : U32 := BitVec.ofNat 32 (natAt b 0 4)
    let restart : Bool := natAt b 4 1 % 2 == 1
    let epoch : U16 := BitVec.ofNat 16 (natAt b 6 2)
    let good : Prop := natAt b 4 1 < 2 ∧ isZero b 5 1 = true ∧ isZero b 8 24 = true ∧ sJob ≠ 0
    let s1 := if restart then s.discardAhead c else s
    let ch1 := s1.ch c
    let counters := if restart then ch1.restoredCounters c else ch.upd.tState
    (ch.ringHead ring.val = none → exec (.cmdNop c ring) s = .next s ∧ exec (.cmdStep c ring) s = .next s ∧
      exec (.cmdKvOpen c ring) s = .next s ∧ exec (.cmdKvRelease c ring) s = .next s ∧ exec (.cmdKvShare c ring) s = .next s) ∧
    (met → op = 5 → fin (.cmdNop c ring) s 0) ∧
    (met → ch.pss.stream = none → (op = 2 → fin (.cmdKvOpen c ring) s 0xA005) ∧ (op = 3 → fin (.cmdKvRelease c ring) s 0xA005) ∧
      (op = 4 → fin (.cmdKvShare c ring) s 0xA005)) ∧
    (met → live →
      (op = 2 → ∃ t, exec kvOpen s = .next t ∧ fin (.cmdKvOpen c ring) t
        (if (ch.openPlace (natAt b 0 3) (natAt b 3 1) (natAt b 8 4)).isSome then 0 else 0x5008)) ∧
      (op = 3 → ∃ t, exec kvRelease s = .next t ∧ fin (.cmdKvRelease c ring) t
        (if ch.transitPool? (natAt b 0 3) = none ∧ (ch.region (natAt b 0 3)).live = true then 0 else 0x5008)) ∧
      (op = 4 → ∃ t, exec kvShare s = .next t ∧ fin (.cmdKvShare c ring) t
        (if ch.mayShare (natAt b 0 3) (natAt b 4 3) (natAt b 8 4) (natAt b 12 4) then 0 else 0x5006))) ∧
    (met → op = 1 → good → ch.upd.inStep = false → (restart = true ∨ sJob.toNat = ch.upd.lastCommit.toNat + 1) →
      epoch = ch.gxc.epoch → ({ ch with upd := { ch.upd with tState := counters } } : Channel).skewed sJob.toNat = [] → ch.upd.sched = true →
      ∃ k : Channel, exec (.cmdStep c ring) s = .next (s1.setCh c (k.finishCmd c x 0)) ∧ k.upd.inStep = true ∧ k.upd.sJob = sJob ∧
        (∀ n : Nat, n < ch.updGroups.length → smGet 0 k.upd.latched n = ch.stepSize true sJob.toNat n) ∧
        k.gxc.actDeadline = ch.gxc.deadline ∧ k.gxc.actCheckEn = ch.gxc.checkEn ∧ k.gxc.actLate = ch.gxc.late ∧ k.gxc.buckets = [] ∧
        k.gxc.retained = (if restart then [] else ch.gxc.retained) ∧ k.upd.tState = counters ∧ k.upd.barred = false ∧
        k.upd.lastCommit = ch.upd.lastCommit ∧ k = { ch1 with upd := k.upd, gxc := k.gxc, beat := k.beat }) ∧
    (met → op = 1 → good → ch.upd.inStep = true → ch.upd.pending = none → restart = false → sJob.toNat = ch.upd.sJob.toNat + 1 →
      exec (.cmdStep c ring) s = .next (s.setCh c (({ ch with upd := { ch.upd with
        pending := some { sJob := sJob, restart := restart, epoch := epoch } } } : Channel).finishCmd c x 0))) ∧
    (met → op = 1 → ¬ good → exec (.cmdStep c ring) s =
      .next (s.setCh c ((({ ch with upd := { ch.upd with stepBad := true } } : Channel).raiseStep c 0x6002).finishCmd c x 0x6002)))

/-- R379, R380, R385: writes by channel firmware. SET of an outbound doorbell sets bits, and a bit that turns to 1 unmasked, of those that post,
posts DB_RAISED with the doorbell's value; SET of an inbound one is refused and counted; CLR clears bits; clearing a mask over a set bit notifies. A ring's
PI is taken unless it names more entries than the ring holds. Nothing else changes. -/
def Obligations.DoorbellAndRingWrites : Prop :=
  ∀ (c : ChanId) (g : Fin 4) (ring : Fin 8) (v : U32) (w : U64) (s : State),
    let ch := s.ch c
    let d := ch.db g.val
    let used := v &&& usedBits g.val
    let posts (k : Channel) (note : U32) : List EvRec := if note &&& 0xFF00FFFF = 0 then k.events else
      k.events ++ [mkEvent 0xA006 (chanSrc c) ch.evBeat (some ((k.db g.val).val.toNat + if g.val = 3 then 2 ^ 32 else 0)) 0]
    let r := ch.ring ring.val
    let pi : U16 := BitVec.ofNat 16 (bits w 15 0)
    let outbound : Prop := g.val = 1 ∨ g.val = 3
    fwReady s c →
    (outbound → ∃ t, regWrites (.dbSet c .firmware g v) c s t ∧ (t.ch c).db g.val = { d with val := d.val ||| used } ∧
      (t.ch c).events = posts { t.ch c with events := ch.events } (used &&& ~~~d.val &&& ~~~d.mask) ∧
      t = s.setCh c { ch with mbx := ch.mbx.onDb g.val fun _ => (t.ch c).db g.val, events := (t.ch c).events }) ∧
    (¬ outbound → regWrites (.dbSet c .firmware g v) c s
      (s.setCh c { ch with mbx := { ch.mbx with dbRefused := satAdd ch.mbx.dbRefused 1 } })) ∧
    regWrites (.dbClr c .firmware g v) c s (s.setCh c { ch with mbx := ch.mbx.onDb g.val fun x => { x with val := x.val &&& ~~~used } }) ∧
    (outbound → ∃ t, regWrites (.dbMask c .firmware g v) c s t ∧ (t.ch c).db g.val = { d with mask := used } ∧
      (t.ch c).events = posts { t.ch c with events := ch.events } (d.val &&& d.mask &&& ~~~used) ∧
      t = s.setCh c { ch with mbx := ch.mbx.onDb g.val fun _ => (t.ch c).db g.val, events := (t.ch c).events }) ∧
    (¬ outbound → d.val &&& d.mask &&& ~~~used = 0 → regWrites (.dbMask c .firmware g v) c s
      (s.setCh c { ch with mbx := ch.mbx.onDb g.val fun x => { x with mask := used } })) ∧
    ((pi - r.ci).toNat ≤ 2 ^ r.log → ∃ t, regWrites (.mbxRingPiWrite c .firmware ring w) c s t ∧
      (t.ch c).ring ring.val = { r with pi := pi } ∧ (∀ n : Nat, n ≠ ring.val → (t.ch c).ring n = ch.ring n) ∧
      t = s.setCh c { ch with mbx := { ch.mbx with rings := (t.ch c).mbx.rings } }) ∧
    (2 ^ r.log < (pi - r.ci).toNat → regWrites (.mbxRingPiWrite c .firmware ring w) c s (s.setCh c { ch with events := ch.events ++
      [{ mkEvent 0xA005 (chanSrc c) ch.evBeat (some ring.val) 0 with cls := 0 }] }))

/-- R387, R388, R389: the oldest event of a channel becomes a record of its class: posted at the queue's next place with the next SEQNO when the queue can
take it and retains none, retained otherwise, and dropped with a LOSS mark beyond 1,024; a DEAD channel posts nothing. A CI write gives the queue room. The
watchdog's expiry shows the channel DEAD. -/
def Obligations.EventRecordsArePosted : Prop :=
  ∀ (c : ChanId) (e : EvRec) (rest : List EvRec) (v : U64) (cls : Fin 8) (d : U64) (s : State),
    let ch := s.ch c
    let q := ch.queue e.cls
    let i := Instr.eventRecordPost (unitOf c)
    let ready : Prop := q.en = true ∧ (q.pi - q.ci).toNat < q.size ∧ s.ptd.qpCarries q.qpn.toNat (some c.val) = true
    let took (t : State) (q' : EvQueue) : Prop := (t.ch c).events = rest ∧ (t.ch c).queue e.cls = q' ∧
      (∀ n : Nat, n ≠ e.cls → (t.ch c).queue n = ch.queue n) ∧ (t.ch c).mem = ch.mem ∧ (t.ch c).tsk = ch.tsk ∧ onlyChannelSent c s t
    (ch.dead = true → exec i s = .next s) ∧
    (ch.dead = false → ch.events = e :: rest → e.detail = some d → q.retained = [] → ready →
      ∃ t, exec i s = .next t ∧ took t { q with pi := q.pi + 1, loss := false } ∧
        t.out = s.out ++ [.record (some c) q.qpn.toNat (q.addr + BitVec.ofNat 64 (q.pi.toNat % q.size * 32))
          (BitVec.ofNat 32 (e.code.toNat * 2 ^ 16 + (q.pi + 1).toNat % 2 ^ 16))
          { ev := e, seqno := q.pi + 1, loss := q.loss, retained := false, module := ch.chn.moduleId }] ∧
        ((t.ch c).db 1).val = (ch.db 1).val ||| BitVec.ofNat 32 (2 ^ (16 + e.cls))) ∧
    (ch.dead = false → ch.events = e :: rest → e.detail = some d → q.retained.length < 1024 → ¬ ready →
      ∃ t, exec i s = .next t ∧ took t { q with retained := q.retained ++ [e] } ∧ t.out = s.out ∧ (t.ch c).mbx.eqDrop = ch.mbx.eqDrop) ∧
    (ch.dead = false → ch.events = e :: rest → e.detail = some d → 1024 ≤ q.retained.length → ¬ ready →
      ∃ t, exec i s = .next t ∧ took t { q with loss := true } ∧ t.out = s.out ∧ (t.ch c).mbx.eqDrop = satAdd ch.mbx.eqDrop 1) ∧
    (fwReady s c → (ch.queue cls.val).retained = [] →
      ∃ t, exec (.mbxEqCiWrite (unitOf c) .firmware (cls.castLE (by decide)) v) s = .next t ∧
        t.out = s.out ++ [.csrStatus (unitOf c) .ok] ∧
        (t.ch c).queue cls.val = { ch.queue cls.val with ci := BitVec.ofNat 32 (bits v 31 0) } ∧
        (∀ n : Nat, n ≠ cls.val → (t.ch c).queue n = ch.queue n) ∧ (t.ch c).mem = ch.mem ∧ onlyChannelSent c s t) ∧
    ((ch.domain.st = .off ∨ ch.chn.state = .reset) → exec (.watchdogExpiry c) s = .next s) ∧
    (ch.domain.st ≠ .off → ch.chn.state ≠ .reset → exec (.watchdogExpiry c) s = .next (s.setCh c { ch with dead := true }))

/-! ### Steps and the exchange (R205 to R209, R219 to R242) -/

/-- R208, R218: a write of UPD_LRn keeps the step size of one group (a negative, infinite or NaN value as +0) and marks it fresh. R207, R238: the commit word of
the step in progress advances every group's counter, ends the step and records it as committed, and then a pending step is accepted (R205); a commit or abandonment of another step changes nothing
(abandonment leaves the counters and the retained buckets). -/
def Obligations.StepsCommitOrAbandon : Prop :=
  ∀ (c : ChanId) (o : Origin) (g : Fin 64) (v : U64) (step : U32) (s : State),
    let ch := s.ch c
    let x := bits v 31 0
    (fwReady s c → ∃ t, regWrites (.updLrWrite c .firmware g v) c s t ∧
      smGet 0 (t.ch c).upd.lr g.val = (if fpSign fpF32 x || !fpFinite fpF32 x then 0 else BitVec.ofNat 32 x) ∧
      smGet false (t.ch c).upd.fresh g.val = true ∧
      (∀ n : Nat, n ≠ g.val → smGet 0 (t.ch c).upd.lr n = smGet 0 ch.upd.lr n ∧ smGet false (t.ch c).upd.fresh n = smGet false ch.upd.fresh n) ∧
      t = s.setCh c { ch with upd := { ch.upd with lr := (t.ch c).upd.lr, fresh := (t.ch c).upd.fresh } }) ∧
    ((ch.upd.inStep = false ∨ ch.upd.sJob ≠ step) →
      exec (.commitWordSignal c o step) s = .next s ∧ exec (.abandonBroadcast c step) s = .next s) ∧
    (ch.upd.inStep = true → ch.upd.sJob = step → ∃ k : Channel, exec (.commitWordSignal c o step) s =
        .next (s.setCh c (match ch.upd.pending with
          | some d => k.acceptStep c d
          | none => k)) ∧
      k.upd.inStep = false ∧ k.upd.lastCommit = step ∧ k.gxc.last = step ∧ k.gxc.retained = [] ∧ k.upd.pending = none ∧
      (∀ n : Nat, n < ch.updGroups.length → k.tState n = satAdd (ch.tState n) 1) ∧
      (∀ n : Nat, ch.updGroups.length ≤ n → k.tState n = ch.tState n) ∧ k.events = (ch.raise c 0x600B).events ∧
      k = { ch with upd := k.upd, gxc := k.gxc, beat := k.beat, events := k.events }) ∧
    (ch.upd.inStep = true → ch.upd.sJob = step → ∃ t, exec (.abandonBroadcast c step) s = .next t ∧
      (t.ch c).upd = { ch.upd with inStep := false, pending := none } ∧ (t.ch c).gxc.abandoned = true ∧
      (t.ch c).gxc.retained = ch.gxc.retained ∧ (t.ch c).events = (ch.raise c 0x600C).events ∧
      t = s.setCh c { ch with upd := (t.ch c).upd, gxc := (t.ch c).gxc, beat := (t.ch c).beat, events := (t.ch c).events })

/-- R223, R224, R231: at the deadline of an open stage its root closes it over the arrivals there are: the sett stage records the positions that arrived and the
bytewise maximum of their exponents with the plan's headroom, the domain stage the contributors of the setts that arrived; those left out are counted as
excluded. Before the deadline, or closed, nothing changes; nor is there a deadline for the second bucket of a low-rank pair (R235). -/
def Obligations.StageDeadlinesClose : Prop :=
  ∀ (c : ChanId) (b : Nat) (s : State),
    let ch := s.ch c
    let k := ch.bucket b
    let g := ch.bucketGroup b
    let due (start : Option Nat) : Prop := ∃ n, start = some n ∧ ch.pairOf b = none ∧ ch.gxc.actDeadline ≠ 0 ∧ n + ch.gxc.actDeadline.toNat ≤ ch.beat.number.toNat
    let inn := (k.settArr.map (·.1)).foldl (fun l p => insertNat p l) []
    let out := (List.range g.k).filter fun p => !inn.contains p
    let m := maxBytes (k.settArr.map (·.2))
    let away := (List.range g.g).filter fun r => !(k.domArr.map (·.1)).contains r
    let frame (t : State) : Prop := (∀ n : Nat, n ≠ b → (t.ch c).bucket n = ch.bucket n) ∧
      t = s.setCh c { ch with gxc := (t.ch c).gxc, beat := (t.ch c).beat, events := (t.ch c).events }
    ((k.settClosed = true ∨ ¬ due k.settBeat) → exec (.settStageDeadline c b) s = .next s) ∧
    (k.settClosed = false → due k.settBeat → ∃ t, exec (.settStageDeadline c b) s = .next t ∧ ((t.ch c).bucket b).settClosed = true ∧
      ((t.ch c).bucket b).settMap = inn ∧ ((t.ch c).bucket b).settMax = m ∧
      ((t.ch c).bucket b).settExp = m.map (headroom (((ch.bucketPlan b).map (·.hSett)).getD 2)) ∧
      (t.ch c).gxc.excluded = (if out = [] then ch.gxc.excluded else satAdd ch.gxc.excluded out.length) ∧ frame t) ∧
    ((k.domClosed = true ∨ ¬ due k.domBeat) → exec (.domainStageDeadline c b) s = .next s) ∧
    (k.domClosed = false → due k.domBeat → ∃ t, exec (.domainStageDeadline c b) s = .next t ∧ ((t.ch c).bucket b).domClosed = true ∧
      ((t.ch c).bucket b).domMap = (k.domArr.flatMap fun e => e.2.1.map fun p => e.1 * g.k + p).foldl (fun l i => insertNat i l) [] ∧
      ((t.ch c).bucket b).domExp = (maxBytes (k.domArr.map fun e => e.2.2)).map (headroom (((ch.bucketPlan b).map (·.hDom)).getD 2)) ∧
      (t.ch c).gxc.excluded = (if away = [] then ch.gxc.excluded else satAdd ch.gxc.excluded (away.length * g.k)) ∧ frame t)

/-- R242: GO with the current layout, or with one the stream lacks, does nothing; during a step it is queued and RESHARD_WAIT raised; otherwise the permute is
requested for the next boundary. A permute that completes over clean HBM has moved the bytes of each range within this channel's role, sent those for
other roles, and written only the ranges of this role; it takes the new layout's sections, the counters that move with the state, and the next
epoch, and drops carried gradients. Without one running nothing changes. -/
def Obligations.ReshardAndPermute : Prop :=
  ∀ (c : ChanId) (v : U64) (l : U8) (incoming : List (List Byte)) (counters : List (Nat × U32)) (s : State),
    let ch := s.ch c
    let role := (ch.pss.stream.map (·.role)).getD 0
    let own := (ch.moves l.toNat).filter fun m => m.srcRole == role && m.dstRole == role
    let away := (ch.moves l.toNat).filter fun m => m.srcRole == role && m.dstRole != role
    let into := (ch.moves l.toNat).filter fun m => m.dstRole == role
    let dest : U8 := BitVec.ofNat 8 (bits v 15 8)
    let k : Channel := { ch with gxc := { ch.gxc with reqLayout := dest } }
    let w := Instr.reshardGo c .firmware v
    (fwReady s c →
      ((bit v 16 = false ∨ dest = ch.gxc.layout ∨ ch.variant? dest.toNat = none) → regWrites w c s (s.setCh c k)) ∧
      (bit v 16 = true → dest ≠ ch.gxc.layout → (ch.variant? dest.toNat).isSome = true → ch.upd.inStep = true →
        regWrites w c s (s.setCh c ({ k with gxc := { k.gxc with queued := some dest } }.raise c 0x6009))) ∧
      (bit v 16 = true → dest ≠ ch.gxc.layout → (ch.variant? dest.toNat).isSome = true → ch.upd.inStep = false → ch.gxc.queued = none →
        regWrites w c s (s.setCh c { k with gxc := { k.gxc with requested := some dest } }))) ∧
    (ch.gxc.permuting = none → exec (.permuteComplete { ch := c, incoming := incoming, counters := counters }) s = .next s) ∧
    (ch.gxc.permuting = some l → ch.mem.hbmPoison = [] → ch.mem.hbmErr = [] → ∃ t, exec (.permuteComplete { ch := c, incoming := incoming, counters := counters }) s = .next t ∧
      (∀ x : Nat, (∀ m ∈ into, x < m.dst ∨ m.dst + m.length ≤ x) → smGet 0 (t.ch c).mem.hbm x = smGet 0 ch.mem.hbm x) ∧
      ((into.Pairwise fun a b => a.dst + a.length ≤ b.dst ∨ b.dst + b.length ≤ a.dst) →
        ∀ m ∈ own, (t.ch c).hbmBytes m.dst m.length = ch.hbmBytes m.src m.length) ∧
      t.out = s.out ++ away.map (fun m => .permuteData c m.dstRole m.dst (ch.hbmBytes m.src m.length)) ∧
      (let q : Channel := { ch with
        mem := { ch.mem with hbm := (t.ch c).mem.hbm }
        gxc := { ch.gxc with permuting := none, layout := l, epoch := ch.gxc.epoch + 1, carriedBuckets := [] }
        upd := { ch.upd with tState := counters.foldl (fun (m : SMap U32) (e : Nat × U32) => smSet 0 m e.1 e.2) ch.upd.tState } }
       t = { s.setCh c (((ch.variant? l.toNat).map q.applyLayout).getD q |>.raise c 0x600A) with out := t.out }))

/-! ### DMA (R283 to R289, Tables 13-1 to 13-3) -/

/-- Table 13-2: COPY, GATHER, SCATTER, STRIDE2D and TRANSPOSE of the control complex within clean HBM of their channel start a transfer whose writes are the
bytes of each part, at its destination; GATHER and SCATTER read their index list first. Nothing is written before the transfer completes, and
bytes written where source and destination overlap are undefined, free values (R286). -/
def Obligations.DmaMovesItsParts : Prop :=
  ∀ (c : ChanId) (d : DmaDesc) (io : Nat) (s : State),
    let ch := s.ch c
    let clean : Prop := ch.mem.hbmPoison = [] ∧ ch.mem.hbmErr = [] ∧ ch.dma.xfers.length < 32 ∧ d.badRsvd = false ∧ d.badSize = false ∧
      d.badAlign = false ∧ ch.isOwn c d.src.toNat = true
    let starts (i : Instr) (idx : List Nat) : Prop := (∀ p ∈ d.parts idx, ch.hbmPart c p) →
      dmaStarts i c d ((d.parts idx).map fun p => (p.src, p.len)) ((d.parts idx).map fun p => (BitVec.ofNat 64 p.dst, ch.partBytes c p))
        (((d.parts idx).map (·.len)).foldl (· + ·) 0) none s
    let idx := words32 (ch.hbmRead io (4 * d.count.toNat))
    clean →
    (d.op = 1 → starts (.dmaCopy c d none) []) ∧ (d.op = 4 → starts (.dmaStride2d c d none) []) ∧ (d.op = 5 → starts (.dmaTranspose c d none) []) ∧
    (ch.hbmPlace c d.aux.toNat (4 * d.count.toNat) = some io →
      (d.op = 2 → starts (.dmaGather c d none) idx) ∧ (d.op = 3 → starts (.dmaScatter c d none) idx))

/-- R287, R288: BLKT of a tile in clean HBM moves its element and scale rows to the transposed planes, and fails with cause 0x07 when a sub-square has mixed
scales; PAGELIST moves the frames of the pages that its list names, and fails with cause 0x05 outside WALK mode. -/
def Obligations.BlktAndPagelist : Prop :=
  ∀ (c : ChanId) (d : DmaDesc) (s : State),
    let ch := s.ch c
    let clean : Prop := ch.mem.hbmPoison = [] ∧ ch.mem.hbmErr = [] ∧ ch.dma.xfers.length < 32 ∧ d.badRsvd = false ∧ d.badSize = false ∧
      d.badAlign = false
    let bb := blockBytes d.esize.toNat
    let rows (base : U64) (pitch : U32) (z n : Nat) : List (Nat × Nat) := (List.range 64).map fun i => (base.toNat + i * pitch.toNat * z, n)
    let srcs := rows d.src d.srcPitch bb (2 * bb)
    let scs := rows d.aux d.srcPitch 1 2
    let dsts := rows d.dst d.dstPitch bb (2 * bb)
    let dscs := rows d.aux2 d.dstPitch 1 2
    let get (l : List (Nat × Nat)) : List (List Byte) := l.map fun e => ch.hbmRead ((ch.hbmPlace c e.1 e.2).getD 0) e.2
    let fails (i : Instr) (cause : Nat) : Prop := exec i s = .next (s.setCh c (ch.dmaRecord c .control d.op cause))
    (clean → d.op = 6 → ch.isOwn c d.src.toNat = true → (∀ e ∈ srcs ++ scs, (ch.hbmPlace c e.1 e.2).isSome = true) →
      (∀ e ∈ dsts ++ dscs, ∃ o, ch.hbmPlace c e.1 e.2 = some o ∧ o + e.2 ≤ badgerArea) →
      (blktMove d.esize.toNat (get srcs) (get scs) = none → fails (.dmaBlkt c d none) 7) ∧
      (∀ m : List (List Byte) × List (List Byte), blktMove d.esize.toNat (get srcs) (get scs) = some m →
        dmaStarts (.dmaBlkt c d none) c d (srcs ++ scs) ((dsts.zip m.1).map (fun e => (BitVec.ofNat 64 e.1.1, e.2)) ++
          (dscs.zip m.2).map (fun e => (BitVec.ofNat 64 e.1.1, e.2))) (64 * (2 * bb + 2)) none s)) ∧
    (clean → d.op = 7 → ch.sql.walk = false → fails (.dmaPagelist c d none) 5) ∧
    (∀ (ho lo n : Nat) (q : List Part3 × WalkedList), clean → d.op = 7 → ch.sql.walk = true → ch.hbmPlace c d.aux.toNat 16 = some ho →
      n = field (ch.hbmRead ho 16) 4 4 → n ≠ 0 → ch.hbmPlace c (d.aux.toNat + 16) (4 * n) = some lo →
      ch.pagelistParts c d (ch.hbmRead ho 16) (ch.hbmRead lo (4 * n)) = some q → (∀ p ∈ q.1, ch.hbmPart c p) →
      dmaStarts (.dmaPagelist c d none) c d (q.1.map fun p => (p.src, p.len)) (q.1.map fun p => (BitVec.ofNat 64 p.dst, ch.partBytes c p))
        ((q.1.map (·.len)).foldl (· + ·) 0) (some q.2) s)

/-- Table 13-3, R289: a descriptor of the control complex with a reserved operation (0x01), a nonzero field that must be zero (0x02), a size or count out of
range (0x03) or a misaligned address (0x04) fails with the lowest cause, moves nothing, and is recorded with its operation. A command for another
operation of the table, and any at 32 transfers, starts nothing.
R278: a port that leaves UP raises CXL_PORT_DOWN and shows its state, and a port that is not UP leaves nothing; a timeout is counted at its port and ends the
transfer that used it, and one that names no such transfer changes nothing. -/
def Obligations.TransfersAreRefusedAndFail : Prop :=
  (∀ (c : ChanId) (d : DmaDesc) (op : Nat) (s : State),
    let ch := s.ch c
    let all (f : Instr → Prop) : Prop := (op = 1 → f (.dmaCopy c d none)) ∧ (op = 2 → f (.dmaGather c d none)) ∧ (op = 3 → f (.dmaScatter c d none)) ∧
      (op = 4 → f (.dmaStride2d c d none)) ∧ (op = 5 → f (.dmaTranspose c d none)) ∧ (op = 6 → f (.dmaBlkt c d none)) ∧
      (op = 7 → f (.dmaPagelist c d none))
    let room : Prop := ch.dma.xfers.length < 32
    let fails (cause : Nat) (i : Instr) : Prop := ∃ t, exec i s = .next t ∧ (t.ch c).dma.errCause = BitVec.ofNat 8 cause ∧
      (t.ch c).dma.errOp = d.op ∧ (t.ch c).dma.errCtrl = true ∧ (t.ch c).dma.faults = satAdd ch.dma.faults 1 ∧ (t.ch c).dma.fault = true ∧
      (t.ch c).dma.xfers = ch.dma.xfers ∧ (t.ch c).events = (ch.raise c 0x2006).events ∧
      t = s.setCh c { ch with dma := (t.ch c).dma, beat := (t.ch c).beat, events := (t.ch c).events }
    (¬ room → all fun i => exec i s = .next s) ∧
    (d.op.toNat ≠ op → 1 ≤ d.op.toNat → d.op.toNat ≤ 7 → all fun i => exec i s = .next s) ∧
    (room → (d.op = 0 ∨ 7 < d.op.toNat) → all (fails 1)) ∧
    (room → d.op.toNat = op → (d.badRsvd = true → all (fails 2)) ∧ (d.badRsvd = false → d.badSize = true → all (fails 3)) ∧
      (d.badRsvd = false → d.badSize = false → d.badAlign = true → all (fails 4)))) ∧
  (∀ (c : ChanId) (port : Fin 2) (id : Nat) (failed : Bool) (x : Xfer) (s : State),
    let ch := s.ch c
    let found := ch.dma.xfers.find? fun y => y.id == id
    let ends (i : Instr) : Prop := ∃ t, exec i s = .next t ∧ ((t.ch c).cxlPort port).timeout = satAdd (ch.cxlPort port).timeout 1 ∧
      (t.ch c).dma.xfers = (ch.dma.xfers.filter fun y => y.id != x.id) ∧ (t.ch c).mem.sram = ch.mem.sram ∧ (t.ch c).cxl.mem = ch.cxl.mem ∧
      (t.ch c).tsk = ch.tsk ∧ (∀ q : Fin 2, q ≠ port → (t.ch c).cxlPort q = ch.cxlPort q) ∧ onlyChannelFree c s t
    ((ch.cxlPort port).isUp = false → exec (.cxlPortLeavesUp c port failed) s = .next s) ∧
    ((ch.cxlPort port).isUp = true → ch.dma.xfers = [] → exec (.cxlPortLeavesUp c port failed) s =
      .next (s.setCh c ((ch.onCxlPort port fun p => { p with st := if failed then 3 else 0 }).raise c 0x2005))) ∧
    (found = none → exec (.cxlReadTimeout c port id) s = .next s ∧ exec (.cxlWriteTimeout c port id) s = .next s) ∧
    (found = some x → x.owner = .control → ch.returnCopies c x.desc = [] →
      (ch.xferOnPort c false port x = true → ends (.cxlReadTimeout c port id)) ∧
      (ch.xferOnPort c true port x = true → ends (.cxlWriteTimeout c port id)) ∧
      (ch.xferOnPort c false port x = false → exec (.cxlReadTimeout c port id) s = .next s) ∧
      (ch.xferOnPort c true port x = false → exec (.cxlWriteTimeout c port id) s = .next s)))

/-- R286: a transfer completes when no remote part of it is outstanding: its writes to HBM become visible and no other byte of HBM changes, it leaves
the engine, and DMA_DESCS and DMA_BYTES count it; one that ends in the CXL tier under OFFLOAD counts in OFFLOAD_KIB, a return copy is no longer
awaited (R196), a walked list is kept for the rebuild of the PTEs (R192). A transfer of a task, here not its last, is noted with the task, with
what it wrote (R43), and one of the lead-in window with its task to come (R37). -/
def Obligations.DmaCompletionMakesWritesVisible : Prop :=
  ∀ (c : ChanId) (id : Nat) (x : Xfer) (s : State),
    let ch := s.ch c
    let found := ch.dma.xfers.find? fun y => y.id == id
    let more : Prop := ∀ (core slot i : Nat) (u : Task), x.owner = .task core slot i → ch.task? core slot = some u →
      (insertNat i u.dmaDone).length ≠ u.dmaDescs.length
    let w := ch.finalWrites c x
    let wrote := w.map fun e => (e.1.toNat, e.2.length)
    let ends (k : Channel) : Channel := match x.owner with
      | .control => k
      | .planned core b q i => { k with dma := { k.dma with early := k.dma.early ++ [(core, b, q, i)] } }
      | .task core slot i => match ch.task? core slot with
        | some u => k.onTask core slot fun v => { v with dmaDone := insertNat i u.dmaDone, dmaWrote := u.dmaWrote ++ wrote }
        | none => k
    (found = none → exec (.dmaDescComplete c id) s = .next s) ∧
    (found = some x → x.outstanding ≠ 0 → exec (.dmaDescComplete c id) s = .next s) ∧
    (found = some x → x.outstanding = 0 → more → x.desc.sig = false → ch.mem.hbmPoison = [] → (∀ e ∈ w, (ch.hbmPlace c e.1.toNat e.2.length).isSome = true) →
      ∃ t, exec (.dmaDescComplete c id) s = .next t ∧
        (∀ a : Nat, (∀ e ∈ w, ∀ o : Nat, ch.hbmPlace c e.1.toNat e.2.length = some o → a < o ∨ o + e.2.length ≤ a) →
          smGet 0 (t.ch c).mem.hbm a = smGet 0 ch.mem.hbm a) ∧
        (ch.apartWrites c w → ∀ e ∈ w, ∀ o : Nat, ch.hbmPlace c e.1.toNat e.2.length = some o →
          (t.ch c).hbmBytes o e.2.length = e.2) ∧
        (let h : Channel := { ch with mem := { ch.mem with hbm := (t.ch c).mem.hbm, hbmErr := (t.ch c).mem.hbmErr } }
         t = s.setCh c (ends (({ h with
          dma := { ch.dma with
            xfers := ch.dma.xfers.filter fun y => y.id != x.id
            descs := wrapAdd ch.dma.descs 1, bytes := wrapAdd ch.dma.bytes x.bytes }
          upd := { ch.upd with offloadKib := wrapAdd ch.upd.offloadKib (h.offloadKib c x.desc) }
          sql := { ch.sql with walked := match x.walked with
            | some w => (ch.sql.walked.filter fun (y : WalkedList) => y.region != w.region) ++ [w]
            | none => ch.sql.walked } } : Channel).actReturned c x.desc))))

/-! ### The CXL tier, scrub, and training (R275, R277, R278, R282, R339, R395) -/

/-- R275, R282: a scrub step of a good line or word advances and reads nothing else; one bad symbol or bit is corrected and counted; the step after the last line
counts a pass. Before HBM is ready, or with the core or the channel off, no step runs. A late pass sets SCRUB_LATE and raises its event. Memory's bytes never
change. -/
def Obligations.ScrubStepsAdvance : Prop :=
  ∀ (c : ChanId) (p : Nat) (s : State),
    let ch := s.ch c
    let line := ch.mem.pos.toNat / 64
    let next : Mem := { ch.mem with
      pos := BitVec.ofNat 38 (if hbmSize ≤ (line + 1) * 64 then 0 else (line + 1) * 64)
      passes := if hbmSize ≤ (line + 1) * 64 then satAdd ch.mem.passes 1 else ch.mem.passes }
    let i := smGet 0 ch.mem.sramPos p
    let word := p * 2 ^ 19 + i
    let on : Prop := p < 136 ∧ (ch.domainOf p).st ≠ .off ∧ ch.domain.st ≠ .off ∧ ch.calibrated = true
    (ch.cfg.hbmReady = false → exec (.hbmPatrolScrubStep c 0) s = .next s ∧ exec (.scrubDeadline c) s = .next s) ∧
    (ch.cfg.hbmReady = true → ch.mem.hbmErr = [] → smGet false ch.mem.hbmPoison line = false →
      exec (.hbmPatrolScrubStep c 0) s = .next (s.setCh c { ch with mem := next }) ∧
      (∃ t, exec (.hbmPatrolScrubStep c 1) s = .next t ∧ (t.ch c).mem.ce = satAdd ch.mem.ce 1 ∧ (t.ch c).mem.hbmErr = [] ∧
        (t.ch c).mem.pos = next.pos ∧ (t.ch c).mem.passes = next.passes ∧ (t.ch c).mem.hbm = ch.mem.hbm ∧
        (t.ch c).mem.hbmPoison = ch.mem.hbmPoison ∧ (t.ch c).mem.sram = ch.mem.sram ∧ (t.ch c).tsk = ch.tsk ∧ onlyChannelFree c s t)) ∧
    (¬ on → exec (.sramScrubStep c p 0) s = .next s) ∧
    (on → ch.mem.sramErr = [] → smGet false ch.mem.sramPoison word = false →
      (∃ t, exec (.sramScrubStep c p 0) s = .next t ∧ smGet 0 (t.ch c).mem.sramPos p = (i + 1) % 2 ^ 19 ∧
        t = s.setCh c { ch with mem := { ch.mem with sramPos := (t.ch c).mem.sramPos } }) ∧
      (∃ t, exec (.sramScrubStep c p 1) s = .next t ∧ smGet 0 (t.ch c).mem.sramPos p = (i + 1) % 2 ^ 19 ∧
        t = s.setCh c { ch with mem := { ch.mem with sramPos := (t.ch c).mem.sramPos, sramCe := satAdd ch.mem.sramCe 1 } })) ∧
    (ch.cfg.hbmReady = true →
      exec (.scrubDeadline c) s = .next (s.setCh c ({ ch with mem := { ch.mem with scrubLate := true } }.raise c 0x2003)))

/-- R277, R339, R395, R403: what a channel in CALIBRATE learns once each: HBM trained and read as zeros without poison, the CXL map, the scan store (a bad copy
leaves Owl disabled), the history ring (an unreadable one is erased). Elsewhere these change nothing. -/
def Obligations.CalibrationSteps : Prop :=
  ∀ (c : ChanId) (a b : CxlTrain) (s : State),
    let ch := s.ch c
    let p0 := a.port (ch.cxl.portEn.getLsbD 0)
    let p1 := b.port (ch.cxl.portEn.getLsbD 1)
    let m := cxlMap p0 p1
    let owl : Channel := { ch with cfg := { ch.cfg with storeCopied := true }, owl := { ch.owl with storeRev := ch.ser.storeRev } }
    (ch.chn.state ≠ .calibrate → exec (.hbmTrainDone c) s = .next s ∧ exec (.cxlTrainDone c a b) s = .next s ∧
      exec (.historyRingLoad c) s = .next s) ∧
    (ch.chn.state = .calibrate → ch.cfg.selfRx = false →
      (ch.cfg.hbmReady = false → exec (.hbmTrainDone c) s = .next (s.setCh c { ch with
        mem := { ch.mem with hbm := [], hbmPoison := [], hbmErr := [] }, cfg := { ch.cfg with hbmReady := true } })) ∧
      (ch.cfg.hbmReady = true → exec (.hbmTrainDone c) s = .next s) ∧
      (ch.cfg.cxlDone = false → exec (.cxlTrainDone c a b) s = .next (s.setCh c { ch with
        cxl := { ch.cxl with
          port0 := p0, port1 := p1, ilvGib := BitVec.ofNat 16 m.1, linGib := BitVec.ofNat 16 m.2.1, linPort := m.2.2 }
        cfg := { ch.cfg with cxlDone := true } })) ∧
      (ch.cfg.cxlDone = true → exec (.cxlTrainDone c a b) s = .next s)) ∧
    ((ch.cfg.hbmReady = false ∨ ch.cfg.storeCopied = true) → exec (.scanStoreCheck c) s = .next s) ∧
    (ch.cfg.hbmReady = true → ch.cfg.storeCopied = false →
      (ch.ser.storeOk = true → exec (.scanStoreCheck c) s = .next (s.setCh c { owl with owl := { owl.owl with storeOk := true } })) ∧
      (ch.ser.storeOk = false → exec (.scanStoreCheck c) s =
        .next (s.setCh c ({ owl with owl := { owl.owl with storeBad := true } }.raise c 0x700E)))) ∧
    (ch.chn.state = .calibrate → ch.ser.ringBad = true → exec (.historyRingLoad c) s = .next (s.setCh c ({ ch with
      ser := { ch.ser with ring := [], ringHead := 0, ringBad := false }, cfg := { ch.cfg with histBad := true } }.raise c 0x2007))) ∧
    (ch.chn.state = .calibrate → ch.ser.ringBad = false → ∃ t, exec (.historyRingLoad c) s = .next t ∧
      (∀ r : FaultRec, ch.ser.history.getLast? = some r → (t.ch c).bdg.lastRec = r ∧ (t.ch c).bdg.hasRec = true) ∧
      (∀ p : Nat, p < 136 → ((t.ch c).health p).permanent = (ch.ser.history.any fun r => r.suspect == .core p && r.cls == 2)) ∧
      t = s.setCh c { ch with bdg := (t.ch c).bdg })

/-! ### The Bear ledger and power (R314 to R331) -/

/-- R323: a reconciliation with an invalid meter reading, or whose rails sum to zero, is skipped. LEDG_METER_BAD is raised and the beat counted; K, the
debts, the last results, and with them every charge, stay. -/
def Obligations.BadMeterSkipsReconciliation : Prop :=
  ∀ (c : ChanId) (valid : Bool) (eIn loss s0 s1 sp : Nat) (s : State),
    let ch := s.ch c
    (valid = false ∨ s0 + s1 + sp = 0) → ∃ t, exec (.reconcile c valid eIn loss s0 s1 sp) s = .next t ∧
      (t.ch c).ledg = { ch.ledg with meterBadSt := true, meterBad := satAdd ch.ledg.meterBad 1 } ∧
      (t.ch c).ledg.k = ch.ledg.k ∧ (t.ch c).ledg.debt = ch.ledg.debt ∧ (t.ch c).ledg.debts = ch.ledg.debts ∧
      (∀ d : TaskDesc, (t.ch c).charge d = ch.charge d) ∧ (t.ch c).budget = ch.budget ∧
      (t.ch c).events = (ch.raise c 0x9002).events ∧
      t = s.setCh c { ch with ledg := (t.ch c).ledg, events := (t.ch c).events, beat := { ch.beat with raised := (t.ch c).beat.raised } }

/-- R320, R321, R322, R324, R315: reconciliation of a metered beat sets the measured energy, the debt of the beat after next and, where refinement applies,
a K for it; an offer moves from the larger offerer what the sibling accepts; limits and control fields take effect at a coming boundary, or at
once without beats; a K that has moved by 1 % is written to the slot not in effect. -/
def Obligations.LedgerReconcilesLendsAndLimits : Prop :=
  ∀ (c : ChanId) (eIn loss s0 s1 sp : Nat) (arrived : Bool) (v : U64) (s : State),
    let ch := s.ch c
    let sib := s.ch (sibling c)
    let l := ch.ledg
    let b := ch.beat.number.toNat
    let measured := (eIn - loss) * (if c = 0 then s0 else s1) / (s0 + s1 + sp)
    let charged := l.lastCharged + l.lastBg
    let excess := measured - l.lastLimit
    let hard : Bool := decide (l.lastLimit * 2 < excess * 100)
    let refine : Bool := bit l.ctrlNow 2 && decide (0 < charged) && decide (l.lastAdmissible ≤ 2 * (l.lastCharged : Int))
    let k := max 0xC000 (min 0x18000 ((l.k.toNat : Int) + Int.tdiv (((65536 * measured / charged : Nat) : Int) - l.k.toNat) 16).toNat)
    let clamped : Bool := refine && (k == 0xC000 || k == 0x18000)
    let offer (h : Channel) : Nat := if bit h.ledg.ctrlNow 0 && h.running then
      min (h.ledg.admissible - h.ledg.admitted).toNat (h.wattBeat (bits h.ledg.ctrlNow 31 24)) / 1000 * 1000 else 0
    let mine := offer ch
    let reachable : Prop := arrived = true ∧ (sib.domain.st = .active ∨ sib.domain.st = .idle) ∧ sib.chn.state ≠ .reset
    let next := sib.beat.number.toNat + 1
    let takes : Bool := sib.running && bit (dueValue next sib.ledg.ctrlNow sib.ledg.ctrlWait) 1 && decide (650 ≤ sib.thermalCap)
    let x := if takes then min (mine - offer sib) (sib.wattBeat 650 - sib.wattBeat (s.grantedAt (sibling c) next)) else 0
    let due := b + if ch.posClk < 2048 then 1 else 2
    let w : BitVec 10 := BitVec.ofNat 10 (bits v 9 0)
    let cv : U64 := v &&& 0xFF0F0007
    let fields : Ledg := { l with lendMaxW := BitVec.ofNat 8 (bits cv 31 24), reservePct := BitVec.ofNat 4 (bits cv 19 16)
                                  refineEn := bit cv 2, borrowEn := bit cv 1, lendEn := bit cv 0 }
    let cur := ch.ser.calSlot
    let stored := ((cur.bind (·.k))).getD 0x10000
    let moved : Prop := stored ≤ 100 * ((l.k.toNat - stored) + (stored - l.k.toNat))
    let slot : CalSlot := { valid := true, seq := (cur.map fun (e : CalSlot) => e.seq + 1).getD 1, units := (cur.map (·.units)).getD []
                            other := (cur.map (·.other)).getD [], k := some l.k.toNat, digest := BitVec.ofNat 512 s.freeVal }
    (0 < s0 + s1 + sp → ∃ t, exec (.reconcile c true eIn loss s0 s1 sp) s = .next t ∧
      (t.ch c).ledg = { l with
        measured := BitVec.ofNat 32 measured, charged := BitVec.ofNat 32 charged, reconBeat := BitVec.ofNat 16 (b - 1)
        debts := if 0 < excess then l.debts ++ [(b + 1, excess)] else l.debts
        overdraw := if 0 < excess then satAdd l.overdraw 1 else l.overdraw
        overdrawSt := l.overdrawSt || hard
        kWait := if refine then l.kWait ++ [(b + 1, k)] else l.kWait
        kLimit := l.kLimit || clamped } ∧
      (hard = false → clamped = false → (t.ch c).events = ch.events) ∧
      (hard = true → clamped = false → (t.ch c).events = (ch.raise c 0x9001).events) ∧
      (hard = false → clamped = true → (t.ch c).events = (ch.raise c 0x9003).events) ∧
      t = s.setCh c { ch with ledg := (t.ch c).ledg, events := (t.ch c).events, beat := { ch.beat with raised := (t.ch c).beat.raised } }) ∧
    (mine = 0 → exec (.loanOffer c arrived) s = .next s) ∧
    (reachable → mine ≤ offer sib → exec (.loanOffer c arrived) s = .next s) ∧
    (¬ reachable → 0 < mine → exec (.loanOffer c arrived) s = .next (s.setCh c { ch with ledg := { l with offered := mine } })) ∧
    (reachable → offer sib < mine → exec (.loanOffer c arrived) s =
      .next ((s.setCh c { ch with ledg := { l with nextLoanOut := l.nextLoanOut + x } }).setCh (sibling c)
        { sib with ledg := { sib.ledg with nextLoanIn := sib.ledg.nextLoanIn + x } })) ∧
    (fwReady s c → ch.running = true → regWrites (.ledgLimitWrite c .firmware v) c s (s.setCh c { ch with ledg := { l with
      limitW := w, limitWait := l.limitWait ++ [{ beat := due, value := BitVec.ofNat 64 w.toNat }] } })) ∧
    (fwReady s c → ch.running = false → regWrites (.ledgLimitWrite c .firmware v) c s (s.setCh c { ch with ledg := { l with
      limitW := w, limitWait := [], limitNow := w.toNat
      grantedW := BitVec.ofNat 10 (min (min (max 200 (min 650 w.toNat))
        (if sib.domain.st = .active ∨ sib.domain.st = .idle then 1200 - sib.ledg.grantedW.toNat else 650)) ch.thermalCap) } })) ∧
    (fwReady s c → ch.running = true → regWrites (.ledgCtrlWrite c .firmware v) c s (s.setCh c { ch with ledg :=
      { fields with ctrlWait := l.ctrlWait ++ [{ beat := due, value := cv }] } })) ∧
    (fwReady s c → ch.running = false → regWrites (.ledgCtrlWrite c .firmware v) c s (s.setCh c { ch with ledg :=
      { fields with ctrlWait := [], ctrlNow := cv } })) ∧
    ((ch.calibrated = false ∨ ¬ moved) → exec (.calKWriteback c) s = .next s) ∧
    (ch.calibrated = true → moved → cur = some ch.ser.calA → exec (.calKWriteback c) s =
      .next { s.setCh c { ch with ser := { ch.ser with calB := slot } } with free := s.free + 1 }) ∧
    (ch.calibrated = true → moved → cur ≠ some ch.ser.calA → exec (.calKWriteback c) s =
      .next { s.setCh c { ch with ser := { ch.ser with calA := slot } } with free := s.free + 1 })

/-- R328: a request through PWR_REQ, ON or OFF, that names a bound core to switch off, the channel domain, an undefined domain, or both states together, changes no
domain: it raises PWR_REFUSED, counts once, and records the lowest cause. -/
def Obligations.PowerRequestsAreRefused : Prop :=
  ∀ (c : ChanId) (on off : Bool) (d : Fin 256) (s : State),
    let ch := s.ch c
    let n := d.val
    let v : U64 := BitVec.ofNat 64 (n + (if on then 2 ^ 8 else 0) + (if off then 2 ^ 9 else 0))
    let bound : Prop := off = true ∧ n < 136 ∧ (ch.lcoreOf n).isSome = true
    let undefinedId : Prop := ¬ (n < 136 ∨ n = 0x90 ∨ n = 0x91 ∨ (0xA0 ≤ n ∧ n < 0xA8))
    let both : Prop := on = true ∧ off = true
    let refusedWith (i : Instr) (cause : Nat) : Prop := ∃ t, regWrites i c s t ∧
      (t.ch c).pwr = { ch.pwr with refused := satAdd ch.pwr.refused 1, lastRefuse := BitVec.ofNat 8 cause } ∧
      (t.ch c).events = (ch.raise c 0x9005).events ∧ (∀ m : Nat, (t.ch c).domainOf m = ch.domainOf m) ∧ (t.ch c).domain = ch.domain ∧
      t = s.setCh c { ch with pwr := (t.ch c).pwr, events := (t.ch c).events, beat := { ch.beat with raised := (t.ch c).beat.raised } }
    let whichever (cause : Nat) : Prop := refusedWith (.csrWrite (unitOf c) .firmware 0x120008 8 v) cause ∧
      (on = true → off = false → refusedWith (.pwrReqOn c .firmware n) cause) ∧
      (off = true → on = false → refusedWith (.pwrReqOff c .firmware n) cause)
    fwReady s c → (on = true ∨ off = true) →
      (bound → whichever 1) ∧ (¬ bound → n = 0xFF → whichever 2) ∧ (¬ bound → n ≠ 0xFF → undefinedId → whichever 3) ∧
      (¬ bound → n ≠ 0xFF → ¬ undefinedId → both → whichever 4)

/-- R326 to R329: an ON or OFF request that is accepted, a drain that completes, a wake that completes or fails, and an idle port move one domain as Table 15-4 says: a
core wakes with its SRAM zero, a CXL port as it was before, and a link group's links are DOWN once it is OFF. No other domain moves. -/
def Obligations.DomainsFollowTheirTable : Prop :=
  ∀ (c : ChanId) (d : Nat) (s : State),
    let ch := s.ch c
    let x := ch.domainOf d
    let core : Prop := d < 136
    let port : Prop := d = 0x90 ∨ d = 0x91
    let p : Fin 2 := if d = 0x91 then 1 else 0
    let group : Prop := 0xA0 ≤ d ∧ d < 0xA8
    let others (t : State) : Prop := ∀ m : Nat, m ≠ d → (t.ch c).domainOf m = ch.domainOf m
    let onlyDomain (i : Instr) (y : Domain) : Prop := ∃ t, exec i s = .next t ∧ (t.ch c).domainOf d = y ∧ others t ∧
      t = s.setCh c { ch with pwr := { ch.pwr with domains := (t.ch c).pwr.domains } }
    let asked (i : Instr) (y : Domain) : Prop := ∃ t, regWrites i c s t ∧ (t.ch c).domainOf d = y ∧ others t ∧
      t = s.setCh c { ch with pwr := { ch.pwr with domains := (t.ch c).pwr.domains } }
    (fwReady s c → (core ∨ port ∨ group) → asked (.pwrReqOn c .firmware d) (match x.st with
      | .off => { x with st := .waking }
      | .draining => { x with wakePending := true }
      | .waking => { x with offPending := false }
      | _ => x)) ∧
    (fwReady s c → (core ∨ port ∨ group) → (core → ch.lcoreOf d = none) → asked (.pwrReqOff c .firmware d) (match x.st with
      | .active => { x with st := .draining }
      | .idle => { x with st := .draining }
      | .waking => { x with offPending := true }
      | .draining => { x with wakePending := false }
      | .off => x)) ∧
    (core → x.st = .draining → ¬ (ch.owl.active = true ∧ ch.owl.pcore.toNat = d) →
      onlyDomain (.domainDrainDone c d) { st := if x.wakePending then .waking else .off }) ∧
    ((core ∨ port ∨ group) → (x.st ≠ .draining ∨ (core ∧ ch.owl.active = true ∧ ch.owl.pcore.toNat = d)) →
      exec (.domainDrainDone c d) s = .next s) ∧
    (port → x.st = .draining → ch.dma.xfers = [] → ∃ t, exec (.domainDrainDone c d) s = .next t ∧
      (t.ch c).domainOf d = { st := if x.wakePending then .waking else .off } ∧ others t ∧
      (t.ch c).cxlPort p = { ch.cxlPort p with st := if (ch.cxlPort p).isUp then 0 else (ch.cxlPort p).st } ∧
      (∀ q : Fin 2, q ≠ p → (t.ch c).cxlPort q = ch.cxlPort q) ∧
      (t.ch c).events = (if (ch.cxlPort p).isUp then (ch.raise c 0x2005).events else ch.events) ∧ ch.sameBytes (t.ch c) ∧ onlyChannel c s t) ∧
    (group → x.st = .draining → (∀ l : LinkId, 0xA0 + l.val / 6 = d → (ch.link l.val).queue = []) →
      ∃ t, exec (.domainDrainDone c d) s = .next t ∧ (t.ch c).domainOf d = { st := if x.wakePending then .waking else .off } ∧ others t ∧
        (∀ l : LinkId, 0xA0 + l.val / 6 = d → (t.ch c).linkSt l = .down) ∧
        (∀ l : LinkId, 0xA0 + l.val / 6 ≠ d → (t.ch c).link l.val = ch.link l.val) ∧
        t = s.setCh c { ch with wrn := { ch.wrn with links := (t.ch c).wrn.links }
                                pwr := { ch.pwr with domains := (t.ch c).pwr.domains } }) ∧
    ((core ∨ port ∨ group) → x.st ≠ .waking →
      exec (.domainWakeDone c d) s = .next s ∧ exec (.domainWakeFail c d) s = .next s) ∧
    ((core ∨ port ∨ group) → x.st = .waking → ∃ t, exec (.domainWakeDone c d) s = .next t ∧
      (t.ch c).domainOf d = { st := if x.offPending then .draining else .active } ∧ others t ∧
      (∀ i : Nat, smGet 0 (t.ch c).mem.sram i =
        if d < 136 ∧ sramAt d 0 ≤ i ∧ i < sramAt d 0 + 2 ^ 22 then 0 else smGet 0 ch.mem.sram i) ∧
      (port → (ch.cxlPort p).capGib ≠ 0 → (t.ch c).cxlPort p = { ch.cxlPort p with st := 2 }) ∧
      (¬ port → (t.ch c).cxl = ch.cxl) ∧ (t.ch c).mem.hbm = ch.mem.hbm ∧ (t.ch c).cxl.mem = ch.cxl.mem ∧ onlyChannel c s t) ∧
    ((core ∨ port ∨ group) → x.st = .waking → ∃ t, exec (.domainWakeFail c d) s = .next t ∧
      (t.ch c).domainOf d = { st := .off } ∧ others t ∧ (t.ch c).pwr.wakeFail = satAdd ch.pwr.wakeFail 1 ∧
      (¬ port → (t.ch c).events = (ch.raise c 0x9006).events) ∧
      (port → (t.ch c).events = ((ch.raise c 0x9006).raise c 0x2005).events) ∧
      t = s.setCh c { ch with pwr := { ch.pwr with domains := (t.ch c).pwr.domains, wakeFail := (t.ch c).pwr.wakeFail }
                              events := (t.ch c).events, beat := { ch.beat with raised := (t.ch c).beat.raised } }) ∧
    (∀ q : Fin 2, d = 0x90 + q.val → ∃ t, exec (.cxlIdleTimeout c q) s = .next t ∧ others t ∧
      (t.ch c).domainOf d = (if (ch.cxlPort q).isUp = true ∧ x.st = .active then { x with st := .idle } else x) ∧
      t = s.setCh c { ch with pwr := { ch.pwr with domains := (t.ch c).pwr.domains } })

/-- R327, R329, R389, R393, R394, R417: the channel domain. Its drain ends the session, the keys and any debug session; OFF and every channel reset leave the channel at
its reset values, end its session, and have the port die record what was at work in its mailboxes and rings; the sibling keeps everything.
A tripped channel is not switched on within its 10 s. -/
def Obligations.ChannelPowerAndReset : Prop :=
  ∀ (c : ChanId) (qp : Nat) (q : Qp) (expired : Bool) (s : State),
    let ch := s.ch c
    let sib := s.ch (sibling c)
    let d := ch.domain
    let host : Prop := s.ptd.hostUp = true ∧ s.ptd.qp? qp = some q ∧ q.error = false ∧ q.target = 2
    let acked (i : Instr) (t : State) : Prop := exec i s = .next (t.emit (.rdmaAck qp))
    let on := Instr.ptdChpwrOn (.host qp) c expired
    let off := Instr.ptdChpwrOff (.host qp) c
    let locked : Prop := ch.tripLock = true ∧ expired = false
    let unlocked : Channel := { ch with tripLock := if expired then false else ch.tripLock }
    let reborn : ChState := if ch.refclkOk then .boot else .reset
    let gone : Prop := d.st = .draining ∧ ch.pss.stream = none ∧ ch.pss.stopping = false
    let wakes (t : State) (h : Channel) : Prop :=
      t = s.lost c (t.ch c) ∧ { h with domain := { st := .waking } }.isReset (t.ch c) c s.ptd reborn
    (host → locked → acked on { s with ptd := { s.ptd with accessNak := satAdd s.ptd.accessNak 1 } }) ∧
    (host → ¬ locked → d.st = .off → ∃ t, acked on t ∧ wakes t unlocked) ∧
    (host → ¬ locked → d.st ≠ .off → acked on (s.setCh c { unlocked with domain :=
      { d with wakePending := if d.st = .draining then true else d.wakePending
               offPending := if d.st = .waking then false else d.offPending } })) ∧
    (host → (d.st = .active ∨ d.st = .idle) → ∃ t, acked off t ∧ ch.drains (t.ch c) ∧ t.ch (sibling c) = sib ∧ t.sup = s.sup ∧
      t.out = s.out ∧ t.ptd.events = s.ptd.events) ∧
    (host → d.st ≠ .active → d.st ≠ .idle → acked off (s.setCh c { ch with domain :=
      { d with offPending := if d.st = .waking then true else d.offPending
               wakePending := if d.st = .draining then false else d.wakePending } })) ∧
    (¬ gone → exec (.domainDrainDone c 0xFF) s = .next s) ∧
    (gone → d.wakePending = false → exec (.domainDrainDone c 0xFF) s = .next (s.lost c (ch.unpowered s.ptd))) ∧
    (gone → d.wakePending = true → ∃ t, exec (.domainDrainDone c 0xFF) s = .next t ∧ t.ch (sibling c) = sib ∧
      (t.ch c).domain = { st := .waking } ∧ (t.ch c).chn.state = reborn ∧ (t.ch c).mem = {} ∧ (t.ch c).pss = {} ∧
      t.ptd.events = (s.lost c ch).ptd.events) ∧
    ((d.st ≠ .waking ∨ ch.chn.state = .reset ∨ ch.chn.state = .boot) → exec (.domainWakeDone c 0xFF) s = .next s) ∧
    (d.st = .waking → ch.chn.state ≠ .reset → ch.chn.state ≠ .boot → d.offPending = false →
      exec (.domainWakeDone c 0xFF) s = .next (s.setCh c { ch with domain := { st := .active } })) ∧
    (d.st = .waking → ch.chn.state ≠ .reset → ch.chn.state ≠ .boot → d.offPending = true →
      ∃ t, exec (.domainWakeDone c 0xFF) s = .next t ∧ ch.drains (t.ch c) ∧ t.ch (sibling c) = sib ∧ t.sup = s.sup) ∧
    (d.st ≠ .waking → exec (.domainWakeFail c 0xFF) s = .next s) ∧
    (d.st = .waking → exec (.domainWakeFail c 0xFF) s = .next { s.lost c (ch.unpowered s.ptd) with
      ptd := (s.lost c ch).ptd.raise 0x9006 }) ∧
    (d.st = .off → exec (.channelReset c) s = .next s) ∧
    (d.st ≠ .off → ∃ t, exec (.channelReset c) s = .next t ∧ t = s.lost c (t.ch c) ∧ ch.isReset (t.ch c) c s.ptd reborn)

/-- R361, R406: the end of boot, and LEAVE. The first check that fails leaves the channel in RECOVERY under its cause with BOOT_RECOVERY; otherwise it enters CALIBRATE
with its measurements taken and the cores of the repair map bad. A failed self-test leaves it in BOOT. LEAVE of a channel without a stream withdraws its windows at once;
of one with a stream it asks for the unload; in RESET, BOOT and RECOVERY it does nothing. -/
def Obligations.BootAndLeave : Prop :=
  ∀ (c : ChanId) (testsOk : Bool) (s : State),
    let ch := s.ch c
    let y := ch.ser
    let cause := y.bootCause
    let i := Instr.bootComplete c testsOk
    let atEnd : Prop := ch.chn.state = .boot ∧ ch.domain.st ≠ .off ∧ ch.sec.selftestFail = false
    let quiet : Prop := ch.pendingBits 0 = 0 ∧ ch.pendingBits 2 = 0
    let leave := Instr.cfgLeave c .firmware
    let gone (k : Channel) : Prop := k.chn = { ch.chn with state := .leaving } ∧ k.pss.withdrawn = true ∧ k.pss.winOpen = false ∧
      k.cfg = { ch.cfg with left := true } ∧ k.events = (ch.raise c 0x9007).events
    (¬ atEnd → exec i s = .next s) ∧
    (atEnd → testsOk = false → exec i s = .next (s.setCh c { ch with sec := { ch.sec with selftestFail := true } })) ∧
    (atEnd → testsOk = true → cause ≠ .none → quiet → ∃ t, exec i s = .next t ∧ (t.ch c).chn = { ch.chn with state := .recovery } ∧
      (t.ch c).sec.cause = cause ∧ (t.ch c).sec.keys = y.pufOk ∧ (t.ch c).sec.lifecycle = y.lc.lc ∧ (t.ch c).sec.mr = ch.sec.mr ∧
      (t.ch c).mem = ch.mem ∧ (t.ch c).wrn = ch.wrn ∧ (t.ch c).ser = y ∧ onlyChannelSent c s t) ∧
    (atEnd → testsOk = true → cause = .none → quiet → ∃ t, exec i s = .next t ∧ (t.ch c).chn.state = .calibrate ∧
      (t.ch c).sec.cause = .none ∧ (t.ch c).sec.keys = y.pufOk ∧ (t.ch c).sec.lifecycle = y.lc.lc ∧ (t.ch c).sec.imageSvn = y.image.svn ∧
      smGet 0 (t.ch c).sec.mr 0 = extendMr (extendMr (smGet 0 ch.sec.mr 0) y.image.bodyDigest) y.image.headerDigest ∧
      smGet 0 (t.ch c).sec.mr 3 = extendMr (smGet 0 ch.sec.mr 3) y.lc.digest ∧ smGet 0 (t.ch c).sec.mr 7 = smGet 0 ch.sec.mr 7 ∧
      (∀ p ∈ y.repair.bad, (t.ch c).goodCore p = false) ∧ (∀ p : Nat, p ∉ y.repair.bad → (t.ch c).goodCore p = ch.goodCore p) ∧
      (y.calSlot = none → (t.ch c).cfg.calBad = true) ∧
      (t.ch c).ledg.grantedW = BitVec.ofNat 10
        (grantLimit ((t.ch c).limitAt 0) (s.ch (sibling c)).ledg.grantedW.toNat (t.ch c).thermalCap (s.ch (sibling c)).on) ∧
      (∀ e ∈ y.calSlot, (t.ch c).ledg.k = BitVec.ofNat 18 (e.k.getD 0x10000) ∧ (t.ch c).cfg.calBad = ch.cfg.calBad) ∧
      (t.ch c).mem = ch.mem ∧ (t.ch c).wrn = ch.wrn ∧ (t.ch c).ser = y ∧ onlyChannelSent c s t) ∧
    (fwReady s c → (ch.chn.state = .loaded ∨ ch.chn.state = .running) → ch.upd.inStep = false → ∃ t, regWrites leave c s t ∧
      (t.ch c).cfg = { ch.cfg with leaveReq := true } ∧ (t.ch c).pss.unloadReq = true ∧ (t.ch c).chn = ch.chn ∧
      (ch.pss.phase ≠ .verifying → (t.ch c).pss = { ch.pss with unloadReq := true }) ∧
      (ch.pss.phase = .verifying → (t.ch c).pss =
        { ch.pss with unloadReq := true, phase := ch.pss.verifyFrom, code := 3, section_ := 0xFFF, detail := 0 }) ∧
      t = s.setCh c { ch with cfg := (t.ch c).cfg, pss := (t.ch c).pss }) ∧
    (fwReady s c → (ch.chn.state = .calibrate ∨ ch.chn.state = .joined) → ∃ t, regWrites leave c s t ∧ gone (t.ch c) ∧
      t = s.setCh c { ch with chn := (t.ch c).chn, cfg := (t.ch c).cfg, pss := (t.ch c).pss, events := (t.ch c).events
                              beat := { ch.beat with raised := (t.ch c).beat.raised } }) ∧
    (fwReady s c → ch.chn.state = .leaving → regWrites leave c s s)

/-! ### Streams, and the core health services (R302 to R310, R339 to R350) -/

/-- R302, R303, R305, R306, R309, R310: LOAD takes the settings of the moment and starts verification, or shows STATE; START sets the first boundary, two beats on at
the earliest; UNLOAD asks for the boundary. At the end of verification a stream that passes extends MR4 and is applied, or waits for its swap while beats run; a refusal
shows its code, section and detail, raises STREAM_REJECTED, and leaves a channel without beats JOINED and EMPTY. -/
def Obligations.StreamsLoadStartAndUnload : Prop :=
  ∀ (c : ChanId) (signer : Option Key) (e : LoadFail) (f : List Byte) (st : Stream) (r : State) (s : State),
    let ch := s.ch c
    let p := ch.pss
    let loadable : Prop := ch.chn.state = .joined ∨ ch.chn.state = .loaded ∨ ch.chn.state = .running
    let first := max p.startBeat.toNat (ch.beat.number.toNat + 2)
    let verify := Instr.streamVerifyDone c signer
    let h := r.ch c
    let measured : Channel := { h with sec := h.sec.extend 4 (hdrDigest f) }
    let refused (t : State) (k : Channel) : Prop := (t.ch c).pss.code = BitVec.ofNat 8 e.1 ∧ (t.ch c).pss.section_ = BitVec.ofNat 12 e.2.1 ∧
      (t.ch c).pss.detail = BitVec.ofNat 32 e.2.2 ∧ (t.ch c).events = (k.raise c 0x4009).events ∧ (t.ch c).sec = k.sec ∧
      (t.ch c).mem = k.mem ∧ (t.ch c).tsk.tasks = k.tsk.tasks ∧ onlyChannel c r t ∧
      (k.running = true → (t.ch c).pss.stream = k.pss.stream ∧ (t.ch c).chn = k.chn ∧ (t.ch c).pss.phase = k.pss.verifyFrom) ∧
      (k.running = false → k.chn.state ≠ .leaving → (t.ch c).pss.stream = none ∧ (t.ch c).pss.winOpen = false ∧
        (t.ch c).chn = { k.chn with state := .joined } ∧ (k.pss.verifyFrom ≠ .verifying → (t.ch c).pss.phase = .empty))
    (fwReady s c → loadable → p.phase ≠ .verifying → regWrites (.pssLoad c .firmware) c s (s.setCh c { ch with pss := { p with
      swapPending := false, pendingStream := none, loadSettings := ch.sec.settings, verifyFrom := p.phase, phase := .verifying
      code := 2, section_ := 0xFFF, detail := 0 } })) ∧
    (fwReady s c → (¬ loadable ∨ p.phase = .verifying) → regWrites (.pssLoad c .firmware) c s (s.setCh c { ch with pss := { p with
      code := 3, section_ := 0xFFF, detail := 0 } })) ∧
    (fwReady s c → ch.chn.state ≠ .loaded → regWrites (.pssStart c .firmware) c s s) ∧
    (fwReady s c → ch.chn.state = .loaded → ∃ t, regWrites (.pssStart c .firmware) c s t ∧ (t.ch c).beat.startAt = some first ∧
      (first = p.startBeat.toNat → t = s.setCh c { ch with beat := { ch.beat with startAt := some first } }) ∧
      (p.startBeat.toNat < first → (t.ch c).events = (ch.raise c 0x400C).events ∧ t = s.setCh c { ch with
        pss := { p with startLate := true }, events := (t.ch c).events
        beat := { ch.beat with startAt := some first, raised := (t.ch c).beat.raised } })) ∧
    (fwReady s c → regWrites (.pssUnload c .firmware) c s (if ch.chn.state = .loaded ∨ ch.chn.state = .running then
      s.setCh c { ch with pss := { p with unloadReq := true } } else s)) ∧
    (p.phase ≠ .verifying → exec verify s = .next s) ∧
    (p.phase = .verifying → s.readStream c = (r, .inl e) → ∃ t, exec verify s = .next t ∧ refused t h) ∧
    (p.phase = .verifying → s.readStream c = (r, .inr f) → measured.verifyContent c f signer = .inl e →
      ∃ t, exec verify s = .next t ∧ refused t measured) ∧
    (p.phase = .verifying → s.readStream c = (r, .inr f) → measured.verifyContent c f signer = .inr st → h.running = true →
      exec verify s = .next (r.setCh c { measured with pss := { h.pss with
        phase := h.pss.verifyFrom, pendingStream := some st, swapPending := true } })) ∧
    (p.phase = .verifying → s.readStream c = (r, .inr f) → measured.verifyContent c f signer = .inr st → h.running = false →
      ∃ t, exec verify s = .next t ∧ (t.ch c).chn.state = .loaded ∧ (t.ch c).pss.stream = some st ∧ (t.ch c).pss.phase = .loaded ∧
        (t.ch c).pss.code = 1 ∧ (t.ch c).pss.swapPending = false ∧ (t.ch c).tsk.tasks = [] ∧ (t.ch c).tsk.offers = [] ∧
        (t.ch c).sec = measured.sec ∧ (t.ch c).mem.hbm = h.mem.hbm ∧ onlyChannel c r t) ∧
    (hbmSize < p.src.toNat + p.len.toNat → s.readStream c = (s, .inl (7, 0xFFF, 0))) ∧
    (p.src.toNat + p.len.toNat ≤ hbmSize → ch.mem.hbmPoison = [] → ch.mem.hbmErr = [] →
      headerFail c p.len.toNat (ch.hbmBytes p.src.toNat 256) = none → s.readStream c = (s,
        if fileDigest (ch.hbmBytes p.src.toNat p.len.toNat) = hdrDigest (ch.hbmBytes p.src.toNat p.len.toNat)
        then .inr (ch.hbmBytes p.src.toNat p.len.toNat) else .inl (8, 0xFFF, 0x20)))

/-- R339, R340, R344, R345, R347, R349: an Owl chunk whose signature agrees counts and, as the last, completes a full pass; one that disagrees fails the core, which is to be
fenced. A bound core past its deadline raises OWL_LATE. A second-path report opens an incident on the core bound now, samples it whole and hurries Owl, or coalesces into one. At the end of
its hold-off a unit's incident closes, permanent beyond K incidents in the window and transient otherwise; a core's closes as transient unless its own work incriminated
it. -/
def Obligations.OwlAndBadgerJudgeUnits : Prop :=
  ∀ (c : ChanId) (rerunsOk : Bool) (p : Nat) (v : U64) (u : SuspectUnit) (i : Incident) (s : State),
    let ch := s.ch c
    let q := ch.owl.pcore.toNat
    let h := ch.health q
    let chunk (ok : Bool) := Instr.owlChunkDone c ok rerunsOk
    let late : Prop := ch.running = true ∧ ch.owl.en = true ∧ (ch.lcoreOf p).isSome = true ∧
      max (ch.health p).owlBeat.toNat ch.beat.tmplStart + ch.passBeats ≤ ch.beat.number.toNat
    let l := bits v 6 0
    let named := (ch.pcoreOf l).getD l
    let expiry := Instr.holdoffExpiry c u
    let found : Prop := ch.bdg.incidents.find? (fun (j : Incident) => !j.closed && j.unit == u) = some i
    let past : Prop := i.opened + ch.bdg.holdoff.toNat ≤ ch.beat.number.toNat
    let closes (t : State) (cls : U8) : Prop := (∀ j ∈ (t.ch c).bdg.incidents, j.unit = u → j.closed = true) ∧
      (t.ch c).bdg.incidents.length = ch.bdg.incidents.length ∧
      (t.ch c).bdg.lastRec = { i.record with cls := cls, count := BitVec.ofNat 16 (min i.count 0xFFFF) } ∧
      (t.ch c).events = (ch.raise c (if cls = 2 then 0x7004 else 0x7005)).events ∧ (t.ch c).mem = ch.mem ∧ onlyChannel c s t
    (ch.owl.busy = false → exec (chunk true) s = .next s ∧ exec (chunk false) s = .next s) ∧
    (ch.owl.busy = true → h.owlNext.toNat < 63 → ∃ t, exec (chunk true) s = .next t ∧
      (t.ch c).health q = { h with owlUrgent := false, owlNext := h.owlNext + 1 } ∧
      (∀ n : Nat, n ≠ q → (t.ch c).health n = ch.health n) ∧
      t = s.setCh c { ch with bdg := { ch.bdg with cores := (t.ch c).bdg.cores }
                              owl := { ch.owl with busy := false, chunksRun := wrapAdd ch.owl.chunksRun 1 } }) ∧
    (ch.owl.busy = true → h.owlNext = 63 → h.retest = false → ∃ t, exec (chunk true) s = .next t ∧
      ((t.ch c).health q).owlNext = 0 ∧ ((t.ch c).health q).owlBeat = ch.beat.number ∧
      (h.beatClean.toNat < ch.beat.number.toNat → ((t.ch c).health q).beatClean = ch.beat.number ∧
        ((t.ch c).health q).stepClean = ch.upd.sJob) ∧
      (ch.beat.number.toNat ≤ h.beatClean.toNat → ((t.ch c).health q).beatClean = h.beatClean) ∧
      (∀ n : Nat, n ≠ q → (t.ch c).health n = ch.health n) ∧
      t = s.setCh c { ch with bdg := { ch.bdg with cores := (t.ch c).bdg.cores }
                              owl := { ch.owl with
                                busy := false, chunksRun := wrapAdd ch.owl.chunksRun 1, passes := satAdd ch.owl.passes 1 } }) ∧
    (ch.owl.busy = true → h.retest = false → ∃ t, exec (chunk false) s = .next t ∧ ((t.ch c).health q).fencePending = true ∧
      ((t.ch c).health q).owlNext = 0 ∧
      (t.ch c).owl = { ch.owl with busy := false, chunksRun := wrapAdd ch.owl.chunksRun 1, fail := true, fails := satAdd ch.owl.fails 1 } ∧
      (h.taint = [] → (t.ch c).mem = ch.mem ∧ onlyChannel c s t)) ∧
    (¬ late → exec (.owlPassDeadline c p) s = .next s) ∧
    (late → exec (.owlPassDeadline c p) s = .next (s.setCh c ({ ch with owl := { ch.owl with late := true } }.raise c 0x700D))) ∧
    (fwReady s c → ch.bdg.intake < 256 →
      (∀ j ∈ ch.bdg.incidents, ch.takesIn j = true → incidentNames j (.core named) (some l) = false) → ch.fencedCore named = false →
      ∃ t, regWrites (.bdgReportWrite c .firmware v) c s t ∧
        (∃ n : Incident, (t.ch c).bdg.incidents = (ch.bdg.incidents.filter fun j => ch.inHoldoff j || !j.closed) ++ [n] ∧ n.unit = .core named ∧
          n.secondPath = some l ∧ n.opened = ch.beat.number.toNat ∧ n.closed = false ∧ (t.ch c).bdg.lastRec = n.record) ∧
        (t.ch c).bdg.incidentsCnt = satAdd ch.bdg.incidentsCnt 1 ∧ (t.ch c).bdg.intake = ch.bdg.intake + 1 ∧
        (t.ch c).health named = { ch.health named with
          sampleAll := ch.beat.number.toNat + ch.bdg.holdoff.toNat, owlUrgent := true } ∧
        (∀ n : Nat, n ≠ named → (t.ch c).health n = ch.health n) ∧ (t.ch c).events = (ch.raise c 0x7002).events ∧
        (t.ch c).mem = ch.mem ∧ (t.ch c).tsk = ch.tsk ∧ onlyChannel c s t) ∧
    (fwReady s c → ch.bdg.intake < 256 →
      (∃ j ∈ ch.bdg.incidents, ch.takesIn j = true ∧ incidentNames j (.core named) (some l) = true) →
      ∃ t, regWrites (.bdgReportWrite c .firmware v) c s t ∧
        (t.ch c).bdg = { ch.bdg with
          incidents := (t.ch c).bdg.incidents, intake := ch.bdg.intake + 1, reports := satAdd ch.bdg.reports 1
          coalesced := satAdd ch.bdg.coalesced 1 } ∧
        (t.ch c).bdg.incidents.length = ch.bdg.incidents.length ∧ (t.ch c).events = ch.events ∧ (t.ch c).mem = ch.mem ∧ onlyChannel c s t) ∧
    (fwReady s c → 256 ≤ ch.bdg.intake → ∃ t, regWrites (.bdgReportWrite c .firmware v) c s t ∧
      (t.ch c).bdg = { ch.bdg with dropped := satAdd ch.bdg.dropped 1, intakeDrop := true } ∧
      (t.ch c).events = (ch.raise c 0x7008).events ∧ onlyChannel c s t) ∧
    ((∀ j ∈ ch.bdg.incidents, j.closed = true ∨ j.unit ≠ u) → exec expiry s = .next s) ∧
    (found → ¬ past → exec expiry s = .next s) ∧
    (found → past → (∀ n : Nat, u ≠ .core n) → (∀ a b : Nat, u ≠ .remoteCore a b) →
      ∃ t, exec expiry s = .next t ∧ closes t (if ch.bdg.k.toNat < ch.unitIncidents u then 2 else 1)) ∧
    (∀ n : Nat, found → past → u = .core n → i.pair = none → (ch.health n).fencePending = false → (ch.health n).retest = false →
      (ch.health n).permanent = false → ∃ t, exec expiry s = .next t ∧ closes t 1 ∧
        (t.ch c).health n = { ch.health n with transients := (ch.health n).transients ++ [BitVec.ofNat 32 ch.utcNow] }) ∧
    (∀ n : Nat, found → past → u = .core n → (i.pair.isSome = true ∨ (ch.health n).fencePending = true ∨ (ch.health n).retest = true ∨
      (ch.health n).permanent = true) → exec expiry s = .next s)

/-! ### The security island (R355 to R372) -/

/-- R357, R369 to R372: a failed entropy test refuses what needs random bits until the source recovers; REQ draws a fresh nonce for a level, only from CLOSED; SUBMIT consumes
nonce and token whatever comes of it, is refused with the lowest cause in check order or opens the session, and INVASIVE ends keys, session and links; LOCK and the
expiry of DURATION close the session, an INVASIVE one with a channel reset. -/
def Obligations.DebugSessionsOpenAndClose : Prop :=
  ∀ (c : ChanId) (v : U64) (sigOk : Bool) (s : State),
    let ch := s.ch c
    let x := ch.sec
    let t3 := unitOf c
    let req := Instr.dbgReq t3 .firmware v
    let submit := Instr.dbgSubmit t3 .firmware sigOk
    let lock := Instr.dbgLock t3 .firmware
    let level : DebugLevel := if v.toNat % 4 = 1 then .observe else .invasive
    let asks : Prop := v.toNat % 4 = 1 ∨ v.toNat % 4 = 2
    let lvl := x.tok 4 1
    let dur := x.tok 8 4
    let signer := x.tok 5 1
    let permitted : Bool := if x.lifecycle = .field ∧ lvl = 1 then (signer == 1 && x.settings.ownerDebug.isSome) || (signer == 0 && x.reqVendor)
      else signer == 0
    let stateOk : Bool := ch.chn.state == .recovery || ch.chn.state == .calibrate || (ch.chn.state == .joined && ch.pss.phase == .empty)
    let checks : List (Nat × Bool) := [
      (1, x.tok 0 4 != 0x54444650 || x.tok 6 2 != 0 || x.tok 0xC 4 != 0 || x.tok 0x70 16 != 0 || dur == 0 || decide (86400 < dur)),
      (2, lvl == 0 || x.reqLevel.map (·.code) != some lvl), (3, !permitted), (4, !x.keys || x.tok 0x30 64 != x.idkHash.toNat),
      (5, x.nonce.map (·.toNat) != some (x.tok 0x10 32)), (6, !sigOk), (7, lvl == 2 && !stateOk), (8, ch.unlockPower),
      (9, lvl == 2 && x.lifecycle == .field && !x.reqInvasive), (0xA, x.entropyFail)]
    let cause := (checks.find? (·.2)).map (·.1)
    let used : Sec := { x with token := [], nonce := none, reqLevel := none }
    let opened : Sec := ({ used with dbgLevel := if lvl = 2 then .invasive else .observe, remainS := BitVec.ofNat 32 dur
                                     dbgOpens := satAdd x.dbgOpens 1 } : Sec).extend 3 x.tokenDigest
    let withSec (t : State) (y : Sec) (code : Nat) : Prop := (t.ch c).sec = y ∧ (t.ch c).events = (ch.raise c code).events ∧
      t = s.setCh c { ch with sec := y, events := (t.ch c).events, beat := { ch.beat with raised := (t.ch c).beat.raised } }
    let reborn : ChState := if ch.refclkOk then .boot else .reset
    let ends (t : State) : Prop :=
      (x.dbgLevel = .closed → t = s) ∧
      (x.dbgLevel = .observe → withSec t (({ x with dbgLevel := .closed, remainS := 0, reqLevel := none, nonce := none } : Sec).extend 3
        (BitVec.allOnes 512)) 0x8005) ∧
      (x.dbgLevel = .invasive → t = s.lost c (t.ch c) ∧ ch.isReset (t.ch c) c s.ptd reborn)
    (ch.domain.st = .off → exec (.entropyHealthFail c) s = .next s ∧ exec (.entropyRecover c) s = .next s) ∧
    (ch.domain.st ≠ .off → ∃ t, exec (.entropyHealthFail c) s = .next t ∧ withSec t { x with entropyFail := true } 0x8002) ∧
    (ch.domain.st ≠ .off → exec (.entropyRecover c) s = .next (s.setCh c { ch with sec := { x with entropyFail := false } })) ∧
    (fwReady s c → asks → x.selftestFail = false → x.dbgLevel ≠ .closed →
      regWrites req c s (s.setCh c { ch with sec := { x with dbgCause := 7 } })) ∧
    (fwReady s c → asks → x.selftestFail = false → x.dbgLevel = .closed → x.entropyFail = true →
      regWrites req c s (s.setCh c { ch with sec := { x with dbgCause := 0xA, nonce := none, reqLevel := none } })) ∧
    (fwReady s c → asks → x.selftestFail = false → x.dbgLevel = .closed → x.entropyFail = false →
      regWrites req c s { s.setCh c { ch with sec := { x with
        nonce := some (BitVec.ofNat 256 (Config.drbg s.free)), reqLevel := some level
        reqInvasive := x.settings.invasiveAllow, reqVendor := x.settings.vendorObserve } } with free := s.free + 1 }) ∧
    (∀ k : Nat, fwReady s c → x.selftestFail = false → cause = some k → ∃ t, regWrites submit c s t ∧
      withSec t { used with dbgCause := BitVec.ofNat 8 k, dbgRefused := satAdd x.dbgRefused 1 } 0x8004) ∧
    (fwReady s c → x.selftestFail = false → cause = none → lvl ≠ 2 → ∃ t, regWrites submit c s t ∧ withSec t opened 0x8003) ∧
    (fwReady s c → x.selftestFail = false → cause = none → lvl = 2 → (∀ l : LinkId, (ch.link l.val).queue = []) →
      ∃ t, regWrites submit c s t ∧ (t.ch c).sec = { opened with keys := false, session := {}, pufGated := true } ∧
        (∀ l : LinkId, (t.ch c).linkSt l = .down) ∧ (t.ch c).mem = ch.mem ∧ (t.ch c).chn = ch.chn ∧
        t.ch (sibling c) = s.ch (sibling c) ∧ t.sup = s.sup ∧ t.ptd.events = s.ptd.events) ∧
    (fwReady s c → ∃ t, regWrites lock c s t ∧ ends t) ∧
    (∃ t, exec (.dbgSessionExpiry t3) s = .next t ∧ ends t) ∧
    (s.ptd.sec.dbgLevel = .closed → exec (.dbgSessionExpiry 2) s = .next s) ∧
    (s.ptd.sec.dbgLevel = .observe → exec (.dbgSessionExpiry 2) s = .next { s with
      ptd := { s.ptd with sec := s.ptd.sec.close }.raise 0x8005 })

/-! ### Mailbox services, sessions and installations (R362 to R368, R381 to R384, R398 to R402) -/

/-- R364, R365, R382 to R384, R401: QUOTE writes its body and signature to HBM and counts; MR_EXTEND extends MR6 or MR7 alone; a firmware opcode is answered; HELLO, KEM and
FINISH bring a secure QP to a bound session, by a key the channel knows, one session at a time; whatever the command does not take is answered
with its refusal. A mailbox without the request is left alone. -/
def Obligations.MailboxServicesAnswer : Prop :=
  ∀ (c : ChanId) (box : Fin 10) (nb : Fin 8) (sigOk vendor : Bool) (index : U8) (s : State),
    let ch := s.ch c
    let m := box.val
    let b := ch.payload m
    let quote := Instr.mbxQuote c box none
    let extend := Instr.mbxMrExtend c box none
    let off := natAt b 64 8
    let i := natAt b 0 1
    let plain (k op : Nat) : Prop := ch.requested k op ∧ ch.boxBound k = false
    let hello := Instr.sessionHello c vendor index
    let kem := Instr.sessionKem c sigOk
    let finish := Instr.sessionFinish c
    let ses := ch.sec.session
    let hs (op : Nat) : Prop := plain 8 op ∧ ch.single 8
    let mine (stage : Nat) : Prop := ses.stage = stage ∧ (ch.box 8).qp = some ses.qp
    let barred : Prop := ch.sec.entropyFail = true ∨ ch.sec.dbgLevel = .invasive ∨ ch.sec.keys = false
    let answers (x : Instr) (status : Nat) (y : Session) : Prop := ∃ t, exec x s = .next t ∧ ch.answered (t.ch c) 8 status ∧
      (t.ch c).sec = { ch.sec with session := y } ∧ (t.ch c).mem = ch.mem ∧ (t.ch c).ser = ch.ser ∧ t.ptd = s.ptd ∧ onlyChannelSent c s t
    let opens (key : Option Key) (v u : Bool) : Prop := answers hello 0
      { stage := 1, qp := ((ch.box 8).qp).getD 0, key := key, vendor := v, unclaimed := u }
    (¬ ch.requested m 1 → exec quote s = .next s) ∧ (¬ ch.requested m 2 → exec extend s = .next s) ∧
    (¬ ch.requested 8 0x10 → exec hello s = .next s) ∧ (¬ ch.requested 8 0x11 → exec kem s = .next s) ∧
    (¬ ch.requested 8 0x12 → exec finish s = .next s) ∧
    (plain m 1 → b.length = 72 → off + 5395 ≤ hbmSize → ∃ t, exec quote s = .next t ∧ ch.answered (t.ch c) m 0 ∧
      (t.ch c).sec = { ch.sec with quotes := satAdd ch.sec.quotes 1 } ∧
      (ch.mem.hbmPoison = [] → (t.ch c).hbmBytes off 768 = ch.quoteBody c (b.take 64) ∧
        (ch.sec.keys = false → (t.ch c).hbmBytes (off + 768) 4627 = List.replicate 4627 0)) ∧
      (∀ a : Nat, (a < off ∨ off + 5395 ≤ a) → smGet 0 (t.ch c).mem.hbm a = smGet 0 ch.mem.hbm a) ∧
      (t.ch c).mem.sram = ch.mem.sram ∧ onlyChannelSent c s t) ∧
    (plain m 1 → (b.length ≠ 72 ∨ hbmSize < off + 5395) → ∃ t, exec quote s = .next t ∧ ch.answered (t.ch c) m 0xA002 ∧
      (t.ch c).sec = ch.sec ∧ (t.ch c).mem = ch.mem ∧ onlyChannelSent c s t) ∧
    (plain m 2 → b.length = 65 → (i = 6 ∨ i = 7) → ∃ t, exec extend s = .next t ∧ ch.answered (t.ch c) m 0 ∧
      smGet 0 (t.ch c).sec.mr i = sha3 (leBytes 64 (smGet 0 ch.sec.mr i).toNat ++ leBytes 64 (natAt b 1 64)) ∧
      (∀ k : Nat, k ≠ i → smGet 0 (t.ch c).sec.mr k = smGet 0 ch.sec.mr k) ∧ (t.ch c).mem = ch.mem ∧
      (t.ch c).sec = { ch.sec with mr := (t.ch c).sec.mr } ∧ onlyChannelSent c s t) ∧
    (plain m 2 → (b.length ≠ 65 ∨ (i ≠ 6 ∧ i ≠ 7)) → ∃ t, exec extend s = .next t ∧ ch.answered (t.ch c) m 0xA002 ∧
      (t.ch c).sec = ch.sec ∧ (t.ch c).mem = ch.mem ∧ onlyChannelSent c s t) ∧
    ((∀ op : Nat, 0x8000 ≤ op → ¬ ch.requested nb.val op) → exec (.mbxFirmwareOpcode c nb) s = .next s) ∧
    (∀ op : Nat, 0x8000 ≤ op → ch.requested nb.val op → ∃ (status : Nat) (t : State), exec (.mbxFirmwareOpcode c nb) s = .next t ∧
      ch.answered (t.ch c) nb.val status ∧ (t.ch c).mem = ch.mem ∧ (t.ch c).sec = ch.sec ∧ onlyChannelSent c s t) ∧
    (hs 0x10 → ses.stage = 3 → answers hello 0xA003 ses) ∧
    (hs 0x10 → ses.stage ≠ 3 → (barred ∨ ch.helloKey vendor index = .refused) → answers hello 0xA004 ses) ∧
    (hs 0x10 → ses.stage ≠ 3 → ¬ barred → (ch.helloKey vendor index = .vendor → opens none true false) ∧
      (ch.helloKey vendor index = .unclaimed → opens none false true) ∧
      (∀ k : Key, ch.helloKey vendor index = .owner k → opens (some k) false false)) ∧
    (hs 0x11 → mine 1 → (sigOk = true ∨ ses.unclaimed = true) → answers kem 0 { ses with stage := 2 }) ∧
    (hs 0x11 → ses.stage ≠ 3 → (¬ mine 1 ∨ (sigOk = false ∧ ses.unclaimed = false)) → answers kem 0xA004 {}) ∧
    (hs 0x12 → ses.stage ≠ 3 → ¬ mine 2 → answers finish 0xA004 {}) ∧
    (hs 0x12 → mine 2 → ∃ t, exec finish s = .next t ∧ ch.answered (t.ch c) 8 0 ∧
      (t.ch c).sec = { ch.sec with session := { ses with stage := 3 } } ∧ (t.ch c).mem = ch.mem ∧
      t.ptd = s.ptd.onQp ses.qp (fun q => { q with bound := true }) ∧ t.ch (sibling c) = s.ch (sibling c) ∧ t.sup = s.sup)

/-- R360 to R363, R367, R368, R383, R398 to R401: over a bound session a firmware image or repair map that verifies starts being written and is answered; a lifecycle record that
may follow takes its place, advances LC_SEQ and resets the channel; settings advance SET_SEQ into the slot not in effect, and are in effect. What does not verify leaves
serial memory as it was and counts; a payload that fails GCM ends the session. The end of a write puts the image in place, and resets a channel in RECOVERY. -/
def Obligations.InstallsAreVerifiedFirst : Prop :=
  ∀ (c : ChanId) (box : Fin 2) (obj : List Byte) (bad : List Nat) (sigOk : Bool) (r : LcRecord) (l : List (Nat × List Byte)) (s : State),
    let ch := s.ch c
    let m := 8 + box.val
    let y := ch.ser
    let ses := ch.sec.session
    let fw := Instr.fwInstall c box (some obj) sigOk
    let repair := Instr.repairInstall c box (some obj) bad sigOk
    let life := Instr.lifecycleInstall c box (some obj) sigOk
    let set := Instr.settingsWrite c box (some obj)
    let img := imageOf obj sigOk
    let imgOk : Prop := img.headerOk = true ∧ sigOk = true ∧ y.fwSvn.toNat ≤ img.svn.toNat
    let taken (op : Nat) : Prop := ch.requested m op ∧ ch.secured m ∧ ch.single m
    let may : Prop := ses.unclaimed = false ∧ (ch.chn.state = .recovery → ch.sec.recKeyOk = true)
    let done (i : Instr) (x : Serial) : Prop := ∃ t, exec i s = .next t ∧ ch.answered (t.ch c) m 0 ∧ (t.ch c).ser = x ∧
      (t.ch c).mem = ch.mem ∧ (t.ch c).chn = ch.chn ∧ onlyChannelSent c s t
    let refuses (i : Instr) (code : Nat) (count : Bool) : Prop := ∃ t, exec i s = .next t ∧ ch.answered (t.ch c) m code ∧ (t.ch c).ser = y ∧
      (t.ch c).sec.installBad = (if count then satAdd ch.sec.installBad 1 else ch.sec.installBad) ∧
      (t.ch c).sec.settings = ch.sec.settings ∧ (t.ch c).mem = ch.mem ∧ (t.ch c).chn = ch.chn ∧ onlyChannelSent c s t
    let fails (i : Instr) : Prop := ∃ t, exec i s = .next t ∧ (t.ch c).sec.session = {} ∧ (t.ch c).box 8 = {} ∧ (t.ch c).box 9 = {} ∧
      (t.ch c).ser = y ∧ (t.ch c).mem = ch.mem
    let reborn : ChState := if ch.refclkOk then .boot else .reset
    let ends := Instr.installWriteDone c
    let into : Serial := { y with installing := .none, image := match y.installing with
      | .image i => i
      | _ => y.image }
    (taken 0x20 → may → imgOk → done fw { y with image := { headerOk := false }, installing := .image img }) ∧
    (taken 0x20 → may → ¬ imgOk → refuses fw 0x8006 true) ∧
    (taken 0x21 → may → sigOk = true → done repair { y with
      repair := { bad := bad, signatureOk := true, digest := sha3 obj }, installing := .other }) ∧
    (taken 0x21 → may → sigOk = false → refuses repair 0x8006 true) ∧
    (taken 0x22 → ses.unclaimed = false → ch.recordOk obj sigOk = none → refuses life 0x8006 true) ∧
    (taken 0x22 → ses.unclaimed = false → ch.recordOk obj sigOk = some r → ∃ t, exec life s = .next t ∧ (t.ch c).ser.lc = r ∧
      (t.ch c).ser.lcSeq = r.seq ∧ (t.ch c).ser.fwSvn = y.fwSvn ∧ (t.ch c).ser.setSeq = y.setSeq ∧
      (r.lc = .return_ → (t.ch c).ser.setA.settings = {} ∧ (t.ch c).ser.setB = {}) ∧
      (r.lc ≠ .return_ → (t.ch c).ser.setA = y.setA ∧ (t.ch c).ser.setB = y.setB) ∧ (t.ch c).chn.state = reborn ∧
      (t.ch c).sec.session = {} ∧ (t.ch c).pss = {} ∧ (t.ch c).mbx = {} ∧ (t.ch c).mem.sram = [] ∧ t.ch (sibling c) = s.ch (sibling c)) ∧
    (ses.unclaimed = true → (taken 0x20 → refuses fw 0xA004 false) ∧ (taken 0x21 → refuses repair 0xA004 false) ∧
      (taken 0x22 → refuses life 0xA004 false)) ∧
    (ch.boxBound m = true → (ch.requested m 0x20 → fails (.fwInstall c box none sigOk)) ∧
      (ch.requested m 0x21 → fails (.repairInstall c box none bad sigOk)) ∧
      (ch.requested m 0x22 → fails (.lifecycleInstall c box none sigOk)) ∧ (ch.requested m 0x30 → fails (.settingsWrite c box none))) ∧
    (taken 0x30 → tlvsOf (obj.length + 1) obj = none → refuses set 0x8008 false) ∧
    (taken 0x30 → tlvsOf (obj.length + 1) obj = some l → ses.unclaimed = false → (tlvsOk l = false ∨ ch.maySet = false ∨
      65488 < obj.length ∨ ch.chn.state = .recovery) → refuses set 0x8008 false) ∧
    (taken 0x30 → tlvsOf (obj.length + 1) obj = some l → (ses.unclaimed = true → (settingsOf l).ownerHost ≠ []) → tlvsOk l = true →
      ch.maySet = true → obj.length ≤ 65488 → ch.chn.state ≠ .recovery → y.setSeq ≠ BitVec.allOnes 32 →
      ∃ t, exec set s = .next t ∧ ch.answered (t.ch c) m 0 ∧ (t.ch c).sec.settings = settingsOf l ∧
        (t.ch c).ser.setSeq = y.setSeq + 1 ∧ (t.ch c).cfg.setSeq = y.setSeq + 1 ∧ (t.ch c).cfg.setSlot = !ch.cfg.setSlot ∧
        (let new := if ch.cfg.setSlot then (t.ch c).ser.setA else (t.ch c).ser.setB
         new.valid = true ∧ new.seq = y.setSeq + 1 ∧ new.settings = settingsOf l) ∧
        (if ch.cfg.setSlot then (t.ch c).ser.setB = y.setB else (t.ch c).ser.setA = y.setA) ∧
        (t.ch c).mem = ch.mem ∧ (t.ch c).chn = ch.chn ∧ onlyChannelSent c s t) ∧
    (y.installing = .none → exec ends s = .next s) ∧
    (y.installing ≠ .none → ch.chn.state ≠ .recovery → exec ends s = .next (s.setCh c { ch with ser := into })) ∧
    (y.installing ≠ .none → ch.chn.state = .recovery → ∃ t, exec ends s = .next t ∧ (t.ch c).ser = into ∧ (t.ch c).chn.state = reborn ∧
      (t.ch c).sec.keys = false ∧ (t.ch c).wrn.links = [] ∧ t.ch (sibling c) = s.ch (sibling c))

/-! ### The host port and the sideband (R376 to R378, R389, R390) -/

/-- R21, R376, R377, R389: through a port die that is lost nothing arrives. A connection request is answered with a QP and its rkey or rejected for the lowest reason, and one on a port without link is lost; a QP that fails stays in
error, and its mailboxes become EMPTY, or ABORTED where the channel asked; a disconnected QP is gone; an unsupported request is refused and fails its QP; a port
that loses link fails the QPs on it, and one that the settings enable gains link; a congestion notification counts and lowers the rate. -/
def Obligations.QueuePairsConnectAndFail : Prop :=
  ∀ (port : Fin 4) (target qp : Nat) (secure : Bool) (q : Qp) (s : State),
    let p := s.ptd
    let connect := Instr.cmConnectRequest port target secure
    let live : Prop := p.hostUp = true ∧ (p.port port.val).linkUp = true
    let powered : Prop := (target = 0 → s.ch0.domain.st ≠ .off) ∧ (target = 1 → s.ch1.domain.st ≠ .off)
    let badTarget : Prop := 2 < target ∨ (target = 2 ∧ secure = true)
    let rejected (k : Nat) : Prop := exec connect s = .next ({ s with ptd := { p with cmReject := satAdd p.cmReject 1 } }.emit
      (.cmReject port.val (BitVec.ofNat 8 k)))
    let fresh : Qp := { num := p.nextQp, port := port.val, target := target, secure := secure, rkey := BitVec.ofNat 32 (Config.drbg p.nextQp) }
    let known : Prop := p.qp? qp = some q
    let discarded (i : Instr) : Prop := exec i s = .next { s with ptd := { p with qpDiscard := satAdd p.qpDiscard 1 } }
    let owner (ch : Channel) (m : Nat) : Option Nat := if (ch.box m).hdr.fromChannel then some (ch.queue 1).qpn.toNat else (ch.box m).qp
    let loses (ch : Channel) (m : Nat) : Prop := ((ch.box m).hdr.st = 1 ∨ (ch.box m).hdr.st = 2 ∨ (ch.box m).hdr.st = 3) ∧ owner ch m = some qp
    let failed (t : State) : Prop := (∀ x ∈ t.ptd.qps, x.num = qp → x.error = true) ∧ t.ptd.qps.map (·.num) = p.qps.map (·.num) ∧
      t.sup = s.sup ∧ t.ptd.events = p.events ∧
      (∀ c : ChanId, q.target ≠ c.val → t.ch c = s.ch c) ∧
      (∀ c : ChanId, q.target = c.val → (t.ch c).mem = (s.ch c).mem ∧ (t.ch c).chn = (s.ch c).chn ∧
        ((s.ch c).domain.st ≠ .off → (t.ch c).events = ((s.ch c).raise c 0xA007).events) ∧
        ((s.ch c).sec.session.stage ≠ 0 → (s.ch c).sec.session.qp = qp → (t.ch c).sec.session = {}) ∧
        (∀ m : Nat, m < 8 → (loses (s.ch c) m → ((t.ch c).box m).hdr.st = if ((s.ch c).box m).hdr.fromChannel then 4 else 0) ∧
          (¬ loses (s.ch c) m → (t.ch c).box m = (s.ch c).box m)))
    (¬ live → exec connect s = .next s) ∧
    (live → 4096 ≤ p.qps.length → rejected 1) ∧
    (live → p.qps.length < 4096 → badTarget → rejected 2) ∧
    (live → p.qps.length < 4096 → ¬ badTarget → ¬ powered → rejected 3) ∧
    (live → p.qps.length < 4096 → ¬ badTarget → powered → exec connect s = .next ({ s with ptd := { p with
      qps := p.qps ++ [fresh], nextQp := p.nextQp + 1 } }.emit (.cmReply port.val fresh.num fresh.rkey))) ∧
    (p.hostUp = false → exec (.cmDisconnect qp) s = .next s ∧ exec (.rdmaUnsupported qp) s = .next s) ∧
    (p.qp? qp = none → exec (.qpError qp) s = .next s ∧ exec (.cmDisconnect qp) s = .next s) ∧
    (p.hostUp = true → (p.qp? qp = none ∨ (known ∧ q.error = true)) → discarded (.rdmaUnsupported qp)) ∧
    (known → q.error = true → exec (.qpError qp) s = .next s) ∧
    (known → q.error = false → (∃ t, exec (.qpError qp) s = .next t ∧ failed t) ∧
      (p.hostUp = true → ∃ t, exec (.rdmaUnsupported qp) s = .next t ∧ failed t ∧ s.out ++ [.rdmaNakInvalid qp] <+: t.out)) ∧
    (p.hostUp = true → known → ∃ t, exec (.cmDisconnect qp) s = .next t ∧ t.ptd.qp? qp = none ∧
      (∀ n : Nat, n ≠ qp → (t.ptd.qp? n).isSome = (p.qp? n).isSome) ∧ t.ptd.events = p.events ∧ t.ch0.mem = s.ch0.mem ∧ t.ch1.mem = s.ch1.mem) ∧
    ((p.hostUp = false ∨ (∀ e ∈ p.sec.settings.netPorts, e.1 ≠ port.val)) → exec (.ethPortLinkUp port) s = .next s) ∧
    (p.hostUp = true → (∃ e ∈ p.sec.settings.netPorts, e.1 = port.val) → ∃ t, exec (.ethPortLinkUp port) s = .next t ∧
      t.ptd.port port.val = { p.port port.val with linkUp := true } ∧
      (∀ n : Nat, n ≠ port.val → t.ptd.port n = p.port n) ∧ t.ptd.qps = p.qps ∧ t.sup = s.sup ∧ t.ch0.mem = s.ch0.mem ∧ t.ch1.mem = s.ch1.mem) ∧
    (∃ t, exec (.ethPortLinkDown port) s = .next t ∧ t.ptd.port port.val = { p.port port.val with linkUp := false, fecUncorr := (t.ptd.port port.val).fecUncorr } ∧
      (∀ n : Nat, n ≠ port.val → t.ptd.port n = p.port n) ∧ ((p.qps.map (·.num)).Nodup → ∀ x ∈ t.ptd.qps, x.port = port.val → x.error = true) ∧
      t.ptd.qps.map (·.num) = p.qps.map (·.num) ∧ t.ch0.mem = s.ch0.mem ∧ t.ch1.mem = s.ch1.mem) ∧
    (p.hostUp = false → exec (.congestionNotificationRx port) s = .next s) ∧
    (p.hostUp = true → ∃ t, exec (.congestionNotificationRx port) s = .next t ∧
      (t.ptd.port port.val).cnpRx = satAdd (p.port port.val).cnpRx 1 ∧
      (1 < (p.port port.val).rate → 1 ≤ (t.ptd.port port.val).rate ∧ (t.ptd.port port.val).rate < (p.port port.val).rate) ∧
      (∀ n : Nat, n ≠ port.val → t.ptd.port n = p.port n) ∧
      t = { s with ptd := { p with ports := t.ptd.ports }, free := s.free + 1 })

/-- R378, R389, R390: a host access to HBM that its QP reaches, of an available channel and under the right rkey, reads or writes those bytes alone; on an unknown or failed QP it is
discarded; under a wrong rkey, outside its regions, or of a channel that is not available it is refused with a NAK, touches no memory and fails the QP. Over the
sideband the slot is taken once after power-up, and the read of the alert causes clears them. -/
def Obligations.HostAccessesAndSideband : Prop :=
  ∀ (c : ChanId) (qp : Nat) (q : Qp) (rkey : U32) (addr len : Nat) (data : List Byte) (a : BitVec 7) (v : U16) (s : State),
    let ch := s.ch c
    let p := s.ptd
    let write := Instr.rdmaWrite qp rkey addr data
    let read := Instr.rdmaRead qp rkey addr len
    let known : Prop := p.hostUp = true ∧ p.qp? qp = some q ∧ q.error = false ∧ q.target = c.val
    let available : Prop := ch.chn.state ≠ .reset ∧ (ch.domain.st = .active ∨ ch.domain.st = .idle) ∧ ch.dead = false
    let granted : Prop := q.secure = false ∨ q.bound = true
    let reaches (n : Nat) : Prop := addr + n ≤ badgerArea ∧ ch.touchesSpa addr n = false
    let nak (i : Instr) : Prop := ∃ t, exec i s = .next t ∧ s.out ++ [.rdmaNakAccess qp] <+: t.out ∧ t.ptd.accessNak = satAdd p.accessNak 1 ∧
      (∀ x ∈ t.ptd.qps, x.num = qp → x.error = true) ∧ t.ch0.mem = s.ch0.mem ∧ t.ch1.mem = s.ch1.mem ∧ t.ch0.chn = s.ch0.chn ∧
      t.ch1.chn = s.ch1.chn ∧ t.sup = s.sup
    let discarded (i : Instr) : Prop := exec i s = .next { s with ptd := { p with qpDiscard := satAdd p.qpDiscard 1 } }
    let n3 : BitVec 3 := v.setWidth 3
    let slotted (h : Channel) : Channel := { h with wrn := { h.wrn with slotValid := true, slot := n3 } }
    let heard : Prop := p.up = true ∧ p.i3cAddr.isSome = true
    (p.hostUp = false → exec write s = .next s ∧ exec read s = .next s) ∧
    (p.hostUp = true → (p.qp? qp = none ∨ (p.qp? qp = some q ∧ q.error = true)) → discarded write ∧ discarded read) ∧
    (known → rkey = q.rkey → granted → available → reaches data.length →
      exec write s = .next ((s.setCh c (ch.hbmWrite addr data)).emit (.rdmaAck qp))) ∧
    (known → rkey = q.rkey → granted → available → reaches len → ch.mem.hbmPoison = [] → ch.mem.hbmErr = [] →
      exec read s = .next (s.emit (.rdmaData qp (ch.hbmBytes addr len)))) ∧
    (known → rkey ≠ q.rkey → nak write ∧ nak read) ∧
    (known → rkey = q.rkey → addr + len ≤ hbmSize → (¬ granted ∨ ¬ reaches len) → nak read) ∧
    (known → rkey = q.rkey → addr + data.length ≤ hbmSize → (¬ granted ∨ ¬ reaches data.length) → nak write) ∧
    (known → rkey = q.rkey → ¬ available → nak read) ∧
    (known → rkey = q.rkey → ¬ available → addr + data.length ≤ hbmSize → nak write) ∧
    (p.up = true → exec (.i3cEntdaa a) s = .next { s with ptd := { p with i3cAddr := some a } }) ∧
    (p.up = false → exec (.i3cEntdaa a) s = .next s) ∧
    (¬ heard → exec (.i3cSlotWrite v) s = .next s ∧ exec .i3cAlertRead s = .next s) ∧
    (heard → p.slotTaken = true → exec (.i3cSlotWrite v) s = .next (s.emit .i3cAck)) ∧
    (heard → p.slotTaken = false → exec (.i3cSlotWrite v) s = .next ({ s with ch0 := slotted s.ch0, ch1 := slotted s.ch1, ptd := { p with
      slotTaken := true, slotValid := true, slot := n3 } }.emit .i3cAck)) ∧
    (heard → exec .i3cAlertRead s = .next ({ s with ptd := { p with alertTemp := false, alertInput := false, alertHotswap := false } }.emit
      (.i3cData (BitVec.ofNat 16 ((if p.alertTemp then 1 else 0) + (if p.alertInput then 2 else 0) + if p.alertHotswap then 4 else 0)))))

/-! ### Power, temperature and clocks (R21, R395, R404, R409 to R423) -/

/-- R404, R412, R413, R414: PWR_EN powers the module up when the input is in range and no overcurrent locks it out, and its fall powers it down; an overvoltage, an overcurrent, a spent hold-up
time or a failed converter turns the output off with what the port die records; only voltage faults restart by themselves. The hold-up time adds up while the input
is low and is cleared after 10 ms within range. -/
def Obligations.SupplyFollowsItsInput : Prop :=
  ∀ (below : Bool) (s : State),
    let x := s.sup
    let p := s.ptd
    let on : Prop := x.outputOn = true
    let kept (code : Nat) : List EvRec := p.stored ++ [mkEvent code 2 0 none 0]
    let back : Supply := { x with inRange := true, below := false }
    let alarmed : Ptd := if p.up then { p with alertInput := true, events := p.events ++ [mkEvent 0x9008 2 0 none 0] } else p
    let restarts : Prop := x.outputOn = false ∧ x.inRange = true ∧ x.pwrEn = true ∧ x.lockout = false ∧ x.converterOk = true
    ((on ∨ x.inRange = false ∨ x.lockout = true) → exec .powerUp s = .next { s with sup := { x with pwrEn := true } }) ∧
    (¬ on → x.inRange = true → x.lockout = false → ∃ t, exec .powerUp s = .next t ∧ s.poweredUp t ∧ t.sup.pwrEn = true) ∧
    (on → exec .pwrEnFall s = .next (s.dark { x with pwrEn := false, lockout := false, outputOn := false } p.stored p.alertHotswap)) ∧
    (¬ on → exec .pwrEnFall s = .next { s with sup := { x with pwrEn := false, lockout := false } }) ∧
    (exec (.inputOutOfRange below) s = .next { s with
      sup := { x with inRange := false, below := below }, ptd := if x.inRange then alarmed else p }) ∧
    ((x.below = false ∨ ¬ on) → exec .inputBackInRange s = .next { s with sup := back }) ∧
    (x.below = true → on → x.holdupUs < 1000 → ∃ n, exec .inputBackInRange s = .next { s with sup := { back with holdupUs := n }, free := s.free + 1 } ∧
      x.holdupUs ≤ n ∧ n < 1000) ∧
    (exec .holdupTimerClear s = .next (if x.inRange then { s with sup := { x with holdupUs := 0 } } else s)) ∧
    ((x.below = false ∨ ¬ on) → exec .holdupExpiry s = .next s) ∧
    (x.below = true → on → exec .holdupExpiry s = .next (s.dark { x with outputOn := false } (kept 0x9009) p.alertHotswap)) ∧
    (on → exec .inputOvervoltage s = .next (s.dark { x with inRange := false, below := false, outputOn := false } (kept 0x9009) p.alertHotswap)) ∧
    (¬ on → exec .inputOvervoltage s = .next { s with sup := { x with inRange := false, below := false } }) ∧
    (on → exec .inputOvercurrent s = .next (s.dark { x with lockout := true, outputOn := false } (kept 0x900A) true)) ∧
    (¬ on → exec .inputOvercurrent s = .next s) ∧
    (¬ restarts → exec .autoRestart s = .next s) ∧
    (restarts → ∃ t, exec .autoRestart s = .next t ∧ s.poweredUp t ∧ t.sup.pwrEn = true) ∧
    (on → exec .converterFault s = .next (s.dark { x with converterOk := false, outputOn := false } p.stored p.alertHotswap)) ∧
    (¬ on → exec .converterFault s = .next { s with sup := { x with converterOk := false } }) ∧
    (exec .portDieFailure s = .next { s with ptd := { p with failed := true, up := false } })

/-- R409, R415 to R417, R421: telemetry shows the temperatures, their derate and clear levels, and alarms when the warning level is crossed; the trip timer switches a
channel at trip level off and locks it; loss of the reference clock takes a running channel away, and its lock lets a held channel boot. The sibling keeps everything. -/
def Obligations.TemperatureAndClocksStopChannels : Prop :=
  ∀ (c : ChanId) (hbm jct : U16) (s : State),
    let ch := s.ch c
    let gone : Prop := ch.domain.st = .off ∨ ch.chn.state = .reset
    let at_ (j h : Int) (jt hb : U16) : Bool := decide (j ≤ jt.toInt) || decide (h ≤ hb.toInt)
    let warn : Bool := at_ 200 180 jct hbm && !at_ 200 180 ch.tlm.jctMax ch.tlm.hbmMax
    let trip : Prop := at_ 220 210 ch.tlm.jctMax ch.tlm.hbmMax = true
    let mmc (p : Ptd) (code : Nat) : Ptd := if p.up then p.raise code else p
    let held : Bool := ch.domain.st != .off && ch.chn.state == .reset && !ch.refclkOk
    (gone → exec (.tlmUpdate c hbm jct) s = .next s) ∧
    (¬ gone → ∃ t, exec (.tlmUpdate c hbm jct) s = .next t ∧ (t.ch c).tlm.hbmMax = hbm ∧ (t.ch c).tlm.jctMax = jct ∧
      (t.ch c).tlm.jctPcore.toNat < 136 ∧ (t.ch c).thermDerate = at_ 206 186 jct hbm ∧
      (t.ch c).thermClear = (decide (jct.toInt < 194) && decide (hbm.toInt < 174)) ∧
      t.ptd = (if warn && s.ptd.up then { s.ptd with alertTemp := true }.raise 0x900B else s.ptd) ∧
      t = { s.setCh c { ch with tlm := (t.ch c).tlm, thermDerate := (t.ch c).thermDerate, thermClear := (t.ch c).thermClear } with
        ptd := t.ptd, sup := { s.sup with vin := (t.ch c).tlm.vin, iin := (t.ch c).tlm.iin }, free := s.free + 1 }) ∧
    ((ch.domain.st = .off ∨ ¬ trip) → exec (.thermTripTimer c) s = .next s) ∧
    (ch.domain.st ≠ .off → trip → ∃ t, exec (.thermTripTimer c) s = .next t ∧
      t.ch c = { ch.unpowered s.ptd with tripLock := true } ∧ t.ch (sibling c) = s.ch (sibling c) ∧ t.sup = s.sup ∧ t.free = s.free ∧
      t.ptd.events = ch.mbx.lostWork.foldl (fun l e => l ++ [mkEvent 0xA001 (chanSrc c) 0 (some e.2) e.1]) (mmc s.ptd 0x900D).events) ∧
    (gone → exec (.refclkSysLoss c) s = .next (s.setCh c { ch with refclkOk := false })) ∧
    (¬ gone → ∃ t, exec (.refclkSysLoss c) s = .next t ∧ t.ch c = { ch.unpowered s.ptd with refclkOk := false } ∧
      t.ch (sibling c) = s.ch (sibling c) ∧ t.sup = s.sup ∧ t.free = s.free ∧ t.ptd.events = (mmc (s.lost c ch).ptd 0x900E).events) ∧
    (exec (.refclkSysLock c) s = .next (s.setCh c { ch with
      refclkOk := true, chn := { ch.chn with state := if held then .boot else ch.chn.state } }))

/-! ### The machine as a whole -/

/-- A step takes the command at the front of the queue and is exec of it on the state with the queue's rest; on an empty queue it is what a clock tick does to an
idle module, which takes no command (log entry 7). -/
def Obligations.StepRunsTheFrontCommand : Prop :=
  (∀ (i : Instr) (l : List Instr) (s : State), s.pending = i :: l → step s = exec i { s with pending := l }) ∧
  (∀ s : State, s.pending = [] → step s = .next { s with ch0 := s.ch0.tick, ch1 := s.ch1.tick }) ∧
  (∀ ch : Channel, (ch.domain.st ≠ .off ∧ ch.chn.state ≠ .reset ∧ ch.refclkOk = true) →
    ch.tick = { ch with beat := { ch.beat with time := ch.beat.time + 1 } }) ∧
  (∀ ch : Channel, ¬ (ch.domain.st ≠ .off ∧ ch.chn.state ≠ .reset ∧ ch.refclkOk = true) → ch.tick = ch)

/-- No command changes the queue of those that wait, and outside the power commands none changes whether the supply delivers power. -/
def Obligations.CommandsLeaveQueueAndSupply : Prop :=
  ∀ (i : Instr) (s t : State), exec i s = .next t →
    t.pending = s.pending ∧
    (i ∉ [.powerUp, .pwrEnFall, .inputOvervoltage, .inputOvercurrent, .holdupExpiry, .autoRestart, .converterFault] →
      t.sup.outputOn = s.sup.outputOn ∧ t.sup.pwrEn = s.sup.pwrEn ∧ t.sup.lockout = s.sup.lockout ∧ t.sup.converterOk = s.sup.converterOk)

/-- R404, R412, R413, R418: whatever command comes, the shared supply never delivers power without PWR_EN, under an overcurrent lockout, or with a failed converter: every step
of the machine keeps it so. -/
def Obligations.StepsKeepSupplySafe : Prop :=
  ∀ s t : State, s.sup.safe = true → step s = .next t → t.sup.safe = true

/-- R28, R395, R404: after reset the supply is safe and off, both channels are in RESET with their domains OFF and nothing in any memory, queue, mailbox or link, every event, task and stream is
absent, the memories are in canonical form, and no command waits. -/
def Obligations.ResetIsDarkAndEmpty : Prop :=
  State.reset.sup.safe = true ∧ State.reset.sup.outputOn = false ∧ State.reset.pending = [] ∧ State.reset.out = [] ∧ State.reset.memWf = true ∧
    State.reset.ptd.up = false ∧ State.reset.ptd.qps = [] ∧
    (∀ c : ChanId, (State.reset.ch c).chn.state = .reset ∧ (State.reset.ch c).domain.st = .off ∧ (State.reset.ch c).mem = {} ∧
      (State.reset.ch c).mbx = {} ∧ (State.reset.ch c).events = [] ∧ (State.reset.ch c).tsk.tasks = [] ∧ (State.reset.ch c).pss = {} ∧
      (State.reset.ch c).beat.ovrLimit = 4 ∧ (State.reset.ch c).beat.urgentPct = 2 ∧ (State.reset.ch c).ledg.limitW = 600 ∧
      (State.reset.ch c).ledg.k = 0x10000 ∧ (State.reset.ch c).bdg.holdoff = 16)
end

