-- ==== Sys2Proof/Laws/Table.lean ====
section
/-! SUPPORT. Laws of the tables: a read after a write, and the canonical form that every operation keeps. -/

namespace Sys2Proof.Machine

variable {α : Type}

/-! ### Reads after writes -/

theorem smGet_smIns_same (d : α) (m : SMap α) (k : Nat) (v : α) : smGet d (smIns k v m) k = v := by
  induction m with
  | nil => simp [smIns, smGet]
  | cons e r ih =>
    obtain ⟨j, w⟩ := e
    by_cases h1 : k < j
    · simp [smIns, smGet, h1]
    · by_cases h2 : k = j
      · simp [smIns, smGet, h2]
      · simp [smIns, smGet, h1, h2, Ne.symm h2, ih]

theorem smGet_smIns_other (d : α) (m : SMap α) {k i : Nat} (v : α) (h : i ≠ k) : smGet d (smIns k v m) i = smGet d m i := by
  induction m with
  | nil => simp [smIns, smGet, h.symm]
  | cons e r ih =>
    obtain ⟨j, w⟩ := e
    by_cases h1 : k < j
    · simp [smIns, smGet, h1, h.symm]
    · by_cases h2 : k = j
      · subst h2; simp [smIns, smGet, h.symm]
      · simp [smIns, smGet, h1, h2, ih]

theorem smGet_smDel_same (d : α) (m : SMap α) (k : Nat) : smGet d (smDel k m) k = d := by
  induction m with
  | nil => rfl
  | cons e r ih => by_cases h : e.1 = k <;> simp [smDel, smGet, h, ih]

theorem smGet_smDel_other (d : α) (m : SMap α) {k i : Nat} (h : i ≠ k) : smGet d (smDel k m) i = smGet d m i := by
  induction m with
  | nil => rfl
  | cons e r ih =>
    by_cases hk : e.1 = k
    · have : e.1 ≠ i := fun he => h (he ▸ hk)
      simp [smDel, smGet, hk, ih, h.symm]
    · simp [smDel, smGet, hk, ih]

variable [DecidableEq α]

@[simp] theorem smGet_smSet_same (d : α) (m : SMap α) (k : Nat) (v : α) : smGet d (smSet d m k v) k = v := by
  unfold smSet
  split
  · rename_i h; rw [smGet_smDel_same, h]
  · exact smGet_smIns_same d m k v

theorem smGet_smSet_other (d : α) (m : SMap α) {k i : Nat} (v : α) (h : i ≠ k) : smGet d (smSet d m k v) i = smGet d m i := by
  unfold smSet
  split
  · exact smGet_smDel_other d m h
  · exact smGet_smIns_other d m v h

@[simp] theorem smGet_smMod_same (d : α) (m : SMap α) (k : Nat) (f : α → α) : smGet d (smMod d m k f) k = f (smGet d m k) := by
  simp [smMod]

theorem smGet_smMod_other (d : α) (m : SMap α) {k i : Nat} (f : α → α) (h : i ≠ k) :
    smGet d (smMod d m k f) i = smGet d m i := smGet_smSet_other d m _ h

/-- A write of consecutive keys leaves every key before and after them as it was. -/
theorem smGet_smSetAll_outside (d : α) (l : List α) :
    ∀ (m : SMap α) (k i : Nat), (i < k ∨ k + l.length ≤ i) → smGet d (smSetAll d m k l) i = smGet d m i := by
  induction l with
  | nil => intro m k i _; rfl
  | cons v r ih =>
    intro m k i h
    rw [List.length_cons] at h
    rw [smSetAll, ih _ _ _ (by omega), smGet_smSet_other d m v (by omega)]

/-- A write of consecutive keys stores its values. -/
theorem smGet_smSetAll_inside (d : α) (l : List α) :
    ∀ (m : SMap α) (k j : Nat) (h : j < l.length), smGet d (smSetAll d m k l) (k + j) = l[j] := by
  induction l with
  | nil => intro m k j h; simp at h
  | cons v r ih =>
    intro m k j h
    cases j with
    | zero => rw [smSetAll, smGet_smSetAll_outside d r _ _ _ (by omega)]; simp
    | succ n =>
      have := ih (smSet d m k v) (k + 1) n (by simpa using h)
      rw [smSetAll, show k + (n + 1) = k + 1 + n by omega, this]; rfl

omit [DecidableEq α] in
@[simp] theorem smGetAll_length (d : α) (m : SMap α) (k n : Nat) : (smGetAll d m k n).length = n := by simp [smGetAll]

/-- Reading back what was written. -/
theorem smGetAll_smSetAll (d : α) (m : SMap α) (k : Nat) (l : List α) : smGetAll d (smSetAll d m k l) k l.length = l := by
  apply List.ext_getElem
  · simp
  · intro i h1 h2
    simp only [smGetAll, List.getElem_map, List.getElem_range]
    exact smGet_smSetAll_inside d l m k i h2

/-! ### The canonical form -/

theorem smWfFrom_mono (d : α) {m : SMap α} {lo lo' : Nat} (hl : lo' ≤ lo) (h : smWfFrom d lo m = true) : smWfFrom d lo' m = true := by
  cases m with
  | nil => rfl
  | cons e r =>
    obtain ⟨j, w⟩ := e
    simp only [smWfFrom, Bool.and_eq_true, decide_eq_true_eq] at h ⊢
    exact ⟨⟨by omega, h.1.2⟩, h.2⟩

theorem smWfFrom_smIns (d : α) (v : α) (hv : v ≠ d) :
    ∀ (m : SMap α) (lo k : Nat), lo ≤ k → smWfFrom d lo m = true → smWfFrom d lo (smIns k v m) = true := by
  intro m
  induction m with
  | nil => intro lo k hk _; simp [smIns, smWfFrom, hk, hv]
  | cons e r ih =>
    obtain ⟨j, w⟩ := e
    intro lo k hk h
    simp only [smWfFrom, Bool.and_eq_true, decide_eq_true_eq] at h
    obtain ⟨⟨h1, h2⟩, h3⟩ := h
    by_cases hkj : k < j
    · simp only [smIns, hkj, if_true, smWfFrom, Bool.and_eq_true, decide_eq_true_eq]
      exact ⟨⟨hk, hv⟩, ⟨by omega, h2⟩, h3⟩
    · by_cases hkj2 : k = j
      · subst hkj2
        simp only [smIns, Nat.lt_irrefl, if_false, if_true, smWfFrom, Bool.and_eq_true, decide_eq_true_eq]
        exact ⟨⟨hk, hv⟩, h3⟩
      · simp only [smIns, hkj, hkj2, if_false, smWfFrom, Bool.and_eq_true, decide_eq_true_eq]
        exact ⟨⟨h1, h2⟩, ih (j + 1) k (by omega) h3⟩

theorem smWfFrom_smDel (d : α) : ∀ (m : SMap α) (lo k : Nat), smWfFrom d lo m = true → smWfFrom d lo (smDel k m) = true := by
  intro m
  induction m with
  | nil => intro lo k _; rfl
  | cons e r ih =>
    obtain ⟨j, w⟩ := e
    intro lo k h
    simp only [smWfFrom, Bool.and_eq_true, decide_eq_true_eq] at h
    obtain ⟨⟨h1, h2⟩, h3⟩ := h
    by_cases hj : j = k
    · simp only [smDel, hj, if_true]
      exact smWfFrom_mono d (by omega) (ih (j + 1) k h3)
    · simp only [smDel, hj, if_false, smWfFrom, Bool.and_eq_true, decide_eq_true_eq]
      exact ⟨⟨h1, h2⟩, ih (j + 1) k h3⟩

/-- A write keeps the canonical form. -/
theorem smWf_smSet (d : α) (m : SMap α) (k : Nat) (v : α) (h : smWf d m = true) : smWf d (smSet d m k v) = true := by
  unfold smSet
  split
  · exact smWfFrom_smDel d m 0 k h
  · rename_i hv; exact smWfFrom_smIns d v hv m 0 k (by omega) h

theorem smWf_smMod (d : α) (m : SMap α) (k : Nat) (f : α → α) (h : smWf d m = true) : smWf d (smMod d m k f) = true :=
  smWf_smSet d m k _ h

/-- Writes of consecutive keys keep the canonical form. -/
theorem smWf_smSetAll (d : α) (l : List α) : ∀ (m : SMap α) (k : Nat), smWf d m = true → smWf d (smSetAll d m k l) = true := by
  induction l with
  | nil => intro m k h; exact h
  | cons v r ih => intro m k h; exact ih _ _ (smWf_smSet d m k v h)

theorem smWfFrom_filter (d : α) (p : Nat × α → Bool) :
    ∀ (m : SMap α) (lo : Nat), smWfFrom d lo m = true → smWfFrom d lo (m.filter p) = true := by
  intro m
  induction m with
  | nil => intro lo _; rfl
  | cons e r ih =>
    obtain ⟨j, w⟩ := e
    intro lo h
    simp only [smWfFrom, Bool.and_eq_true, decide_eq_true_eq] at h
    obtain ⟨⟨h1, h2⟩, h3⟩ := h
    by_cases hp : p (j, w)
    · simp only [List.filter_cons, hp, if_true, smWfFrom, Bool.and_eq_true, decide_eq_true_eq]
      exact ⟨⟨h1, h2⟩, ih (j + 1) h3⟩
    · simp only [List.filter_cons, hp]
      exact smWfFrom_mono d (by omega) (ih (j + 1) h3)

/-- Removing a range of keys keeps the canonical form. -/
theorem smWf_smClear (d : α) (a n : Nat) (m : SMap α) (h : smWf d m = true) : smWf d (smClear a n m) = true :=
  smWfFrom_filter d _ m 0 h

/-- The empty table is in canonical form. -/
@[simp] theorem smWf_nil (d : α) : smWf d ([] : SMap α) = true := rfl

end Sys2Proof.Machine
end

