-- ==== Sys2Proof/Laws/State.lean ====
section
/-! SUPPORT. What reading a field gives after each basic update of the state. -/

namespace Sys2Proof.Machine

/-! ### One channel of two -/

theorem ChanId.cases (c : ChanId) : c = 0 ∨ c = 1 := by revert c; decide

@[simp] theorem State.ch_setCh (s : State) (c : ChanId) (k : Channel) : (s.setCh c k).ch c = k := by
  obtain rfl | rfl := ChanId.cases c <;> rfl

/-- The other channel stays as it was. -/
theorem State.ch_setCh_other (s : State) {c d : ChanId} (k : Channel) (h : d ≠ c) : (s.setCh c k).ch d = s.ch d := by
  obtain rfl | rfl := ChanId.cases c <;> obtain rfl | rfl := ChanId.cases d <;> first | rfl | exact absurd rfl h

@[simp] theorem State.ch_onCh (s : State) (c : ChanId) (f : Channel → Channel) : (s.onCh c f).ch c = f (s.ch c) := s.ch_setCh c _

theorem State.ch_onCh_other (s : State) {c d : ChanId} (f : Channel → Channel) (h : d ≠ c) : (s.onCh c f).ch d = s.ch d :=
  s.ch_setCh_other _ h

@[simp] theorem State.setCh_ch (s : State) (c : ChanId) : s.setCh c (s.ch c) = s := by
  obtain rfl | rfl := ChanId.cases c <;> rfl

@[simp] theorem State.setCh_setCh (s : State) (c : ChanId) (k l : Channel) : (s.setCh c k).setCh c l = s.setCh c l := by
  obtain rfl | rfl := ChanId.cases c <;> rfl

@[simp] theorem State.onCh_onCh (s : State) (c : ChanId) (f g : Channel → Channel) : (s.onCh c f).onCh c g = s.onCh c fun k => g (f k) := by
  obtain rfl | rfl := ChanId.cases c <;> rfl

theorem sibling_ne (c : ChanId) : sibling c ≠ c := by revert c; decide

/-! ### Field by field -/

@[simp] theorem State.setCh_ptd (s : State) (c : ChanId) (k : Channel) : (s.setCh c k).ptd = s.ptd := by
  obtain rfl | rfl := ChanId.cases c <;> rfl
@[simp] theorem State.onCh_ptd (s : State) (c : ChanId) (f : Channel → Channel) : (s.onCh c f).ptd = s.ptd := s.setCh_ptd c _
@[simp] theorem State.setCh_sup (s : State) (c : ChanId) (k : Channel) : (s.setCh c k).sup = s.sup := by
  obtain rfl | rfl := ChanId.cases c <;> rfl
@[simp] theorem State.onCh_sup (s : State) (c : ChanId) (f : Channel → Channel) : (s.onCh c f).sup = s.sup := s.setCh_sup c _
@[simp] theorem State.setCh_out (s : State) (c : ChanId) (k : Channel) : (s.setCh c k).out = s.out := by
  obtain rfl | rfl := ChanId.cases c <;> rfl
@[simp] theorem State.onCh_out (s : State) (c : ChanId) (f : Channel → Channel) : (s.onCh c f).out = s.out := s.setCh_out c _
@[simp] theorem State.setCh_free (s : State) (c : ChanId) (k : Channel) : (s.setCh c k).free = s.free := by
  obtain rfl | rfl := ChanId.cases c <;> rfl
@[simp] theorem State.onCh_free (s : State) (c : ChanId) (f : Channel → Channel) : (s.onCh c f).free = s.free := s.setCh_free c _
@[simp] theorem State.setCh_pending (s : State) (c : ChanId) (k : Channel) : (s.setCh c k).pending = s.pending := by
  obtain rfl | rfl := ChanId.cases c <;> rfl
@[simp] theorem State.onCh_pending (s : State) (c : ChanId) (f : Channel → Channel) : (s.onCh c f).pending = s.pending := s.setCh_pending c _

@[simp] theorem State.emit_ch0 (s : State) (o : Out) : (s.emit o).ch0 = s.ch0 := rfl
@[simp] theorem State.emit_ch1 (s : State) (o : Out) : (s.emit o).ch1 = s.ch1 := rfl
@[simp] theorem State.emit_ptd (s : State) (o : Out) : (s.emit o).ptd = s.ptd := rfl
@[simp] theorem State.emit_sup (s : State) (o : Out) : (s.emit o).sup = s.sup := rfl
@[simp] theorem State.emit_free (s : State) (o : Out) : (s.emit o).free = s.free := rfl
@[simp] theorem State.emit_pending (s : State) (o : Out) : (s.emit o).pending = s.pending := rfl
@[simp] theorem State.emit_out (s : State) (o : Out) : (s.emit o).out = s.out ++ [o] := rfl
@[simp] theorem State.emit_ch (s : State) (o : Out) (c : ChanId) : (s.emit o).ch c = s.ch c := rfl

@[simp] theorem State.tookFree_ch0 (s : State) (n : Nat) : (s.tookFree n).ch0 = s.ch0 := rfl
@[simp] theorem State.tookFree_ch1 (s : State) (n : Nat) : (s.tookFree n).ch1 = s.ch1 := rfl
@[simp] theorem State.tookFree_ptd (s : State) (n : Nat) : (s.tookFree n).ptd = s.ptd := rfl
@[simp] theorem State.tookFree_sup (s : State) (n : Nat) : (s.tookFree n).sup = s.sup := rfl
@[simp] theorem State.tookFree_out (s : State) (n : Nat) : (s.tookFree n).out = s.out := rfl
@[simp] theorem State.tookFree_pending (s : State) (n : Nat) : (s.tookFree n).pending = s.pending := rfl
@[simp] theorem State.tookFree_free (s : State) (n : Nat) : (s.tookFree n).free = s.free + n := rfl
@[simp] theorem State.tookFree_ch (s : State) (n : Nat) (c : ChanId) : (s.tookFree n).ch c = s.ch c := rfl

/-- Reading a channel does not look at the queue. -/
@[simp] theorem State.ch_pending (s : State) (l : List Instr) (c : ChanId) : { s with pending := l }.ch c = s.ch c := rfl

/-! ### Vector registers -/

theorem regKey_inj {core core' : LCore} {r r' : VReg} (h : regKey core r = regKey core' r') : core = core' ∧ r = r' := by
  unfold regKey at h
  constructor <;> apply Fin.ext <;> omega

@[simp] theorem Channel.vreg_setVreg (ch : Channel) (core : LCore) (r : VReg) (v : LaneVec) : (ch.setVreg core r v).vreg core r = v := by
  simp [Channel.vreg, Channel.setVreg]

/-- A write of a vector register leaves every other register of every core. -/
theorem Channel.vreg_setVreg_other (ch : Channel) {core core' : LCore} {r r' : VReg} (v : LaneVec) (h : core' ≠ core ∨ r' ≠ r) :
    (ch.setVreg core r v).vreg core' r' = ch.vreg core' r' := by
  refine smGet_smSet_other _ _ _ fun e => ?_
  have := regKey_inj e
  exact h.elim (fun h => h this.1) (fun h => h this.2)

@[simp] theorem Channel.vreg_vecBusy (ch : Channel) (core core' : LCore) (r : VReg) (n : Nat) :
    (ch.vecBusy core n).vreg core' r = ch.vreg core' r := rfl

/-- What a write of one vector register does: the register, the issue clks, and nothing else. -/
theorem vecWrite_ch (s : State) (c : ChanId) (core : LCore) (d : VReg) (clk : Nat) (v : LaneVec) :
    (vecWrite s c core d clk v).ch c = ((s.ch c).setVreg core d v).vecBusy core clk := by simp [vecWrite]

end Sys2Proof.Machine
end

