-- ==== Sys2Proof/Laws/Access.lean ====
section
/-! SUPPORT. What an access to a register comes to, once its origin is let through. -/

namespace Sys2Proof.Machine

theorem leBytes_length (n v : Nat) : (leBytes n v).length = n := by
  induction n generalizing v with
  | zero => rfl
  | succ n ih => simp [leBytes, ih]

theorem leNat_leBytes (n v : Nat) : leNat (leBytes n v) = v % 256 ^ n := by
  induction n generalizing v with
  | zero => simp [leBytes, leNat, Nat.mod_one]
  | succ n ih =>
    have h : v % 256 ^ (n + 1) = v % 256 + 256 * (v / 256 % 256 ^ n) := by rw [Nat.pow_succ, Nat.mul_comm, Nat.mod_mul]
    rw [h]
    simp only [leBytes, leNat, ih, BitVec.toNat_ofNat]

/-- The eight bytes of a register value give the value back. -/
@[simp] theorem ofNat_leNat_leBytes (v : U64) : BitVec.ofNat 64 (leNat (leBytes 8 v.toNat)) = v := by
  rw [leNat_leBytes]
  have := v.isLt
  rw [Nat.mod_eq_of_lt (by omega)]
  simp

theorem islandChan_unitOf (c : ChanId) : islandChan (unitOf c) = some c := by revert c; decide
theorem chanIsland_unitOf (c : ChanId) : chanIsland c = unitOf c := rfl

/-- Firmware that runs writes a whole register: the register's own write by channel firmware, answered OK. -/
theorem State.writeReg_firmware (s : State) (c : ChanId) (off : Nat) (v : U64) (r : Reg) (h : fwReady s c) (hm : inMailbox off 8 = false)
    (hc : csrCode off 8 = .ok) (hr : regAt off = some r) :
    s.writeReg (unitOf c) .firmware off v = (r.write s c .firmware v).emit (.csrStatus (unitOf c) .ok) := by
  obtain ⟨h1, h2, h3⟩ := h
  simp [State.writeReg, State.regDo, islandChan_unitOf, h1, h2, h3, regRun, State.csrWrite, leBytes_length, hm, hc, hr, State.regAnswer]

end Sys2Proof.Machine
end

