-- ==== Sys2Proof/Laws/Frame.lean ====
section
/-! SUPPORT. What every shared operation leaves as it was: the supply, and the queue of waiting commands. Each lemma says it of one
operation, and simp applies it before it looks inside the operands. -/

namespace Sys2Proof.Machine
@[simp ↓] theorem foldl_frame {β : Type} (f : State → β → State) (h : ∀ s b, (f s b).sup = s.sup ∧ (f s b).pending = s.pending) (l : List β) (s : State) :
    (l.foldl f s).sup = s.sup ∧ (l.foldl f s).pending = s.pending := by
  induction l generalizing s with
  | nil => exact ⟨rfl, rfl⟩
  | cons b r ih => exact ⟨(ih _).1.trans (h s b).1, (ih _).2.trans (h s b).2⟩
@[simp ↓] theorem foldl_frame1 {β γ : Type} (f : State × γ → β → State × γ) (h : ∀ s b, (f s b).1.sup = s.1.sup ∧ (f s b).1.pending = s.1.pending) (l : List β) (s : State × γ) :
    (l.foldl f s).1.sup = s.1.sup ∧ (l.foldl f s).1.pending = s.1.pending := by
  induction l generalizing s with
  | nil => exact ⟨rfl, rfl⟩
  | cons b r ih => exact ⟨(ih _).1.trans (h s b).1, (ih _).2.trans (h s b).2⟩
@[simp ↓] theorem State.sup_ite (p : Prop) [Decidable p] (a b : State) : (if p then a else b).sup = if p then a.sup else b.sup := apply_ite _ _ _ _
@[simp ↓] theorem State.pending_ite (p : Prop) [Decidable p] (a b : State) : (if p then a else b).pending = if p then a.pending else b.pending := apply_ite _ _ _ _
@[simp ↓] theorem fst_ite {α β : Type} (p : Prop) [Decidable p] (a b : α × β) : (if p then a else b).1 = if p then a.1 else b.1 := apply_ite _ _ _ _

@[simp ↓] theorem State.setCh_frame (s : State) (c : ChanId) (k : Channel) :
    (State.setCh s c k).sup = s.sup ∧ (State.setCh s c k).pending = s.pending := by
  unfold State.setCh; split <;> exact ⟨rfl, rfl⟩

@[simp ↓] theorem State.onCh_frame (s : State) (c : ChanId) (f : Channel → Channel) :
    (State.onCh s c f).sup = s.sup ∧ (State.onCh s c f).pending = s.pending := by
  exact State.setCh_frame ..

@[simp ↓] theorem State.emit_frame (s : State) (o : Out) :
    (State.emit s o).sup = s.sup ∧ (State.emit s o).pending = s.pending := by
  simp [State.emit]

@[simp ↓] theorem State.emitAll_frame (s : State) (l : List Out) :
    (State.emitAll s l).sup = s.sup ∧ (State.emitAll s l).pending = s.pending := by
  simp [State.emitAll]

@[simp ↓] theorem State.tookFree_frame (s : State) (n : Nat) :
    (State.tookFree s n).sup = s.sup ∧ (State.tookFree s n).pending = s.pending := by
  simp [State.tookFree]

@[simp ↓] theorem State.scrambleSram_frame (s : State) (c : ChanId) (l : List (Nat × Nat)) :
    (State.scrambleSram s c l).sup = s.sup ∧ (State.scrambleSram s c l).pending = s.pending := by
  simp [State.scrambleSram]

@[simp ↓] theorem State.trainLink_frame (s : State) (c : ChanId) (l : LinkId) :
    (State.trainLink s c l).sup = s.sup ∧ (State.trainLink s c l).pending = s.pending := by
  simp [State.trainLink]

@[simp ↓] theorem State.restartLink_frame (s : State) (c : ChanId) (l : LinkId) :
    (State.restartLink s c l).sup = s.sup ∧ (State.restartLink s c l).pending = s.pending := by
  simp [State.restartLink]

@[simp ↓] theorem State.sendLink_frame (s : State) (c : ChanId) (l : LinkId) :
    (State.sendLink s c l).sup = s.sup ∧ (State.sendLink s c l).pending = s.pending := by
  simp [State.sendLink]

@[simp ↓] theorem State.enqueue_frame (s : State) (c : ChanId) (l : LinkId) (p : Packet) :
    (State.enqueue s c l p).sup = s.sup ∧ (State.enqueue s c l p).pending = s.pending := by
  simp [State.enqueue]

@[simp ↓] theorem State.sendResponse_frame (s : State) (c : ChanId) (p : Packet) :
    (State.sendResponse s c p).sup = s.sup ∧ (State.sendResponse s c p).pending = s.pending := by
  simp [State.sendResponse]
  (repeat' (first | intro _ | refine ⟨?_, ?_⟩ | split)) <;> simp

@[simp ↓] theorem State.answer_frame (s : State) (c : ChanId) (p : Packet) (code : CompCode) (payload : List Byte) :
    (State.answer s c p code payload).sup = s.sup ∧ (State.answer s c p code payload).pending = s.pending := by
  simp [State.answer]

@[simp ↓] theorem State.forwardOn_frame (s : State) (c : ChanId) (p : Packet) (out : Option LinkId) (put : LinkId → State)
    (hp : ∀ l, (put l).sup = s.sup ∧ (put l).pending = s.pending) :
    (State.forwardOn s c p out put).sup = s.sup ∧ (State.forwardOn s c p out put).pending = s.pending := by
  have hr : ∀ (u : State) (l : LinkId), u.sup = s.sup ∧ u.pending = s.pending →
      (if breaksClassRule p l then (s.onCh c fun k => k.routeErr c).answer c p .routeErr [] else u).sup = s.sup ∧
      (if breaksClassRule p l then (s.onCh c fun k => k.routeErr c).answer c p .routeErr [] else u).pending = s.pending := by
    intro u l h
    split
    · simp
    · exact h
  unfold State.forwardOn
  split
  · simp
  · split <;> simp
  · split
    · simp
    · exact hr _ _ (hp _)

@[simp ↓] theorem State.forward_frame (s : State) (c : ChanId) (p : Packet) :
    (State.forward s c p).sup = s.sup ∧ (State.forward s c p).pending = s.pending := by
  unfold State.forward
  exact State.forwardOn_frame _ _ _ _ _ fun l => State.enqueue_frame ..

@[simp ↓] theorem State.sendMgmt_frame (s : State) (c : ChanId) (link : Option LinkId) (op : U8) (m : BitVec 14) (cc : BitVec 1) (bytes : List Byte) :
    (State.sendMgmt s c link op m cc bytes).sup = s.sup ∧ (State.sendMgmt s c link op m cc bytes).pending = s.pending := by
  unfold State.sendMgmt
  dsimp only
  refine ⟨(foldl_frame _ ?_ _ _).1.trans (State.onCh_frame ..).1, (foldl_frame _ ?_ _ _).2.trans (State.onCh_frame ..).2⟩ <;>
  · intro r p
    split <;> simp

@[simp ↓] theorem State.issueNow_frame (s : State) (c : ChanId) (owner : ReqOwner) (agent : Nat) (op : RemOp) (dmaOff : optParam Nat 0) :
    (State.issueNow s c owner agent op dmaOff).1.sup = s.sup ∧ (State.issueNow s c owner agent op dmaOff).1.pending = s.pending := by
  simp [State.issueNow]
  (repeat' (first | intro _ | refine ⟨?_, ?_⟩ | split)) <;> simp

@[simp ↓] theorem State.issue_frame (s : State) (c : ChanId) (owner : ReqOwner) (agent : Nat) (op : RemOp) (dmaOff : optParam Nat 0) :
    (State.issue s c owner agent op dmaOff).1.sup = s.sup ∧ (State.issue s c owner agent op dmaOff).1.pending = s.pending := by
  unfold State.issue
  rw [fst_ite]
  split
  · exact State.onCh_frame s c _
  · exact State.issueNow_frame s c owner agent op dmaOff

@[simp ↓] theorem State.sendOp_frame (s : State) (c : ChanId) (owner : ReqOwner) (agent : Nat) (op : RemOp) :
    (State.sendOp s c owner agent op).sup = s.sup ∧ (State.sendOp s c owner agent op).pending = s.pending := by
  unfold State.sendOp
  dsimp only
  split <;> simp

@[simp ↓] theorem State.scrambleAt_frame (s : State) (c : ChanId) (a : Nat) (n : Nat) :
    (State.scrambleAt s c a n).sup = s.sup ∧ (State.scrambleAt s c a n).pending = s.pending := by
  unfold State.scrambleAt
  split <;> simp

@[simp ↓] theorem State.stopXfers_frame (s : State) (c : ChanId) (t : Task) :
    (State.stopXfers s c t).sup = s.sup ∧ (State.stopXfers s c t).pending = s.pending := by
  simp [State.stopXfers]

@[simp ↓] theorem State.cutTile_frame (s : State) (c : ChanId) (t : Task) :
    (State.cutTile s c t).sup = s.sup ∧ (State.cutTile s c t).pending = s.pending := by
  unfold State.cutTile
  split <;> simp

@[simp ↓] theorem State.abortTask_frame (s : State) (c : ChanId) (t : Task) (overruns : optParam Nat 0) :
    (State.abortTask s c t overruns).sup = s.sup ∧ (State.abortTask s c t overruns).pending = s.pending := by
  simp [State.abortTask]

@[simp ↓] theorem State.discardAhead_frame (s : State) (c : ChanId) :
    (State.discardAhead s c).sup = s.sup ∧ (State.discardAhead s c).pending = s.pending := by
  simp [State.discardAhead]

@[simp ↓] theorem State.faultTask_frame (s : State) (c : ChanId) (t : Task) (code : Nat) :
    (State.faultTask s c t code).sup = s.sup ∧ (State.faultTask s c t code).pending = s.pending := by
  simp [State.faultTask]

@[simp ↓] theorem State.faultAll_frame (s : State) (c : ChanId) (code : Nat) (l : List Task) :
    (State.faultAll s c code l).sup = s.sup ∧ (State.faultAll s c code l).pending = s.pending := by
  unfold State.faultAll
  apply foldl_frame
  intro r t
  (try dsimp only)
  split <;> simp

@[simp ↓] theorem State.counterPoisoned_frame (s : State) (c : ChanId) (word : Nat) :
    (State.counterPoisoned s c word).sup = s.sup ∧ (State.counterPoisoned s c word).pending = s.pending := by
  simp [State.counterPoisoned]
  (repeat' (first | intro _ | refine ⟨?_, ?_⟩ | split)) <;> simp

@[simp ↓] theorem State.readLine_frame (s : State) (c : ChanId) (src : UeSource) (line : Nat) :
    (State.readLine s c src line).1.sup = s.sup ∧ (State.readLine s c src line).1.pending = s.pending := by
  simp [State.readLine]

@[simp ↓] theorem State.readWord_frame (s : State) (c : ChanId) (src : UeSource) (word : Nat) :
    (State.readWord s c src word).1.sup = s.sup ∧ (State.readWord s c src word).1.pending = s.pending := by
  simp [State.readWord]

@[simp ↓] theorem State.checkHbm_frame (s : State) (c : ChanId) (a : Nat) (n : Nat) :
    (State.checkHbm s c a n).1.sup = s.sup ∧ (State.checkHbm s c a n).1.pending = s.pending := by
  simp [State.checkHbm]

@[simp ↓] theorem State.checkSram_frame (s : State) (c : ChanId) (p : Nat) (off : Nat) (n : Nat) :
    (State.checkSram s c p off n).1.sup = s.sup ∧ (State.checkSram s c p off n).1.pending = s.pending := by
  simp [State.checkSram]

@[simp ↓] theorem State.checkRanges_frame (s : State) (c : ChanId) (p : Nat) (l : List (Nat × Nat)) :
    (State.checkRanges s c p l).1.sup = s.sup ∧ (State.checkRanges s c p l).1.pending = s.pending := by
  simp [State.checkRanges]

@[simp ↓] theorem State.checkCxl_frame (s : State) (c : ChanId) (read : Bool) (a : Nat) (n : Nat) :
    (State.checkCxl s c read a n).1.sup = s.sup ∧ (State.checkCxl s c read a n).1.pending = s.pending := by
  simp [State.checkCxl]

@[simp ↓] theorem State.readPlace_frame (s : State) (c : ChanId) (pl : Place) (n : Nat) :
    (State.readPlace s c pl n).1.sup = s.sup ∧ (State.readPlace s c pl n).1.pending = s.pending := by
  unfold State.readPlace
  split <;> simp

@[simp ↓] theorem State.writePlace_frame (s : State) (c : ChanId) (pl : Place) (bytes : List Byte) :
    (State.writePlace s c pl bytes).1.sup = s.sup ∧ (State.writePlace s c pl bytes).1.pending = s.pending := by
  unfold State.writePlace
  split <;> simp

@[simp ↓] theorem State.kvFault_frame (s : State) (c : ChanId) (owner : Option (LCore × Nat)) (code : Nat) :
    (State.kvFault s c owner code).sup = s.sup ∧ (State.kvFault s c owner code).pending = s.pending := by
  simp [State.kvFault]
  (repeat' (first | intro _ | refine ⟨?_, ?_⟩ | split)) <;> simp

@[simp ↓] theorem State.kvOpen_frame (s : State) (c : ChanId) (owner : Option (LCore × Nat)) (r : Nat) (layer : Nat) (pool : Nat) (pages : Nat) (seq : Nat) :
    (State.kvOpen s c owner r layer pool pages seq).1.sup = s.sup ∧ (State.kvOpen s c owner r layer pool pages seq).1.pending = s.pending := by
  unfold State.kvOpen
  split <;> simp

@[simp ↓] theorem State.kvRelease_frame (s : State) (c : ChanId) (owner : Option (LCore × Nat)) (r : Nat) :
    (State.kvRelease s c owner r).1.sup = s.sup ∧ (State.kvRelease s c owner r).1.pending = s.pending := by
  simp [State.kvRelease]

@[simp ↓] theorem State.kvShare_frame (s : State) (c : ChanId) (owner : Option (LCore × Nat)) (src : Nat) (dst : Nat) (first : Nat) (count : Nat) :
    (State.kvShare s c owner src dst first count).1.sup = s.sup ∧ (State.kvShare s c owner src dst first count).1.pending = s.pending := by
  simp [State.kvShare]

@[simp ↓] theorem State.issueMove_frame (s : State) (c : ChanId) (spill : Bool) (frame : Nat) (ops : List (Nat × RemOp)) :
    (State.issueMove s c spill frame ops).sup = s.sup ∧ (State.issueMove s c spill frame ops).pending = s.pending := by
  unfold State.issueMove
  apply foldl_frame
  intro r t
  (try dsimp only)
  split <;> simp

@[simp ↓] theorem State.startFetch_frame (s : State) (c : ChanId) (r : Nat) (p : Nat) (useBeat : Nat) :
    (State.startFetch s c r p useBeat).1.sup = s.sup ∧ (State.startFetch s c r p useBeat).1.pending = s.pending := by
  simp [State.startFetch]
  (repeat' (first | intro _ | refine ⟨?_, ?_⟩ | split)) <;> simp

@[simp ↓] theorem State.fetchDone_frame (s : State) (c : ChanId) (frame : Nat) (inc : U16) :
    (State.fetchDone s c frame inc).sup = s.sup ∧ (State.fetchDone s c frame inc).pending = s.pending := by
  simp [State.fetchDone]
  (repeat' (first | intro _ | refine ⟨?_, ?_⟩ | split)) <;> simp

@[simp ↓] theorem State.startSpill_frame (s : State) (c : ChanId) (p : Pool) (n : Nat) :
    (State.startSpill s c p n).1.sup = s.sup ∧ (State.startSpill s c p n).1.pending = s.pending := by
  simp [State.startSpill]
  (repeat' (first | intro _ | refine ⟨?_, ?_⟩ | split)) <;> simp

@[simp ↓] theorem State.spillSelect_frame (s : State) (c : ChanId) :
    (State.spillSelect s c).sup = s.sup ∧ (State.spillSelect s c).pending = s.pending := by
  simp [State.spillSelect]

@[simp ↓] theorem State.spillDone_frame (s : State) (c : ChanId) (frame : Nat) :
    (State.spillDone s c frame).sup = s.sup ∧ (State.spillDone s c frame).pending = s.pending := by
  simp [State.spillDone]
  (repeat' (first | intro _ | refine ⟨?_, ?_⟩ | split)) <;> simp

@[simp ↓] theorem State.retryMoves_frame (s : State) (c : ChanId) :
    (State.retryMoves s c).sup = s.sup ∧ (State.retryMoves s c).pending = s.pending := by
  simp [State.retryMoves]

@[simp ↓] theorem State.flagStep_frame (s : State) (c : ChanId) (fail : Bool) :
    (State.flagStep s c fail).sup = s.sup ∧ (State.flagStep s c fail).pending = s.pending := by
  simp [State.flagStep]

@[simp ↓] theorem State.flagFail_frame (s : State) (c : ChanId) :
    (State.flagFail s c).sup = s.sup ∧ (State.flagFail s c).pending = s.pending := by
  simp [State.flagFail]

@[simp ↓] theorem State.flagOk_frame (s : State) (c : ChanId) :
    (State.flagOk s c).sup = s.sup ∧ (State.flagOk s c).pending = s.pending := by
  simp [State.flagOk]

@[simp ↓] theorem State.failBucket_frame (s : State) (c : ChanId) (b : Nat) :
    (State.failBucket s c b).sup = s.sup ∧ (State.failBucket s c b).pending = s.pending := by
  simp [State.failBucket]

@[simp ↓] theorem State.reportRoot_frame (s : State) (c : ChanId) (bucket : Nat) (group : Nat) (m : Nat) (cc : Nat) (core : Nat) :
    (State.reportRoot s c bucket group m cc core).sup = s.sup ∧ (State.reportRoot s c bucket group m cc core).pending = s.pending := by
  simp [State.reportRoot]

@[simp ↓] theorem State.checkOutcome_frame (s : State) (c : ChanId) (bucket : Nat) (group : Nat) (m : Nat) (cc : Nat) (core : Nat) (own : Nat) (outcome : Nat) :
    (State.checkOutcome s c bucket group m cc core own outcome).sup = s.sup ∧ (State.checkOutcome s c bucket group m cc core own outcome).pending = s.pending := by
  simp [State.checkOutcome]

@[simp ↓] theorem State.rootCounts_frame (s : State) (c : ChanId) (fail : Bool) :
    (State.rootCounts s c fail).sup = s.sup ∧ (State.rootCounts s c fail).pending = s.pending := by
  simp [State.rootCounts]

@[simp ↓] theorem State.permuteMoves_frame (s : State) (c : ChanId) (layout : Nat) (incoming : List (List Byte)) :
    (State.permuteMoves s c layout incoming).sup = s.sup ∧ (State.permuteMoves s c layout incoming).pending = s.pending := by
  unfold State.permuteMoves
  dsimp only
  have h := foldl_frame1 (γ := List (PermMove × List Byte)) (fun r (m : PermMove) =>
    if (r.1.checkHbm c m.src m.length).2 then ((r.1.checkHbm c m.src m.length).1, r.2 ++ [(m, (s.ch c).hbmBytes m.src m.length)])
    else ((r.1.checkHbm c m.src m.length).1.tookFree 1,
      r.2 ++ [(m, freeBytes (r.1.checkHbm c m.src m.length).1.free m.length)])) (by
      intro r m
      split <;> simp)
  rw [(State.emitAll_frame ..).1, (State.emitAll_frame ..).2]
  refine ⟨(foldl_frame _ ?_ _ _).1.trans (h _ _).1, (foldl_frame _ ?_ _ _).2.trans (h _ _).2⟩ <;>
  · intro t e
    exact State.onCh_frame ..

@[simp ↓] theorem State.coreAtFault_frame (s : State) (c : ChanId) (p : Nat) :
    (State.coreAtFault s c p).sup = s.sup ∧ (State.coreAtFault s c p).pending = s.pending := by
  simp [State.coreAtFault]

@[simp ↓] theorem State.walkWrite_frame (s : State) (c : ChanId) (t : Task) (e : PageEntry) :
    (State.walkWrite s c t e).1.sup = s.sup ∧ (State.walkWrite s c t e).1.pending = s.pending := by
  simp [State.walkWrite]
  (repeat' (first | intro _ | refine ⟨?_, ?_⟩ | split)) <;> simp

@[simp ↓] theorem State.walkRead_frame (s : State) (c : ChanId) (t : Task) (e : PageEntry) :
    (State.walkRead s c t e).1.sup = s.sup ∧ (State.walkRead s c t e).1.pending = s.pending := by
  simp [State.walkRead]
  (repeat' (first | intro _ | refine ⟨?_, ?_⟩ | split)) <;> simp

@[simp ↓] theorem State.walkEntry_frame (s : State) (c : ChanId) (t : Task) (e : PageEntry) :
    (State.walkEntry s c t e).1.sup = s.sup ∧ (State.walkEntry s c t e).1.pending = s.pending := by
  simp [State.walkEntry]

@[simp ↓] theorem State.walkList_frame (s : State) (c : ChanId) (t : Task) (a__internal_hyg0 : List PageEntry) :
    (State.walkList s c t a__internal_hyg0).1.sup = s.sup ∧ (State.walkList s c t a__internal_hyg0).1.pending = s.pending := by
  induction a__internal_hyg0 generalizing s with
  | nil => exact ⟨rfl, rfl⟩
  | cons e r ih =>
    simp only [State.walkList]
    split <;> simp [ih]

@[simp ↓] theorem State.fillPage_frame (s : State) (c : ChanId) (k : KvSlot) (user : Option Task) (d : PageDesc) :
    (State.fillPage s c k user d).1.sup = s.sup ∧ (State.fillPage s c k user d).1.pending = s.pending := by
  simp [State.fillPage]
  (repeat' (first | intro _ | refine ⟨?_, ?_⟩ | split)) <;> simp

@[simp ↓] theorem State.fillSlot_frame (s : State) (c : ChanId) (k : KvSlot) :
    (State.fillSlot s c k).sup = s.sup ∧ (State.fillSlot s c k).pending = s.pending := by
  simp [State.fillSlot]

@[simp ↓] theorem State.grantNow_frame (s : State) (c : ChanId) :
    (State.grantNow s c).sup = s.sup ∧ (State.grantNow s c).pending = s.pending := by
  simp [State.grantNow]

@[simp ↓] theorem State.ledgBoundary_frame (s : State) (c : ChanId) (b : Nat) :
    (State.ledgBoundary s c b).sup = s.sup ∧ (State.ledgBoundary s c b).pending = s.pending := by
  simp [State.ledgBoundary]

@[simp ↓] theorem State.sampleDecide_frame (s : State) (c : ChanId) (core : Nat) (slot : Nat) :
    (State.sampleDecide s c core slot).sup = s.sup ∧ (State.sampleDecide s c core slot).pending = s.pending := by
  simp [State.sampleDecide]
  (repeat' (first | intro _ | refine ⟨?_, ?_⟩ | split)) <;> simp

@[simp ↓] theorem State.fillArea_frame (s : State) (c : ChanId) (core : Nat) (t : TileRec) (d : TaskDesc) :
    (State.fillArea s c core t d).sup = s.sup ∧ (State.fillArea s c core t d).pending = s.pending := by
  simp [State.fillArea]

@[simp ↓] theorem State.unresolved_frame (s : State) (c : ChanId) (pn : Nat) (pp : Nat) :
    (State.unresolved s c pn pp).sup = s.sup ∧ (State.unresolved s c pn pp).pending = s.pending := by
  simp [State.unresolved]

@[simp ↓] theorem State.pairMismatch_frame (s : State) (c : ChanId) (x : Sample) (pp : Nat) :
    (State.pairMismatch s c x pp).sup = s.sup ∧ (State.pairMismatch s c x pp).pending = s.pending := by
  simp [State.pairMismatch]
  (repeat' (first | intro _ | refine ⟨?_, ?_⟩ | split)) <;> simp

@[simp ↓] theorem State.dupCompare_frame (s : State) (c : ChanId) (id : Nat) (digest : U64) :
    (State.dupCompare s c id digest).sup = s.sup ∧ (State.dupCompare s c id digest).pending = s.pending := by
  simp [State.dupCompare]
  (repeat' (first | intro _ | refine ⟨?_, ?_⟩ | split)) <;> simp

@[simp ↓] theorem State.checkArrives_frame (s : State) (c : ChanId) (b : Nat) (off : Nat) (m : Nat) (cc : Nat) (core : Nat) (own : Nat) :
    (State.checkArrives s c b off m cc core own).sup = s.sup ∧ (State.checkArrives s c b off m cc core own).pending = s.pending := by
  simp [State.checkArrives]

@[simp ↓] theorem State.checkAll_frame (s : State) (c : ChanId) (l : List (Nat × Nat)) :
    (State.checkAll s c l).1.sup = s.sup ∧ (State.checkAll s c l).1.pending = s.pending := by
  simp [State.checkAll]

@[simp ↓] theorem State.endWork_frame (s : State) (c : ChanId) (t : Task) (w : TaskWork) (k : State → State)
    (hk : ∀ u, (k u).sup = u.sup ∧ (k u).pending = u.pending) :
    (State.endWork s c t w k).sup = s.sup ∧ (State.endWork s c t w k).pending = s.pending := by
  unfold State.endWork
  split
  · exact hk s
  · dsimp only
    split
    · rw [(hk _).1, (hk _).2]
      simp
    · simp

@[simp ↓] theorem State.completeTask_frame (s : State) (c : ChanId) (t : Task) (digest : optParam U64 0) :
    (State.completeTask s c t digest).sup = s.sup ∧ (State.completeTask s c t digest).pending = s.pending := by
  simp [State.completeTask]
  (repeat' (first | intro _ | refine ⟨?_, ?_⟩ | split)) <;> simp

@[simp ↓] theorem State.programEnds_frame (s : State) (c : ChanId) (t : Task) :
    (State.programEnds s c t).sup = s.sup ∧ (State.programEnds s c t).pending = s.pending := by
  simp [State.programEnds]

@[simp ↓] theorem State.drainDup_frame (s : State) (c : ChanId) (t : Task) (id : Nat) (wrong : List (Nat × Byte)) :
    (State.drainDup s c t id wrong).sup = s.sup ∧ (State.drainDup s c t id wrong).pending = s.pending := by
  simp [State.drainDup]
  (repeat' (first | intro _ | refine ⟨?_, ?_⟩ | split)) <;> simp

@[simp ↓] theorem State.drainTile_frame (s : State) (c : ChanId) (t : Task) (tr : TileRec) (wrong : List (Nat × Byte)) :
    (State.drainTile s c t tr wrong).sup = s.sup ∧ (State.drainTile s c t tr wrong).pending = s.pending := by
  simp [State.drainTile]

@[simp ↓] theorem State.taskFails_frame (s : State) (c : ChanId) (t : Task) (code : CompCode) :
    (State.taskFails s c t code).sup = s.sup ∧ (State.taskFails s c t code).pending = s.pending := by
  simp [State.taskFails]

@[simp ↓] theorem State.taskCode_frame (s : State) (c : ChanId) (t : Task) (op : RemOp) (code : CompCode) :
    (State.taskCode s c t op code).sup = s.sup ∧ (State.taskCode s c t op code).pending = s.pending := by
  simp [State.taskCode]

@[simp ↓] theorem State.codeAt_frame (s : State) (c : ChanId) (core : Nat) (slot : Nat) (op : RemOp) (code : CompCode) :
    (State.codeAt s c core slot op code).sup = s.sup ∧ (State.codeAt s c core slot op code).pending = s.pending := by
  unfold State.codeAt
  split <;> simp

@[simp ↓] theorem State.bucketGone_frame (s : State) (c : ChanId) (op : RemOp) (code : CompCode) :
    (State.bucketGone s c op code).sup = s.sup ∧ (State.bucketGone s c op code).pending = s.pending := by
  unfold State.bucketGone
  split <;> simp

@[simp ↓] theorem State.issueFor_frame (s : State) (c : ChanId) (core : Nat) (slot : Nat) (agent : Nat) (op : RemOp) :
    (State.issueFor s c core slot agent op).1.sup = s.sup ∧ (State.issueFor s c core slot agent op).1.pending = s.pending := by
  simp [State.issueFor]
  (repeat' (first | intro _ | refine ⟨?_, ?_⟩ | split)) <;> simp

@[simp ↓] theorem State.issueOp_frame (s : State) (c : ChanId) (core : Nat) (slot : Nat) (op : RemOp) :
    (State.issueOp s c core slot op).sup = s.sup ∧ (State.issueOp s c core slot op).pending = s.pending := by
  unfold State.issueOp
  dsimp only
  split
  · split <;> simp
  · simp

@[simp ↓] theorem State.resume_frame (s : State) (c : ChanId) (core : Nat) (slot : Nat) :
    (State.resume s c core slot).sup = s.sup ∧ (State.resume s c core slot).pending = s.pending := by
  simp [State.resume]
  (repeat' (first | intro _ | refine ⟨?_, ?_⟩ | split)) <;> simp

@[simp ↓] theorem State.retryTask_frame (s : State) (c : ChanId) (t : Task) :
    (State.retryTask s c t).sup = s.sup ∧ (State.retryTask s c t).pending = s.pending := by
  simp [State.retryTask]

@[simp ↓] theorem State.retryTasks_frame (s : State) (c : ChanId) :
    (State.retryTasks s c).sup = s.sup ∧ (State.retryTasks s c).pending = s.pending := by
  simp [State.retryTasks]

@[simp ↓] theorem State.dmaFail_frame (s : State) (c : ChanId) (o : DmaOwner) (op : U8) (cause : Nat) :
    (State.dmaFail s c o op cause).sup = s.sup ∧ (State.dmaFail s c o op cause).pending = s.pending := by
  simp [State.dmaFail]
  (repeat' (first | intro _ | refine ⟨?_, ?_⟩ | split)) <;> simp

@[simp ↓] theorem State.dmaCode_frame (s : State) (c : ChanId) (x : Nat) (o : DmaOwner) (code : CompCode) :
    (State.dmaCode s c x o code).sup = s.sup ∧ (State.dmaCode s c x o code).pending = s.pending := by
  simp [State.dmaCode]
  (repeat' (first | intro _ | refine ⟨?_, ?_⟩ | split)) <;> simp

@[simp ↓] theorem State.dmaPartCode_frame (s : State) (c : ChanId) (x : Xfer) (off : Nat) (op : RemOp) (code : CompCode) :
    (State.dmaPartCode s c x off op code).sup = s.sup ∧ (State.dmaPartCode s c x off op code).pending = s.pending := by
  unfold State.dmaPartCode
  split <;> simp

@[simp ↓] theorem State.actLost_frame (s : State) (c : ChanId) (t : Task) :
    (State.actLost s c t).sup = s.sup ∧ (State.actLost s c t).pending = s.pending := by
  simp [State.actLost]

@[simp ↓] theorem State.loseActs_frame (s : State) (c : ChanId) (d : DmaDesc) :
    (State.loseActs s c d).sup = s.sup ∧ (State.loseActs s c d).pending = s.pending := by
  simp [State.loseActs]

@[simp ↓] theorem State.dmaWrites_frame (s : State) (c : ChanId) (l : List (U64 × List Byte)) :
    (State.dmaWrites s c l).1.sup = s.sup ∧ (State.dmaWrites s c l).1.pending = s.pending := by
  unfold State.dmaWrites
  refine foldl_frame1 _ ?_ _ _
  intro r e
  (try dsimp only)
  split
  · exact ⟨rfl, rfl⟩
  · split
    · split <;> simp
    · exact ⟨rfl, rfl⟩

@[simp ↓] theorem State.dmaSignal_frame (s : State) (c : ChanId) (x : Xfer) :
    (State.dmaSignal s c x).sup = s.sup ∧ (State.dmaSignal s c x).pending = s.pending := by
  simp [State.dmaSignal]
  (repeat' (first | intro _ | refine ⟨?_, ?_⟩ | split)) <;> simp

@[simp ↓] theorem State.dmaTaskEnds_frame (s : State) (c : ChanId) (o : DmaOwner) (w : List (U64 × List Byte)) :
    (State.dmaTaskEnds s c o w).sup = s.sup ∧ (State.dmaTaskEnds s c o w).pending = s.pending := by
  simp [State.dmaTaskEnds]
  (repeat' (first | intro _ | refine ⟨?_, ?_⟩ | split)) <;> simp

@[simp ↓] theorem State.dmaComplete_frame (s : State) (c : ChanId) (x : Xfer) :
    (State.dmaComplete s c x).sup = s.sup ∧ (State.dmaComplete s c x).pending = s.pending := by
  simp [State.dmaComplete]

@[simp ↓] theorem State.dmaIssue_frame (s : State) (c : ChanId) (x : Xfer) (ops : List (Nat × RemOp)) :
    (State.dmaIssue s c x ops).sup = s.sup ∧ (State.dmaIssue s c x ops).pending = s.pending := by
  unfold State.dmaIssue
  apply foldl_frame
  intro r t
  (try dsimp only)
  split
  · split <;> simp
  · exact ⟨rfl, rfl⟩

theorem DmaRun.read_frame (r : DmaRun) (c : ChanId) (a n : Nat) :
    (r.read c a n).1.s.sup = r.s.sup ∧ (r.read c a n).1.s.pending = r.s.pending := by
  unfold DmaRun.read
  split
  · exact ⟨rfl, rfl⟩
  · dsimp only
    split <;> simp

theorem DmaRun.part_frame (r : DmaRun) (c : ChanId) (cls : BitVec 3) (p : Part3) :
    (r.part c cls p).s.sup = r.s.sup ∧ (r.part c cls p).s.pending = r.s.pending := by
  unfold DmaRun.part
  (try dsimp only)
  have h := DmaRun.read_frame r c p.src p.len
  (repeat' split) <;> first | exact h | exact ⟨rfl, rfl⟩

theorem DmaRun.parts_frame (c : ChanId) (cls : BitVec 3) (l : List Part3) (r : DmaRun) :
    (l.foldl (fun x p => x.part c cls p) r).s.sup = r.s.sup ∧ (l.foldl (fun x p => x.part c cls p) r).s.pending = r.s.pending := by
  induction l generalizing r with
  | nil => exact ⟨rfl, rfl⟩
  | cons p l ih =>
    have h := DmaRun.part_frame r c cls p
    exact ⟨(ih _).1.trans h.1, (ih _).2.trans h.2⟩

theorem DmaRun.indices_frame (r : DmaRun) (c : ChanId) (d : DmaDesc) :
    (r.indices c d).1.s.sup = r.s.sup ∧ (r.indices c d).1.s.pending = r.s.pending := by
  unfold DmaRun.indices
  have h := DmaRun.read_frame r c d.aux.toNat (4 * d.count.toNat)
  (try dsimp only)
  (repeat' split) <;> first | exact h | exact ⟨rfl, rfl⟩

theorem DmaRun.foldl_frame (f : DmaRun × List (List Byte) → Nat × Nat → DmaRun × List (List Byte))
    (h : ∀ q e, (f q e).1.s.sup = q.1.s.sup ∧ (f q e).1.s.pending = q.1.s.pending) (l : List (Nat × Nat)) (q : DmaRun × List (List Byte)) :
    (l.foldl f q).1.s.sup = q.1.s.sup ∧ (l.foldl f q).1.s.pending = q.1.s.pending := by
  induction l generalizing q with
  | nil => exact ⟨rfl, rfl⟩
  | cons e l ih => exact ⟨(ih _).1.trans (h q e).1, (ih _).2.trans (h q e).2⟩

theorem DmaRun.readRow_frame (c : ChanId) (q : DmaRun × List (List Byte)) (e : Nat × Nat) :
    (DmaRun.readRow c q e).1.s.sup = q.1.s.sup ∧ (DmaRun.readRow c q e).1.s.pending = q.1.s.pending := by
  unfold DmaRun.readRow
  split
  · exact ⟨rfl, rfl⟩
  · exact DmaRun.read_frame ..

theorem DmaRun.rows_frame (c : ChanId) (l m : List (Nat × Nat)) (r : DmaRun) :
    ((m.foldl (DmaRun.readRow c) ((l.foldl (DmaRun.readRow c) (r, [])).1, [])).1.s.sup = r.s.sup) ∧
    ((m.foldl (DmaRun.readRow c) ((l.foldl (DmaRun.readRow c) (r, [])).1, [])).1.s.pending = r.s.pending) := by
  have key := DmaRun.foldl_frame _ (DmaRun.readRow_frame c)
  exact ⟨(key m _).1.trans (key l _).1, (key m _).2.trans (key l _).2⟩

theorem DmaRun.sends_frame (c : ChanId) (cls : BitVec 3) (l : List ((Nat × Nat) × List Byte)) (r : DmaRun) :
    (l.foldl (DmaRun.send c cls) r).s.sup = r.s.sup ∧ (l.foldl (DmaRun.send c cls) r).s.pending = r.s.pending := by
  induction l generalizing r with
  | nil => exact ⟨rfl, rfl⟩
  | cons e l ih =>
    have h : (DmaRun.send c cls r e).s.sup = r.s.sup ∧ (DmaRun.send c cls r e).s.pending = r.s.pending := by
      unfold DmaRun.send; split <;> exact ⟨rfl, rfl⟩
    exact ⟨(ih _).1.trans h.1, (ih _).2.trans h.2⟩

theorem DmaRun.blktFar_frame (r : DmaRun) (c : ChanId) (cls : BitVec 3) (d : DmaDesc) (srcs scs dsts dscs : List (Nat × Nat)) :
    (r.blktFar c cls d srcs scs dsts dscs).s.sup = r.s.sup ∧ (r.blktFar c cls d srcs scs dsts dscs).s.pending = r.s.pending := by
  have one := DmaRun.foldl_frame _ (DmaRun.readRow_frame c) scs (r, [])
  have two := DmaRun.rows_frame c scs srcs r
  unfold DmaRun.blktFar
  dsimp only
  split
  · exact one
  · split
    · split
      · exact two
      · split
        · exact two
        · exact ⟨(DmaRun.sends_frame ..).1.trans two.1, (DmaRun.sends_frame ..).2.trans two.2⟩
    · split
      · exact one
      · exact ⟨(DmaRun.sends_frame ..).1.trans one.1, (DmaRun.sends_frame ..).2.trans one.2⟩

theorem DmaRun.blkt_frame (r : DmaRun) (c : ChanId) (cls : BitVec 3) (d : DmaDesc) :
    (r.blkt c cls d).s.sup = r.s.sup ∧ (r.blkt c cls d).s.pending = r.s.pending := by
  have h := DmaRun.rows_frame c
  unfold DmaRun.blkt
  dsimp only
  generalize blktRows d.src _ _ _ = srcs
  generalize blktRows d.aux _ _ _ = scs
  generalize blktRows d.dst _ _ _ = dsts
  generalize blktRows d.aux2 _ _ _ = dscs
  split
  · exact ⟨rfl, rfl⟩
  · split
    · exact DmaRun.blktFar_frame r c cls d srcs scs dsts dscs
    split
    · exact h _ _ _
    · split
      · (try dsimp only); exact h _ _ _
      · (try dsimp only); exact h _ _ _

theorem ite_ind {α : Type} (P : α → Prop) {p : Prop} [Decidable p] {a b : α} (ha : P a) (hb : P b) : P (if p then a else b) := by
  split <;> assumption

theorem State.dmaRun_frame (s : State) (c : ChanId) (cls : BitVec 3) (d : DmaDesc) :
    (s.dmaRun c cls d).1.s.sup = s.sup ∧ (s.dmaRun c cls d).1.s.pending = s.pending := by
  have hp := DmaRun.parts_frame c cls
  have hi := DmaRun.indices_frame { s := s } c d
  have hb := DmaRun.blkt_frame { s := s } c cls d
  have h1 := DmaRun.read_frame { s := s } c d.aux.toNat 16
  generalize hh : ({ s := s } : DmaRun).read c d.aux.toNat 16 = h at *
  generalize hj : ({ s := s } : DmaRun).indices c d = i at *
  generalize hk : ({ s := s } : DmaRun).blkt c cls d = b at *
  have key : ∀ (P : DmaRun × Option WalkedList → Prop), (∀ n, P ({ s := s, cause := n }, none)) → (∀ w, P (b, w)) → (∀ w, P (h.1, w)) →
      (∀ w, P (i.1, w)) → (∀ (l : List Part3) w, P (l.foldl (fun x p => x.part c cls p) h.1, w)) → (∀ (l : List Part3) w, P (l.foldl (fun x p => x.part c cls p) i.1, w)) →
      (∀ n w, P ((h.1.read c (d.aux.toNat + 16) n).1, w)) →
      (∀ n (l : List Part3) w, P (l.foldl (fun x p => x.part c cls p) (h.1.read c (d.aux.toNat + 16) n).1, w)) →
      (∀ k w, P ({ h.1 with cause := k }, w)) → (∀ k w, P ({ i.1 with cause := k }, w)) →
      (∀ n k w, P ({ (h.1.read c (d.aux.toNat + 16) n).1 with cause := k }, w)) → P (s.dmaRun c cls d) := by
    intro P p1 p2 p3 p4 p5 p6 p7 p8 p9 p10 p11
    unfold State.dmaRun
    (try dsimp only)
    rw [hh, hj, hk]
    repeat' with_reducible first
      | exact p1 _ | exact p2 _ | exact p3 _ | exact p4 _ | exact p5 _ _ | exact p6 _ _ | exact p7 _ _ | exact p8 _ _ _ | exact p9 _ _
      | exact p10 _ _ | exact p11 _ _ _ | apply ite_ind P | split
  apply key fun q => q.1.s.sup = s.sup ∧ q.1.s.pending = s.pending
  · intro n; exact ⟨rfl, rfl⟩
  · intro w; exact hb
  · intro w; exact h1
  · intro w; exact hi
  · intro l w; exact ⟨(hp _ _).1.trans h1.1, (hp _ _).2.trans h1.2⟩
  · intro l w; exact ⟨(hp _ _).1.trans hi.1, (hp _ _).2.trans hi.2⟩
  · intro n w; exact ⟨(DmaRun.read_frame ..).1.trans h1.1, (DmaRun.read_frame ..).2.trans h1.2⟩
  · intro n l w; exact ⟨(hp _ _).1.trans ((DmaRun.read_frame ..).1.trans h1.1), (hp _ _).2.trans ((DmaRun.read_frame ..).2.trans h1.2)⟩
  · intro k w; exact h1
  · intro k w; exact hi
  · intro n k w; exact ⟨(DmaRun.read_frame ..).1.trans h1.1, (DmaRun.read_frame ..).2.trans h1.2⟩

@[simp ↓] theorem State.startDma_frame (s : State) (c : ChanId) (o : DmaOwner) (d : DmaDesc) :
    (State.startDma s c o d).sup = s.sup ∧ (State.startDma s c o d).pending = s.pending := by
  have h := State.dmaRun_frame s c ((((s.ch c).dmaOwnerTask o).map fun t => t.desc.order.setWidth 3).getD 0) d
  unfold State.startDma
  dsimp only
  split
  · exact ⟨(State.dmaFail_frame ..).1.trans h.1, (State.dmaFail_frame ..).2.trans h.2⟩
  · split
    · exact ⟨(State.dmaCode_frame ..).1.trans ((State.loseActs_frame ..).1.trans h.1), (State.dmaCode_frame ..).2.trans ((State.loseActs_frame ..).2.trans h.2)⟩
    · exact ⟨(State.dmaIssue_frame ..).1.trans ((State.onCh_frame ..).1.trans h.1), (State.dmaIssue_frame ..).2.trans ((State.onCh_frame ..).2.trans h.2)⟩

@[simp ↓] theorem State.dmaCommand_frame (s : State) (c : ChanId) (op : Nat) (d : DmaDesc) (owner : Option (LCore × Nat × Nat)) :
    (State.dmaCommand s c op d owner).sup = s.sup ∧ (State.dmaCommand s c op d owner).pending = s.pending := by
  simp [State.dmaCommand]
  (repeat' (first | intro _ | refine ⟨?_, ?_⟩ | split)) <;> simp

@[simp ↓] theorem State.dmaPart_frame (s : State) (c : ChanId) (x : Nat) (off : Nat) (op : RemOp) (code : CompCode) (payload : List Byte) :
    (State.dmaPart s c x off op code payload).sup = s.sup ∧ (State.dmaPart s c x off op code payload).pending = s.pending := by
  unfold State.dmaPart
  split
  · simp
  · split <;> simp

@[simp ↓] theorem State.retryXfer_frame (s : State) (c : ChanId) (x : Xfer) :
    (State.retryXfer s c x).sup = s.sup ∧ (State.retryXfer s c x).pending = s.pending := by
  simp [State.retryXfer]

@[simp ↓] theorem State.retryXfers_frame (s : State) (c : ChanId) :
    (State.retryXfers s c).sup = s.sup ∧ (State.retryXfers s c).pending = s.pending := by
  simp [State.retryXfers]

@[simp ↓] theorem State.xferFails_frame (s : State) (c : ChanId) (port : Fin 2) (x : Xfer) (timeout : Bool) :
    (State.xferFails s c port x timeout).sup = s.sup ∧ (State.xferFails s c port x timeout).pending = s.pending := by
  simp [State.xferFails]

@[simp ↓] theorem State.cxlTimeout_frame (s : State) (c : ChanId) (write : Bool) (port : Fin 2) (xfer : Nat) :
    (State.cxlTimeout s c write port xfer).sup = s.sup ∧ (State.cxlTimeout s c write port xfer).pending = s.pending := by
  simp [State.cxlTimeout]
  (repeat' (first | intro _ | refine ⟨?_, ?_⟩ | split)) <;> simp

@[simp ↓] theorem State.cxlPortDown_frame (s : State) (c : ChanId) (port : Fin 2) (st : BitVec 4) :
    (State.cxlPortDown s c port st).sup = s.sup ∧ (State.cxlPortDown s c port st).pending = s.pending := by
  simp [State.cxlPortDown]

@[simp ↓] theorem State.moveCode_frame (s : State) (c : ChanId) (spill : Bool) (frame : Nat) (r : Request) (code : CompCode) (payload : List Byte) :
    (State.moveCode s c spill frame r code payload).sup = s.sup ∧ (State.moveCode s c spill frame r code payload).pending = s.pending := by
  simp [State.moveCode]

@[simp ↓] theorem State.endReq_frame (s : State) (c : ChanId) (r : Request) (code : CompCode) (payload : List Byte) :
    (State.endReq s c r code payload).sup = s.sup ∧ (State.endReq s c r code payload).pending = s.pending := by
  unfold State.endReq
  split <;> simp

@[simp ↓] theorem State.issueWaiting_frame (s : State) (c : ChanId) :
    (State.issueWaiting s c).sup = s.sup ∧ (State.issueWaiting s c).pending = s.pending := by
  simp [State.issueWaiting]
  (repeat' (first | intro _ | refine ⟨?_, ?_⟩ | split)) <;> simp

@[simp ↓] theorem State.completeReq_frame (s : State) (c : ChanId) (r : Request) (code : CompCode) (payload : List Byte) :
    (State.completeReq s c r code payload).sup = s.sup ∧ (State.completeReq s c r code payload).pending = s.pending := by
  unfold State.completeReq
  dsimp only
  split <;> simp

@[simp ↓] theorem State.departHeld_frame (s : State) (c : ChanId) :
    (State.departHeld s c).sup = s.sup ∧ (State.departHeld s c).pending = s.pending := by
  simp [State.departHeld]

@[simp ↓] theorem State.bind_frame (s : State) (c : ChanId) (t : Task) (tr : TileRec) :
    (State.bind s c t tr).sup = s.sup ∧ (State.bind s c t tr).pending = s.pending := by
  simp [State.bind]
  (repeat' (first | intro _ | refine ⟨?_, ?_⟩ | split)) <;> simp

@[simp ↓] theorem State.dispatch_frame (s : State) (c : ChanId) (t : Task) :
    (State.dispatch s c t).sup = s.sup ∧ (State.dispatch s c t).pending = s.pending := by
  simp [State.dispatch]
  (repeat' (first | intro _ | refine ⟨?_, ?_⟩ | split)) <;> simp

@[simp ↓] theorem State.readRecord_frame (s : State) (c : ChanId) (t : Task) :
    (State.readRecord s c t).sup = s.sup ∧ (State.readRecord s c t).pending = s.pending := by
  simp [State.readRecord]

@[simp ↓] theorem State.readDescs_frame (s : State) (c : ChanId) (t : Task) :
    (State.readDescs s c t).sup = s.sup ∧ (State.readDescs s c t).pending = s.pending := by
  simp [State.readDescs]

@[simp ↓] theorem State.checkDep_frame (s : State) (c : ChanId) (t : Task) :
    (State.checkDep s c t).sup = s.sup ∧ (State.checkDep s c t).pending = s.pending := by
  simp [State.checkDep]

@[simp ↓] theorem State.admitOffer_frame (s : State) (c : ChanId) (o : Offer) :
    (State.admitOffer s c o).sup = s.sup ∧ (State.admitOffer s c o).pending = s.pending := by
  simp [State.admitOffer]
  (repeat' (first | intro _ | refine ⟨?_, ?_⟩ | split)) <;> simp

@[simp ↓] theorem State.beatAdmission_frame (s : State) (c : ChanId) :
    (State.beatAdmission s c).sup = s.sup ∧ (State.beatAdmission s c).pending = s.pending := by
  simp [State.beatAdmission]

@[simp ↓] theorem State.requeue_frame (s : State) (c : ChanId) (l : LinkId) (waiting : List Packet) :
    (State.requeue s c l waiting).sup = s.sup ∧ (State.requeue s c l waiting).pending = s.pending := by
  simp [State.requeue]

@[simp ↓] theorem State.linkLeaves_frame (s : State) (c : ChanId) (l : LinkId) (st : LinkSt) :
    (State.linkLeaves s c l st).sup = s.sup ∧ (State.linkLeaves s c l st).pending = s.pending := by
  simp [State.linkLeaves]

@[simp ↓] theorem State.linkFailed_frame (s : State) (c : ChanId) (l : LinkId) :
    (State.linkFailed s c l).sup = s.sup ∧ (State.linkFailed s c l).pending = s.pending := by
  simp [State.linkFailed]

@[simp ↓] theorem State.linkUnauthenticated_frame (s : State) (c : ChanId) (l : LinkId) :
    (State.linkUnauthenticated s c l).sup = s.sup ∧ (State.linkUnauthenticated s c l).pending = s.pending := by
  simp [State.linkUnauthenticated]

@[simp ↓] theorem State.authHello_frame (s : State) (c : ChanId) (l : LinkId) :
    (State.authHello s c l).sup = s.sup ∧ (State.authHello s c l).pending = s.pending := by
  simp [State.authHello]

@[simp ↓] theorem State.resend_frame (s : State) (c : ChanId) (l : LinkId) :
    (State.resend s c l).sup = s.sup ∧ (State.resend s c l).pending = s.pending := by
  simp [State.resend]

@[simp ↓] theorem State.replay_frame (s : State) (c : ChanId) (l : LinkId) :
    (State.replay s c l).sup = s.sup ∧ (State.replay s c l).pending = s.pending := by
  simp [State.replay]

@[simp ↓] theorem State.sendNak_frame (s : State) (c : ChanId) (l : LinkId) :
    (State.sendNak s c l).sup = s.sup ∧ (State.sendNak s c l).pending = s.pending := by
  simp [State.sendNak]

@[simp ↓] theorem State.endSession_frame (s : State) (c : ChanId) :
    (State.endSession s c).sup = s.sup ∧ (State.endSession s c).pending = s.pending := by
  simp [State.endSession]

@[simp ↓] theorem State.dropMailboxes_frame (s : State) (c : ChanId) :
    (State.dropMailboxes s c).sup = s.sup ∧ (State.dropMailboxes s c).pending = s.pending := by
  simp [State.dropMailboxes]

@[simp ↓] theorem State.resetChannel_frame (s : State) (c : ChanId) :
    (State.resetChannel s c).sup = s.sup ∧ (State.resetChannel s c).pending = s.pending := by
  simp [State.resetChannel]

@[simp ↓] theorem State.channelOff_frame (s : State) (c : ChanId) :
    (State.channelOff s c).sup = s.sup ∧ (State.channelOff s c).pending = s.pending := by
  simp [State.channelOff]

@[simp ↓] theorem State.channelWake_frame (s : State) (c : ChanId) :
    (State.channelWake s c).sup = s.sup ∧ (State.channelWake s c).pending = s.pending := by
  simp [State.channelWake]

@[simp ↓] theorem State.channelDrain_frame (s : State) (c : ChanId) :
    (State.channelDrain s c).sup = s.sup ∧ (State.channelDrain s c).pending = s.pending := by
  simp [State.channelDrain]

@[simp ↓] theorem State.channelAwake_frame (s : State) (c : ChanId) :
    (State.channelAwake s c).sup = s.sup ∧ (State.channelAwake s c).pending = s.pending := by
  simp [State.channelAwake]

@[simp ↓] theorem State.accessNak_frame (s : State) :
    (State.accessNak s).sup = s.sup ∧ (State.accessNak s).pending = s.pending := by
  simp [State.accessNak]

@[simp ↓] theorem State.chpwrOn_frame (s : State) (c : ChanId) :
    (State.chpwrOn s c).sup = s.sup ∧ (State.chpwrOn s c).pending = s.pending := by
  simp [State.chpwrOn]
  (repeat' (first | intro _ | refine ⟨?_, ?_⟩ | split)) <;> simp

@[simp ↓] theorem State.chpwrOff_frame (s : State) (c : ChanId) :
    (State.chpwrOff s c).sup = s.sup ∧ (State.chpwrOff s c).pending = s.pending := by
  unfold State.chpwrOff
  split <;> simp

@[simp ↓] theorem State.writeChpwr_frame (s : State) (v : U64) :
    (State.writeChpwr s v).sup = s.sup ∧ (State.writeChpwr s v).pending = s.pending := by
  simp [State.writeChpwr]

@[simp ↓] theorem State.domainLost_frame (s : State) (c : ChanId) (d : Nat) :
    (State.domainLost s c d).sup = s.sup ∧ (State.domainLost s c d).pending = s.pending := by
  simp [State.domainLost]

@[simp ↓] theorem State.mmcEvent_frame (s : State) (code : Nat) :
    (State.mmcEvent s code).sup = s.sup ∧ (State.mmcEvent s code).pending = s.pending := by
  simp [State.mmcEvent]

@[simp ↓] theorem State.thermalStep_frame (s : State) (c : ChanId) :
    (State.thermalStep s c).sup = s.sup ∧ (State.thermalStep s c).pending = s.pending := by
  simp [State.thermalStep]

@[simp ↓] theorem State.tick_frame (s : State) :
    (State.tick s).sup = s.sup ∧ (State.tick s).pending = s.pending := by
  simp [State.tick]

@[simp ↓] theorem State.settleTask_frame (s : State) (c : ChanId) (t : Task) :
    (State.settleTask s c t).sup = s.sup ∧ (State.settleTask s c t).pending = s.pending := by
  unfold State.settleTask
  split <;> simp

@[simp ↓] theorem State.settleAll_frame (s : State) (c : ChanId) :
    (State.settleAll s c).sup = s.sup ∧ (State.settleAll s c).pending = s.pending := by
  unfold State.settleAll
  apply foldl_frame
  intro r t
  (try dsimp only)
  split <;> simp

@[simp ↓] theorem State.rollBusy_frame (s : State) (c : ChanId) :
    (State.rollBusy s c).sup = s.sup ∧ (State.rollBusy s c).pending = s.pending := by
  simp [State.rollBusy]

@[simp ↓] theorem State.deviceWork_frame (s : State) (c : ChanId) :
    (State.deviceWork s c).sup = s.sup ∧ (State.deviceWork s c).pending = s.pending := by
  simp [State.deviceWork]

@[simp ↓] theorem State.boundaryWork_frame (s : State) (c : ChanId) :
    (State.boundaryWork s c).sup = s.sup ∧ (State.boundaryWork s c).pending = s.pending := by
  simp [State.boundaryWork]

@[simp ↓] theorem State.boundary_frame (s : State) (c : ChanId) :
    (State.boundary s c).sup = s.sup ∧ (State.boundary s c).pending = s.pending := by
  simp [State.boundary]

@[simp ↓] theorem vecWrite_frame (s : State) (c : ChanId) (core : LCore) (d : VReg) (clk : Nat) (v : LaneVec) :
    (vecWrite s c core d clk v).sup = s.sup ∧ (vecWrite s c core d clk v).pending = s.pending := by
  simp [vecWrite]

@[simp ↓] theorem vecOp1_frame (s : State) (c : ChanId) (core : LCore) (w : Nat) (clk : Nat) (f : Bool → Nat → Nat) (d : VReg) (a : VReg) :
    (vecOp1 s c core w clk f d a).sup = s.sup ∧ (vecOp1 s c core w clk f d a).pending = s.pending := by
  simp [vecOp1]

@[simp ↓] theorem vecOp2_frame (s : State) (c : ChanId) (core : LCore) (w : Nat) (clk : Nat) (f : Bool → Nat → Nat → Nat) (d : VReg) (a : VReg) (b : VReg) :
    (vecOp2 s c core w clk f d a b).sup = s.sup ∧ (vecOp2 s c core w clk f d a b).pending = s.pending := by
  simp [vecOp2]

@[simp ↓] theorem vecOp3_frame (s : State) (c : ChanId) (core : LCore) (w : Nat) (clk : Nat) (f : Bool → Nat → Nat → Nat → Nat) (d : VReg) (a : VReg) (b : VReg) (x : VReg) :
    (vecOp3 s c core w clk f d a b x).sup = s.sup ∧ (vecOp3 s c core w clk f d a b x).pending = s.pending := by
  simp [vecOp3]

@[simp ↓] theorem vecSfu_frame (s : State) (c : ChanId) (core : LCore) (f : Sfu) (d : VReg) (a : VReg) :
    (vecSfu s c core f d a).sup = s.sup ∧ (vecSfu s c core f d a).pending = s.pending := by
  simp [vecSfu]

@[simp ↓] theorem vecRead_frame (s : State) (c : ChanId) (core : LCore) (slot : Nat) (l : List (Nat × Nat)) (k : State → List (List Byte) → State) (hk : ∀ t l, (k t l).sup = t.sup ∧ (k t l).pending = t.pending) :
    (vecRead s c core slot l k).sup = s.sup ∧ (vecRead s c core slot l k).pending = s.pending := by
  unfold vecRead
  (try dsimp only)
  split
  · simp [hk]
  · split <;> simp

@[simp ↓] theorem State.tryJoin_frame (s : State) (c : ChanId) :
    (State.tryJoin s c).sup = s.sup ∧ (State.tryJoin s c).pending = s.pending := by
  simp [State.tryJoin]

@[simp ↓] theorem State.sendTime_frame (s : State) (c : ChanId) (l : LinkId) (kind : Nat) (m : TimeMsg) :
    (State.sendTime s c l kind m).sup = s.sup ∧ (State.sendTime s c l kind m).pending = s.pending := by
  simp [State.sendTime]

@[simp ↓] theorem State.mgmtAnswer_frame (s : State) (c : ChanId) (op : U8) (link : LinkId) (m : BitVec 14) (cc : BitVec 1) (code : Nat) (gen : Nat) :
    (State.mgmtAnswer s c op link m cc code gen).sup = s.sup ∧ (State.mgmtAnswer s c op link m cc code gen).pending = s.pending := by
  exact State.sendMgmt_frame ..

@[simp ↓] theorem State.purgeQueues_frame (s : State) (c : ChanId) :
    (State.purgeQueues s c).sup = s.sup ∧ (State.purgeQueues s c).pending = s.pending := by
  simp [State.purgeQueues]

@[simp ↓] theorem State.readStream_frame (s : State) (c : ChanId) :
    (State.readStream s c).1.sup = s.sup ∧ (State.readStream s c).1.pending = s.pending := by
  simp [State.readStream]
  (repeat' (first | intro _ | refine ⟨?_, ?_⟩ | split)) <;> simp

@[simp ↓] theorem State.respond_frame (s : State) (c : ChanId) (m : Nat) (status : Nat) (payload : List Byte) :
    (State.respond s c m status payload).sup = s.sup ∧ (State.respond s c m status payload).pending = s.pending := by
  simp [State.respond]

@[simp ↓] theorem State.refuseBox_frame (s : State) (c : ChanId) (m : Nat) (code : Nat) :
    (State.refuseBox s c m code).sup = s.sup ∧ (State.refuseBox s c m code).pending = s.pending := by
  simp [State.refuseBox]

@[simp ↓] theorem State.sessionBad_frame (s : State) (c : ChanId) (m : Nat) :
    (State.sessionBad s c m).sup = s.sup ∧ (State.sessionBad s c m).pending = s.pending := by
  simp [State.sessionBad]

@[simp ↓] theorem State.serveBox_frame (s : State) (c : ChanId) (m : Nat) :
    (State.serveBox s c m).sup = s.sup ∧ (State.serveBox s c m).pending = s.pending := by
  simp [State.serveBox]

@[simp ↓] theorem State.serve_frame (s : State) (c : ChanId) (m : Nat) (op : Nat) (plain : Option (List Byte)) (k : State → List Byte → State) (hk : ∀ t l, (k t l).sup = t.sup ∧ (k t l).pending = t.pending) :
    (State.serve s c m op plain k).sup = s.sup ∧ (State.serve s c m op plain k).pending = s.pending := by
  unfold State.serve
  (try dsimp only)
  (repeat' split) <;> simp [hk]

@[simp ↓] theorem State.fragment_frame (s : State) (c : ChanId) (m : Nat) (data : List Byte) (k : State → List Byte → State) (hk : ∀ t l, (k t l).sup = t.sup ∧ (k t l).pending = t.pending) :
    (State.fragment s c m data k).sup = s.sup ∧ (State.fragment s c m data k).pending = s.pending := by
  unfold State.fragment
  (try dsimp only)
  (repeat' split) <;> simp [hk]

@[simp ↓] theorem State.onSec_frame (s : State) (t : Fin 3) (f : Sec → Sec) :
    (State.onSec s t f).sup = s.sup ∧ (State.onSec s t f).pending = s.pending := by
  unfold State.onSec
  split <;> simp

@[simp ↓] theorem State.raiseSec_frame (s : State) (t : Fin 3) (code : Nat) :
    (State.raiseSec s t code).sup = s.sup ∧ (State.raiseSec s t code).pending = s.pending := by
  unfold State.raiseSec
  split <;> simp

@[simp ↓] theorem State.dbgRequest_frame (s : State) (t : Fin 3) (level : DebugLevel) :
    (State.dbgRequest s t level).sup = s.sup ∧ (State.dbgRequest s t level).pending = s.pending := by
  simp [State.dbgRequest]

@[simp ↓] theorem State.linksDown_frame (s : State) (c : ChanId) :
    (State.linksDown s c).sup = s.sup ∧ (State.linksDown s c).pending = s.pending := by
  simp [State.linksDown]

@[simp ↓] theorem State.invasiveUnlock_frame (s : State) (t : Fin 3) :
    (State.invasiveUnlock s t).sup = s.sup ∧ (State.invasiveUnlock s t).pending = s.pending := by
  unfold State.invasiveUnlock
  split <;> simp

@[simp ↓] theorem State.dbgSubmit_frame (s : State) (t : Fin 3) (sigOk : Bool) :
    (State.dbgSubmit s t sigOk).sup = s.sup ∧ (State.dbgSubmit s t sigOk).pending = s.pending := by
  simp [State.dbgSubmit]
  (repeat' (first | intro _ | refine ⟨?_, ?_⟩ | split)) <;> simp

@[simp ↓] theorem State.endDebug_frame (s : State) (t : Fin 3) :
    (State.endDebug s t).sup = s.sup ∧ (State.endDebug s t).pending = s.pending := by
  unfold State.endDebug
  split <;> simp

@[simp ↓] theorem State.writeSecDbg_frame (s : State) (t : Fin 3) (v : U64) (sigOk : Bool) :
    (State.writeSecDbg s t v sigOk).sup = s.sup ∧ (State.writeSecDbg s t v sigOk).pending = s.pending := by
  simp [State.writeSecDbg]

@[simp ↓] theorem State.handshakeBad_frame (s : State) (c : ChanId) :
    (State.handshakeBad s c).sup = s.sup ∧ (State.handshakeBad s c).pending = s.pending := by
  simp [State.handshakeBad]

@[simp ↓] theorem State.installBad_frame (s : State) (c : ChanId) (m : Nat) :
    (State.installBad s c m).sup = s.sup ∧ (State.installBad s c m).pending = s.pending := by
  simp [State.installBad]

@[simp ↓] theorem State.install_frame (s : State) (c : ChanId) (m : Nat) (op : Nat) (plain : Option (List Byte)) (lifecycle : Bool) (k : State → List Byte → State) (hk : ∀ t l, (k t l).sup = t.sup ∧ (k t l).pending = t.pending) :
    (State.install s c m op plain lifecycle k).sup = s.sup ∧ (State.install s c m op plain lifecycle k).pending = s.pending := by
  unfold State.install
  apply State.serve_frame
  intro t l
  split
  · simp
  · apply State.fragment_frame
    intro u o
    (try dsimp only)
    split
    · simp
    · exact hk ..

@[simp ↓] theorem State.writeSettings_frame (s : State) (c : ChanId) (set : Settings) :
    (State.writeSettings s c set).sup = s.sup ∧ (State.writeSettings s c set).pending = s.pending := by
  simp [State.writeSettings]

@[simp ↓] theorem State.notifyBoxes_frame (s : State) (c : ChanId) (g : Nat) (note : U32) :
    (State.notifyBoxes s c g note).sup = s.sup ∧ (State.notifyBoxes s c g note).pending = s.pending := by
  simp [State.notifyBoxes]

@[simp ↓] theorem State.boot_frame (s : State) (c : ChanId) (selftestOk : Bool) :
    (State.boot s c selftestOk).sup = s.sup ∧ (State.boot s c selftestOk).pending = s.pending := by
  simp [State.boot]

@[simp ↓] theorem State.leaveAtBoundary_frame (s : State) (c : ChanId) :
    (State.leaveAtBoundary s c).sup = s.sup ∧ (State.leaveAtBoundary s c).pending = s.pending := by
  simp [State.leaveAtBoundary]

@[simp ↓] theorem State.leave_frame (s : State) (c : ChanId) :
    (State.leave s c).sup = s.sup ∧ (State.leave s c).pending = s.pending := by
  simp [State.leave]
  (repeat' (first | intro _ | refine ⟨?_, ?_⟩ | split)) <;> simp

@[simp ↓] theorem State.onCmd_frame (s : State) (c : ChanId) (n : Nat) (op : Nat) (k : RingCmd → State) (hk : ∀ x, (k x).sup = s.sup ∧ (k x).pending = s.pending) :
    (State.onCmd s c n op k).sup = s.sup ∧ (State.onCmd s c n op k).pending = s.pending := by
  unfold State.onCmd
  (try dsimp only)
  (repeat' split) <;> simp [hk]

@[simp ↓] theorem State.kvCmd_frame (s : State) (c : ChanId) (x : RingCmd) (f : State → State × Bool) (hf : ∀ t, (f t).1.sup = t.sup ∧ (f t).1.pending = t.pending) :
    (State.kvCmd s c x f).sup = s.sup ∧ (State.kvCmd s c x f).pending = s.pending := by
  unfold State.kvCmd
  (try dsimp only)
  (repeat' split) <;> simp [hf]

@[simp ↓] theorem State.consumeRing_frame (c : ChanId) (n fuel : Nat) (s : State) :
    (State.consumeRing c n fuel s).sup = s.sup ∧ (State.consumeRing c n fuel s).pending = s.pending := by
  induction fuel generalizing s with
  | zero => exact ⟨rfl, rfl⟩
  | succ k ih =>
    unfold State.consumeRing
    (try dsimp only)
    (repeat' split) <;> simp [ih]

@[simp ↓] theorem State.notifyIn_frame (s : State) (c : ChanId) (g : Nat) (note : U32) :
    (State.notifyIn s c g note).sup = s.sup ∧ (State.notifyIn s c g note).pending = s.pending := by
  unfold State.notifyIn
  (try dsimp only)
  split
  · exact ⟨rfl, rfl⟩
  · split
    · simp
    · refine ⟨(foldl_frame _ ?_ _ _).1.trans (State.notifyBoxes_frame ..).1, (foldl_frame _ ?_ _ _).2.trans (State.notifyBoxes_frame ..).2⟩ <;>
        (intro r n; (try dsimp only); split <;> simp)

@[simp ↓] theorem State.setIn_frame (s : State) (c : ChanId) (g : Nat) (v : U32) :
    (State.setIn s c g v).sup = s.sup ∧ (State.setIn s c g v).pending = s.pending := by
  simp [State.setIn]

@[simp ↓] theorem State.writeDbSet_frame (s : State) (c : ChanId) (w : Writer) (g : Nat) (v : U32) :
    (State.writeDbSet s c w g v).sup = s.sup ∧ (State.writeDbSet s c w g v).pending = s.pending := by
  simp [State.writeDbSet]

@[simp ↓] theorem State.writeDbClr_frame (s : State) (c : ChanId) (w : Writer) (g : Nat) (v : U32) :
    (State.writeDbClr s c w g v).sup = s.sup ∧ (State.writeDbClr s c w g v).pending = s.pending := by
  simp [State.writeDbClr]

@[simp ↓] theorem State.writeDbMask_frame (s : State) (c : ChanId) (w : Writer) (g : Nat) (v : U32) :
    (State.writeDbMask s c w g v).sup = s.sup ∧ (State.writeDbMask s c w g v).pending = s.pending := by
  simp [State.writeDbMask]

@[simp ↓] theorem State.flushQueue_frame (s : State) (c : ChanId) (n : Nat) :
    (State.flushQueue s c n).sup = s.sup ∧ (State.flushQueue s c n).pending = s.pending := by
  simp [State.flushQueue]

@[simp ↓] theorem State.postChannel_frame (s : State) (c : ChanId) :
    (State.postChannel s c).sup = s.sup ∧ (State.postChannel s c).pending = s.pending := by
  simp [State.postChannel]
  (repeat' (first | intro _ | refine ⟨?_, ?_⟩ | split)) <;> simp

@[simp ↓] theorem State.flushPtd_frame (s : State) (n : Nat) :
    (State.flushPtd s n).sup = s.sup ∧ (State.flushPtd s n).pending = s.pending := by
  simp [State.flushPtd]

@[simp ↓] theorem State.postPtd_frame (s : State) :
    (State.postPtd s).sup = s.sup ∧ (State.postPtd s).pending = s.pending := by
  simp [State.postPtd]
  (repeat' (first | intro _ | refine ⟨?_, ?_⟩ | split)) <;> simp

@[simp ↓] theorem State.setEq_frame (s : State) (c : ChanId) (n : Nat) (f : EvQueue → EvQueue) :
    (State.setEq s c n f).sup = s.sup ∧ (State.setEq s c n f).pending = s.pending := by
  simp [State.setEq]

@[simp ↓] theorem State.writeEqCi_frame (s : State) (t : Fin 3) (n : Nat) (v : U32) :
    (State.writeEqCi s t n v).sup = s.sup ∧ (State.writeEqCi s t n v).pending = s.pending := by
  unfold State.writeEqCi
  split <;> simp

@[simp ↓] theorem State.secWrite_frame (s : State) (t : Fin 3) (o : Nat) (v : U64) :
    (State.secWrite s t o v).sup = s.sup ∧ (State.secWrite s t o v).pending = s.pending := by
  simp [State.secWrite]

@[simp ↓] theorem State.csrRead_frame (s : State) (c : ChanId) (off : Nat) (n : Nat) :
    (State.csrRead s c off n).1.sup = s.sup ∧ (State.csrRead s c off n).1.pending = s.pending := by
  simp [State.csrRead]
  (repeat' (first | intro _ | refine ⟨?_, ?_⟩ | split)) <;> simp

/-- Writing a register keeps the supply and the queue. -/
def OptReg.keeps (o : Option Reg) : Prop :=
  ∀ r, o = some r → ∀ s c w v, (r.write s c w v).sup = s.sup ∧ (r.write s c w v).pending = s.pending

theorem OptReg.none_keeps : OptReg.keeps none := by intro r h; cases h

theorem OptReg.ite_keeps {p : Prop} [Decidable p] {a b : Option Reg} (ha : OptReg.keeps a) (hb : OptReg.keeps b) :
    OptReg.keeps (if p then a else b) := by split <;> assumption

theorem OptReg.some_keeps {r : Reg} (h : ∀ s c w v, (r.write s c w v).sup = s.sup ∧ (r.write s c w v).pending = s.pending) :
    OptReg.keeps (some r) := by intro q e; cases e; exact h

theorem chnReg_keeps (o : Nat) : OptReg.keeps (chnReg o) := by
  unfold chnReg
  repeat' first
    | exact OptReg.none_keeps
    | exact OptReg.some_keeps fun _ _ _ _ => ⟨rfl, rfl⟩
    | exact OptReg.some_keeps fun _ _ _ _ => State.onCh_frame ..
    | (refine OptReg.some_keeps fun s c w v => ?_; simp [wr]; done)
    | (refine OptReg.some_keeps fun s c w v => ?_; (try dsimp only); (repeat' split) <;> simp [wr]; done)
    | apply OptReg.ite_keeps

theorem beatReg_keeps (o : Nat) : OptReg.keeps (beatReg o) := by
  unfold beatReg
  repeat' first
    | exact OptReg.none_keeps
    | exact OptReg.some_keeps fun _ _ _ _ => ⟨rfl, rfl⟩
    | exact OptReg.some_keeps fun _ _ _ _ => State.onCh_frame ..
    | (refine OptReg.some_keeps fun s c w v => ?_; simp [wr]; done)
    | (refine OptReg.some_keeps fun s c w v => ?_; (try dsimp only); (repeat' split) <;> simp [wr]; done)
    | apply OptReg.ite_keeps

theorem tskReg_keeps (o : Nat) : OptReg.keeps (tskReg o) := by
  unfold tskReg
  repeat' first
    | exact OptReg.none_keeps
    | exact OptReg.some_keeps fun _ _ _ _ => ⟨rfl, rfl⟩
    | exact OptReg.some_keeps fun _ _ _ _ => State.onCh_frame ..
    | (refine OptReg.some_keeps fun s c w v => ?_; simp [wr]; done)
    | (refine OptReg.some_keeps fun s c w v => ?_; (try dsimp only); (repeat' split) <;> simp [wr]; done)
    | apply OptReg.ite_keeps

theorem arrReg_keeps (o : Nat) : OptReg.keeps (arrReg o) := by
  unfold arrReg
  repeat' first
    | exact OptReg.none_keeps
    | exact OptReg.some_keeps fun _ _ _ _ => ⟨rfl, rfl⟩
    | exact OptReg.some_keeps fun _ _ _ _ => State.onCh_frame ..
    | (refine OptReg.some_keeps fun s c w v => ?_; simp [wr]; done)
    | (refine OptReg.some_keeps fun s c w v => ?_; (try dsimp only); (repeat' split) <;> simp [wr]; done)
    | apply OptReg.ite_keeps

theorem vecReg_keeps (o : Nat) : OptReg.keeps (vecReg o) := by
  unfold vecReg
  repeat' first
    | exact OptReg.none_keeps
    | exact OptReg.some_keeps fun _ _ _ _ => ⟨rfl, rfl⟩
    | exact OptReg.some_keeps fun _ _ _ _ => State.onCh_frame ..
    | (refine OptReg.some_keeps fun s c w v => ?_; simp [wr]; done)
    | (refine OptReg.some_keeps fun s c w v => ?_; (try dsimp only); (repeat' split) <;> simp [wr]; done)
    | apply OptReg.ite_keeps

theorem sqlReg_keeps (o : Nat) : OptReg.keeps (sqlReg o) := by
  unfold sqlReg
  repeat' first
    | exact OptReg.none_keeps
    | exact OptReg.some_keeps fun _ _ _ _ => ⟨rfl, rfl⟩
    | exact OptReg.some_keeps fun _ _ _ _ => State.onCh_frame ..
    | (refine OptReg.some_keeps fun s c w v => ?_; simp [wr]; done)
    | (refine OptReg.some_keeps fun s c w v => ?_; (try dsimp only); (repeat' split) <;> simp [wr]; done)
    | apply OptReg.ite_keeps

theorem gxcReg_keeps (o : Nat) : OptReg.keeps (gxcReg o) := by
  unfold gxcReg
  repeat' first
    | exact OptReg.none_keeps
    | exact OptReg.some_keeps fun _ _ _ _ => ⟨rfl, rfl⟩
    | exact OptReg.some_keeps fun _ _ _ _ => State.onCh_frame ..
    | (refine OptReg.some_keeps fun s c w v => ?_; simp [wr]; done)
    | (refine OptReg.some_keeps fun s c w v => ?_; (try dsimp only); (repeat' split) <;> simp [wr]; done)
    | apply OptReg.ite_keeps

theorem updReg_keeps (o : Nat) : OptReg.keeps (updReg o) := by
  unfold updReg
  repeat' first
    | exact OptReg.none_keeps
    | exact OptReg.some_keeps fun _ _ _ _ => ⟨rfl, rfl⟩
    | exact OptReg.some_keeps fun _ _ _ _ => State.onCh_frame ..
    | (refine OptReg.some_keeps fun s c w v => ?_; simp [wr]; done)
    | (refine OptReg.some_keeps fun s c w v => ?_; (try dsimp only); (repeat' split) <;> simp [wr]; done)
    | apply OptReg.ite_keeps

theorem wrnReg_keeps (o : Nat) : OptReg.keeps (wrnReg o) := by
  unfold wrnReg
  repeat' first
    | exact OptReg.none_keeps
    | exact OptReg.some_keeps fun _ _ _ _ => ⟨rfl, rfl⟩
    | exact OptReg.some_keeps fun _ _ _ _ => State.onCh_frame ..
    | (refine OptReg.some_keeps fun s c w v => ?_; simp [wr]; done)
    | (refine OptReg.some_keeps fun s c w v => ?_; (try dsimp only); (repeat' split) <;> simp [wr]; done)
    | apply OptReg.ite_keeps

theorem memReg_keeps (o : Nat) : OptReg.keeps (memReg o) := by
  unfold memReg
  repeat' first
    | exact OptReg.none_keeps
    | exact OptReg.some_keeps fun _ _ _ _ => ⟨rfl, rfl⟩
    | exact OptReg.some_keeps fun _ _ _ _ => State.onCh_frame ..
    | (refine OptReg.some_keeps fun s c w v => ?_; simp [wr]; done)
    | (refine OptReg.some_keeps fun s c w v => ?_; (try dsimp only); (repeat' split) <;> simp [wr]; done)
    | apply OptReg.ite_keeps

theorem cxlReg_keeps (o : Nat) : OptReg.keeps (cxlReg o) := by
  unfold cxlReg
  repeat' first
    | exact OptReg.none_keeps
    | exact OptReg.some_keeps fun _ _ _ _ => ⟨rfl, rfl⟩
    | exact OptReg.some_keeps fun _ _ _ _ => State.onCh_frame ..
    | (refine OptReg.some_keeps fun s c w v => ?_; simp [wr]; done)
    | (refine OptReg.some_keeps fun s c w v => ?_; (try dsimp only); (repeat' split) <;> simp [wr]; done)
    | apply OptReg.ite_keeps

theorem dmaReg_keeps (o : Nat) : OptReg.keeps (dmaReg o) := by
  unfold dmaReg
  repeat' first
    | exact OptReg.none_keeps
    | exact OptReg.some_keeps fun _ _ _ _ => ⟨rfl, rfl⟩
    | exact OptReg.some_keeps fun _ _ _ _ => State.onCh_frame ..
    | (refine OptReg.some_keeps fun s c w v => ?_; simp [wr]; done)
    | (refine OptReg.some_keeps fun s c w v => ?_; (try dsimp only); (repeat' split) <;> simp [wr]; done)
    | apply OptReg.ite_keeps

theorem pssReg_keeps (o : Nat) : OptReg.keeps (pssReg o) := by
  unfold pssReg
  repeat' first
    | exact OptReg.none_keeps
    | exact OptReg.some_keeps fun _ _ _ _ => ⟨rfl, rfl⟩
    | exact OptReg.some_keeps fun _ _ _ _ => State.onCh_frame ..
    | (refine OptReg.some_keeps fun s c w v => ?_; simp [wr]; done)
    | (refine OptReg.some_keeps fun s c w v => ?_; (try dsimp only); (repeat' split) <;> simp [wr]; done)
    | apply OptReg.ite_keeps

theorem ledgReg_keeps (o : Nat) : OptReg.keeps (ledgReg o) := by
  unfold ledgReg
  repeat' first
    | exact OptReg.none_keeps
    | exact OptReg.some_keeps fun _ _ _ _ => ⟨rfl, rfl⟩
    | exact OptReg.some_keeps fun _ _ _ _ => State.onCh_frame ..
    | (refine OptReg.some_keeps fun s c w v => ?_; simp [wr]; done)
    | (refine OptReg.some_keeps fun s c w v => ?_; (try dsimp only); (repeat' split) <;> simp [wr]; done)
    | apply OptReg.ite_keeps

theorem pwrReg_keeps (o : Nat) : OptReg.keeps (pwrReg o) := by
  unfold pwrReg
  repeat' first
    | exact OptReg.none_keeps
    | exact OptReg.some_keeps fun _ _ _ _ => ⟨rfl, rfl⟩
    | exact OptReg.some_keeps fun _ _ _ _ => State.onCh_frame ..
    | (refine OptReg.some_keeps fun s c w v => ?_; simp [wr]; done)
    | (refine OptReg.some_keeps fun s c w v => ?_; (try dsimp only); (repeat' split) <;> simp [wr]; done)
    | apply OptReg.ite_keeps

theorem bdgReg_keeps (o : Nat) : OptReg.keeps (bdgReg o) := by
  unfold bdgReg
  repeat' first
    | exact OptReg.none_keeps
    | exact OptReg.some_keeps fun _ _ _ _ => ⟨rfl, rfl⟩
    | exact OptReg.some_keeps fun _ _ _ _ => State.onCh_frame ..
    | (refine OptReg.some_keeps fun s c w v => ?_; simp [wr]; done)
    | (refine OptReg.some_keeps fun s c w v => ?_; (try dsimp only); (repeat' split) <;> simp [wr]; done)
    | apply OptReg.ite_keeps

theorem owlReg_keeps (o : Nat) : OptReg.keeps (owlReg o) := by
  unfold owlReg
  repeat' first
    | exact OptReg.none_keeps
    | exact OptReg.some_keeps fun _ _ _ _ => ⟨rfl, rfl⟩
    | exact OptReg.some_keeps fun _ _ _ _ => State.onCh_frame ..
    | (refine OptReg.some_keeps fun s c w v => ?_; simp [wr]; done)
    | (refine OptReg.some_keeps fun s c w v => ?_; (try dsimp only); (repeat' split) <;> simp [wr]; done)
    | apply OptReg.ite_keeps

theorem secReg_keeps (o : Nat) : OptReg.keeps (secReg o) := by
  unfold secReg
  split
  repeat' first
    | exact OptReg.none_keeps
    | exact OptReg.some_keeps fun _ _ _ _ => ⟨rfl, rfl⟩
    | exact OptReg.some_keeps fun _ _ _ _ => State.onCh_frame ..
    | (refine OptReg.some_keeps fun s c w v => ?_; simp [wr]; done)
    | (refine OptReg.some_keeps fun s c w v => ?_; (try dsimp only); (repeat' split) <;> simp [wr]; done)
    | apply OptReg.ite_keeps

theorem dbReg_keeps (n k : Nat) : OptReg.keeps (dbReg n k) := by
  unfold dbReg
  repeat' first
    | exact OptReg.none_keeps
    | exact OptReg.some_keeps fun _ _ _ _ => ⟨rfl, rfl⟩
    | exact OptReg.some_keeps fun _ _ _ _ => State.onCh_frame ..
    | (refine OptReg.some_keeps fun s c w v => ?_; simp [wr]; done)
    | (refine OptReg.some_keeps fun s c w v => ?_; (try dsimp only); (repeat' split) <;> simp [wr]; done)
    | apply OptReg.ite_keeps

theorem ringReg_keeps (n k : Nat) : OptReg.keeps (ringReg n k) := by
  unfold ringReg
  repeat' first
    | exact OptReg.none_keeps
    | exact OptReg.some_keeps fun _ _ _ _ => ⟨rfl, rfl⟩
    | exact OptReg.some_keeps fun _ _ _ _ => State.onCh_frame ..
    | (refine OptReg.some_keeps fun s c w v => ?_; simp [wr]; done)
    | (refine OptReg.some_keeps fun s c w v => ?_; (try dsimp only); (repeat' split) <;> simp [wr]; done)
    | apply OptReg.ite_keeps

theorem eqReg_keeps (n k : Nat) : OptReg.keeps (eqReg n k) := by
  unfold eqReg
  repeat' first
    | exact OptReg.none_keeps
    | exact OptReg.some_keeps fun _ _ _ _ => ⟨rfl, rfl⟩
    | exact OptReg.some_keeps fun _ _ _ _ => State.onCh_frame ..
    | (refine OptReg.some_keeps fun s c w v => ?_; simp [wr]; done)
    | (refine OptReg.some_keeps fun s c w v => ?_; (try dsimp only); (repeat' split) <;> simp [wr]; done)
    | apply OptReg.ite_keeps

theorem cfgReg_keeps (o : Nat) : OptReg.keeps (cfgReg o) := by
  unfold cfgReg
  repeat' first
    | exact OptReg.none_keeps
    | exact OptReg.some_keeps fun _ _ _ _ => ⟨rfl, rfl⟩
    | exact OptReg.some_keeps fun _ _ _ _ => State.onCh_frame ..
    | (refine OptReg.some_keeps fun s c w v => ?_; simp [wr]; done)
    | (refine OptReg.some_keeps fun s c w v => ?_; (try dsimp only); (repeat' split) <;> simp [wr]; done)
    | apply OptReg.ite_keeps

theorem tlmReg_keeps (o : Nat) : OptReg.keeps (tlmReg o) := by
  unfold tlmReg
  repeat' first
    | exact OptReg.none_keeps
    | exact OptReg.some_keeps fun _ _ _ _ => ⟨rfl, rfl⟩
    | exact OptReg.some_keeps fun _ _ _ _ => State.onCh_frame ..
    | (refine OptReg.some_keeps fun s c w v => ?_; simp [wr]; done)
    | (refine OptReg.some_keeps fun s c w v => ?_; (try dsimp only); (repeat' split) <;> simp [wr]; done)
    | apply OptReg.ite_keeps

theorem mbxReg_keeps (o : Nat) : OptReg.keeps (mbxReg o) := by
  unfold mbxReg
  repeat' with_reducible first
    | exact dbReg_keeps _ _
    | exact ringReg_keeps _ _
    | exact eqReg_keeps _ _
    | apply OptReg.ite_keeps
    | exact OptReg.none_keeps
    | exact OptReg.some_keeps fun _ _ _ _ => ⟨rfl, rfl⟩

theorem regAt_keeps (o : Nat) : OptReg.keeps (regAt o) := by
  unfold regAt
  refine OptReg.ite_keeps ?_ OptReg.none_keeps
  unfold blockReg
  split
  all_goals with_reducible first
    | exact chnReg_keeps _
    | exact beatReg_keeps _
    | exact tskReg_keeps _
    | exact arrReg_keeps _
    | exact vecReg_keeps _
    | exact sqlReg_keeps _
    | exact gxcReg_keeps _
    | exact updReg_keeps _
    | exact wrnReg_keeps _
    | exact memReg_keeps _
    | exact cxlReg_keeps _
    | exact dmaReg_keeps _
    | exact pssReg_keeps _
    | exact ledgReg_keeps _
    | exact pwrReg_keeps _
    | exact bdgReg_keeps _
    | exact owlReg_keeps _
    | exact secReg_keeps _
    | exact cfgReg_keeps _
    | exact tlmReg_keeps _
    | exact mbxReg_keeps _
    | exact OptReg.none_keeps

@[simp ↓] theorem State.csrWrite_frame (s : State) (c : ChanId) (o : Origin) (w : Writer) (off : Nat) (bytes : List Byte) :
    (State.csrWrite s c o w off bytes).1.sup = s.sup ∧ (State.csrWrite s c o w off bytes).1.pending = s.pending := by
  unfold State.csrWrite
  split
  · simp
  · split
    · exact ⟨rfl, rfl⟩
    · split
      · exact regAt_keeps _ _ (by assumption) _ _ _ _
      · exact ⟨rfl, rfl⟩
      · exact ⟨rfl, rfl⟩

@[simp ↓] theorem State.ptdWrite_frame (s : State) (o : Nat) (v : U64) :
    (State.ptdWrite s o v).sup = s.sup ∧ (State.ptdWrite s o v).pending = s.pending := by
  simp [State.ptdWrite]

@[simp ↓] theorem State.respondTo_frame (s : State) (c : ChanId) (o : Origin) (p : Packet) (code : CompCode) (payload : List Byte) :
    (State.respondTo s c o p code payload).sup = s.sup ∧ (State.respondTo s c o p code payload).pending = s.pending := by
  simp [State.respondTo]

@[simp ↓] theorem State.refuseEarly_frame (s : State) (c : ChanId) (o : Origin) (p : Packet) :
    (State.refuseEarly s c o p).sup = s.sup ∧ (State.refuseEarly s c o p).pending = s.pending := by
  unfold State.refuseEarly
  split <;> simp

@[simp ↓] theorem State.atTarget_frame (s : State) (c : ChanId) (o : Origin) (p : Packet) (f : State → Place → State × CompCode × List Byte) (hf : ∀ t p, (f t p).1.sup = t.sup ∧ (f t p).1.pending = t.pending) :
    (State.atTarget s c o p f).sup = s.sup ∧ (State.atTarget s c o p f).pending = s.pending := by
  unfold State.atTarget
  (try dsimp only)
  (repeat' split) <;> simp [hf]

@[simp ↓] theorem State.addAt_frame (s : State) (c : ChanId) (fmt : Nat) (slot : Nat) (off : Nat) (new : List Byte) :
    (State.addAt s c fmt slot off new).1.sup = s.sup ∧ (State.addAt s c fmt slot off new).1.pending = s.pending := by
  simp [State.addAt]

@[simp ↓] theorem State.atomicAt_frame (s : State) (c : ChanId) (pl : Place) (f : Nat → Nat) :
    (State.atomicAt s c pl f).1.sup = s.sup ∧ (State.atomicAt s c pl f).1.pending = s.pending := by
  unfold State.atomicAt
  split <;> simp

@[simp ↓] theorem State.counterUse_frame (s : State) (c : ChanId) (use : CounterUse) :
    (State.counterUse s c use).sup = s.sup ∧ (State.counterUse s c use).pending = s.pending := by
  unfold State.counterUse
  split <;> simp

@[simp ↓] theorem State.routePacket_frame (s : State) (c : ChanId) (o : Origin) (p : Packet) :
    (State.routePacket s c o p).sup = s.sup ∧ (State.routePacket s c o p).pending = s.pending := by
  simp [State.routePacket]

@[simp ↓] theorem State.failBoxes_frame (s : State) (c : ChanId) (q : Nat) :
    (State.failBoxes s c q).sup = s.sup ∧ (State.failBoxes s c q).pending = s.pending := by
  simp [State.failBoxes]

@[simp ↓] theorem State.qpFails_frame (s : State) (n : Nat) :
    (State.qpFails s n).sup = s.sup ∧ (State.qpFails s n).pending = s.pending := by
  simp [State.qpFails]
  (repeat' (first | intro _ | refine ⟨?_, ?_⟩ | split)) <;> simp

@[simp ↓] theorem State.deadBell_frame (s : State) (c : ChanId) (g : Nat) (v : Nat) :
    (State.deadBell s c g v).sup = s.sup ∧ (State.deadBell s c g v).pending = s.pending := by
  simp [State.deadBell]

@[simp ↓] theorem State.nakAccess_frame (s : State) (q : Nat) :
    (State.nakAccess s q).sup = s.sup ∧ (State.nakAccess s q).pending = s.pending := by
  simp [State.nakAccess]

@[simp ↓] theorem State.hostAnswer_frame (s : State) (q : Nat) (write : Bool) (code : CompCode) (data : List Byte) :
    (State.hostAnswer s q write code data).sup = s.sup ∧ (State.hostAnswer s q write code data).pending = s.pending := by
  simp [State.hostAnswer]

@[simp ↓] theorem State.hostDo_frame (s : State) (qp : Nat) (rkeyOk : Bool) (addr : Nat) (n : Nat) (wr : Option (List Byte)) (run : AccessRun) (hr : ∀ t w, (run t w).1.sup = t.sup ∧ (run t w).1.pending = t.pending) :
    (State.hostDo s qp rkeyOk addr n wr run).sup = s.sup ∧ (State.hostDo s qp rkeyOk addr n wr run).pending = s.pending := by
  unfold State.hostDo
  (try dsimp only)
  (repeat' split) <;> simp [hr]

@[simp ↓] theorem State.ptdGet_frame (s : State) (off : Nat) (n : Nat) :
    (State.ptdGet s off n).1.sup = s.sup ∧ (State.ptdGet s off n).1.pending = s.pending := by
  simp [State.ptdGet]
  (repeat' (first | intro _ | refine ⟨?_, ?_⟩ | split)) <;> simp

@[simp ↓] theorem State.ptdPut_frame (s : State) (off : Nat) (bytes : List Byte) :
    (State.ptdPut s off bytes).1.sup = s.sup ∧ (State.ptdPut s off bytes).1.pending = s.pending := by
  simp [State.ptdPut]

@[simp ↓] theorem regRun_keeps (t : Fin 3) (o : Origin) (off n : Nat) (wr : Option (List Byte)) (s : State) (w : Writer) :
    (regRun t o off n wr s w).1.sup = s.sup ∧ (regRun t o off n wr s w).1.pending = s.pending := by
  unfold regRun
  split <;> simp

@[simp ↓] theorem windowRun_keeps (c : ChanId) (o : Origin) (addr n : Nat) (wr : Option (List Byte)) (s : State) (w : Writer) :
    (windowRun c o addr n wr s w).1.sup = s.sup ∧ (windowRun c o addr n wr s w).1.pending = s.pending := by
  unfold windowRun
  (repeat' split) <;> simp [regRun_keeps]

@[simp ↓] theorem State.rdma_frame (s : State) (qp : Nat) (rkey : U32) (addr : Nat) (n : Nat) (wr : Option (List Byte)) :
    (State.rdma s qp rkey addr n wr).sup = s.sup ∧ (State.rdma s qp rkey addr n wr).pending = s.pending := by
  unfold State.rdma
  dsimp only
  split
  · exact State.hostDo_frame _ _ _ _ _ _ _ fun _ _ => ⟨rfl, rfl⟩
  · apply State.hostDo_frame
    intro t w
    cases targetChan _
    · exact regRun_keeps ..
    · exact windowRun_keeps ..

@[simp ↓] theorem State.regAnswer_frame (s : State) (t : Fin 3) (write : Bool) (code : CompCode) (data : List Byte) :
    (State.regAnswer s t write code data).sup = s.sup ∧ (State.regAnswer s t write code data).pending = s.pending := by
  simp [State.regAnswer]

@[simp ↓] theorem State.regDo_frame (s : State) (t : Fin 3) (o : Origin) (off : Nat) (n : Nat) (wr : Option (List Byte)) (run : AccessRun) (hr : ∀ t w, (run t w).1.sup = t.sup ∧ (run t w).1.pending = t.pending) :
    (State.regDo s t o off n wr run).sup = s.sup ∧ (State.regDo s t o off n wr run).pending = s.pending := by
  unfold State.regDo
  (try dsimp only)
  (repeat' split) <;> simp [hr]

@[simp ↓] theorem State.writeReg_frame (s : State) (t : Fin 3) (o : Origin) (off : Nat) (v : U64) :
    (State.writeReg s t o off v).sup = s.sup ∧ (State.writeReg s t o off v).pending = s.pending := by
  unfold State.writeReg
  exact State.regDo_frame _ _ _ _ _ _ _ fun _ _ => regRun_keeps ..

@[simp ↓] theorem statUpdate_frame (s : State) (c : ChanId) (core : LCore) (p : Prec) (first : Bool) (active : Nat) (a : VReg) (g : FpFmt → Bool → Nat → LaneState → LaneState) :
    (statUpdate s c core p first active a g).sup = s.sup ∧ (statUpdate s c core p first active a g).pending = s.pending := by
  simp [statUpdate]

@[simp ↓] theorem treeWrite_frame (s : State) (c : ChanId) (core : LCore) (d : VReg) (clk : Nat) (w : Nat) (x : Nat) :
    (treeWrite s c core d clk w x).sup = s.sup ∧ (treeWrite s c core d clk w x).pending = s.pending := by
  simp [treeWrite]

/-! ### The two operations that switch the supply -/

@[simp ↓] theorem State.powerOff_pending (s : State) (event : Option Nat) : (s.powerOff event).pending = s.pending := by
  simp [State.powerOff]

/-- Turning the output off changes nothing else of the supply. -/
@[simp ↓] theorem State.powerOff_sup (s : State) (event : Option Nat) : (s.powerOff event).sup = { s.sup with outputOn := false } := rfl

@[simp ↓] theorem State.powerOn_pending (s : State) : s.powerOn.pending = s.pending := by simp [State.powerOn]

/-- A ramp that completes clears a converter fault and the hold-up timer. -/
@[simp ↓] theorem State.powerOn_sup (s : State) :
    s.powerOn.sup = { s.sup with outputOn := true, converterOk := true, holdupUs := 0 } := by simp [State.powerOn]

end Sys2Proof.Machine
end

