-- ==== Sys2Proof/Laws/Memory.lean ====
section
/-! SUPPORT. Laws of the memories: every memory operation keeps the canonical form, a write changes no byte outside its range, and what
it stores reads back where no poison stands. -/

namespace Sys2Proof.Machine

/-! ### Writes under poison (R274) -/

theorem foldl_wf (p : Byte × Nat → Bool) (g : Byte × Nat → Nat) (l : List (Byte × Nat)) (m : SMap Byte) (h : smWf 0 m = true) :
    smWf 0 (l.foldl (fun m e => if p e then m else smSet 0 m (g e) e.1) m) = true := by
  induction l generalizing m with
  | nil => exact h
  | cons e r ih =>
    rw [List.foldl_cons]
    apply ih
    split
    · exact h
    · exact smWf_smSet 0 m _ _ h

theorem foldl_outside (p : Byte × Nat → Bool) (g : Byte × Nat → Nat) (i : Nat) (l : List (Byte × Nat)) (hl : ∀ e ∈ l, i ≠ g e) (m : SMap Byte) :
    smGet 0 (l.foldl (fun m e => if p e then m else smSet 0 m (g e) e.1) m) i = smGet 0 m i := by
  induction l generalizing m with
  | nil => rfl
  | cons e r ih =>
    rw [List.foldl_cons, ih (fun x hx => hl x (List.mem_cons_of_mem _ hx))]
    split
    · rfl
    · exact smGet_smSet_other 0 m _ (hl e List.mem_cons_self)

/-- A write under poison keeps the canonical form. -/
theorem writeUnder_wf (u : Nat) (poison : SMap Bool) (m : SMap Byte) (a : Nat) (l : List Byte) (h : smWf 0 m = true) :
    smWf 0 (writeUnder u poison m a l) = true := by
  unfold writeUnder
  dsimp only
  split
  · exact smWf_smSetAll 0 l m a h
  · exact foldl_wf _ (fun e => a + e.2) _ m h

/-- A write changes no byte outside its range. -/
theorem writeUnder_outside (u : Nat) (poison : SMap Bool) (m : SMap Byte) (a : Nat) (l : List Byte) {i : Nat}
    (h : i < a ∨ a + l.length ≤ i) : smGet 0 (writeUnder u poison m a l) i = smGet 0 m i := by
  unfold writeUnder
  dsimp only
  split
  · exact smGet_smSetAll_outside 0 l m a i h
  · refine foldl_outside _ (fun e => a + e.2) i _ ?_ m
    intro e he hi
    have := List.snd_lt_of_mem_zipIdx he
    omega

/-- Where no poison stands, a write stores its bytes. -/
theorem writeUnder_clean (u : Nat) (m : SMap Byte) (a : Nat) (l : List Byte) : writeUnder u [] m a l = smSetAll 0 m a l := rfl

/-! ### The three memories of a channel -/

theorem Channel.hbmWrite_memWf (ch : Channel) (a : Nat) (l : List Byte) (h : ch.memWf = true) : (ch.hbmWrite a l).memWf = true := by
  simp only [Channel.memWf, Channel.hbmWrite, Bool.and_eq_true] at h ⊢
  exact ⟨⟨writeUnder_wf _ _ _ _ _ h.1.1, h.1.2⟩, h.2⟩

theorem Channel.sramWrite_memWf (ch : Channel) (p off : Nat) (l : List Byte) (h : ch.memWf = true) :
    (ch.sramWrite p off l).memWf = true := by
  simp only [Channel.memWf, Channel.sramWrite, Bool.and_eq_true] at h ⊢
  exact ⟨⟨h.1.1, writeUnder_wf _ _ _ _ _ h.1.2⟩, h.2⟩

theorem Channel.cxlWrite_memWf (ch : Channel) (a : Nat) (l : List Byte) (h : ch.memWf = true) : (ch.cxlWrite a l).memWf = true := by
  simp only [Channel.memWf, Channel.cxlWrite, Bool.and_eq_true] at h ⊢
  exact ⟨h.1, smWf_smSetAll 0 _ _ _ h.2⟩

/-- Byte i of HBM after a write elsewhere. -/
theorem Channel.hbmWrite_outside (ch : Channel) (a : Nat) (l : List Byte) {i : Nat} (h : i < a ∨ a + l.length ≤ i) :
    smGet 0 (ch.hbmWrite a l).mem.hbm i = smGet 0 ch.mem.hbm i := writeUnder_outside _ _ _ _ _ h

theorem Channel.sramWrite_outside (ch : Channel) (p off : Nat) (l : List Byte) {i : Nat}
    (h : i < sramAt p off ∨ sramAt p off + l.length ≤ i) :
    smGet 0 (ch.sramWrite p off l).mem.sram i = smGet 0 ch.mem.sram i := writeUnder_outside _ _ _ _ _ h

theorem Channel.cxlWrite_outside (ch : Channel) (a : Nat) (l : List Byte) {i : Nat} (h : i < a ∨ a + l.length ≤ i) :
    smGet 0 (ch.cxlWrite a l).cxl.mem i = smGet 0 ch.cxl.mem i := smGet_smSetAll_outside _ _ _ _ _ h

/-- What a write stores in HBM without poison reads back. -/
theorem Channel.hbmBytes_hbmWrite (ch : Channel) (a : Nat) (l : List Byte) (h : ch.mem.hbmPoison = []) :
    (ch.hbmWrite a l).hbmBytes a l.length = l := by
  simp only [Channel.hbmBytes, Channel.hbmWrite, h, writeUnder_clean]
  exact smGetAll_smSetAll 0 _ a l

theorem Channel.sramBytes_sramWrite (ch : Channel) (p off : Nat) (l : List Byte) (h : ch.mem.sramPoison = []) :
    (ch.sramWrite p off l).sramBytes p off l.length = l := by
  simp only [Channel.sramBytes, Channel.sramWrite, h, writeUnder_clean]
  exact smGetAll_smSetAll 0 _ _ l

theorem Channel.cxlBytes_cxlWrite (ch : Channel) (a : Nat) (l : List Byte) : (ch.cxlWrite a l).cxlBytes a l.length = l :=
  smGetAll_smSetAll 0 _ a l

/-! ### Operations over a channel of the state -/

theorem State.memWf_setCh (s : State) (c : ChanId) (k : Channel) (hs : s.memWf = true) (hk : k.memWf = true) :
    (s.setCh c k).memWf = true := by
  simp only [State.memWf, Bool.and_eq_true] at hs ⊢
  unfold State.setCh
  split
  · exact ⟨hk, hs.2⟩
  · exact ⟨hs.1, hk⟩

theorem State.memWf_ch (s : State) (c : ChanId) (hs : s.memWf = true) : (s.ch c).memWf = true := by
  simp only [State.memWf, Bool.and_eq_true] at hs
  unfold State.ch
  split
  · exact hs.1
  · exact hs.2

/-- Changing one channel keeps the canonical form where the change of the channel does. -/
theorem State.memWf_onCh (s : State) (c : ChanId) (f : Channel → Channel) (hs : s.memWf = true)
    (hf : ∀ ch : Channel, ch.memWf = true → (f ch).memWf = true) : (s.onCh c f).memWf = true :=
  s.memWf_setCh c _ hs (hf _ (s.memWf_ch c hs))

/-- Making ranges undefined keeps the canonical form. -/
theorem State.scrambleSram_memWf (c : ChanId) (l : List (Nat × Nat)) : ∀ s : State, s.memWf = true → (s.scrambleSram c l).memWf = true := by
  induction l with
  | nil => intro s h; exact h
  | cons e r ih =>
    intro s h
    simp only [State.scrambleSram, List.foldl_cons]
    exact ih _ (s.memWf_onCh c _ h fun ch hc => ch.sramWrite_memWf _ _ _ hc)

/-- Reset lists nothing. -/
theorem reset_memWf : State.reset.memWf = true := by decide

end Sys2Proof.Machine
end

