-- ==== Sys2Proof/Laws/Raise.lean ====
section
/-! SUPPORT. What raising an event changes, and what it depends on (R55, R217). -/

namespace Sys2Proof.Machine

/-- Raising an event touches the events and the record of what was raised, nothing else. -/
theorem Channel.raise_shape (ch : Channel) (c : ChanId) (code : Nat) (d : Option Nat) (tag : Nat) :
    ch.raise c code d tag =
      { ch with events := (ch.raise c code d tag).events, beat := { ch.beat with raised := (ch.raise c code d tag).beat.raised } } := by
  unfold Channel.raise
  split <;> rfl

/-- What raising an event does depends on the state, the beat and the events alone. -/
theorem Channel.raise_congr (ch k : Channel) (c : ChanId) (code : Nat) (d : Option Nat) (tag : Nat) (h1 : k.chn.state = ch.chn.state)
    (h2 : k.beat = ch.beat) (h3 : k.events = ch.events) :
    (k.raise c code d tag).events = (ch.raise c code d tag).events ∧ (k.raise c code d tag).beat = (ch.raise c code d tag).beat := by
  have hr : k.running = ch.running := by simp [Channel.running, h1]
  have he : k.evBeat = ch.evBeat := by simp [Channel.evBeat, hr, h2]
  unfold Channel.raise Channel.raiseEach
  simp only [hr, h2]
  split <;> simp [h2, h3, he]

end Sys2Proof.Machine
end

