-- ==== Sys2Proof/Tests/Slice0.lean ====
section
/-! SUPPORT. Tests: terms that WellFormed refuses, the manual's worked examples, and for each statement with hypotheses a state and operands that
meet them. -/

namespace Sys2Proof.Tests

set_option Elab.async false

open Sys2Proof Sys2Proof.Machine

/-! ### Ill-formed commands -/

theorem test_ill_formed_commands_are_refused : ([
  .csrWrite 0 .firmware 0 9 0, .csrWrite 0 .firmware 0 0 0, .rcRead 0 .firmware 0 9, .taskComplete 0 0 { slot := 4096 }, .taskComplete 0 0 { slot := 0, work := .settAdd false 4096 }, .opIssue 0 0 4096 {},
  .fence 0 0 4096 0, .get 0 .firmware { op := 2 }, .put 0 .firmware { op := 2, len := 8 }, .putAdd 0 .firmware {}, .cas 0 .firmware {},
  .fetchAdd64 0 .firmware {}, .signal 0 .firmware {} .plain, .linkTrainingDone 0 0 0 0 0 16, .tileDrain 0 0 4096 [],
  .welford 0 0 .f32 true 65 0] : List Instr).all (fun i => !i.wf) = true := by decide

theorem test_more_ill_formed_commands_are_refused : ([
  .sumsq 0 0 .f32 true 65 0, .xsum 0 0 true 65 0,
  .quant 0 0 0 0 {} false 0x400000 0 { lanes := 0 }, .quant 0 0 0 0 {} false 0 0x400000 { lanes := 0 },
  .blk8Encode 0 0 0 false {} none false 0x400000 0 { lanes := 0 }, .blk8Encode 0 0 0 false {} (some 0xFF) false 0 0 { lanes := 0 },
  .blk8Decode 0 0 4096 false 0 0 { lanes := 0 }, .vecLoad 0 0 0 .b32 0x400000 0 0, .vecLoadTranspose 0 0 0 .b32 0x400000 0 0 0,
  .vecStore 0 0 0 .b32 {} 0x400000 0 0, .gather 0 0 0 0 0x400000 0 0, .kvOpen 0 none 0 256 0 1 0, .kvOpen 0 none 0 0 256 1 0,
  .kvOpen 0 none 0 0 0 0x40001 0, .kvOpen 0 (some (0, 4096)) 0 0 0 1 0, .kvRelease 0 none 0x1000000, .kvShare 0 none 0 1 0x40000 0,
  .kvShare 0 none 0 1 1 0x40000, .pageWalk 0 0 4096, .cowFirstWrite 0 0 0 0 0x40000] : List Instr).all (fun i => !i.wf) = true := by decide

theorem test_other_ill_formed_commands_are_refused : ([
  .settStageDeadline 0 4096, .domainStageDeadline 0 4096, .dmaCopy 0 { op := 2 } none, .dmaGather 0 {} none, .dmaScatter 0 {} none,
  .dmaStride2d 0 {} none, .dmaTranspose 0 {} none, .dmaBlkt 0 {} none, .dmaPagelist 0 {} none, .sramScrubStep 0 136 0,
  .pwrReqOn 0 .firmware 256, .pwrReqOff 0 .firmware 256, .domainDrainDone 0 256, .domainWakeDone 0 256, .domainWakeFail 0 256,
  .owlPassDeadline 0 136, .repairInstall 0 0 none [136] true, .mbxEqCiWrite 0 .firmware 8 0, .cmConnectRequest 0 256 false] : List Instr).all
    (fun i => !i.wf) = true := by decide

theorem test_well_formed_commands_pass : ([
  .csrWrite 0 .firmware 0 8 0, .put 0 .firmware { op := 2, len := 1, payload := [7] }, .dmaCopy 0 { op := 1 } none, .xsum 0 0 true 64 0,
  .kvShare 0 none 0 1 1 0x3FFFF, .owlPassDeadline 0 135, .powerUp] : List Instr).all Instr.wf = true := by decide

/-! ### Worked examples of the manual -/

/-- Bytes of core SRAM from a list of runs. -/
def runs (l : List (Nat × List Nat)) (a n : Nat) : List Byte := (List.range n).map fun i =>
  ((l.flatMap fun e => (e.2.zipIdx).map fun x => (e.1 + x.2, x.1)).find? fun e => e.1 == a + i).elim 0 fun e => BitVec.ofNat 8 e.2

/-- A record of one FP4 tile of 1 × 1 element, k blocks deep. -/
def tile4 (k : Nat) (mode out : U8) : TileRec :=
  { aEbase := 0, aSbase := 0x100, bEbase := 0x200, bSbase := 0x300, aPitch := BitVec.ofNat 16 k, bPitch := BitVec.ofNat 16 k
    kBlocks := BitVec.ofNat 16 k, mode := mode, out := out, cFmt := 4, outEbase := 0x400, outSbase := 0x500, outPitch := 1, cBase := 0x600 }

/-- The first byte runs that a tile writes, under the operands and C = −Inf. -/
def tileOut (r : TileRec) (sat : Bool) (l : List (Nat × List Nat)) : List (List Byte) :=
  (runTile r { sat := sat } 1 1 (runs ((0x600, [0, 0, 0x80, 0xff]) :: l))).writes.map (·.2)

/-- Chapter 05, first worked example: block 1 overflows, block 2 is NaN (scale 0xFF), blocks 0 and 3 are ordinary. -/
def dotNan : List (Nat × List Nat) := [(0, [3]), (16, [7]), (32, [2]), (48, [2]), (0x100, [0x7f, 0xfe, 0xff, 0x7f]),
  (0x200, [4]), (0x210, [7]), (0x220, [2]), (0x230, [0xA]), (0x300, [0x7f, 0xfe, 0x7f, 0x7f])]

/-- The same with block 2 changed to −OVF. -/
def dotOvf : List (Nat × List Nat) := [(0, [3]), (16, [7]), (32, [7]), (48, [2]), (0x100, [0x7f, 0xfe, 0xfe, 0x7f]),
  (0x200, [4]), (0x210, [7]), (0x220, [0xf]), (0x230, [0xA]), (0x300, [0x7f, 0xfe, 0xfe, 0x7f])]

theorem test_tile_nan_block : tileOut (tile4 4 0 0x24) false dotNan = [[0, 0, 0xC0, 0x7F]] ∧ tileOut (tile4 4 0 0x24) true dotNan = [[0, 0, 0xC0, 0x7F]] ∧
    tileOut (tile4 4 0 0x21) true dotNan = [List.replicate 24 0, [0xFF]] := by decide +kernel

theorem test_tile_opposite_overflows : tileOut (tile4 4 0 4) true dotOvf = [[0, 0, 0x80, 0xBF]] ∧
    tileOut (tile4 4 0 0x24) true dotOvf = [[0, 0, 0x80, 0xFF]] ∧ tileOut (tile4 4 0 0x24) false dotOvf = [[0, 0, 0xC0, 0x7F]] := by decide +kernel

/-- Chapter 05, second worked example: 2^25 + 2 + 2, in FP32 and in FX96. -/
theorem test_tile_fp32_and_fx96 : (fun l => (tileOut (tile4 3 0 4) false l, tileOut (tile4 3 1 4) false l))
      [(0, [4]), (16, [2]), (32, [2]), (0x100, [0x8b, 0x7f, 0x7f]), (0x200, [4]), (0x210, [4]), (0x220, [4]), (0x300, [0x8a, 0x7f, 0x7f])] =
    ([[0, 0, 0, 0x4C]], [[1, 0, 0, 0x4C]]) := by decide +kernel

/-- Chapter 06, first worked example: 5.375 × −0.6875 in n = 14 slices, FX_REF = −16. -/
theorem test_slice_product : (fun (o : TileOut) => (o.ufl, o.sat, o.writes.map (·.2)))
      (runTile { tile4 1 5 5 with fmt := 0x55, sliceCtl := 0xE000 } { r := -16 } 1 1
        (runs [(0, [0, 0, 0, 0, 0, 0x80, 0x15, 0x40]), (0x200, [0, 0, 0, 0, 0, 0, 0xE6, 0xBF])])) =
    (false, false, [[0, 0, 0, 0, 0, 0x90, 0x0D, 0xC0]]) := by decide +kernel

/-- Chapter 03: 13.0, −0.3, 2.9, 0.375 and zeros quantised to FP6a, and their bytes. -/
theorem test_quantised_block : (fun q : Nat × List Nat => (q.1, (packCodes (elFmt 1) q.2).take 3))
      (quantBlock (elFmt 1) (fun _ => .rne) ([0x41500000, 0xBE99999A, 0x4039999A, 0x3EC00000] ++ List.replicate 28 0)) = (0x80, [0x5D, 0xC8, 0x08]) := by
  decide +kernel

/-- Chapters 03 and 07: one BLK8 element decoded, and one BLK8 block added, with an exponent that agrees and one that does not. -/
theorem test_blk8 : blk8Decode 0x7C 0x9C = 0xBE480000 ∧ blk8Decode 0x7C 0x80 = 0x7FC00000 ∧
    blk8AddBlock 0x7C [0x64, 0x9C, 5] 0x7C [0x28, 0x80, 0xFB] = (0x7C, [0x7F, 0x80, 0], 1, false) ∧
    (blk8AddBlock 0x7C [0x64, 0x9C, 5] 0x7D [0x28, 0x80, 0xFB]).2.1 = [0x64, 0x9C, 5] := by decide +kernel

/-- Chapter 07: the variance of 256 copies of 2^127. -/
theorem test_variance_of_equal_values :
    let x := 0x7F000000
    let lane := welfordLane fpF32 false x (welfordLane fpF32 false x (welfordLane fpF32 false x (welfordLane fpF32 false x {})))
    let root := (treeFold (mergeAny false fpF32 false) (List.replicate 64 lane)).headD {}
    (lane.n, lane.mean, lane.m2) = (4, 0x7F000000, 0) ∧ (root.n, root.mean, root.m2) = (256, 0x7F000000, 0) ∧
      finishLane .f32 false false false 0x35800000 0 root = (0x7F000000, 0, 0x44800000) := by decide +kernel

/-- Chapter 10: a step of 2^−10 on a weight of 1.0 under two random words. -/
theorem test_small_update_step : srUpd false 0x4B1E07A2 0x3F800000 0x3A800000 = 0x3F80 ∧
    srUpd false 0xE0F23C19 0x3F800000 0x3A800000 = 0x3F7F := by decide +kernel

/-- Channel 0 of module 37, whose entry 200 holds domain links 33 and 41. -/
def signalSource : Channel := {
  chn := { moduleId := 37 }
  wrn := {
    slotValid := true, slot := 5
    links := [(33, { st := .up, eligible := true }), (41, { st := .up, eligible := true })]
    routes := [(200, { state0 := 1, state1 := 1, mask0 := 0x20200000000, mask1 := 0x20200000000 })] } }

/-- Chapter 12: the header of a SIGNAL across two setts, and its output link at the source. -/
theorem test_signal_header :
    (fun p : Packet => p.header = [0x06, 0x14, 0, 0, 0x25, 0x80, 2, 1, 0, 0xF0, 3, 3, 0, 0x10, 0x22, 3, 0x3C, 0x0A, 0, 0, 0xF4, 1, 0, 0, 1, 0, 0, 0, 0, 0,
        0, 0] ∧ p.opBad = false ∧
      signalSource.outLink p = some 41)
      { op := 6, ctlClass := 4, vc := 2, srcModule := 37, agent := 5, psel := 2, addr := 0x032210000303F000, tag := 0xA3C, seq := 0x1F4, operand := 1 } := by
  decide +kernel

/-- The published check value of CRC-32C, over the digits 1 to 9. -/
theorem test_crc32c : crc32c [0x31, 0x32, 0x33, 0x34, 0x35, 0x36, 0x37, 0x38, 0x39] = 0xE3069283 := by decide +kernel

/-- Chapter 09: region 42's PTE for page 12 before and after its copy on write. -/
theorem test_pte_words : ({ valid := true, tier := 3, frame := 0x1A2C, kFmt := 1, vFmt := 1, lastUse := 0x4E20 } : Pte).word = 0xE000003458229C40 ∧
    ({ valid := true, frame := 0x311, kFmt := 1, vFmt := 1, lastUse := 0x4E2A } : Pte).word = 0x8000000622229C54 := by decide +kernel

/-- Chapter 11: two setts of two contributors, from the pre-pass bytes to the final elements and their values; and sett 3 without headroom. -/
theorem test_two_setts_of_two :
    ([[0x40400000, 0x3F400000], [0x40A00000, 0xBF000000], [0xBF800000, 0x3E800000], [0x40200000, 0x3F200000]].map blk8Exp = [0x80, 0x81, 0x7F, 0x80]) ∧
    headroom 2 ((maxBytes [[0x80], [0x81]]).headD 0) = 0x83 ∧ headroom 2 ((maxBytes [[0x7F], [0x80]]).headD 0) = 0x82 ∧
    (blk8Encode true (fun _ => .rne) 0x83 [0x40400000, 0x3F400000]).1 = [12, 3] ∧
    (blk8Encode true (fun _ => .rne) 0x82 [0xBF800000, 0x3E800000]).1 = [0xF8, 2] ∧
    (blk8AddBlock 0x83 [12, 3] 0x83 [20, 0xFE]).2.1 = [32, 1] ∧ (blk8AddBlock 0x82 [0xF8, 2] 0x82 [20, 5]).2.1 = [12, 7] ∧
    [32, 1].map (requantElem 0x83 0x83) = [32, 1] ∧ [12, 7].map (requantElem 0x82 0x83) = [6, 4] ∧
    (blk8AddBlock 0x83 [32, 1] 0x83 [6, 4]).2 = ([0x26, 5], 0, false) ∧ [0x26, 5].map (blk8Decode 0x83) = [0x41180000, 0x3FA00000] ∧
    blk8AddBlock 0x81 [48] 0x81 [80] = (0x81, [127], 1, false) := by decide +kernel

/-! ### States that meet the hypotheses of the statements

Each theorem below is named after the statement it serves and shows, clause by clause, a channel (as channel 0 of `one`) and operands that meet the
clause's hypotheses. -/

/-- A JOINED channel of module 5 with power, keys and trained memory. -/
def joinedCh : Channel :=
  { chn := { state := .joined, supplyOk := true, moduleId := 5 }, domain := { st := .active }, sec := { keys := true }
    cfg := { hbmReady := true, storeCopied := true, cxlDone := true } }

/-- A RUNNING channel with a stream of one vector class and one tile class. -/
def runCh : Channel := { joinedCh with
  chn := { joinedCh.chn with state := .running }
  pss := { phase := .running, layout := some {}, winOpen := true, stream := some { classes := [{ exec := 1 }, { exec := 0 }] } } }

/-- A powered module whose channel 0 is this one. -/
def one (ch : Channel) : State :=
  { ch0 := ch, ch1 := joinedCh, ptd := { up := true }, sup := { pwrEn := true, outputOn := true } }

theorem one_ch (ch : Channel) : (one ch).ch 0 = ch := rfl

/-- The running channel with these tasks. -/
def withTasks (l : List Task) : Channel := { runCh with tsk := { runCh.tsk with tasks := l } }

/-! #### Vector memory, tasks and tiles -/

theorem test_meets_VecLoadsAndStores : joinedCh.mem.sramPoison = [] ∧ joinedCh.mem.sramErr = [] ∧
    storable (systemArea - 1) 1 ∧ ¬ storable systemArea 1 ∧ disjointStores [(0, [1]), (1, [2])] ∧ ¬ disjointStores [(0, [1, 1]), (1, [2])] := by
  unfold storable disjointStores; decide +kernel

/-- The last byte of the SRAM, the first beyond it, and a misaligned element. -/
theorem test_meets_GatherLoadsItsLanes : joinedCh.mem.sramPoison = [] ∧ joinedCh.mem.sramErr = [] ∧
    (fun (at_ : Nat → Nat → Nat) => (at_ 0x3FFFFF 1 < 0x400000 ∧ at_ 0x3FFFFF 1 % 1 = 0) ∧ ¬ at_ 0x400000 1 < 0x400000 ∧ at_ 1 2 % 2 ≠ 0)
      (fun base n => base + (one joinedCh).lane 0 0 32 5 63 * n) := by decide +kernel

theorem test_meets_TaskDispatchRunsOrSkips :
    ((withTasks []).readyTasks 0).find? (withTasks []).mayRun = none ∧
    (fun k : Task => ((withTasks [k]).readyTasks 0).find? (withTasks [k]).mayRun = some k ∧ ¬(k.exec = 0 ∧ fullyMasked k.desc ∧ k.dup = none) ∧
      k.waitPages = false ∧ (withTasks [k]).readsAny 0 k (withTasks [k]).upd.actGone = false ∧
      (withTasks [k]).readsAny 0 k (withTasks [k]).upd.actPending = false ∧ (k.exec = 2 → k.dmaDone.length ≠ k.dmaDescs.length) ∧
      (k.tileRec = none ∨ (withTasks [k]).sql.slots = [])) { exec := 1 } ∧
    (fun k : Task => ((withTasks [k]).readyTasks 0).find? (withTasks [k]).mayRun = some k ∧ k.exec = 0 ∧ fullyMasked k.desc ∧ k.dup = none ∧
      k.sample = none ∧ k.desc.doneSig = 0 ∧ (withTasks [k]).pss.stopping = false ∧ (withTasks [k]).stepOkDue = false)
      { exec := 0, desc := { arg1 := 1 } } := by decide +kernel

theorem test_meets_TileDrainWritesItsOutput : (fun (k : Task) (ch : Channel) => ch.task? 0 0 = some k ∧ k.st = .running ∧ k.dup = none ∧
    k.tileRec = some (tile4 1 0 4) ∧ k.exec = 0 ∧ k.sample = none ∧ k.desc.doneSig = 0 ∧ ch.pss.stopping = false ∧ ch.mem.sramPoison = [] ∧
    ch.mem.sramErr = [] ∧ (runTile ((tile4 1 0 4).withPageFmt k.pageFmt) (ch.tileEnv (tile4 1 0 4) ch.arr.ovfMode k.step.toNat) k.desc.arg1.toNat
      k.desc.arg2.toNat (ch.tileRead (ch.pcore 0))).writes.Pairwise (fun x y => x.1 + x.2.length ≤ y.1 ∨ y.1 + y.2.length ≤ x.1) ∧
      (tile4 1 0 4).selfOverlap 1 1 = false ∧ ({ tile4 1 0 4 with outEbase := 0 } : TileRec).selfOverlap 1 1 = true ∧ ch.stepOkDue = false ∧
      (∀ x ∈ ch.tsk.tasks, ¬(x.core = 0 ∧ x.exec = 0 ∧ x.st = .running ∧ x.started < k.started)) ∧
      ∃ x ∈ ch.tsk.tasks, x.core = 0 ∧ x.exec = 0 ∧ x.st = .running ∧ x.started < 1)
    { st := .running, tileRec := some (tile4 1 0 4), desc := { arg1 := 1, arg2 := 1 } }
    (withTasks [{ st := .running, tileRec := some (tile4 1 0 4), desc := { arg1 := 1, arg2 := 1 } }, { slot := 1, st := .running, started := 1 }]) := by
  decide +kernel

theorem test_meets_TaskCompleteEndsOrParks : (fun k : Task => k.st = .running ∧ k.exec ≠ 0 ∧ k.exec ≠ 2 ∧ k.dup = none ∧ k.retry = [] ∧
    (withTasks [k]).task? 0 4095 = some k ∧ (withTasks [k]).opsOf 0 4095 = [] ∧ k.sample = none ∧ k.desc.doneSig = 0 ∧ k.exec ≠ 5 ∧
    (withTasks [k]).pss.stopping = false ∧ (withTasks [k]).stepOkDue = false ∧ k.mayWork (.stat 0) = false ∧ k.mayWork (.settAdd false 0) = true ∧
    (withTasks [k]).mem.hbmPoison = [] ∧ (withTasks [k]).mem.hbmErr = [] ∧
    (fun ch : Channel => ch.task? 0 4095 = some k ∧ ch.opsOf 0 4095 ≠ []) { withTasks [k] with wrn := { reqs := [{ owner := .task 0 4095 }] } })
    { slot := 4095, exec := 1, st := .running } := by decide +kernel

/-- The running channel with a running task and n requests of it. -/
def issuing (n : Nat) : Channel :=
  { withTasks [{ exec := 1, st := .running }] with wrn := { reqs := List.replicate n { owner := .task 0 0 } } }

theorem test_meets_OpIssueAndFence :
    (∀ n : Nat, (issuing n).task? 0 0 = some { exec := 1, st := .running }) ∧ (issuing 16384).issueFull = true ∧ (issuing 64).issueFull = false ∧
    RemKind.put.blocks = false ∧ 64 ≤ ((issuing 64).opsOf 0 0).length ∧ ((issuing 63).opsOf 0 0).length < 64 ∧ RemKind.get.blocks = true ∧
    RemKind.cas.idempotent = false ∧ (withTasks [{ st := .running }]).task? 0 0 = some { st := .running } ∧
    (issuing 64).isOwn 0 (5 * 2 ^ 50) = true ∧ ((issuing 1).opsOf 0 0).any (inFence 1) = true ∧ ((issuing 1).opsOf 0 0).any (inFence 2) = false := by
  refine ⟨fun _ => rfl, ?_, ?_⟩
  · exact decide_eq_true (Nat.le_of_eq List.length_replicate.symm)
  · decide +kernel

theorem test_meets_SampleCopyOffersTheDuplicate :
    ({ runCh with bdg := { samples := [{ id := 3, phase := 1 }] } } : Channel).sample? 3 = some { id := 3, phase := 1 } := by decide +kernel

theorem test_meets_RequestsEndAtTheirSource :
    (fun (p : Packet) (ch : Channel) => p.isResponse = true ∧ ch.req? p.tag = none ∧ ch.wrn.lostTags.contains p.tag = true)
      { op := 0x81, tag := 9 } { runCh with wrn := { lostTags := [9] } } ∧
    (fun (p : Packet) (r : Request) (k : Task) (ch : Channel) => p.isResponse = true ∧ ch.req? p.tag = some r ∧ p.status = 0 ∧ r.owner = .task 0 0 ∧
      r.op.kind.blocks = true ∧ r.op.bucket = none ∧ r.op.forward = none ∧ r.pinned = none ∧ ch.wrn.waiting = [] ∧ ch.task? 0 0 = some k ∧ k.st = .parked ∧ k.cause = .response ∧
      k.programEnded = false ∧ k.held = none ∧ k.retry = [] ∧ ch.dma.xfers = [] ∧ (∀ q ∈ ch.wrn.reqs, q.owner = .task 0 0 → q.tag = r.tag))
      { op := 0x81, tag := 9 } { tag := 9, owner := .task 0 0 } { exec := 1, st := .parked, cause := .response }
      { withTasks [{ exec := 1, st := .parked, cause := .response }] with wrn := { reqs := [{ tag := 9, owner := .task 0 0 }] } } ∧
    (fun (st : BitVec 2) (r : Request) => (fun ch : Channel => ch.req? 9 = some r ∧ ch.routeState r.module.toNat r.channel.toNat = 1)
      { runCh with wrn := { reqs := [r], routes := [(0, { state0 := st })] } }) 1 { tag := 9, owner := .orphan, held := true } ∧
    (fun (st : BitVec 2) (r : Request) => (fun ch : Channel => ch.req? 9 = some r ∧ ch.routeState r.module.toNat r.channel.toNat = 2 ∧ r.held = false)
      { runCh with wrn := { reqs := [r], routes := [(0, { state0 := st })] } }) 2 { tag := 9, owner := .orphan } ∧
    (fun (r w : Request) => (fun ch : Channel => ch.req? 9 = some r ∧ ch.routeState r.module.toNat r.channel.toNat = 2 ∧ r.owner = .orphan ∧
        ch.wrn.waiting = [w] ∧ w.op.bucket = none ∧ w.op.forward = none ∧ w.pinned = none ∧ ch.isOwn 0 w.op.addr.toNat = true ∧
        ch.wrn.reqs.length ≤ 16384)
      { runCh with wrn := { reqs := [r], waiting := [w], routes := [(0, { state0 := 2 })] } })
      { tag := 9, owner := .orphan } { owner := .task 0 0, op := { addr := BitVec.ofNat 64 (5 * 2 ^ 50) } } := by decide +kernel

/-! #### Remote operations, packets and links -/

/-- An address of this channel. -/
def ownAddr (off : Nat) : U64 := BitVec.ofNat 64 (5 * 2 ^ 50 + off)

/-- The running channel with a window of module 9 over the first 4 KiB that grants READ. -/
def openCh : Channel := { runCh with
  pss := { runCh.pss with layout := some { windows := [{ perm := 1, first := 9, last := 9, base := 0, length := 4096 }] } }
  wrn := { links := [(0, { st := .up })] } }

theorem test_meets_RemoteOpsRefuseByLowestCode : (Origin.warren 0).sendsOps = true ∧ (Origin.warren 0).remote = true ∧
    joinedCh.hears (.warren 0) = false ∧ openCh.hears (.warren 0) = true ∧
    (fun ch : Channel => ch.hears (.warren 0) = true ∧ ch.joined = false) { openCh with chn := { joinedCh.chn with state := .calibrate } } ∧
    (openCh.joined = true ∧ openCh.isOwn 0 (6 * 2 ^ 50) = false) ∧
    (openCh.isOwn 0 (ownAddr 0).toNat = true ∧ ({ openCh.pss with withdrawn := true } : Pss).withdrawn = true) ∧
    openCh.pss.withdrawn = false ∧
    ({ op := 1, addr := ownAddr 0, operand := 4097 } : Packet).opBad = true ∧
    (fun p : Packet => p.opBad = false ∧ placeOf (gaOffset p.addr.toNat) p.span = none) { op := 1, addr := ownAddr (hbmSize - 1), operand := 2 } ∧
    (fun p : Packet => p.opBad = false ∧ placeOf (gaOffset p.addr.toNat) p.span = some (.hbm badgerArea) ∧
      openCh.placeBad 2 (.hbm badgerArea) p.span = true) { op := 2, addr := ownAddr badgerArea, len := 1, payload := [7] } ∧
    (fun p : Packet => p.opBad = false ∧ placeOf 4095 p.span = some (.hbm 4095) ∧ openCh.windowAllows p.srcModule 1 4095 p.span = false ∧
      openCh.windowAllows p.srcModule 1 4094 p.span = true) { op := 1, addr := ownAddr 4095, operand := 2, srcModule := 9 } ∧
    (fun p : Packet => p.opBad = false ∧ placeOf (gaOffset p.addr.toNat) p.span = some (.sram 0 4) ∧ openCh.placeBad 5 (.sram 0 4) p.span = false ∧
      p.misaligned = true) { op := 5, addr := ownAddr (sramBase + 4) } := by decide +kernel

theorem test_meets_GetReadsPutWrites : (fun ch : Channel => Origin.firmware.sendsOps = true ∧ ch.hears .firmware = true ∧ (Origin.firmware.remote = true → ch.joined = true) ∧
    ch.isOwn 0 (ownAddr 0).toNat = true ∧ ch.mem.hbmPoison = [] ∧ ch.mem.hbmErr = [] ∧ ch.mem.sramPoison = [] ∧ ch.mem.sramErr = [] ∧
    ch.reach .firmware { op := 1, addr := ownAddr (hbmSize - 1), operand := 1 } = (.ok, .hbm (hbmSize - 1)) ∧
    ch.reach .firmware { op := 1, addr := ownAddr (sramBase + 2 ^ 22), operand := 1 } = (.ok, .sram 1 0) ∧
    ch.reach .firmware { op := 2, addr := ownAddr (badgerArea - 1), len := 1, payload := [7] } = (.ok, .hbm (badgerArea - 1)) ∧
    ch.reach .firmware { op := 2, addr := ownAddr sramBase, len := 1, payload := [7] } = (.ok, .sram 0 0) ∧
    ch.reach .firmware { op := 2, addr := ownAddr 64, len := 1, payload := [7] } = (.ok, .hbm 64) ∧ (1, true) ∈ [((1 : Nat), true)] ∧
    touchesLine 64 64 1 1 = true ∧ coversLine 64 64 1 1 = false) runCh := by decide +kernel

theorem test_meets_AtomicsRewriteTheirWord : (fun ch : Channel =>
    ch.hears .firmware = true ∧ ch.isOwn 0 (ownAddr sramBase).toNat = true ∧ ch.reach .firmware { op := 3, addr := ownAddr sramBase, len := 4, payload := [0, 0, 0x80, 0x3F], arg := 4 } = (.ok, .sram 0 0) ∧
    ch.reach .firmware { op := 4, addr := ownAddr (sramBase + 8), len := 8, payload := List.replicate 8 1 } = (.ok, .sram 0 8) ∧
    ch.reach .firmware { op := 5, addr := ownAddr (sramBase + 8), operand := 1 } = (.ok, .sram 0 8) ∧
    ch.reach .firmware { op := 6, addr := ownAddr (sramBase + 8), operand := 1 } = (.ok, .sram 0 8) ∧ (0 : U8).getLsbD 0 = false ∧
    ch.mem.sramPoison = [] ∧ ch.mem.sramErr = []) runCh := by decide +kernel

/-- The running channel with a route to module 7 over link 30, which is UP. -/
def routedCh : Channel := { runCh with wrn := { links := [(30, { st := .up, eligible := true })], routes := [(7, { state0 := 1, mask0 := 0x40000000 })] } }

theorem test_meets_PacketRouteMovesOrEnds : routedCh.joined = true ∧ isIntra 29 = true ∧ isIntra 30 = false ∧ routedCh.linkSt 30 = .up ∧
    routedCh.linkSt 0 ≠ .up ∧
    (fun ch : Channel => ch.linkSt 30 = .up ∧ ch.joined = false) { routedCh with chn := { state := .calibrate } } ∧
    (fun p : Packet => p.isMgmt = true ∧ p.isResponse = false ∧ (p.crossed 30).mgmtBad = false ∧ (p.crossed 30).dest = (7, 0))
      { op := 0xC1, vc := 3, addr := BitVec.ofNat 64 (7 * 2 ^ 50) } ∧
    (fun p : Packet => p.isMgmt = true ∧ (p.crossed 30).mgmtBad = true) { op := 0xC1 } ∧
    (fun p : Packet => p.isMgmt = false ∧ (p.crossed 30).isResponse = false ∧ (p.crossed 30).opBad = true ∧
      (p.crossed 30).dest = (routedCh.chn.moduleId.toNat, (0 : ChanId).val) ∧ routedCh.pss.withdrawn = false) { op := 1, addr := ownAddr 0 } ∧
    (fun p : Packet => p.isMgmt = false ∧ (p.crossed 30).opBad = true ∧ (p.crossed 30).dest = (8, 0) ∧ routedCh.transitCode (p.crossed 30) = none ∧
      ({ routedCh with wrn := { routes := [(8, { state0 := 2 })] } } : Channel).transitCode (p.crossed 30) ≠ none)
      { op := 0x83, addr := BitVec.ofNat 64 (8 * 2 ^ 50) } ∧
    (fun p : Packet => p.isMgmt = false ∧ (p.crossed 30).opBad = false ∧ (p.crossed 30).dest = (routedCh.chn.moduleId.toNat, (0 : ChanId).val))
      { op := 1, operand := 1, addr := ownAddr 0 } ∧
    (fun p : Packet => (p.crossed 30).isResponse = true ∧ (p.crossed 30).checkedRsp = p.crossed 30 ∧ (p.crossed 30).dest = (7, 0))
      { op := 0x82, vc := 1, srcModule := 7 } ∧
    (fun p : Packet => p.isMgmt = false ∧ (p.crossed 0).opBad = false ∧ (p.crossed 0).dest = (7, 0) ∧ routedCh.routeState 7 0 = 1 ∧
      routedCh.outLink (p.crossed 0) = some 30 ∧ breaksClassRule (p.crossed 0) 30 = false ∧ breaksClassRule { p.crossed 0 with buf := 3 } 30 = true ∧
      (fun ch : Channel => ch.routeState 7 0 = 1 ∧ ch.outLink (p.crossed 0) = none) { routedCh with wrn := { routes := [(7, { state0 := 1 })] } })
      { op := 1, operand := 1, addr := BitVec.ofNat 64 (7 * 2 ^ 50) } ∧
    routedCh.routeState 8 0 = 0 ∧ ({ routedCh with wrn := { routes := [(7, { state0 := 2 })] } } : Channel).routeState 7 0 = 2 := by decide +kernel

/-- A joined channel in slot 0, whose link 0 is in this state. -/
def linkCh (k : Link) : Channel := { joinedCh with wrn := { slotValid := true, links := [(0, k)] } }

theorem test_meets_LinksFollowTheirTable :
    (((linkCh {}).link 0).st = .down ∧ (linkCh {}).mayTrain 0 = true ∧ ({ linkCh {} with wrn := {} } : Channel).mayTrain 0 = false) ∧
    (fun ch : Channel => (ch.link 0).st = .training ∧ (1, 0) = wiring (ch.settIndex 0) 0 ∧ (2, 0) ≠ wiring (ch.settIndex 0) 0 ∧
      ch.sec.entropyFail = false) (linkCh { st := .training }) ∧
    (fun ch : Channel => (ch.link 0).st = .training ∧ ch.sec.entropyFail = true) { linkCh { st := .training } with sec := { entropyFail := true } } ∧
    (fun ch : Channel => (ch.link 0).st = .auth ∧ ch.sec.keys = true ∧ ch.sec.lifecycle = .field ∧ ch.sec.dbgLevel ≠ .invasive ∧
      ch.sec.settings.domainKey = none ∧ (some 1 : Option Key) ≠ ch.sec.settings.domainKey ∧ (ch.link 0).queue = [] ∧ ch.chn.state ≠ .calibrate)
      (linkCh { st := .auth }) ∧
    ((linkCh { st := .up }).link 0).st = .up ∧
    (fun k : Link => ((linkCh k).link 0) = k ∧ k.st = .retrain ∧ k.queue = [] ∧ k.attempts + 1 < 3) { st := .retrain, attempts := 1 } ∧
    (fun k : Link => ((linkCh k).link 0) = k ∧ k.st = .retrain ∧ k.queue = [] ∧ 3 ≤ k.attempts + 1) { st := .retrain, attempts := 2 } := by
  decide +kernel

/-- The link has accepted frames up to 4, and expects 5; the last of the first frames fails its CRC. A NAK of 3 has its flag in bit 0 and frees
nothing, one of 4 frees the frame. -/
theorem test_meets_FramesInSequenceAreAccepted :
    (((linkCh {}).link 0).st ≠ .up ∧ ((linkCh {}).link 0).st ≠ .auth) ∧
    (fun (k : Link) (p : Packet) (crc : BitVec 12 → U32) =>
      let ok (seq : BitVec 12) (crc : U32) : Bool := frameOk p.bytes (crc ++ (0 : Byte) ++ (0 : BitVec 12) ++ seq)
      ((linkCh k).link 0) = k ∧ k.st = .up ∧ ok 5 (crc 5) = true ∧ ok 6 (crc 6) = true ∧ ok 5 (crc 5 + 1) = false ∧
      (0 : Byte).getLsbD 0 = false ∧ k.rxSeq = 5 ∧ k.gapBefore 6 = true ∧ k.gapBefore 4 = false)
      { st := .up, rxSeq := 5 } { op := 1 } (fun q => (frameTrailer (Packet.bytes { op := 1 }) q 0 false).extractLsb' 32 32) ∧
    (fun (k : Link) (crc : U32) => ((linkCh k).link 0) = k ∧ k.st = .up ∧ frameOk [] (crc ++ (1 : Byte) ++ (3 : BitVec 12) ++ (0 : BitVec 12)) = true ∧
      (1 : Byte).getLsbD 0 = true ∧ k.replayBuf.findIdx? (fun e => e.1 == 3) = none ∧ k.replayBuf ≠ [] ∧ k.replayRuns + 1 < 16)
      { st := .up, replayBuf := [(4, {})], replayRuns := 14 } ((frameTrailer [] 0 3 true).extractLsb' 32 32) ∧
    (fun (k : Link) (crc : U32) => ((linkCh k).link 0) = k ∧ frameOk [] (crc ++ (1 : Byte) ++ (4 : BitVec 12) ++ (0 : BitVec 12)) = true ∧
      (k.acked 4).replayBuf = [])
      { st := .up, replayBuf := [(4, {})] } ((frameTrailer [] 0 4 true).extractLsb' 32 32) ∧
    ¬ (15 : Nat) + 1 < 16 := by decide +kernel

theorem test_meets_MgmtMessagesAndAdoption :
    (((linkCh { st := .up }).link 0).st = .up ∧ (linkCh { st := .auth }).link 0 = { st := .auth } ∧ ((linkCh {}).link 0).st ≠ .up ∧
      ((linkCh {}).link 0).st ≠ .auth) ∧
    (fun f : MgmtFrag => f.bad = true ∧ f.op = 0xC3) { op := 0xC3, total := 1, offset := 1, bytes := [7] } ∧
    (fun f : MgmtFrag => f.bad = false ∧ (mergeBytes [] f.offset f.bytes).length < f.total) { total := 2, bytes := [7] } ∧
    (fun f : MgmtFrag => f.bad = false ∧ f.total ≤ (mergeBytes [] f.offset f.bytes).length) { total := 1, bytes := [7] } ∧
    (((linkCh { st := .up }).link 0).partMsg = none ∧ ((linkCh { st := .up, partMsg := some {} }).link 0).partMsg.isSome = true) ∧
    (fun (m : MgmtPartial) (f : MgmtFrag) => f.bad = false ∧ m.tag = f.tag ∧ m.follows f.seq = true ∧
      (mergeBytes m.got f.offset f.bytes).length < m.total ∧ (mergeBytes m.got f.offset f.bytes).length = 2 ∧ m.tag ≠ (5 : U32))
      { seq := 0xFFFF, total := 3, got := mergeBytes [] 0 [7] } { seq := 0, total := 3, offset := 1, bytes := [8] } ∧
    (fun (m : AdoptMsg) (ch : Channel) => ch.calibrated = true ∧ m.formatOk = true ∧ m.signer.isSome = true ∧ m.signer = ch.sec.settings.domainKey ∧
      m.newInc = (ch.route m.failedId.toNat).inc + 1 ∧ (5 : U16) ≠ (ch.route m.failedId.toNat).inc + 1 ∧ m.standbyId = ch.chn.moduleId ∧
      ch.chn.state = .joined ∧ some 2 ≠ ch.sec.settings.domainKey ∧ ({ m with kind := 1 } : AdoptMsg).formatOk = false)
      { standbyId := 5, failedId := 6, newInc := 1, signer := some 1 } { joinedCh with sec := { settings := { domainKey := some 1 } } } ∧
    ({ joinedCh with chn := { state := .boot } } : Channel).calibrated = false := by decide +kernel

theorem test_meets_RouteUpdateAppliesOrRefuses :
    (fun (m : RouteUpdateMsg) (ch : Channel) => ch.calibrated = true ∧ m.formatOk = true ∧ m.signer.isSome = true ∧ m.signer = ch.sec.settings.domainKey ∧
      ch.wrn.gen.toNat < m.gen.toNat ∧ ¬ m.gen.toNat ≤ ch.wrn.gen.toNat ∧ ch.joined = true ∧ selfStates m.entries = [] ∧ ch.wrn.reqs = [] ∧
      ch.dma.xfers = [] ∧ ch.tsk.tasks = [] ∧ (m.entries.map (·.1)).Nodup)
      { gen := 1, signer := some 1, entries := [(7, { state0 := 1, mask0 := 1 })] } { joinedCh with sec := { settings := { domainKey := some 1 } } } ∧
    ({} : RouteUpdateMsg).formatOk = false ∧
    (∃ e ∈ selfStates [((6 : BitVec 14), ({ state0 := 3 } : RouteEntry))], e ≠ (joinedCh.chn.moduleId.toNat, (0 : ChanId).val)) ∧
    (∀ l : Nat, (joinedCh.link l).queue = []) := ⟨by decide +kernel, by decide +kernel, by decide +kernel, fun _ => rfl⟩

theorem test_meets_TimeMessages :
    (fun ch : Channel => ch.wrn.isRoot = false ∧ ch.clocked = true ∧ ch.timeRef = some 0 ∧ (ch.link 0).st = .up ∧ ch.wrn.stratum = 0xFF ∧
      (ch.onLink 0 fun x => { x with peerStratum := 0xFD }).timeRef = some 0 ∧ (ch.onLink 0 fun x => { x with peerStratum := 0xFF }).timeRef ≠ some 0 ∧
      ch.chn.state = .joined ∧ ch.cfg.timeRx = false ∧ ({ stratum := 0xFD, periodUs := 250 } : TimeMsg).periodUs.toNat = ch.beat.periodUs.toNat ∧
      ({ stratum := 0xFD } : TimeMsg).stratum.toNat < 0xFE) (linkCh { st := .up, peerStratum := 3 }) ∧
    ({ joinedCh.wrn with stratum := 3 } : Wrn).stratum ≠ 0xFF ∧ ({ joinedCh.wrn with isRoot := true } : Wrn).isRoot = true ∧
    ({ joinedCh with chn := { state := .boot } } : Channel).calibrated = false ∧
    (fun (m : TimeMsg) (ch : Channel) => ch.chn.state = .joined ∧ some 1 = ch.sec.settings.domainKey ∧ ch.wrn.tgen.toNat < m.tgen.toNat ∧
      m.periodUs.toNat = ch.beat.periodUs.toNat ∧ ({} : TimeMsg).tgen.toNat ≤ ch.wrn.tgen.toNat)
      { tgen := 1, periodUs := 250 } { joinedCh with sec := { settings := { domainKey := some 1 } } } := by decide +kernel

/-! #### Registers and beats -/

theorem one_fwReady (ch : Channel) (h : ch.calibrated = true ∧ ch.dead = false ∧ ch.domain.st ≠ .off) : fwReady (one ch) 0 := h

theorem test_meets_RegisterAccessByOrigin : (joinedCh.calibrated = true ∧ joinedCh.dead = false ∧ joinedCh.domain.st ≠ .off) ∧
    ({} : Channel).domain.st = .off ∧ (inMailbox 0x010028 8 = false ∧ 0x010028 % 8 = 0 ∧ (regAt 0x010028).isSome) ∧
    (inMailbox 0x01FFF8 8 = false ∧ 0x01FFF8 % 8 = 0 ∧ regAt 0x01FFF8 = none) ∧ inMailbox 0x010028 4 = false ∧
    joinedCh.sec.dbgLevel = .closed ∧ ({ dbgLevel := .observe } : Sec).dbgLevel = .observe ∧ 0x0EFFF8 / 0x10000 ≠ 0x0F ∧
    ({ openCh with
        pss := { openCh.pss with layout := some { windows := [{ perm := 2, base := csrBase, length := 2 ^ 24 }] } }
        wrn := { links := [(0, {})] } } : Channel).linkCode 0 true 0x0F0000 8 = .ok ∧
    inMailbox 0x0F0000 8 = false ∧ 0x0F0000 / 0x10000 = 0x0F ∧ (one joinedCh).jtagReaches 0 = true ∧ (one joinedCh).jtagReaches 1 = true ∧
    ({ failed := true } : Ptd).failed = true ∧ ({ failed := true, up := true } : Ptd).hostUp = false := by decide +kernel

theorem test_meets_BeatAndLinkControls : ((linkCh { st := .failed }).calibrated = true ∧ (linkCh { st := .failed }).dead = false ∧
    (linkCh { st := .failed }).domain.st ≠ .off) ∧ ((linkCh { st := .failed }).link 0).st = .failed ∧ ((linkCh {}).link 0).st ≠ .failed := by decide +kernel

theorem test_meets_BeatBoundaryAndEdges : ({} : Channel).clocked = false ∧ runCh.clocked = true ∧ runCh.running = true ∧ (1 : U8) ≠ 0 ∧
    joinedCh.running = false ∧ runCh.beat.leadinPct = 0 ∧ runCh.beat.beatrefEn = false ∧ offInCapture 2700 = true ∧ offInCapture (-2701) = false ∧
    offInBand (-108) = true ∧ offInBand 109 = false ∧ ({ runCh with beat := { beatrefEn := true } } : Channel).clocked = true ∧
    (one runCh).ptd.failed = false ∧ ({ failed := true } : Ptd).failed = true := by decide +kernel

/-- The running channel with logical core 0 bound, energy for its classes, and this offer. -/
def offering (l : List Offer) : Channel := { runCh with
  pss := { runCh.pss with binding := [(0, some 0)]
                          stream := some { progs := 1, classes := [{ exec := 1, prog := 0 }, { exec := 0 }], energy := [{ base := 7 }] } }
  ledg := { admissible := 7 }, tsk := { offers := l } }

theorem test_meets_BeatAdmissionTakesWork :
    ((offering []).running = true ∧ (offering []).beat.admitted = false ∧ (offering []).planOffers = [] ∧ (offering []).tsk.tasks = []) ∧
    (fun (o : Offer) (ch : Channel) => ch.tsk.offers = [o] ∧ o.beat ≤ ch.beat.number.toNat ∧ ch.holds o = false ∧ ch.refusal o = some (0x4005, none) ∧
      0 < ch.ledg.admissible ∧ (ch.ledg.admitted + ch.charge o.desc : Int) ≤ ch.ledg.admissible)
      { desc := { cls := 2 } } (offering [{ desc := { cls := 2 } }]) ∧
    (∀ e ∈ [(({} : Offer), WorkKind.foreground), ({ desc := { flags := 4 } }, .foreground), ({ desc := { kind := 1 } }, .background),
        ({ desc := { kind := 1 }, urgent := true }, .urgent)],
      (fun (o : Offer) (ch : Channel) => ch.tsk.offers = [o] ∧ o.kind = e.2 ∧ o.beat ≤ ch.beat.number.toNat ∧ ch.holds o = false ∧ ch.refusal o = none ∧
        o.core < 128 ∧ o.desc.dep = false ∧ ch.execOf o.desc = some 1 ∧ (o.desc.producer = true → 0 < (smGet {} ch.tsk.credits 0).available.toNat) ∧
        0 < ch.ledg.admissible ∧ (ch.ledg.admitted + ch.charge o.desc : Int) ≤ ch.ledg.admissible ∧ ch.charge o.desc = 7 ∧
        7 ≤ ch.reserveNow - ch.ledg.bgAdmitted ∧ ch.ledg.urgentAdmitted + 7 ≤ ch.slice) e.1
        { offering [e.1] with tsk := { offers := [e.1], credits := [(0, { available := 1 })] } }) ∧
    (fun ch : Channel => ¬ (ch.ledg.admitted + ch.charge {} : Int) ≤ ch.ledg.admissible ∧ ¬ ch.charge { kind := 1 } ≤ ch.reserveNow - ch.ledg.bgAdmitted ∧
      ¬ ch.ledg.urgentAdmitted + ch.charge { kind := 1 } ≤ ch.slice ∧ 0 < ch.charge {} ∧ ch.refusal {} = none)
      { offering [{}] with ledg := { admissible := 6, bgAdmitted := 4499994, urgentAdmitted := 2999994 } } := by
  decide +kernel

/-! #### Squirrel -/

/-- Two HBM frames of 1 KiB as pool 0 and a CXL frame as pool 1. -/
def poolsOf : List Pool := [{ pool := 0, frameKib := 1, count := 2, base := 0x10000 }, { pool := 1, tier := 1, frameKib := 1, count := 1 }]

/-- The running channel with these pools, regions, pages and frames; its first class has a page list. -/
def kvCh (regions : SMap Region) (ptes : SMap Pte) (hbm back : SMap Frame) : Channel := { runCh with
  pss := { runCh.pss with
    layout := some { spaBase := 0x1000000, spaLen := 0x1000000, pageLists := [[], [{ region := 1, page := 3 }]]
                     runs := [{ tmplBeat := 0, descs := [{ plist := 1 }] }] }
    stream := some { classes := [{ exec := 1, pageList := 1, attn := 0 }], attns := [{ hKv := 1, dHead := 128 }] } }
  sql := { regionsNum := 4, regionBase := 0x1000000, pools := poolsOf, regions := regions, ptes := ptes, hbm := hbm, back := back, ahead := 1 } }

theorem test_meets_KvRegionOperations :
    ((kvCh [] [] [] []).openPlace 1 0 1).isSome = true ∧ (kvCh [] [] [] []).openPlace 4 0 1 = none ∧ (kvCh [] [] [] []).openPlace 1 0 0 = none ∧
    (fun ch : Channel => ch.transitPool? 1 = none ∧ (ch.region 1).live = true ∧ ch.validPtes 1 = []) (kvCh [(1, { live := true })] [] [] []) ∧
    ((kvCh [] [] [] []).region 1).live = false ∧
    (kvCh [(1, { live := true }), (2, { live := true, maxPages := 4 })] [(pteKey 1 3, { valid := true, tier := 3 })] [] []).mayShare 1 2 3 1 = true ∧
    (kvCh [(1, { live := true }), (2, { live := true, maxPages := 3 })] [(pteKey 1 3, { valid := true, tier := 3 })] [] []).mayShare 1 2 3 1 = false ∧
    (fun (k : Task) (ch : Channel) => ch.task? 0 4095 = some k ∧ ch.dma.xfers = [] ∧ k.core = 0 ∧ k.slot = 4095 ∧ ch.openPlace 1 0 1 = none ∧
      ch.mayShare 1 2 3 1 = false) { slot := 4095 } (withTasks [{ slot := 4095 }]) := by decide +kernel

/-- The key-value channel with a task that waits for its page list. -/
def waiting (maxPages : U32) (pte : Pte) (frame : Frame) : Channel :=
  { kvCh [(1, { live := true, maxPages := maxPages })] [(pteKey 1 3, pte)] [(0, frame)] [] with
    tsk := { tasks := [{ exec := 1, desc := { plist := 1 }, waitPages := true }] } }

theorem test_meets_PageWalkPinsOrWaits :
    (∀ ch ∈ [waiting 4 {} {}, waiting 3 {} {}, waiting 4 { valid := true } {}, waiting 4 { valid := true } { pins := 0xFFFF }],
      (fun (k : Task) (e : PageEntry) => ch.task? 0 0 = some k ∧ k.waitPages = true ∧ ch.sql.walk = false ∧ ch.pageList k.desc = [e] ∧
        ch.walkBehind k = false ∧ ch.sql.lost.contains (1, 3) = false ∧ e.isWrite = false ∧ ch.holdsRead k e = false ∧ (ch.joinSlot k e).isNone = true ∧ ch.dma.xfers = [])
        { exec := 1, desc := { plist := 1 }, waitPages := true } { region := 1, page := 3 }) ∧
    ((waiting 4 {} {}).region 1).live = true ∧ 3 < ((waiting 4 {} {}).region 1).maxPages.toNat ∧ ¬ 3 < ((waiting 3 {} {}).region 1).maxPages.toNat ∧
    ((waiting 4 {} {}).pte 1 3).valid = false ∧
    (fun ch : Channel => (ch.pte 1 3).valid = true ∧ (ch.pte 1 3).tier ≠ 1 ∧ (ch.pte 1 3).tier ≠ 2 ∧ ch.pinFull 0 = false ∧
      ch.poolOf true 0 = some { pool := 0, frameKib := 1, count := 2, base := 0x10000 }) (waiting 4 { valid := true } {}) ∧
    (waiting 4 { valid := true } { pins := 0xFFFF }).pinFull 0 = true ∧
    (fun (ch : Channel) (k : Task) => ch.task? 0 1 = some k ∧ k.waitPages = true ∧ ch.walkBehind k = true)
      { waiting 4 {} {} with tsk := { tasks := [{ exec := 1, waitPages := true }, { slot := 1, exec := 1, waitPages := true }] } }
      { slot := 1, exec := 1, waitPages := true } ∧
    (fun (k : Task) (ch : Channel) (e : PageEntry) => ch.task? 0 0 = some k ∧ ch.pageList k.desc = [e] ∧ e.isWrite = true ∧ ch.sql.writes = [] ∧
      ch.walkBehind k = false ∧ (ch.pte 1 3).valid = true ∧ (ch.pte 1 3).tier = 0 ∧ ch.pinFull 0 = false ∧ (ch.poolOf true 0).isSome = true)
      { exec := 1, desc := { plist := 1 }, waitPages := true }
      { waiting 4 { valid := true } {} with pss := { (waiting 4 {} {}).pss with
          layout := some { pageLists := [[], [{ region := 1, page := 3, flags := 1 }]], runs := [{ descs := [{ plist := 1 }] }] } } }
      { region := 1, page := 3, flags := 1 } ∧
    ([(1, 3)] : List (Nat × Nat)).contains (1, 3) = true := by
  decide +kernel

/-- A pool's descriptor of one page in frame 0. -/
def desc0 : PageDesc := { frameAddr := 0x10000, region := 1, page := 3, slot := 0 }

/-- The key-value channel with a task that uses slot 2 of core 0, which holds this page. -/
def filling (filled : Bool) (epoch : U16) : Channel :=
  { kvCh [(1, { live := true, maxPages := 4 })] [] [(0, { epoch := epoch })] [] with
    tsk := { tasks := [{ exec := 1 }] }
    sql := { (kvCh [] [] [(0, { epoch := epoch })] []).sql with slots := [{ slot := 2, descs := [desc0], users := [0], filled := filled }] } }

/-- The key-value channel with a declared write of page 3 under copy on write from frame 0 into frame 1. -/
def copying : Channel :=
  { kvCh [] [] [] [] with
    tsk := { tasks := [{ exec := 1 }] }
    sql := { (kvCh [] [] [] []).sql with writes := [{ region := 1, page := 3, frame := 1, source := some 0 }] } }

theorem test_meets_SlotFillAndCowCopyFrames :
    (fun (find : Channel → Option KvSlot) (stale : Channel → KvSlot → Bool) =>
      find runCh = none ∧ (∃ k ∈ find (filling true 0), k.filled = true) ∧
      (∃ k ∈ find (filling false 1), k.filled = false ∧ stale (filling false 1) k = true ∧ (({ filling false 1 with tsk := {} } : Channel).tsk.tasks.filter
        fun t => t.core == k.core && k.users.contains t.slot) = []) ∧
      (∃ k ∈ find (filling false 0), k.filled = false ∧ k.descs = [desc0] ∧ stale (filling false 0) k = false ∧
        (((filling false 0).tsk.tasks.filter fun t => t.core == k.core && k.users.contains t.slot).head?).isSome = true))
      (fun ch => ch.sql.slots.find? fun x => x.core == (0 : LCore).val && x.slot == 2)
      (fun ch k => k.descs.any fun d => d.epoch != (ch.hbmFrame d.frame.toNat).epoch) ∧
    ((filling false 0).pool? 0).isSome = true ∧ (∃ p ∈ (filling false 0).pool? 0, ((filling false 0).planesOf { exec := 1 } 1 p).isSome = true) ∧
    (filling false 0).mem.hbmPoison = [] ∧ (filling false 0).mem.hbmErr = [] ∧
    (fun k : Task => copying.task? 0 0 = some k ∧
      (∃ w ∈ copying.sql.writes.find? fun w => declOf k w && w.region == 1 && w.page == 3 && w.source.isSome && !w.copied,
        w.source = some 0 ∧ (copying.poolOf true 0).isSome = true ∧ (copying.poolOf true w.frame).isSome = true) ∧
      (copying.sql.writes.find? fun w => declOf k w && w.region == 1 && w.page == 4 && w.source.isSome && !w.copied) = none) { exec := 1 } := by
  decide +kernel

/-- The key-value channel with a page moving between HBM frame 0 and CXL frame 0; port 0 is up with the whole aperture behind it. -/
def moving : Channel :=
  { kvCh [(1, { live := true, maxPages := 4 })] [] [] [] with
    cxl := { port0 := { st := 2, capGib := 1 }, linGib := 1 }
    sql := { (kvCh [] [] [] []).sql with spills := [{ region := 1, page := 3 }], fetches := [{ region := 1, page := 3 }] } }

/-- Which of the home pool's two free frames prefetch takes is a free value: both lie in that pool. -/
theorem test_meets_PagesMoveBetweenTiers :
    (fun m : Move => moving.sql.spills.find? (fun x => x.hbmFrame == 0) = some m ∧ moving.sql.fetches.find? (fun x => x.hbmFrame == 0) = some m ∧
      m.retry = [] ∧ m.page < 2 ^ 18 ∧ m.released = false ∧ (moving.poolOf true 0).isSome = true ∧
      ∃ bp ∈ moving.poolOf false m.backFrame, bp.tier ≠ 2 ∧
        ∀ q ∈ moving.cxlPortsOf (bp.frameAddr m.backFrame) (bp.frameKib.toNat * 1024), (moving.cxlPort q).isUp = true) { region := 1, page := 3 } ∧
    (∀ r ∈ moving.wrn.reqs ++ moving.wrn.waiting, r.owner ≠ .spill 0 ∧ r.owner ≠ .fetch 0) ∧ moving.cxl.poison = [] ∧ moving.mem.hbmPoison = [] ∧
    smGet 0 ([(0, 1)] : SMap U16) 0 ≠ 2 ∧ ({ walk := true } : Sql).walk = true ∧
    (fun ch : Channel => ch.sql.walk = false ∧ ch.running = true ∧ ch.sql.ahead = 1 ∧ ch.planOf (ch.beat.number.toNat + 1) = [(0, false, { plist := 1 })] ∧
      ch.namedPages { plist := 1 } = [(1, 3)] ∧ ch.sql.fetchedNow < ch.sql.prefetchMax.toNat ∧ (ch.pte 1 3).valid = true ∧ (ch.pte 1 3).tier = 1 ∧
      ch.sql.lost.contains (1, 3) = false ∧ (ch.backFrame 0).st = .spilled ∧ (ch.poolOf false 0).isSome = true ∧
      ∃ home ∈ ch.homePool? (ch.backFrame 0).owner.toNat, (ch.freeFrame? home).isSome = true ∧ home.count = 2 ∧ ∀ f ∈ [0, 1], ch.poolOf true f = some home)
      (kvCh [(1, { live := true, maxPages := 4 })] [(pteKey 1 3, { valid := true, tier := 1 })] [] [(0, { st := .spilled, owner := 1, page := 3 })]) := by
  decide +kernel

/-! #### Rings, records, steps and the exchange -/

/-- The running channel with this command at the head of ring 7. -/
def ringCh (e : CmdEntry) : Channel := { kvCh [(1, { live := true })] [] [] [] with mbx := { cmds := [{ ring := 7, entry := e }] }, upd := { sched := true } }

/-- A command body of these bytes, filled up to 48. -/
def bodyOf (l : List Byte) : List Byte := l ++ List.replicate (48 - l.length) 0

theorem test_meets_RingCommandsComplete :
    runCh.ringHead 7 = none ∧
    (∀ op ∈ ([1, 2, 3, 4, 5] : List U8), (fun ch : Channel => (∃ x ∈ ch.ringHead 7, x.entry.opcode = op) ∧ ch.dead = false) (ringCh { opcode := op })) ∧
    ({ ringCh {} with pss := {} } : Channel).pss.stream = none ∧ ((ringCh {}).pss.stream.isSome = true ∧ (ringCh {}).running = true) ∧
    (fun b : List Byte => natAt b 4 1 < 2 ∧ isZero b 5 1 = true ∧ isZero b 8 24 = true ∧ (natAt b 0 4 = (ringCh {}).upd.lastCommit.toNat + 1) ∧
      (BitVec.ofNat 32 (natAt b 0 4) : U32) ≠ 0 ∧ (natAt b 4 1 % 2 == 1) = false) (bodyOf [1]) ∧
    (fun b : List Byte => natAt b 4 1 < 2 ∧ isZero b 5 1 = true ∧ isZero b 8 24 = true ∧ (BitVec.ofNat 32 (natAt b 0 4) : U32) ≠ 0 ∧
      (natAt b 4 1 % 2 == 1) = true ∧ ({ ringCh {} with upd := { sched := true, tState := (ringCh {}).restoredCounters 0 } } : Channel).skewed 9 = [])
      (bodyOf [9, 0, 0, 0, 1]) ∧ (BitVec.ofNat 32 (natAt (bodyOf []) 0 4) : U32) = 0 ∧
    (ringCh {}).upd.inStep = false ∧ BitVec.ofNat 16 (natAt (bodyOf [1]) 6 2) = (ringCh {}).gxc.epoch ∧ (ringCh {}).skewed 1 = [] ∧
    (ringCh {}).upd.sched = true ∧
    (fun u : Upd => u.inStep = true ∧ u.pending = none ∧ natAt (bodyOf [6]) 4 1 % 2 ≠ 1 ∧ 6 = u.sJob.toNat + 1) { inStep := true, sJob := 5 } ∧
    ¬ natAt (bodyOf [1, 0, 0, 0, 2]) 4 1 < 2 := by decide +kernel

theorem test_meets_DoorbellAndRingWrites :
    (joinedCh.calibrated = true ∧ joinedCh.dead = false ∧ joinedCh.domain.st ≠ .off) ∧ ((1 : Fin 4).val = 1 ∧ ¬ ((2 : Fin 4).val = 1 ∨ (2 : Fin 4).val = 3)) ∧
    (joinedCh.db 2).val &&& (joinedCh.db 2).mask &&& ~~~(0 : U32) = 0 ∧
    (fun r : Ring => (BitVec.ofNat 16 (bits 1 15 0) - r.ci).toNat ≤ 2 ^ r.log ∧ 2 ^ r.log < (BitVec.ofNat 16 (bits 0x100 15 0) - r.ci).toNat) (joinedCh.ring 7) := by
  decide +kernel

/-- A port die whose host port 0 is up, with QP 2 to channel 0. -/
def hostPtd : Ptd := { up := true, ports := [(0, { linkUp := true })], qps := [{ num := 2, target := 0, rkey := 9 }] }

theorem test_meets_EventRecordsArePosted : (fun (e : EvRec) (ch : Channel) => ch.dead = false ∧ ch.events = e :: [] ∧ e.detail = some 0 ∧
      (ch.queue e.cls).retained = [] ∧ (ch.queue e.cls).en = true ∧ ((ch.queue e.cls).pi - (ch.queue e.cls).ci).toNat < (ch.queue e.cls).size ∧
      hostPtd.qpCarries (ch.queue e.cls).qpn.toNat (some (0 : ChanId).val) = true)
      { code := 0x4009, cls := 3, detail := some 0 }
      { joinedCh with events := [{ code := 0x4009, cls := 3, detail := some 0 }], mbx := { queues := [(3, { en := true, log2 := 4, qpn := 2, pi := 15 })] } } ∧
    (fun (q : EvQueue) => q.retained.length < 1024 ∧ ¬ (q.pi - q.ci).toNat < q.size) { en := true, log2 := 4, qpn := 2, pi := 16 } ∧
    1024 ≤ (List.replicate 1024 ({} : EvRec)).length ∧ ({} : Channel).domain.st = .off ∧ joinedCh.chn.state ≠ .reset := by
  refine ⟨by decide +kernel, by decide +kernel, Nat.le_of_eq List.length_replicate.symm, by decide, by decide⟩

theorem test_meets_StepsCommitOrAbandon : ({} : Upd).inStep = false ∧ (5 : U32) ≠ 6 ∧
    (fun u : Upd => u.inStep = true ∧ u.sJob = 5 ∧ u.pending = none) { inStep := true, sJob := 5 } := by decide +kernel

/-- The running channel in beat 9, its bucket 1 open since beats 5 and 6 under a deadline of 4. -/
def stageCh : Channel := { runCh with
  beat := { number := 9 }
  gxc := { buckets := [(1, { settBeat := some 5, settArr := [(0, [3])], domBeat := some 6 }), (2, { settBeat := some 5, domBeat := some 5 })] } }

theorem test_meets_StageDeadlinesClose : stageCh.pairOf 1 = none ∧ stageCh.pairOf 2 = none ∧ (fun k : Bucket => k.settClosed = false ∧ k.settBeat = some 5 ∧ k.domClosed = false ∧ k.domBeat = some 6) (stageCh.bucket 1) ∧
    stageCh.gxc.actDeadline ≠ 0 ∧ 5 + stageCh.gxc.actDeadline.toNat ≤ stageCh.beat.number.toNat ∧
    ¬ 6 + stageCh.gxc.actDeadline.toNat ≤ stageCh.beat.number.toNat ∧ (stageCh.bucket 2).domBeat = some 5 ∧ (stageCh.bucket 2).domClosed = false := by decide +kernel

/-- The running channel with an alternate layout 1. -/
def altCh : Channel := { runCh with pss := { runCh.pss with stream := some { variants := [{}, { layout := 1 }] } } }

theorem test_meets_ReshardAndPermute :
    bit 0x100 16 = false ∧ bit 0x10100 16 = true ∧ BitVec.ofNat 8 (bits 0x10100 15 8) ≠ altCh.gxc.layout ∧
    (altCh.variant? (BitVec.ofNat 8 (bits 0x10100 15 8)).toNat).isSome = true ∧ altCh.variant? 2 = none ∧ altCh.upd.inStep = false ∧ altCh.gxc.queued = none ∧
    ({ inStep := true } : Upd).inStep = true ∧ altCh.gxc.permuting = none ∧
    (fun ch : Channel => ch.gxc.permuting = some 1 ∧ ch.mem.hbmPoison = [] ∧ ch.mem.hbmErr = [] ∧ (ch.moves 1).length = 1 ∧ ∃ m ∈ ch.moves 1,
      m.srcRole = 0 ∧ m.dstRole = 0) { altCh with
        gxc := { permuting := some 1 }
        pss := { altCh.pss with stream := some { variants := [{}, { layout := 1 }], alts := [{ layout := 1, moves := [{ length := 4, dst := 64 }] }] } } } ∧
    (altCh.pss.stream.map (·.alts)).getD [] = [] ∧ runCh.variant? 1 = none := by decide +kernel

/-! #### Transfers, scrub and calibration -/

/-- A copy of one byte from one HBM offset to another. -/
def copyDesc (src dst n : Nat) : DmaDesc := { op := 1, count := BitVec.ofNat 32 n, src := ownAddr src, dst := ownAddr dst }

/-- Whether a descriptor passes the checks and its parts lie in the channel's HBM. -/
def movable (ch : Channel) (d : DmaDesc) (idx : List Nat) : Bool :=
  d.badRsvd == false && d.badSize == false && d.badAlign == false && ch.isOwn 0 d.src.toNat && (d.parts idx).all fun p =>
    p.len != 0 && (ch.hbmPlace 0 p.src p.len).isSome && (ch.hbmPlace 0 p.dst p.len).any fun o => decide (o + p.len ≤ badgerArea)

theorem test_meets_DmaMovesItsParts : runCh.mem.hbmPoison = [] ∧ runCh.mem.hbmErr = [] ∧ runCh.dma.xfers.length < 32 ∧
    movable runCh (copyDesc (hbmSize - 1) (badgerArea - 1) 1) [] = true ∧
    movable runCh { copyDesc 0 4096 0 with op := 4, rows := 2, rowBytes := 3, srcPitch := 8, dstPitch := 16 } [] = true ∧
    movable runCh { copyDesc 0 65536 1 with op := 5, srcPitch := 64, dstPitch := 64 } [] = true ∧
    runCh.hbmPlace 0 (ownAddr 8192).toNat (4 * 1) = some 8192 ∧ words32 (runCh.hbmRead 8192 (4 * 1)) = [0] ∧
    movable runCh { copyDesc 0 4096 1 with op := 2, aux := ownAddr 8192 } [0] = true ∧
    movable runCh { copyDesc 0 4096 1 with op := 3, aux := ownAddr 8192 } [0] = true ∧
    meetsSource [(4095, 1)] [(4096, [0])] = false ∧ meetsSource [(4096, 1)] [(4096, [0])] = true := by decide +kernel

/-- A BLKT tile in HBM. -/
def blktDesc : DmaDesc := { op := 6, count := 1, src := ownAddr 0, dst := ownAddr 65536, aux := ownAddr 131072, aux2 := ownAddr 196608, srcPitch := 1, dstPitch := 1 }

/-- The key-value channel in WALK mode, with a list of one page of region 1 at offset 0. -/
def walkCh : Channel := { kvCh [(1, { live := true, maxPages := 4 })] [] [] [] with
  mem := { hbm := [(0, 1), (4, 1), (16, 1)] }, sql := { (kvCh [(1, { live := true, maxPages := 4 })] [] [] []).sql with walk := true } }

theorem test_meets_BlktAndPagelist : (fun d : DmaDesc => d.badRsvd = false ∧ d.badSize = false ∧ d.badAlign = false ∧ runCh.isOwn 0 d.src.toNat = true ∧
      (List.range 64).all (fun i => (runCh.hbmPlace 0 (d.src.toNat + i * blockBytes 0) (2 * blockBytes 0)).isSome &&
        (runCh.hbmPlace 0 (d.aux.toNat + i) 2).isSome && (runCh.hbmPlace 0 (d.dst.toNat + i * blockBytes 0) (2 * blockBytes 0)).any (· < badgerArea - 64) &&
        (runCh.hbmPlace 0 (d.aux2.toNat + i) 2).any (· < badgerArea - 64)) = true) blktDesc ∧
    (blktMove 0 (List.replicate 64 (List.replicate 32 0)) (List.replicate 64 [1, 1])).isSome = true ∧
    blktMove 0 (List.replicate 64 (List.replicate 32 0)) ([1, 2] :: List.replicate 63 [1, 1]) = none ∧
    (fun d : DmaDesc => d.badRsvd = false ∧ d.badSize = false ∧ d.badAlign = false ∧ runCh.sql.walk = false ∧ walkCh.sql.walk = true ∧
      walkCh.hbmPlace 0 d.aux.toNat 16 = some 0 ∧ field (walkCh.hbmRead 0 16) 4 4 = 1 ∧ walkCh.hbmPlace 0 (d.aux.toNat + 16) (4 * 1) = some 16 ∧
      ∃ q ∈ walkCh.pagelistParts 0 d (walkCh.hbmRead 0 16) (walkCh.hbmRead 16 4), q.1.all fun p => p.len != 0 &&
        (walkCh.hbmPlace 0 p.src p.len).isSome && (walkCh.hbmPlace 0 p.dst p.len).any fun o => decide (o + p.len ≤ badgerArea))
      { op := 7, src := ownAddr 1048576, aux := ownAddr 0 } := by decide +kernel

theorem test_meets_TransfersAreRefusedAndFail :
    ¬ (List.replicate 32 ({} : Xfer)).length < 32 ∧ runCh.dma.xfers.length < 32 ∧ ({ op := 2 } : DmaDesc).op.toNat ≠ 1 ∧ 7 < ({ op := 8 } : DmaDesc).op.toNat ∧
    ({ copyDesc 0 1 1 with rsvd := 1 } : DmaDesc).badRsvd = true ∧ ((copyDesc 0 1 0).badRsvd = false ∧ (copyDesc 0 1 0).badSize = true) ∧
    (fun d : DmaDesc => d.badRsvd = false ∧ d.badSize = false ∧ d.badAlign = true) { copyDesc 1 4096 1 with op := 2, esize := 1, aux := ownAddr 8192 } ∧
    (runCh.cxlPort 0).isUp = false ∧ ((moving.cxlPort 0).isUp = true ∧ moving.dma.xfers = []) ∧
    (fun (x : Xfer) (ch : Channel) => ch.dma.xfers.find? (fun y => y.id == 3) = some x ∧ x.owner = .control ∧ ch.returnCopies 0 x.desc = [] ∧
      ch.xferOnPort 0 false 0 x = true ∧ ch.xferOnPort 0 true 0 x = false) { id := 3, desc := copyDesc cxlBase 0 1, cxlReads := [(0, 1)] }
      { moving with dma := { xfers := [{ id := 3, desc := copyDesc cxlBase 0 1, cxlReads := [(0, 1)] }] } } ∧
    (fun (x : Xfer) (ch : Channel) => ch.dma.xfers.find? (fun y => y.id == 3) = some x ∧ x.owner = .control ∧ ch.returnCopies 0 x.desc = [] ∧
      ch.xferOnPort 0 true 0 x = true ∧ ch.xferOnPort 0 false 0 x = false) { id := 3, desc := copyDesc 0 cxlBase 1, writes := [(ownAddr cxlBase, [7])] }
      { moving with dma := { xfers := [{ id := 3, desc := copyDesc 0 cxlBase 1, writes := [(ownAddr cxlBase, [7])] }] } } := by decide +kernel

theorem test_meets_DmaCompletionMakesWritesVisible : runCh.dma.xfers.find? (fun y => y.id == 3) = none ∧ ({ outstanding := 1 } : Xfer).outstanding ≠ 0 ∧
    (fun (x : Xfer) (ch : Channel) => ch.dma.xfers.find? (fun y => y.id == 3) = some x ∧ x.outstanding = 0 ∧ x.owner = .control ∧ x.desc.sig = false ∧
      x.walked = none ∧ ch.returnCopies 0 x.desc = [] ∧ ch.offloadKib 0 x.desc = 0 ∧ ch.mem.hbmPoison = [] ∧
      (∀ e ∈ x.writes, (ch.hbmPlace 0 e.1.toNat e.2.length).isSome = true) ∧
      x.writes.Pairwise fun a b => ∀ i ∈ ch.hbmPlace 0 a.1.toNat a.2.length, ∀ j ∈ ch.hbmPlace 0 b.1.toNat b.2.length,
        i + a.2.length ≤ j ∨ j + b.2.length ≤ i)
      { id := 3, desc := copyDesc 0 4096 2, writes := [(ownAddr 4096, [7]), (ownAddr 4097, [8])] }
      { runCh with dma := { xfers := [{ id := 3, desc := copyDesc 0 4096 2, writes := [(ownAddr 4096, [7]), (ownAddr 4097, [8])] }] } } ∧
    (fun u : Task => (withTasks [u]).task? 0 0 = some u ∧ (insertNat 0 u.dmaDone).length ≠ u.dmaDescs.length ∧ u.dmaDescs.length = 2)
      { exec := 2, st := .running, dmaDescs := [copyDesc 0 4096 2, copyDesc 0 8192 2] } := by decide +kernel

theorem test_meets_ScrubStepsAdvance : ({} : Channel).cfg.hbmReady = false ∧ joinedCh.cfg.hbmReady = true ∧ joinedCh.mem.hbmErr = [] ∧
    smGet false joinedCh.mem.hbmPoison 0 = false ∧ ¬ 136 < 136 ∧
    (135 < 136 ∧ (joinedCh.domainOf 135).st ≠ .off ∧ joinedCh.domain.st ≠ .off ∧ joinedCh.calibrated = true ∧ joinedCh.mem.sramErr = [] ∧
      smGet false joinedCh.mem.sramPoison (135 * 2 ^ 19 + smGet 0 joinedCh.mem.sramPos 135) = false) ∧
    hbmSize ≤ ((BitVec.ofNat 38 (hbmSize - 64)).toNat / 64 + 1) * 64 := by decide +kernel

/-- A channel in CALIBRATE. -/
def calCh : Channel := { joinedCh with chn := { joinedCh.chn with state := .calibrate }, cfg := {} }

theorem test_meets_CalibrationSteps : joinedCh.chn.state ≠ .calibrate ∧
    (calCh.chn.state = .calibrate ∧ calCh.cfg.selfRx = false ∧ calCh.cfg.hbmReady = false ∧ calCh.cfg.cxlDone = false) ∧ joinedCh.cfg.cxlDone = true ∧
    (joinedCh.cfg.hbmReady = true ∧ joinedCh.cfg.storeCopied = true ∧ calCh.cfg.storeCopied = false) ∧ ({} : Serial).storeOk = true ∧
    ({ storeOk := false } : Serial).storeOk = false ∧ calCh.ser.ringBad = false ∧ ({ ringBad := true } : Serial).ringBad = true := by decide +kernel

/-! #### The ledger and the power states -/

theorem test_meets_BadMeterSkipsReconciliation : (false = false ∨ 1 + 1 + 1 = 0) ∧ (true = false ∨ 0 + 0 + 0 = 0) := by decide

/-- Two running channels, of which channel 0 has 50 W of a beat to lend. -/
def lending : State := { one { runCh with ledg := { admissible := 20000000, admitted := 7500000 } } with ch1 := { runCh with ledg := { grantedW := 550 } } }

theorem test_meets_LedgerReconcilesLendsAndLimits : 0 < 1 + 0 + 0 ∧
    (fun ch : Channel => ch.offer = 12500000 ∧ (lending.ch 1).offer = 0 ∧ ch.running = true ∧ bit ch.ledg.ctrlNow 0 = true) (lending.ch 0) ∧
    ((lending.ch 1).domain.st = .active ∧ (lending.ch 1).chn.state ≠ .reset) ∧ joinedCh.offer = 0 ∧ joinedCh.running = false ∧
    ({} : Channel).calibrated = false ∧ ({ calA := {} } : Serial).calSlot = none ∧
    0x10000 ≤ 100 * ((0x10290 - 0x10000) + (0x10000 - 0x10290)) ∧ ¬ 0x10000 ≤ 100 * ((0x1028F - 0x10000) + (0x10000 - 0x1028F)) ∧
    (fun y : Serial => y.calSlot = some y.calA ∧ y.calSlot ≠ some { y.calA with valid := false }) { calA := { valid := true } } ∧
    (fun y : Serial => y.calSlot ≠ some y.calA) { calA := { valid := true }, calB := { valid := true, seq := 1 } } := by decide +kernel

/-- The joined channel with logical core 3 bound to physical core 3, core 4 draining, core 5 waking and core 6 off. -/
def domainsCh : Channel := { joinedCh with
  pss := { binding := [(3, some 3)] }
  pwr := { domains := [(4, { st := .draining }), (5, { st := .waking }), (6, { st := .off }), (0x90, { st := .draining }), (0xA0, { st := .draining })] } }

theorem test_meets_PowerRequestsAreRefused : (domainsCh.calibrated = true ∧ domainsCh.dead = false ∧ domainsCh.domain.st ≠ .off) ∧
    (domainsCh.lcoreOf 3).isSome = true ∧ domainsCh.lcoreOf 4 = none ∧
    (∀ n ∈ [136, 0x8F, 0x92, 0x9F, 0xA8, 0xFE], ¬ (n < 136 ∨ n = 0x90 ∨ n = 0x91 ∨ (0xA0 ≤ n ∧ n < 0xA8))) ∧
    (∀ n ∈ [0, 135, 0x90, 0x91, 0xA0, 0xA7], n < 136 ∨ n = 0x90 ∨ n = 0x91 ∨ (0xA0 ≤ n ∧ n < 0xA8)) := by decide +kernel

theorem test_meets_DomainsFollowTheirTable : (domainsCh.calibrated = true ∧ domainsCh.dead = false ∧ domainsCh.domain.st ≠ .off) ∧
    domainsCh.lcoreOf 135 = none ∧ ((domainsCh.domainOf 4).st = .draining ∧ ¬ (domainsCh.owl.active = true ∧ domainsCh.owl.pcore.toNat = 4)) ∧
    (domainsCh.domainOf 7).st ≠ .draining ∧ ((domainsCh.domainOf 0x90).st = .draining ∧ domainsCh.dma.xfers = []) ∧
    ((domainsCh.domainOf 0xA0).st = .draining ∧ ∀ l : LinkId, 0xA0 + l.val / 6 = 0xA0 → (domainsCh.link l.val).queue = []) ∧
    (domainsCh.domainOf 5).st = .waking ∧ (domainsCh.domainOf 6).st ≠ .waking ∧ 0x91 = 0x90 + (1 : Fin 2).val := by decide +kernel

/-- A module with QP 2 to the port die. -/
def ptdHost (ch : Channel) : State := { one ch with ptd := { up := true, qps := [{ num := 2, target := 2 }] } }

theorem test_meets_ChannelPowerAndReset : (ptdHost joinedCh).ptd.hostUp = true ∧ ((ptdHost joinedCh).ptd.qp? 2 = some { num := 2, target := 2 }) ∧
    (∀ st ∈ [PwrSt.off, .active, .idle, .draining, .waking], ({ joinedCh with domain := { st := st } } : Channel).domain.st = st) ∧
    ({ joinedCh with tripLock := true } : Channel).tripLock = true ∧ joinedCh.tripLock = false ∧
    (joinedCh.pss.stream = none ∧ joinedCh.pss.stopping = false) ∧ joinedCh.chn.state ≠ .reset ∧ joinedCh.chn.state ≠ .boot ∧
    ({ st := .draining, wakePending := true } : Domain).wakePending = true ∧ ({ st := .waking, offPending := true } : Domain).offPending = true := by decide +kernel

/-- A channel at the end of its boot. -/
def bootCh (y : Serial) : Channel := { joinedCh with chn := { joinedCh.chn with state := .boot }, ser := y, cfg := {} }

theorem test_meets_BootAndLeave : (fun ch : Channel => ch.chn.state = .boot ∧ ch.domain.st ≠ .off ∧ ch.sec.selftestFail = false ∧ ch.pendingBits 0 = 0 ∧
      ch.pendingBits 2 = 0 ∧ ch.ser.bootCause = .none) (bootCh {}) ∧
    joinedCh.chn.state ≠ .boot ∧
    (∀ e ∈ [(({ pufOk := false } : Serial), RecCause.puf), ({ image := { headerOk := false } }, .image), ({ regionOk := false }, .counter), ({ fwSvn := 1 }, .rollback),
      ({ repair := { signatureOk := false } }, .repair), ({ lc := { signatureOk := false } }, .lifecycle)], (bootCh e.1).ser.bootCause = e.2) ∧
    (runCh.calibrated = true ∧ runCh.dead = false ∧ runCh.domain.st ≠ .off ∧ runCh.chn.state = .running ∧ runCh.upd.inStep = false ∧ runCh.pss.phase ≠ .verifying) ∧
    (joinedCh.chn.state = .joined ∧ calCh.chn.state = .calibrate) := by decide +kernel

/-! #### Streams, health, security -/

theorem test_meets_StreamsLoadStartAndUnload :
    (fun ch : Channel => ch.calibrated = true ∧ ch.dead = false ∧ ch.domain.st ≠ .off) joinedCh ∧
    (joinedCh.chn.state = .joined ∧ joinedCh.pss.phase ≠ .verifying ∧ joinedCh.chn.state ≠ .loaded ∧ calCh.chn.state = .calibrate) ∧
    (fun ch : Channel => ch.chn.state = .loaded ∧ max ch.pss.startBeat.toNat (ch.beat.number.toNat + 2) = ch.pss.startBeat.toNat)
      { runCh with chn := { runCh.chn with state := .loaded }, pss := { startBeat := 2 } } ∧
    (fun ch : Channel => ch.pss.startBeat.toNat < max ch.pss.startBeat.toNat (ch.beat.number.toNat + 2)) { runCh with pss := { startBeat := 1 } } ∧
    hbmSize < (BitVec.ofNat 38 (hbmSize - 511)).toNat + (512 : BitVec 31).toNat ∧ (BitVec.ofNat 38 (hbmSize - 512)).toNat + (512 : BitVec 31).toNat ≤ hbmSize := by
  decide +kernel

/-- Sections of a small stream: type, role, entries and body. The role table gives channel 0 of module 5 role 0; BEAT_PLAN has P = 250 µs and one
template beat; WINDOW has the Squirrel-private area; CHECK has bits 0 to 3 set. -/
def streamSects : List (Nat × Nat × Nat × List Byte) := [
  (1, 0xFFFF, 1, [5, 0, 0, 0]), (1, 0, 128, List.replicate 512 0), (2, 0, 0, []), (3, 0, 0, []), (5, 0, 0, List.replicate 16 0),
  (6, 0, 0, [250, 0, 0, 0, 1, 0, 0, 0] ++ List.replicate 528 0), (7, 0, 1, [2] ++ List.replicate 17 0 ++ [1] ++ List.replicate 13 0), (8, 0, 0, []),
  (14, 0, 1, [0, 0, 0, 0, 15] ++ List.replicate 59 0)]

def round64 (n : Nat) : Nat := (n + 63) / 64 * 64

/-- Section table and sections, laid out from an offset on. -/
def layOut : Nat → List (Nat × Nat × Nat × List Byte) → List Byte × List Byte
  | _, [] => ([], [])
  | o, (k, r, n, b) :: l =>
    let len := 8 + b.length
    let q := layOut (o + round64 len) l
    (leBytes 2 k ++ [0, 0] ++ leBytes 8 o ++ leBytes 4 len ++ q.1, leBytes 2 r ++ [0, 0] ++ leBytes 4 n ++ b ++ List.replicate (round64 len - len) 0 ++ q.2)

/-- The bytes before and after the digest of an unsigned stream of these sections. -/
def streamHead : List Byte := leBytes 4 0x53534650 ++ [0, 1, 0, 0] ++ leBytes 8 2112 ++ [0x96, 0x20, 1, 3, 1, 0, 9, 0] ++ List.replicate 8 0
def streamTail : List Byte :=
  let q := layOut 448 streamSects
  List.replicate 16 0 ++ leBytes 8 256 ++ List.replicate 136 0 ++ q.1 ++ List.replicate 48 0 ++ q.2

/-- The stream with its own digest (R301). -/
def streamHash : U512 := sha3 (streamHead ++ List.replicate 64 0 ++ streamTail)
def streamFile : List Byte := streamHead ++ (leBytes 64 streamHash.toNat ++ streamTail)

theorem streamHead_length : streamHead.length = 32 := by decide +kernel
theorem streamFile_length : streamFile.length = 2112 := by decide +kernel
theorem streamFile_end : fileEnd streamFile = 2112 := by decide +kernel
theorem streamFile_header : headerFail 0 2112 (streamFile.take 256) = none := by decide +kernel

theorem streamFile_take : streamFile.take 0x20 = streamHead := by
  rw [streamFile]; exact List.take_left' streamHead_length

theorem streamFile_drop : streamFile.drop 0x60 = streamTail := by
  rw [streamFile, ← List.append_assoc]
  exact List.drop_left' (by simp [streamHead_length, leBytes_length])

theorem streamFile_digest : hdrDigest streamFile = streamHash := by
  have h : streamFile.drop 0x20 = leBytes 64 streamHash.toNat ++ streamTail := by rw [streamFile]; exact List.drop_left' streamHead_length
  have hm : streamHash.toNat % 256 ^ 64 = streamHash.toNat := Nat.mod_eq_of_lt (Nat.lt_of_lt_of_eq streamHash.isLt (by decide +kernel))
  rw [hdrDigest, rdv, rd, rdb, h, List.take_left' (leBytes_length 64 _), leNat_leBytes, hm, BitVec.ofNat_toNat, BitVec.setWidth_eq]

theorem streamFile_hash : fileDigest streamFile = hdrDigest streamFile := by
  rw [streamFile_digest, fileDigest, streamFile_end, streamFile_take, List.take_of_length_le (Nat.le_of_eq streamFile_length), streamFile_drop, streamHash]

/-- The joined channel that verifies this stream at HBM offset 0. -/
def verifyingCh : Channel :=
  ({ joinedCh with pss := { len := 2112, phase := .verifying } } : Channel).hbmWrite 0 streamFile

theorem verifyingCh_bytes : verifyingCh.hbmBytes 0 2112 = streamFile := by
  rw [verifyingCh, ← streamFile_length]; exact Channel.hbmBytes_hbmWrite _ _ _ rfl

theorem verifyingCh_header : verifyingCh.hbmBytes 0 256 = streamFile.take 256 := by
  rw [← verifyingCh_bytes, Channel.hbmBytes, Channel.hbmBytes, smGetAll, smGetAll, ← List.map_take, List.take_range]; rfl

/-- The stream reads whole from HBM, and passes every check. -/
theorem test_meets_StreamsLoadStartAndUnload_stream : (one verifyingCh).readStream 0 = (one verifyingCh, .inr streamFile) ∧
    (joinedCh.verifyContent 0 streamFile none).isRight = true ∧ (joinedCh.verifyContent 0 streamFile (some 1)).isRight = true := by
  refine ⟨?_, by decide +kernel, by decide +kernel⟩
  have h1 : (one verifyingCh).checkHbm 0 0 256 = (one verifyingCh, true) := rfl
  have h2 : (one verifyingCh).checkHbm 0 0 2112 = (one verifyingCh, true) := rfl
  have hl : verifyingCh.pss.len.toNat = 2112 := rfl
  have hs : verifyingCh.pss.src.toNat = 0 := rfl
  simp only [State.readStream, one_ch, hl, hs, h1, h2, verifyingCh_bytes, verifyingCh_header, streamFile_header, streamFile_hash]
  simp [hbmSize]

/-- The running channel in beat 20 with an Owl chunk at work on core 3, and incidents on cores 4 and 5, on a link and on a CXL port. -/
def healthCh : Channel := { offering [] with
  beat := { number := 20 }
  owl := { busy := true, pcore := 3 }
  bdg := { cores := [(3, { owlNext := 62 }), (5, { retest := true })]
           incidents := [{ unit := .core 4, opened := 4 }, { unit := .core 5, opened := 4 }, { unit := .link 7, opened := 4 }, { unit := .cxlPort 0, opened := 5 }] } }

theorem test_meets_OwlAndBadgerJudgeUnits : joinedCh.owl.busy = false ∧
    (healthCh.owl.busy = true ∧ (healthCh.health healthCh.owl.pcore.toNat).owlNext.toNat < 63 ∧ (healthCh.health 3).retest = false ∧ (healthCh.health 3).taint = []) ∧
    ({ owlNext := 63 } : CoreHealth).owlNext = 63 ∧
    (fun ch : Channel => ch.running = true ∧ ch.owl.en = true ∧ (ch.lcoreOf 0).isSome = true ∧
      max (ch.health 0).owlBeat.toNat ch.beat.tmplStart + ch.passBeats ≤ ch.beat.number.toNat) { offering [] with beat := { number := 345600000 } } ∧
    ¬ max (healthCh.health 0).owlBeat.toNat healthCh.beat.tmplStart + healthCh.passBeats ≤ healthCh.beat.number.toNat ∧
    (healthCh.bdg.intake < 256 ∧ (healthCh.pcoreOf (bits 0 6 0)).getD (bits 0 6 0) = 0 ∧ healthCh.fencedCore 0 = false ∧
      ∀ j ∈ healthCh.bdg.incidents, healthCh.takesIn j = true → incidentNames j (.core 0) (some 0) = false) ∧
    (fun ch : Channel => ch.bdg.intake < 256 ∧ ∃ j ∈ ch.bdg.incidents, ch.takesIn j = true ∧ incidentNames j (.core 0) (some 0) = true)
      { healthCh with bdg := { incidents := [{ unit := .core 0, opened := 10 }] } } ∧
    256 ≤ ({ intake := 256 } : Bdg).intake ∧
    (∀ j ∈ healthCh.bdg.incidents, j.closed = true ∨ j.unit ≠ .pchan 0) ∧
    (fun (i : Incident) => healthCh.bdg.incidents.find? (fun (j : Incident) => !j.closed && j.unit == .link 7) = some i ∧
      i.opened + healthCh.bdg.holdoff.toNat ≤ healthCh.beat.number.toNat) { unit := .link 7, opened := 4 } ∧
    (fun (i : Incident) => healthCh.bdg.incidents.find? (fun (j : Incident) => !j.closed && j.unit == .cxlPort 0) = some i ∧
      ¬ i.opened + healthCh.bdg.holdoff.toNat ≤ healthCh.beat.number.toNat) { unit := .cxlPort 0, opened := 5 } ∧
    (fun (i : Incident) => healthCh.bdg.incidents.find? (fun (j : Incident) => !j.closed && j.unit == .core 4) = some i ∧ i.pair = none ∧
      i.opened + healthCh.bdg.holdoff.toNat ≤ healthCh.beat.number.toNat ∧ (healthCh.health 4).fencePending = false ∧ (healthCh.health 4).retest = false ∧
      (healthCh.health 4).permanent = false) { unit := .core 4, opened := 4 } ∧
    (fun (i : Incident) => healthCh.bdg.incidents.find? (fun (j : Incident) => !j.closed && j.unit == .core 5) = some i ∧ (healthCh.health 5).retest = true)
      { unit := .core 5, opened := 4 } ∧
    (fun b : Bdg => b.k.toNat < 4) {} := by decide +kernel

/-- A token for OBSERVE over 60 s, for the identity and nonce 0, and one for INVASIVE. -/
def tokenFor (level : Byte) : SMap Byte := [(0, 0x50), (1, 0x46), (2, 0x44), (3, 0x54), (4, level), (5, 1), (8, 60)]

/-- The joined channel of which this level was requested, with this token in its buffer. -/
def askedCh (level : DebugLevel) (t : SMap Byte) : Channel := { joinedCh with
  sec := { keys := true, token := t, reqLevel := some level, nonce := some 0, reqInvasive := true, settings := { ownerDebug := some 1 } } }

/-- The checks of SUBMIT on a channel whose token's signature verifies or not. -/
def submitCause (ch : Channel) (sigOk : Bool) : Option Nat :=
  ch.sec.tokenCause sigOk (ch.chn.state == .recovery || ch.chn.state == .calibrate || (ch.chn.state == .joined && ch.pss.phase == .empty)) ch.unlockPower

theorem test_meets_DebugSessionsOpenAndClose : ({} : Channel).domain.st = .off ∧
    (joinedCh.calibrated = true ∧ joinedCh.dead = false ∧ joinedCh.domain.st ≠ .off ∧ joinedCh.sec.selftestFail = false ∧ joinedCh.sec.dbgLevel = .closed ∧
      joinedCh.sec.entropyFail = false) ∧ ((1 : U64).toNat % 4 = 1 ∧ (2 : U64).toNat % 4 = 2) ∧
    ({ dbgLevel := .observe } : Sec).dbgLevel ≠ .closed ∧ ({ dbgLevel := .invasive } : Sec).dbgLevel = .invasive ∧ ({ entropyFail := true } : Sec).entropyFail = true ∧
    submitCause joinedCh true = some 1 ∧ submitCause (askedCh .invasive (tokenFor 1)) true = some 2 ∧ submitCause (askedCh .observe (tokenFor 1)) false = some 6 ∧
    (submitCause (askedCh .observe (tokenFor 1)) true = none ∧ (askedCh .observe (tokenFor 1)).sec.tok 4 1 ≠ 2) := by decide +kernel

/-- The same for INVASIVE, which the vendor signs in FIELD. -/
theorem test_meets_DebugSessionsOpenAndClose_invasive :
    (fun ch : Channel => submitCause ch true = none ∧ ch.sec.tok 4 1 = 2) (askedCh .invasive [(0, 0x50), (1, 0x46), (2, 0x44), (3, 0x54), (4, 2), (8, 60)]) ∧
    (∀ l : LinkId, ((askedCh .invasive []).link l.val).queue = []) ∧ (ptdHost joinedCh).ptd.sec.dbgLevel = .closed := by decide +kernel

/-! #### Mailboxes and installations -/

/-- The joined channel with a request in mailbox m over QP 2. -/
def boxCh (m op : Nat) (body : List Byte) (ses : Session) : Channel := { joinedCh with
  sec := { keys := true, session := ses }
  mbx := { boxes := [(m, { hdr := { st := 2, opcode := BitVec.ofNat 16 op, len := BitVec.ofNat 16 body.length, iv := 0x500000001 }, qp := some 2
                           payload := body.zipIdx.map fun e => (e.2, e.1) })] } }

theorem test_meets_MailboxServicesAnswer :
    (joinedCh.box 0).hdr.st ≠ 2 ∧
    (fun ch : Channel => (ch.box 0).hdr.st = 2 ∧ (ch.box 0).hdr.fromChannel = false ∧ (ch.box 0).hdr.opcode.toNat = 1 ∧ ch.boxBound 0 = false ∧
      (ch.payload 0).length = 72 ∧ natAt (ch.payload 0) 64 8 + 5395 = hbmSize)
      (boxCh 0 1 (List.replicate 64 0 ++ leBytes 8 (hbmSize - 5395)) {}) ∧
    (fun ch : Channel => (ch.payload 0).length = 72 ∧ hbmSize < natAt (ch.payload 0) 64 8 + 5395) (boxCh 0 1 (List.replicate 64 0 ++ leBytes 8 (hbmSize - 5394)) {}) ∧
    (∀ i ∈ [6, 7], (fun ch : Channel => (ch.box 0).hdr.opcode.toNat = 2 ∧ ch.boxBound 0 = false ∧ (ch.payload 0).length = 65 ∧ natAt (ch.payload 0) 0 1 = i)
      (boxCh 0 2 (BitVec.ofNat 8 i :: List.replicate 64 1) {})) ∧
    ((boxCh 7 0x8000 [] {}).box 7).hdr.opcode.toNat = 0x8000 ∧
    (fun ch : Channel => (ch.box 8).hdr.opcode.toNat = 0x10 ∧ ch.boxBound 8 = false ∧ (ch.box 8).hdr.more = false ∧ (ch.box 8).nextFrag = none ∧
      (ch.box 8).object = [] ∧ ch.sec.session.stage ≠ 3 ∧ ch.sec.entropyFail = false ∧ ch.sec.dbgLevel ≠ .invasive ∧ ch.sec.keys = true ∧
      ch.helloKey true 0 = .refused ∧ ch.helloKey false 0xFF = .unclaimed) (boxCh 8 0x10 [] {}) ∧
    (fun ch : Channel => ch.helloKey true 0 = .vendor) { boxCh 8 0x10 [] {} with sec := { keys := true, lifecycle := .manufacture } } ∧
    (fun ch : Channel => ch.helloKey false 0 = .owner 4) { boxCh 8 0x10 [] {} with sec := { keys := true, settings := { ownerHost := [4] } } } ∧
    (fun ch : Channel => ch.boxBound 8 = false ∧ ch.sec.session.stage = 3) (boxCh 8 0x10 [] { stage := 3, qp := 3 }) ∧
    (∀ n ∈ [1, 2], (fun ch : Channel => ch.boxBound 8 = false ∧ ch.sec.session.stage = n ∧ (ch.box 8).qp = some ch.sec.session.qp)
      (boxCh 8 0x11 [] { stage := n, qp := 2 })) := by decide +kernel

/-- A whole firmware image of one byte of body. -/
def imageFile : List Byte :=
  [0x50, 0x46, 0x46, 0x57, 1, 0, 0, 0, 1, 0, 0, 0, 0, 0, 0, 0, 0x96, 0x20, 1] ++ List.replicate 13 0 ++ leBytes 64 (sha3 [7]).toNat ++
    List.replicate (0x2000 - 96) 0 ++ [7]

theorem test_meets_InstallsAreVerifiedFirst :
    (fun ch : Channel => (ch.box 8).hdr.st = 2 ∧ (ch.box 8).hdr.fromChannel = false ∧ (ch.box 8).hdr.opcode.toNat = 0x20 ∧ ch.boxBound 8 = true ∧
      (ch.box 8).hdr.iv.toNat % 2 ^ 32 = 1 ∧ ch.sec.session.ivIn < (ch.box 8).hdr.iv.toNat / 2 ^ 32 ∧ (ch.box 8).hdr.more = false ∧ (ch.box 8).nextFrag = none ∧
      (ch.box 8).object = [] ∧ ch.sec.session.unclaimed = false ∧ ch.chn.state ≠ .recovery) (boxCh 8 0x20 [] { stage := 3, qp := 2, ivIn := 4 }) ∧
    ({ unclaimed := true } : Session).unclaimed = true ∧ (imageOf [] true).headerOk = false ∧
    joinedCh.recordOk [] true = none ∧
    tlvsOf 2 [1] = none ∧ tlvsOf 9 [6, 0, 1, 0, 1, 0, 0, 0] = some [(6, [1])] ∧ tlvsOk [(6, [1])] = true ∧ tlvsOk [(6, [1, 1])] = false ∧
    joinedCh.maySet = true ∧ (settingsOf [(6, [1])]).ownerHost = [] ∧ joinedCh.ser.setSeq ≠ BitVec.allOnes 32 ∧
    joinedCh.ser.installing = .none ∧ ({ installing := .other } : Serial).installing ≠ .none := by decide +kernel

theorem test_meets_InstallsAreVerifiedFirst_image : (fun i : ImageSlot => i.headerOk = true ∧ joinedCh.ser.fwSvn.toNat ≤ i.svn.toNat) (imageOf imageFile true) := by
  decide +kernel

/-- A lifecycle record that returns the device: its bytes after the magic number are the state, SEQ 1 and the identity 0. -/
theorem test_meets_InstallsAreVerifiedFirst_record :
    (joinedCh.recordOk ([0x50, 0x46, 0x4C, 0x43, 2, 0, 0, 0, 1, 0, 0, 0, 0, 0, 0, 0] ++ List.replicate 4739 0) true).isSome = true := by decide +kernel

/-! #### The host port, power and clocks -/

theorem test_meets_QueuePairsConnectAndFail : (({ up := true, failed := true } : Ptd).hostUp = false ∧ hostPtd.hostUp = true ∧ (hostPtd.port 0).linkUp = true) ∧ ¬ (hostPtd.port 1).linkUp = true ∧
    4096 ≤ (List.replicate 4096 ({} : Qp)).length ∧ hostPtd.qps.length < 4096 ∧ 2 < 3 ∧ (one joinedCh).ch0.domain.st ≠ .off ∧ ({} : Channel).domain.st = .off ∧
    hostPtd.qp? 3 = none ∧ (hostPtd.qp? 2 = some { num := 2, target := 0, rkey := 9 }) ∧ (hostPtd.qps.map (·.num)).Nodup ∧
    (∀ m : Nat, m < 8 → ((boxCh 0 1 [] {}).box m).hdr.st = (if m = 0 then 2 else 0)) ∧
    (∀ e ∈ hostPtd.sec.settings.netPorts, e.1 ≠ 0) ∧ (∃ e ∈ ({ netPorts := [(3, [])] } : Settings).netPorts, e.1 = (3 : Fin 4).val) ∧
    1 < (hostPtd.port 0).rate := by
  refine ⟨by decide +kernel, by decide +kernel, Nat.le_of_eq List.length_replicate.symm, ?_⟩; decide +kernel

theorem test_meets_HostAccessesAndSideband : (hostPtd.hostUp = true ∧ ({ up := true, failed := true } : Ptd).hostUp = false) ∧ (∃ q ∈ hostPtd.qp? 2, q.error = false ∧ q.target = (0 : ChanId).val ∧ q.rkey = 9 ∧ q.secure = false) ∧ hostPtd.qp? 3 = none ∧
    (joinedCh.chn.state ≠ .reset ∧ joinedCh.domain.st = .active ∧ joinedCh.dead = false ∧ joinedCh.mem.hbmPoison = [] ∧ joinedCh.mem.hbmErr = []) ∧
    (badgerArea - 1 + 1 ≤ badgerArea ∧ joinedCh.touchesSpa (badgerArea - 1) 1 = false) ∧ ¬ badgerArea + 1 ≤ badgerArea ∧ hbmSize - 1 + 1 ≤ hbmSize ∧
    (kvCh [] [] [] []).touchesSpa 0x1000000 1 = true ∧ (10 : U32) ≠ 9 ∧ ({ secure := true } : Qp).bound = false ∧ ({} : Ptd).up = false ∧
    (fun p : Ptd => p.up = true ∧ p.i3cAddr.isSome = true ∧ p.slotTaken = false) { up := true, i3cAddr := some 5 } := by decide +kernel

theorem test_meets_SupplyFollowsItsInput : (one joinedCh).sup.outputOn = true ∧ State.reset.sup.outputOn = false ∧
    (State.reset.sup.inRange = true ∧ State.reset.sup.lockout = false) ∧ ({ inRange := false } : Supply).inRange = false ∧ ({ lockout := true } : Supply).lockout = true ∧
    (fun x : Supply => x.below = true ∧ x.outputOn = true ∧ x.holdupUs < 1000) { below := true, outputOn := true, holdupUs := 999 } ∧
    (fun x : Supply => x.outputOn = false ∧ x.inRange = true ∧ x.pwrEn = true ∧ x.lockout = false ∧ x.converterOk = true) { pwrEn := true } := by decide +kernel

theorem test_meets_TemperatureAndClocksStopChannels : (({} : Channel).domain.st = .off ∧ joinedCh.domain.st ≠ .off ∧ joinedCh.chn.state ≠ .reset) ∧
    (decide (220 ≤ (220 : U16).toInt) || decide (210 ≤ (0 : U16).toInt)) = true ∧ (decide (220 ≤ (219 : U16).toInt) || decide (210 ≤ (209 : U16).toInt)) = false := by
  decide +kernel

/-! #### The machine as a whole -/

theorem test_meets_StepRunsTheFrontCommand : ({ one joinedCh with pending := [.powerUp] } : State).pending = .powerUp :: [] ∧ (one joinedCh).pending = [] ∧
    (joinedCh.domain.st ≠ .off ∧ joinedCh.chn.state ≠ .reset ∧ joinedCh.refclkOk = true) ∧ ¬ ({} : Channel).domain.st ≠ .off := by decide +kernel

theorem test_meets_CommandsLeaveQueueAndSupply : ∃ t : State, exec .i3cAlertRead (one joinedCh) = .next t := ⟨_, rfl⟩

theorem test_meets_StepsKeepSupplySafe : State.reset.sup.safe = true ∧ ∃ t : State, step { State.reset with pending := [.powerUp] } = .next t ∧ t.sup.outputOn = true := by
  refine ⟨rfl, ?_⟩; exact ⟨_, rfl, rfl⟩

end Sys2Proof.Tests
end

section
/-! PROOFS. An access to a register, origin by origin: what lets it through, what refuses it, and what a refused one leaves unchanged (R8, R19,
R21, R28, R252, R369, R375). -/

namespace Sys2Proof.Machine

/-! ### The commands of an access -/

theorem exec_csrWrite (t : Fin 3) (o : Origin) (off len : Nat) (v : U64) (s : State) : exec (.csrWrite t o off len v) s =
    .next (s.regDo t o off len (some (leBytes len v.toNat)) (regRun t o off len (some (leBytes len v.toNat)))) := rfl

theorem exec_rcRead (t : Fin 3) (o : Origin) (off len : Nat) (s : State) :
    exec (.rcRead t o off len) s = .next (s.regDo t o off len none (regRun t o off len none)) := rfl

/-! ### The code of an access to one word -/

/-- Where an aligned access of at most a word touches no other word, its code rests on that word's register and on the length. -/
theorem csrCode_aligned {off n : Nat} (ha : off % 8 = 0) (h0 : 0 < n) (hn : n ≤ 8) :
    csrCode off n = if (regAt off).isSome then (if n = 8 then .ok else .alignErr) else .addrErr := by
  have hfirst : off / 8 * 8 = off := by omega
  have hwords : (off + n + 7) / 8 - off / 8 = 1 := by omega
  by_cases hr : (regAt off).isSome <;> simp [csrCode, hfirst, hwords, hr, ha, h0.ne']

/-! ### The access itself -/

theorem regRun_write (s : State) (c : ChanId) (o : Origin) (w : Writer) (off n : Nat) (b : List Byte) :
    regRun (unitOf c) o off n (some b) s w = ((s.csrWrite c o w off b).1, (s.csrWrite c o w off b).2, []) := by
  simp [regRun, islandChan_unitOf]

theorem regRun_read (s : State) (c : ChanId) (o : Origin) (w : Writer) (off n : Nat) :
    regRun (unitOf c) o off n none s w = s.csrRead c off n := by
  simp [regRun, islandChan_unitOf]

/-- A read of a register takes a free value, clears what the register clears on a read, and returns its eight bytes. -/
theorem State.csrRead_register (s : State) (c : ChanId) {off n : Nat} {r : Reg} (hm : inMailbox off n = false)
    (hc : csrCode off n = .ok) (hr : regAt off = some r) :
    s.csrRead c off n = ((s.onCh c r.clear).tookFree 1, .ok, leBytes 8 (r.read s c)) := by
  simp [State.csrRead, hm, hc, hr]

theorem State.csrRead_refused (s : State) (c : ChanId) {off n : Nat} {code : CompCode} (hm : inMailbox off n = false)
    (hc : csrCode off n = code) (hne : code ≠ .ok) : s.csrRead c off n = (s, code, []) := by
  unfold State.csrRead
  rw [hm, hc]
  cases code <;> simp at hne ⊢

theorem State.csrWrite_refused (s : State) (c : ChanId) (o : Origin) {w : Writer} {off : Nat} {b : List Byte} {code : CompCode}
    (hm : inMailbox off b.length = false) (hw : w ≠ .warren) (hc : csrCode off b.length = code) (hne : code ≠ .ok) :
    s.csrWrite c o w off b = (s, code) := by
  unfold State.csrWrite
  rw [hm, hc]
  cases code <;> simp [hw] at hne ⊢

/-- R375: no write that comes over the Warren reaches the SEC block. -/
theorem State.csrWrite_warren_sec (s : State) (c : ChanId) (o : Origin) {off : Nat} {b : List Byte} (hm : inMailbox off b.length = false)
    (hs : off / 0x10000 = 0x0F) : s.csrWrite c o .warren off b = (s, .addrErr) := by
  simp [State.csrWrite, hm, hs]

/-- A refused access is told to its origin, and nothing else happens. -/
theorem State.regAnswer_refused (s : State) (t : Fin 3) (write : Bool) {code : CompCode} (data : List Byte) (h : code ≠ .ok) :
    s.regAnswer t write code data = s.emit (.csrStatus t code) := by
  simp [State.regAnswer, h]

/-- A word that is read comes back whole. -/
theorem State.regAnswer_word (s : State) (t : Fin 3) (v : Nat) :
    s.regAnswer t false .ok (leBytes 8 v) = s.emit (.csrData t (BitVec.ofNat 64 v)) := by
  have hword : BitVec.ofNat 64 (leNat (leBytes 8 v)) = BitVec.ofNat 64 v := by
    rw [leNat_leBytes]
    apply BitVec.eq_of_toNat_eq
    simp
  simp [State.regAnswer, hword]

/-! ### Firmware -/

/-- Firmware that runs makes every access (R28). -/
theorem State.regDo_firmware (s : State) (c : ChanId) (off n : Nat) (wr : Option (List Byte)) (run : AccessRun) (h : fwReady s c) :
    s.regDo (unitOf c) .firmware off n wr run =
      (run s .firmware).1.regAnswer (unitOf c) wr.isSome (run s .firmware).2.1 (run s .firmware).2.2 := by
  obtain ⟨hcal, hdead, hon⟩ := h
  simp [State.regDo, islandChan_unitOf, hcal, hdead, hon]

/-- Firmware that does not run makes none. -/
theorem State.regDo_firmware_stopped (s : State) (c : ChanId) (off n : Nat) (wr : Option (List Byte)) (run : AccessRun) (h : ¬ fwReady s c) :
    s.regDo (unitOf c) .firmware off n wr run = s := by
  have hstop : ¬ ((s.ch c).calibrated = true ∧ (!(s.ch c).dead) = true ∧ (s.ch c).domain.st ≠ .off) := by simpa [fwReady] using h
  simp only [State.regDo, islandChan_unitOf]
  exact if_neg hstop

theorem exec_rcRead_firmware (s : State) (c : ChanId) {off : Nat} {r : Reg} (h : fwReady s c) (hm : inMailbox off 8 = false)
    (hc : csrCode off 8 = .ok) (hr : regAt off = some r) :
    exec (.rcRead (unitOf c) .firmware off 8) s =
      .next (((s.onCh c r.clear).tookFree 1).emit (.csrData (unitOf c) (BitVec.ofNat 64 (r.read s c)))) := by
  rw [exec_rcRead, State.regDo_firmware _ _ _ _ _ _ h, regRun_read, State.csrRead_register s c hm hc hr]
  exact congrArg _ (State.regAnswer_word _ _ _)

theorem exec_csrWrite_firmware (s : State) (c : ChanId) {off : Nat} (v : U64) {r : Reg} (h : fwReady s c) (hm : inMailbox off 8 = false)
    (hc : csrCode off 8 = .ok) (hr : regAt off = some r) :
    regWrites (.csrWrite (unitOf c) .firmware off 8 v) c s (r.write s c .firmware v) :=
  congrArg _ (State.writeReg_firmware s c off v r h hm hc hr)

/-- An access of firmware with a code other than OK is told that code and changes nothing. -/
theorem exec_firmware_refused (s : State) (c : ChanId) {off n : Nat} (v : U64) {code : CompCode} (h : fwReady s c)
    (hm : inMailbox off n = false) (hc : csrCode off n = code) (hne : code ≠ .ok) :
    exec (.csrWrite (unitOf c) .firmware off n v) s = .next (s.emit (.csrStatus (unitOf c) code)) ∧
      exec (.rcRead (unitOf c) .firmware off n) s = .next (s.emit (.csrStatus (unitOf c) code)) := by
  constructor
  · rw [exec_csrWrite, State.regDo_firmware _ _ _ _ _ _ h, regRun_write,
      State.csrWrite_refused s c _ (by rwa [leBytes_length]) (by decide) (by rwa [leBytes_length]) hne, State.regAnswer_refused _ _ _ _ hne]
  · rw [exec_rcRead, State.regDo_firmware _ _ _ _ _ _ h, regRun_read, State.csrRead_refused s c hm hc hne,
      State.regAnswer_refused _ _ _ _ hne]

/-! ### JTAG -/

theorem State.sec_unitOf (s : State) (c : ChanId) : s.sec (unitOf c) = (s.ch c).sec := by
  obtain rfl | rfl := ChanId.cases c <;> rfl

/-- An access over JTAG outside the SEC block that the debug level does not allow is ADDR_ERR (R369). -/
theorem State.regDo_jtag_refused (s : State) (c : ChanId) (off n : Nat) (wr : Option (List Byte)) (run : AccessRun)
    (hreach : s.jtagReaches (unitOf c) = true) (hon : (s.ch c).domain.st ≠ .off)
    (hsec : off / 0x10000 ≠ 0x0F) (hlevel : (s.ch c).sec.jtagAllows false wr.isSome = false) :
    s.regDo (unitOf c) .jtag off n wr run = s.emit (.csrStatus (unitOf c) .addrErr) := by
  have hblock : (off / 0x10000 == 0x0F) = false := beq_false_of_ne hsec
  simp only [State.regDo, islandChan_unitOf, s.sec_unitOf, hblock, hlevel]
  simp [hreach, hon, State.regAnswer]

/-- At level CLOSED only the SEC block is open to JTAG. -/
theorem Sec.jtagAllows_closed (x : Sec) (write : Bool) (h : x.dbgLevel = .closed) : x.jtagAllows false write = false := by
  simp [Sec.jtagAllows, h]

/-- At level OBSERVE nothing else is open to a write. -/
theorem Sec.jtagAllows_observe_write (x : Sec) (h : x.dbgLevel = .observe) : x.jtagAllows false true = false := by
  simp [Sec.jtagAllows, h]

/-- The port die stands first in the chain: with it lost no unit is reached (R21). -/
theorem State.jtagReaches_of_failed (s : State) (u : Fin 3) (h : s.ptd.failed = true) : s.jtagReaches u = false := by
  have hbroken : s.jtagBroken 2 = true := by simp [State.jtagBroken, h]
  match u with
  | 0 => simp [State.jtagReaches, jtagChain, hbroken]
  | 1 => simp [State.jtagReaches, jtagChain, hbroken]
  | 2 => simp [State.jtagReaches, jtagChain, hbroken]

theorem State.regDo_jtag_unreached (s : State) (u : Fin 3) (off n : Nat) (wr : Option (List Byte)) (run : AccessRun)
    (h : s.jtagReaches u = false) : s.regDo u .jtag off n wr run = s := by
  unfold State.regDo
  cases islandChan u <;> simp [h]

/-! ### The host -/

/-- Without the host port no access of the host arrives (R21). -/
theorem State.regDo_host_down (s : State) (u : Fin 3) (qp off n : Nat) (wr : Option (List Byte)) (run : AccessRun)
    (h : s.ptd.hostUp = false) : s.regDo u (.host qp) off n wr run = s := by
  have hdo (k : Bool) (a : Nat) : s.hostDo qp k a n wr run = s := by simp [State.hostDo, h]
  unfold State.regDo
  cases islandChan u <;> simp only [hdo, ite_self] <;> split <;> rfl

/-! ### The Warren -/

/-- An access that the windows grant and the registers refuse with ADDR_ERR counts in REFUSED, is told ADDR_ERR, and changes nothing else (R28). -/
theorem State.regDo_warren_addrErr (s : State) (c : ChanId) (l : LinkId) (off n : Nat) (wr : Option (List Byte)) (run : AccessRun)
    (hcode : (s.ch c).linkCode l wr.isSome off n = .ok) (hrun : run s .warren = (s, .addrErr, [])) :
    s.regDo (unitOf c) (.warren l) off n wr run = (s.onCh c Channel.refusedOne).emit (.csrStatus (unitOf c) .addrErr) := by
  simp [State.regDo, islandChan_unitOf, hcode, hrun, State.regAnswer, Channel.countRefused, Origin.remote]

theorem exec_csrWrite_warren_sec (s : State) (c : ChanId) (l : LinkId) {off : Nat} (v : U64) (hcode : (s.ch c).linkCode l true off 8 = .ok)
    (hm : inMailbox off 8 = false) (hs : off / 0x10000 = 0x0F) :
    exec (.csrWrite (unitOf c) (.warren l) off 8 v) s =
      .next ((s.onCh c Channel.refusedOne).emit (.csrStatus (unitOf c) .addrErr)) := by
  have hrun : regRun (unitOf c) (.warren l) off 8 (some (leBytes 8 v.toNat)) s .warren = (s, .addrErr, []) := by
    rw [regRun_write, State.csrWrite_warren_sec s c _ (by rwa [leBytes_length]) hs]
  rw [exec_csrWrite, State.regDo_warren_addrErr s c l off 8 (some _) _ hcode hrun]

/-! ### The obligation -/

/-- Settles O22: each origin by its own rule of access; the code of a word's access says what the registers do with it. -/
theorem registerAccessByOrigin : Obligations.RegisterAccessByOrigin := by
  unfold Obligations.RegisterAccessByOrigin
  intro c l off len v s r
  dsimp only
  refine ⟨fun h => ⟨?_, ?_⟩, fun h hm ha hr => ?_, fun h hm ha hr => ?_, fun h hm ha hr => ?_, fun hreach hon hlvl hsec => ⟨?_, ?_⟩,
    fun hreach hon hlvl hsec => ?_, fun h n => ⟨?_, ?_⟩, fun h n qp => ⟨?_, ?_⟩, fun hcode hm hs => ?_⟩
  · rw [exec_csrWrite, State.regDo_firmware_stopped _ _ _ _ _ _ h]
  · rw [exec_rcRead, State.regDo_firmware_stopped _ _ _ _ _ _ h]
  · have hc : csrCode off 8 = .ok := by simp [csrCode_aligned ha, hr]
    exact ⟨exec_csrWrite_firmware s c v h hm hc hr, exec_rcRead_firmware s c h hm hc hr⟩
  · exact exec_firmware_refused s c v h hm (by simp [csrCode_aligned ha, hr]) (by decide)
  · exact exec_firmware_refused s c v h hm (by simp [csrCode_aligned ha, hr]) (by decide)
  · rw [exec_csrWrite, s.regDo_jtag_refused c off len (some _) _ hreach hon hsec (Sec.jtagAllows_closed _ true hlvl)]
  · rw [exec_rcRead, s.regDo_jtag_refused c off len none _ hreach hon hsec (Sec.jtagAllows_closed _ false hlvl)]
  · rw [exec_csrWrite, s.regDo_jtag_refused c off len (some _) _ hreach hon hsec (Sec.jtagAllows_observe_write _ hlvl)]
  · rw [exec_csrWrite, State.regDo_jtag_unreached _ _ _ _ _ _ (s.jtagReaches_of_failed n h)]
  · rw [exec_rcRead, State.regDo_jtag_unreached _ _ _ _ _ _ (s.jtagReaches_of_failed n h)]
  · rw [exec_csrWrite, State.regDo_host_down _ _ _ _ _ _ _ h]
  · rw [exec_rcRead, State.regDo_host_down _ _ _ _ _ _ _ h]
  · refine ⟨_, exec_csrWrite_warren_sec s c l v hcode hm hs, ?_, rfl⟩
    rw [State.emit_out, State.onCh_out]

end Sys2Proof.Machine
end

section
/-! PROOFS. The controls of the beat and of a link (R8, R52, R247). -/

namespace Sys2Proof.Machine

/-! ### The registers -/

/-- BEAT_STAT, the register of the beat's counts (Table 02-10). -/
theorem regAt_beatStat : ∃ r, regAt 0x010028 = some r ∧
    (∀ s c, r.read s c = (s.ch c).beat.creditStall.toNat * 2 ^ 48 + (s.ch c).beat.defer.toNat * 2 ^ 32 + (s.ch c).beat.overrun.toNat * 2 ^ 16
      + b2n (s.ch c).beat.paused) ∧
    r.clear = fun ch => { ch with beat := { ch.beat with creditStall := 0, defer := 0, overrun := 0 } } :=
  ⟨_, rfl, fun _ _ => rfl, rfl⟩

/-- BEAT_CTRL: a write sets its fields, and RESUME stays asked for until a boundary takes it. -/
theorem regAt_beatCtrl : ∃ r, regAt 0x010000 = some r ∧ ∀ s c w v, r.write s c w v = s.setCh c { s.ch c with
    beat := { (s.ch c).beat with
      ovrLimit := BitVec.ofNat 8 (bits v 31 24), urgentPct := BitVec.ofNat 8 (bits v 23 16), beatrefEn := bit v 1
      resume := (s.ch c).beat.resume || bit v 0 } } :=
  ⟨_, rfl, fun _ _ _ _ => rfl⟩

theorem exec_beatResume (c : ChanId) (o : Origin) (v : U64) (s : State) :
    exec (.beatResume c o v) s = .next (s.writeReg (unitOf c) o 0x010000 v) := rfl

theorem exec_wrnLinkRestart (c : ChanId) (o : Origin) (link : LinkId) (s : State) : exec (.wrnLinkRestart c o link) s =
    .next (s.regDo (unitOf c) o 0x070040 8 (some (leBytes 8 (2 ^ 32))) fun t _ => (t.restartLink c link, .ok, [])) := rfl

theorem exec_wrnLinkRestart_firmware (s : State) (c : ChanId) (link : LinkId) (h : fwReady s c) :
    regWrites (.wrnLinkRestart c .firmware link) c s (s.restartLink c link) := by
  rw [regWrites, exec_wrnLinkRestart, State.regDo_firmware _ _ _ _ _ _ h]
  simp [State.regAnswer]

/-! ### Training of a link -/

theorem State.restartLink_failed (s : State) (c : ChanId) (l : LinkId) (h : ((s.ch c).link l.val).st = .failed) :
    s.restartLink c l = s.trainLink c l := if_pos h

theorem State.restartLink_other (s : State) (c : ChanId) (l : LinkId) (h : ((s.ch c).link l.val).st ≠ .failed) :
    s.restartLink c l = s := if_neg h

theorem Channel.link_setLinkSt (ch : Channel) (l : LinkId) (st : LinkSt) :
    (ch.setLinkSt l st).link l.val = { ch.link l.val with st := st } := by
  simp [Channel.link, Channel.setLinkSt, Channel.onLink]

theorem Channel.link_setLinkSt_other (ch : Channel) {l : LinkId} (st : LinkSt) {k : Nat} (h : k ≠ l.val) :
    (ch.setLinkSt l st).link k = ch.link k := by
  simp [Channel.link, Channel.setLinkSt, Channel.onLink, smGet_smMod_other _ _ _ h]

theorem State.trainLink_ch (s : State) (c : ChanId) (l : LinkId) : (s.trainLink c l).ch c = (s.ch c).setLinkSt l .training :=
  s.ch_onCh c _

theorem State.trainLink_out (s : State) (c : ChanId) (l : LinkId) :
    (s.trainLink c l).out = s.out ++ [.training c l (s.ch c).wrn.slot] := by
  rw [State.trainLink, State.emit_out, State.onCh_out]

/-- Training changes its link, sends one frame, and changes nothing else. -/
theorem State.trainLink_onlyLink (s : State) (c : ChanId) (l : LinkId) :
    onlyLink c l { s with out := (s.trainLink c l).out } (s.trainLink c l) := by
  constructor
  · intro k hk
    rw [State.trainLink_ch]
    exact Channel.link_setLinkSt_other _ _ hk
  · rw [State.trainLink_ch]
    obtain rfl | rfl := ChanId.cases c <;> rfl

/-! ### The obligation -/

/-- Settles O23: a read of BEAT_STAT, a write of BEAT_CTRL, and RESTART of a link in FAILED or in another state. -/
theorem beatAndLinkControls : Obligations.BeatAndLinkControls := by
  unfold Obligations.BeatAndLinkControls
  intro c link v s ch u hfw
  refine ⟨?_, ?_, fun hst => ⟨s.trainLink c link, ?_, ?_, s.trainLink_out c link, s.trainLink_onlyLink c link⟩, fun hst => ?_⟩
  · obtain ⟨r, hr, hread, hclear⟩ := regAt_beatStat
    rw [exec_rcRead_firmware s c hfw (by decide) (by simp [csrCode_aligned, hr]) hr, hread, hclear]
    simp [State.tookFree, State.onCh, ch, u]
  · obtain ⟨r, hr, hwrite⟩ := regAt_beatCtrl
    rw [regWrites, exec_beatResume,
      State.writeReg_firmware s c _ v r hfw (by decide) (by simp [csrCode_aligned, hr]) hr, hwrite]
  · rw [← s.restartLink_failed c link hst]
    exact exec_wrnLinkRestart_firmware s c link hfw
  · rw [State.trainLink_ch]
    exact Channel.link_setLinkSt ..
  · have hrun := exec_wrnLinkRestart_firmware s c link hfw
    rwa [s.restartLink_other c link hst] at hrun

end Sys2Proof.Machine
end

section
/-! PROOFS. One step of the module (R10, R33, log entry 7). -/

namespace Sys2Proof.Machine

theorem step_cons {i : Instr} {l : List Instr} {s : State} (h : s.pending = i :: l) : step s = exec i { s with pending := l } := by
  simp [step, h]

theorem step_nil {s : State} (h : s.pending = []) : step s = .next s.tick := by simp [step, h]

theorem Channel.clocked_iff (ch : Channel) :
    ch.clocked = true ↔ ch.domain.st ≠ .off ∧ ch.chn.state ≠ .reset ∧ ch.refclkOk = true := by
  simp [Channel.clocked, and_assoc]

/-- Settles O57: by the queue's two shapes, and a tick by whether the channel's clocks run. -/
theorem stepRunsTheFrontCommand : Obligations.StepRunsTheFrontCommand := by
  unfold Obligations.StepRunsTheFrontCommand
  refine ⟨fun _ _ _ h => step_cons h, fun _ h => step_nil h, fun ch h => ?_, fun ch h => ?_⟩
  · exact if_pos (ch.clocked_iff.mpr h)
  · exact if_neg (mt ch.clocked_iff.mp h)

end Sys2Proof.Machine
end


section
/-! PROOFS. The module right after reset (R28, R395, R404). -/

namespace Sys2Proof.Machine

/-- Both channels have the same values after reset. -/
theorem reset_ch (c : ChanId) : State.reset.ch c = {} := by
  obtain rfl | rfl := ChanId.cases c <;> rfl

/-- Settles O60: the supply and the port die by their reset values, each channel as the channel at its Reset values. -/
theorem resetIsDarkAndEmpty : Obligations.ResetIsDarkAndEmpty := by
  unfold Obligations.ResetIsDarkAndEmpty
  refine ⟨rfl, rfl, rfl, rfl, reset_memWf, rfl, rfl, fun c => ?_⟩
  rw [reset_ch]
  exact ⟨rfl, rfl, rfl, rfl, rfl, rfl, rfl, rfl, rfl, rfl, rfl, rfl⟩

end Sys2Proof.Machine
end

section
/-! PROOFS. What a target does with a remote operation before its data is met (R28, R247, R252, R256). -/

namespace Sys2Proof.Machine

/-! ### The six operations by their number -/

theorem Packet.asOp_self {p : Packet} {n : Nat} (h : p.op.toNat = n) : p.asOp n = p := if_pos h

/-- The command that the packet's operation names takes `s` to `t`. -/
def opSteps (c : ChanId) (o : Origin) (p : Packet) (use : CounterUse) (s t : State) : Prop :=
  (p.op.toNat = 1 → exec (.get c o p) s = .next t) ∧ (p.op.toNat = 2 → exec (.put c o p) s = .next t) ∧
  (p.op.toNat = 3 → exec (.putAdd c o p) s = .next t) ∧ (p.op.toNat = 4 → exec (.cas c o p) s = .next t) ∧
  (p.op.toNat = 5 → exec (.fetchAdd64 c o p) s = .next t) ∧ (p.op.toNat = 6 → exec (.signal c o p use) s = .next t)

/-- What every effect at the target leaves undone is what each of the six commands leaves undone. -/
theorem opSteps.of_atTarget {c : ChanId} {o : Origin} {p : Packet} {s t : State} (use : CounterUse)
    (h : ∀ f, s.atTarget c o p f = t) : opSteps c o p use s t := by
  refine ⟨fun hp => ?_, fun hp => ?_, fun hp => ?_, fun hp => ?_, fun hp => ?_, fun hp => ?_⟩
  · rw [show exec (.get c o p) s = execGet c o p s from rfl, execGet, Packet.asOp_self hp, h]
  · rw [show exec (.put c o p) s = execPut c o p s from rfl, execPut, Packet.asOp_self hp, h]
  · rw [show exec (.putAdd c o p) s = execPutAdd c o p s from rfl, execPutAdd, Packet.asOp_self hp, h]
  · rw [show exec (.cas c o p) s = execCas c o p s from rfl, execCas, Packet.asOp_self hp, h]
  · rw [show exec (.fetchAdd64 c o p) s = execFetchAdd64 c o p s from rfl, execFetchAdd64, Packet.asOp_self hp, h]
  · rw [show exec (.signal c o p use) s = execSignal c o p use s from rfl, execSignal, Packet.asOp_self hp, h]

/-! ### Before the checks -/

section
variable {s : State} {c : ChanId} {o : Origin} {p : Packet}

theorem State.atTarget_unheard (hh : (s.ch c).hears o = false) (f) : s.atTarget c o p f = s := by
  simp [State.atTarget, hh]

theorem State.atTarget_early (ho : o.sendsOps = true) (hh : (s.ch c).hears o = true) (hr : o.remote = true)
    (hj : (s.ch c).joined = false) (f) : s.atTarget c o p f = s.refuseEarly c o p := by
  simp [State.atTarget, ho, hh, hr, hj]

theorem State.atTarget_transit (ho : o.sendsOps = true) (hh : (s.ch c).hears o = true) (hr : o.remote = true)
    (hj : (s.ch c).joined = true) (hown : (s.ch c).isOwn c p.addr.toNat = false) (f) : s.atTarget c o p f = s.forward c p := by
  simp [State.atTarget, ho, hh, hr, hj, hown]

/-- A request that the checks turn away is answered with their code. -/
theorem State.atTarget_refused {code : CompCode} (ho : o.sendsOps = true) (hh : (s.ch c).hears o = true)
    (hj : o.remote = true → (s.ch c).joined = true) (hown : (s.ch c).isOwn c p.addr.toNat = true)
    (hcode : ((s.ch c).reach o p).1 = code) (hne : code ≠ .ok) (f) : s.atTarget c o p f = s.respondTo c o p code [] := by
  have hearly : (o.remote && !(s.ch c).joined) = false := by
    cases hr : o.remote
    · rfl
    · simp [hj hr]
  subst hcode
  simp [State.atTarget, ho, hh, hearly, hown, hne]

end

/-! ### The checks, lowest code first (R256) -/

section
variable {ch : Channel} {o : Origin} {p : Packet}

theorem Channel.reach_gone (hr : o.remote = true) (hw : ch.pss.withdrawn = true) : (ch.reach o p).1 = .gone := by
  simp [Channel.reach, hr, hw]

theorem Channel.served_iff : (o.remote && ch.pss.withdrawn) = false ↔ (o.remote = true → ch.pss.withdrawn = false) := by simp

variable (hw : o.remote = true → ch.pss.withdrawn = false)
include hw

theorem Channel.reach_malformed (hb : p.opBad = true) : (ch.reach o p).1 = .opErr := by
  simp [Channel.reach, Channel.served_iff.mpr hw, hb]

variable (hb : p.opBad = false)
include hb

theorem Channel.reach_unoccupied (hpl : placeOf (gaOffset p.addr.toNat) p.span = none) : (ch.reach o p).1 = .addrErr := by
  simp [Channel.reach, Channel.served_iff.mpr hw, hb, hpl]

variable {pl : Place} (hpl : placeOf (gaOffset p.addr.toNat) p.span = some pl)
include hpl

theorem Channel.reach_forbidden (h : ch.placeBad p.op.toNat pl p.span = true ∨
    (o.remote = true ∧ ch.windowAllows p.srcModule p.op.toNat (gaOffset p.addr.toNat) p.span = false)) : (ch.reach o p).1 = .addrErr := by
  have hcheck : (ch.placeBad p.op.toNat pl p.span ||
      (o.remote && !ch.windowAllows p.srcModule p.op.toNat (gaOffset p.addr.toNat) p.span)) = true := by simpa using h
  simp [Channel.reach, Channel.served_iff.mpr hw, hb, hpl, hcheck]

theorem Channel.reach_misaligned (hok : ch.placeBad p.op.toNat pl p.span = false)
    (hwin : o.remote = true → ch.windowAllows p.srcModule p.op.toNat (gaOffset p.addr.toNat) p.span = true)
    (hm : p.misaligned = true) : (ch.reach o p).1 = .alignErr := by
  have hcheck : (ch.placeBad p.op.toNat pl p.span ||
      (o.remote && !ch.windowAllows p.srcModule p.op.toNat (gaOffset p.addr.toNat) p.span)) = false := by simpa [hok] using hwin
  simp [Channel.reach, Channel.served_iff.mpr hw, hb, hpl, hcheck, hm]

end

/-! ### The obligation -/

/-- Settles O13: what the target comes to for any effect, by the checks in their order; the six commands differ in their effect only. -/
theorem remoteOpsRefuseByLowestCode : Obligations.RemoteOpsRefuseByLowestCode := by
  unfold Obligations.RemoteOpsRefuseByLowestCode
  intro c o p use s ch off six ho
  refine ⟨fun hh => ?_, fun hh hr hj => ?_, fun hh hr hj hown => ?_, fun hh hj hown => ⟨fun hr hwd => ?_, fun hw => ?_⟩⟩
  · exact opSteps.of_atTarget use (State.atTarget_unheard hh)
  · exact opSteps.of_atTarget use (State.atTarget_early ho hh hr hj)
  · exact opSteps.of_atTarget use (State.atTarget_transit ho hh hr hj hown)
  · exact opSteps.of_atTarget use (State.atTarget_refused ho hh hj hown (Channel.reach_gone hr hwd) (by decide))
  have refuses {code : CompCode} (hcode : (ch.reach o p).1 = code) (hne : code ≠ .ok) : six p.op.toNat (s.respondTo c o p code []) :=
    opSteps.of_atTarget use (State.atTarget_refused ho hh hj hown hcode hne)
  refine ⟨fun hb => ?_, fun hb hpl => ?_, fun pl hb hpl => ⟨fun hbad => ?_, fun hok hwin hm => ?_⟩⟩
  · exact refuses (Channel.reach_malformed hw hb) (by decide)
  · exact refuses (Channel.reach_unoccupied hw hb hpl) (by decide)
  · exact refuses (Channel.reach_forbidden hw hb hpl hbad) (by decide)
  · exact refuses (Channel.reach_misaligned hw hb hpl hok hwin hm) (by decide)

end Sys2Proof.Machine
end

section
/-! PROOFS. What is lost with a channel, and the supply: power-up, power-down, and what the input does (R389, R394, R395, R404, R412 to R414). -/

namespace Sys2Proof.Machine

/-! ### What a lost or a reset channel leaves of the state -/

/-- Channel `c` becomes `k`, and the port die `p`. -/
def State.setChPtd (s : State) (c : ChanId) (k : Channel) (p : Ptd) : State := { s.setCh c k with ptd := p }

/-- A channel with other mailboxes and another session. -/
def Channel.withBoxes (ch : Channel) (m : Mbx) (x : Session) : Channel := { ch with mbx := m, sec := { ch.sec with session := x } }

/-- A channel with other records of what it raised. -/
def Channel.withRaised (ch : Channel) (events : List EvRec) (raised : List U16) : Channel :=
  { ch with events := events, beat := { ch.beat with raised := raised } }

theorem Channel.raise_eq_withRaised (ch : Channel) (c : ChanId) (code : Nat) : ∃ evs rs, ch.raise c code = ch.withRaised evs rs :=
  ⟨_, _, ch.raise_shape c code none 0⟩

/-- The port die with other records, count of aborts and queue pairs. -/
def Ptd.withReports (p : Ptd) (events : List EvRec) (aborted : U16) (qps : List Qp) : Ptd :=
  { p with events := events, aborted := aborted, qps := qps }

theorem Ptd.foldl_abort (c : ChanId) (l : List (Nat × Nat)) (p : Ptd) :
    ∃ ev ab, l.foldl (fun (q : Ptd) e => q.abort c e.1 e.2) p = p.withReports ev ab p.qps := by
  induction l generalizing p with
  | nil => exact ⟨_, _, rfl⟩
  | cons e r ih => exact ih _

/-- The QPs of `l'` are those of `l`, on their ports, and one that has failed stays so. -/
def qpsKept (l l' : List Qp) : Prop :=
  l'.map (·.num) = l.map (·.num) ∧ ∀ x ∈ l', ∃ y ∈ l, x.num = y.num ∧ x.port = y.port ∧ (y.error = true → x.error = true)

theorem qpsKept.refl (l : List Qp) : qpsKept l l := ⟨rfl, fun x hx => ⟨x, hx, rfl, rfl, id⟩⟩

theorem qpsKept.trans {l l' l'' : List Qp} (h : qpsKept l l') (h' : qpsKept l' l'') : qpsKept l l'' := by
  refine ⟨h'.1.trans h.1, fun x hx => ?_⟩
  obtain ⟨y, hy, hnum, hport, herr⟩ := h'.2 x hx
  obtain ⟨z, hz, hnum', hport', herr'⟩ := h.2 y hy
  exact ⟨z, hz, hnum.trans hnum', hport.trans hport', herr ∘ herr'⟩

theorem qpsKept.nil {l : List Qp} (h : qpsKept [] l) : l = [] := List.map_eq_nil_iff.mp h.1

/-- A change of one QP that keeps its number and port and ends no error. -/
theorem Ptd.onQp_kept (p : Ptd) (n : Nat) (f : Qp → Qp) (hf : ∀ q, (f q).num = q.num ∧ (f q).port = q.port ∧ (q.error = true → (f q).error = true)) :
    qpsKept p.qps (p.onQp n f).qps := by
  have hif (q : Qp) : (if q.num = n then f q else q).num = q.num ∧ (if q.num = n then f q else q).port = q.port ∧
      (q.error = true → (if q.num = n then f q else q).error = true) := by
    split
    · exact hf q
    · exact ⟨rfl, rfl, id⟩
  constructor
  · simp only [Ptd.onQp, List.map_map]
    exact List.map_congr_left fun q _ => (hif q).1
  · intro x hx
    obtain ⟨y, hy, rfl⟩ := List.mem_map.mp hx
    exact ⟨y, hy, hif y⟩

/-- A session that ends takes the secure mailboxes with it, and unbinds its QP. -/
theorem State.endSession_eq (s : State) (c : ChanId) : ∃ b x qs,
    s.endSession c = s.setChPtd c ((s.ch c).withBoxes { (s.ch c).mbx with boxes := b } x)
      (s.ptd.withReports s.ptd.events s.ptd.aborted qs) ∧
    (∀ m < 8, smGet {} b m = smGet {} (s.ch c).mbx.boxes m) ∧ ((s.ch c).sec.session.stage ≠ 0 → x = {}) ∧ qpsKept s.ptd.qps qs := by
  unfold State.endSession
  dsimp only
  split
  next h0 =>
    refine ⟨(s.ch c).mbx.boxes, (s.ch c).sec.session, s.ptd.qps, ?_, fun m _ => rfl, fun h => absurd h0 h, .refl _⟩
    obtain rfl | rfl := ChanId.cases c <;> rfl
  next =>
    refine ⟨smDel 8 (smDel 9 (s.ch c).mbx.boxes), {}, _, ?_, fun m hm => ?_, fun _ => rfl,
      s.ptd.onQp_kept (s.ch c).sec.session.qp (fun q => { q with bound := false }) fun q => ⟨rfl, rfl, id⟩⟩
    · obtain rfl | rfl := ChanId.cases c <;> rfl
    · rw [smGet_smDel_other _ _ (by omega), smGet_smDel_other _ _ (by omega)]

/-- With its mailboxes, rings and session a channel loses nothing else. -/
theorem State.dropMailboxes_endSession (s : State) (c : ChanId) : ∃ m x ev ab qs,
    (s.dropMailboxes c).endSession c = s.setChPtd c ((s.ch c).withBoxes m x) (s.ptd.withReports ev ab qs) ∧
      qpsKept s.ptd.qps qs := by
  obtain ⟨ev, ab, hl⟩ := Ptd.foldl_abort c (s.ch c).mbx.lostWork s.ptd
  have hdrop : s.dropMailboxes c =
      s.setChPtd c ((s.ch c).withBoxes {} (s.ch c).sec.session) (s.ptd.withReports ev ab s.ptd.qps) := by
    unfold State.dropMailboxes
    dsimp only
    rw [State.onCh_ptd, hl]
    rfl
  obtain ⟨b, x, qs, h, -, -, hqs⟩ := (s.dropMailboxes c).endSession_eq c
  refine ⟨{ boxes := b }, x, ev, ab, qs, ?_, ?_⟩
  · rw [h, hdrop]
    obtain rfl | rfl := ChanId.cases c <;> rfl
  · rw [hdrop] at hqs
    exact hqs

/-- A channel that goes off keeps its serial memory and what stands outside it. -/
theorem State.channelOff_eq (s : State) (c : ChanId) : ∃ ev ab qs,
    s.channelOff c = s.setChPtd c ((s.ch c).unpowered s.ptd) (s.ptd.withReports ev ab qs) := by
  obtain ⟨m, x, ev, ab, qs, h, -⟩ := s.dropMailboxes_endSession c
  refine ⟨ev, ab, qs, ?_⟩
  rw [State.channelOff, h]
  obtain rfl | rfl := ChanId.cases c <;> rfl

/-- State that a channel reset leads to (R394, R421). -/
def Channel.resetState (ch : Channel) : ChState := if ch.refclkOk then .boot else .reset

/-- A channel reset makes the channel fresh, but for the event that the end of a debug session raises. -/
theorem State.resetChannel_eq (s : State) (c : ChanId) : ∃ evs rs ev ab qs,
    s.resetChannel c = s.setChPtd c (((s.ch c).fresh s.ptd (s.ch c).resetState).withRaised evs rs) (s.ptd.withReports ev ab qs) ∧
      qpsKept s.ptd.qps qs := by
  obtain ⟨m, x, ev, ab, qs, h, hqs⟩ := s.dropMailboxes_endSession c
  unfold State.resetChannel
  dsimp only
  rw [h]
  split
  · obtain ⟨evs, rs, hraise⟩ := ((s.ch c).fresh s.ptd (s.ch c).resetState).raise_eq_withRaised c 0x8005
    refine ⟨evs, rs, ev, ab, qs, ?_, hqs⟩
    rw [← hraise]
    obtain rfl | rfl := ChanId.cases c <;> rfl
  · refine ⟨[], [], ev, ab, qs, ?_, hqs⟩
    obtain rfl | rfl := ChanId.cases c <;> rfl

/-! ### The output turns off and on -/

/-- The event under which the output turned off is kept, and an overcurrent alerts the chassis controller. -/
theorem State.powerOff_eq (s : State) (event : Option Nat) : s.powerOff event = s.dark { s.sup with outputOn := false }
    (s.ptd.stored ++ (event.map fun e => mkEvent e 2 0 none 0).toList) (s.ptd.alertHotswap || event == some 0x900A) := by
  obtain ⟨ev, ab, qs, h0⟩ := s.channelOff_eq 0
  obtain ⟨ev', ab', qs', h1⟩ := (s.channelOff 0).channelOff_eq 1
  unfold State.powerOff
  rw [h1, h0]
  cases event with
  | none => rw [Option.map_none, Option.toList_none, List.append_nil]; rfl
  | some e => rfl

theorem State.powerOff_none (s : State) : s.powerOff none = s.dark { s.sup with outputOn := false } s.ptd.stored s.ptd.alertHotswap := by
  simpa using s.powerOff_eq none

/-- After an event other than an overcurrent the alert stays as it was. -/
theorem State.powerOff_voltage (s : State) : s.powerOff (some 0x9009) =
    s.dark { s.sup with outputOn := false } (s.ptd.stored ++ [mkEvent 0x9009 2 0 none 0]) s.ptd.alertHotswap := by
  simpa using s.powerOff_eq (some 0x9009)

theorem State.powerOff_overcurrent (s : State) : s.powerOff (some 0x900A) =
    s.dark { s.sup with outputOn := false } (s.ptd.stored ++ [mkEvent 0x900A 2 0 none 0]) true := by
  simpa using s.powerOff_eq (some 0x900A)

theorem State.powerOn_poweredUp (s : State) : s.poweredUp s.powerOn := by
  let on (ch : Channel) : Channel :=
    { ch with chn := { ch.chn with supplyOk := true }, domain := { st := .active }, tripLock := false }
  let s1 := { s with ptd := s.ptd.booted, sup := { s.sup with outputOn := true, converterOk := true, holdupUs := 0 } }
  let s2 := (s1.onCh 0 on).onCh 1 on
  obtain ⟨evs, rs, ev, ab, qs, h0, hqs⟩ := s2.resetChannel_eq 0
  obtain ⟨evs', rs', ev', ab', qs', h1, hqs'⟩ := (s2.resetChannel 0).resetChannel_eq 1
  have hon : s.powerOn = (s2.resetChannel 0).resetChannel 1 := rfl
  rw [hon, h1, h0]
  refine ⟨rfl, rfl, rfl, rfl, rfl, ?_, rfl, fun c => ?_⟩
  · rw [h0] at hqs'
    exact (hqs.trans hqs').nil
  · obtain rfl | rfl := ChanId.cases c <;> exact ⟨rfl, rfl, rfl, rfl, rfl, rfl, rfl, rfl, rfl, rfl⟩

/-! ### PWR_EN, and the records of the module management controller -/

theorem State.mmcEvent_up (s : State) (code : Nat) (h : s.ptd.up = true) : s.mmcEvent code = { s with ptd := s.ptd.raise code } := if_pos h

theorem State.mmcEvent_down (s : State) (code : Nat) (h : s.ptd.up = false) : s.mmcEvent code = s := if_neg (by simp [h])

section
variable {s : State}

theorem exec_powerUp_held (h : s.sup.outputOn = true ∨ s.sup.inRange = false ∨ s.sup.lockout = true) :
    exec .powerUp s = .next { s with sup := { s.sup with pwrEn := true } } := if_pos (by simpa using h)

theorem exec_powerUp_ramps (hoff : ¬ s.sup.outputOn = true) (hin : s.sup.inRange = true) (hlock : s.sup.lockout = false) :
    exec .powerUp s = .next ({ s with sup := { s.sup with pwrEn := true } } : State).powerOn :=
  if_neg (by simp [hoff, hin, hlock])

theorem exec_inputOutOfRange (below : Bool) : exec (.inputOutOfRange below) s = .next { s with
    sup := { s.sup with inRange := false, below := below }
    ptd := if s.sup.inRange then
      (if s.ptd.up then { s.ptd with alertInput := true, events := s.ptd.events ++ [mkEvent 0x9008 2 0 none 0] } else s.ptd)
      else s.ptd } := by
  rw [show exec (.inputOutOfRange below) s = execInputOutOfRange below s from rfl]
  unfold execInputOutOfRange
  cases hin : s.sup.inRange
  · rfl
  · cases hup : s.ptd.up
    · simp [State.mmcEvent_down, hup]
    · simp [State.mmcEvent_up, hup, Ptd.raise]

theorem exec_inputBackInRange_plain (h : s.sup.below = false ∨ ¬ s.sup.outputOn = true) :
    exec .inputBackInRange s = .next { s with sup := { s.sup with inRange := true, below := false } } :=
  if_neg (by rcases h with h | h <;> simp [h])

/-- The hold-up timer holds what it has added up, which is less than the hold-up time. -/
theorem exec_inputBackInRange_held (hb : s.sup.below = true) (hon : s.sup.outputOn = true) : exec .inputBackInRange s = .next { s with
    sup := { s.sup with inRange := true, below := false, holdupUs := s.sup.holdupUs + s.freeVal % (1000 - s.sup.holdupUs) }
    free := s.free + 1 } := if_pos (by simp [hb, hon])

theorem exec_pwrEnFall : exec .pwrEnFall s = .next (if s.sup.outputOn then
    ({ s with sup := { s.sup with pwrEn := false, lockout := false } } : State).powerOff none
    else { s with sup := { s.sup with pwrEn := false, lockout := false } }) := rfl

theorem exec_converterFault : exec .converterFault s = .next (if s.sup.outputOn then
    ({ s with sup := { s.sup with converterOk := false } } : State).powerOff none
    else { s with sup := { s.sup with converterOk := false } }) := rfl

theorem exec_holdupTimerClear : exec .holdupTimerClear s =
    .next (if s.sup.inRange then { s with sup := { s.sup with holdupUs := 0 } } else s) := by
  rw [apply_ite Host.Outcome.next]
  rfl

theorem exec_holdupExpiry_spent (hb : s.sup.below = true) (hon : s.sup.outputOn = true) :
    exec .holdupExpiry s = .next (s.powerOff (some 0x9009)) := if_pos ⟨hb, hon⟩

theorem exec_holdupExpiry_void (h : s.sup.below = false ∨ ¬ s.sup.outputOn = true) : exec .holdupExpiry s = .next s :=
  if_neg (by rcases h with h | h <;> simp [h])

theorem exec_inputOvervoltage_on (hon : s.sup.outputOn = true) : exec .inputOvervoltage s =
    .next (({ s with sup := { s.sup with inRange := false, below := false } } : State).powerOff (some 0x9009)) := if_pos hon

theorem exec_inputOvervoltage_off (hoff : ¬ s.sup.outputOn = true) : exec .inputOvervoltage s =
    .next { s with sup := { s.sup with inRange := false, below := false } } := if_neg hoff

theorem exec_inputOvercurrent_on (hon : s.sup.outputOn = true) : exec .inputOvercurrent s =
    .next (({ s with sup := { s.sup with lockout := true } } : State).powerOff (some 0x900A)) := if_pos hon

theorem exec_inputOvercurrent_off (hoff : ¬ s.sup.outputOn = true) : exec .inputOvercurrent s = .next s := if_neg hoff

/-- When power-up restarts by itself. -/
def Supply.restarts (x : Supply) : Prop :=
  x.outputOn = false ∧ x.inRange = true ∧ x.pwrEn = true ∧ x.lockout = false ∧ x.converterOk = true

theorem exec_autoRestart_ramps (h : s.sup.restarts) : exec .autoRestart s = .next s.powerOn :=
  if_pos (by simpa [Supply.restarts] using h)

theorem exec_autoRestart_void (h : ¬ s.sup.restarts) : exec .autoRestart s = .next s :=
  if_neg (by simpa [Supply.restarts] using h)

end

/-! ### The obligation -/

/-- Settles O55: each command of the supply by the output and the input that it meets. -/
theorem supplyFollowsItsInput : Obligations.SupplyFollowsItsInput := by
  unfold Obligations.SupplyFollowsItsInput
  intro below s x p on kept back alarmed restarts
  refine ⟨exec_powerUp_held, fun h hin hlock => ⟨_, exec_powerUp_ramps h hin hlock, State.powerOn_poweredUp _, ?_⟩, fun h => ?_,
    fun h => ?_, exec_inputOutOfRange below, exec_inputBackInRange_plain,
    fun hb h hlt => ⟨_, exec_inputBackInRange_held hb h, Nat.le_add_right .., ?_⟩, exec_holdupTimerClear, exec_holdupExpiry_void,
    fun hb h => ?_, fun h => ?_, exec_inputOvervoltage_off, fun h => ?_, exec_inputOvercurrent_off, exec_autoRestart_void,
    fun h => ⟨s.powerOn, exec_autoRestart_ramps h, s.powerOn_poweredUp, ?_⟩, fun h => ?_, fun h => ?_, rfl⟩
  · rw [State.powerOn_sup]
  · rw [exec_pwrEnFall, if_pos h, State.powerOff_none]
    rfl
  · rw [exec_pwrEnFall, if_neg h]
  · have hlt : s.sup.holdupUs < 1000 := hlt
    have hmod := Nat.mod_lt s.freeVal (Nat.sub_pos_of_lt hlt)
    omega
  · rw [exec_holdupExpiry_spent hb h, State.powerOff_voltage]
  · rw [exec_inputOvervoltage_on h, State.powerOff_voltage]
    rfl
  · rw [exec_inputOvercurrent_on h, State.powerOff_overcurrent]
    rfl
  · obtain ⟨-, -, hen, -, -⟩ := h
    rw [State.powerOn_sup]
    exact hen
  · rw [exec_converterFault, if_pos h, State.powerOff_none]
    rfl
  · rw [exec_converterFault, if_neg h]
end Sys2Proof.Machine
end

section
/-! PROOFS. Queue pairs: what ends with one that fails or disconnects, and what that leaves unchanged (R376, R377, R383, R389). -/

namespace Sys2Proof.Machine

/-! ### Mailboxes of a QP that is gone -/

/-- QP whose request mailbox m holds: a request of the channel belongs to the QP of its class-1 queue. -/
def Channel.boxOwner (ch : Channel) (m : Nat) : Option Nat :=
  if (ch.box m).hdr.fromChannel then some (ch.queue 1).qpn.toNat else (ch.box m).qp

/-- Mailbox m is at work for a QP. -/
def Channel.losesBox (ch : Channel) (q m : Nat) : Prop :=
  ((ch.box m).hdr.st = 1 ∨ (ch.box m).hdr.st = 2 ∨ (ch.box m).hdr.st = 3) ∧ ch.boxOwner m = some q

/-- The mailbox without its QP: ABORTED for the channel that asked, EMPTY for the host. -/
def Mailbox.ended (x : Mailbox) : Mailbox :=
  { x with hdr := { x.hdr with st := if x.hdr.fromChannel then 4 else 0 }, object := [], nextFrag := none, qp := none }

/-- A channel with other mailboxes. -/
def Channel.setBoxes (ch : Channel) (b : SMap Mailbox) : Channel := { ch with mbx := { ch.mbx with boxes := b } }

/-- Of the first `n` mailboxes those of the QP have ended. -/
def Channel.boxesEnded (ch : Channel) (q n : Nat) (b : SMap Mailbox) : Prop :=
  ∀ m : Nat, (m < n → ch.losesBox q m → smGet {} b m = (ch.box m).ended) ∧ (¬ (m < n ∧ ch.losesBox q m) → smGet {} b m = ch.box m)

/-- What `failBoxes` does to one mailbox. -/
def State.failBox (q : Nat) (c : ChanId) (r : State) (m : Nat) : State :=
  let b := (r.ch c).box m
  if (b.hdr.st = 1 ∨ b.hdr.st = 2 ∨ b.hdr.st = 3) ∧ (r.ch c).boxOwner m = some q then
    let r1 := r.onCh c fun k => k.onBox m Mailbox.ended
    if b.hdr.fromChannel then r1.emit (.fwInterrupt c (boxBit m) (decide (8 ≤ m))) else r1
  else r

theorem State.failBoxes_eq (s : State) (c : ChanId) (q : Nat) : s.failBoxes c q = (List.range 10).foldl (State.failBox q c) s := rfl

theorem State.failBox_kept {s : State} {c : ChanId} {q m : Nat} (h : ¬ (s.ch c).losesBox q m) : s.failBox q c m = s := if_neg h

/-- The state with other mailboxes of a channel, after what the module sent. -/
def State.setBoxesSent (s : State) (c : ChanId) (b : SMap Mailbox) (outs : List Out) : State :=
  { s.setCh c ((s.ch c).setBoxes b) with out := s.out ++ outs }

theorem State.failBox_lost {s : State} {c : ChanId} {q m : Nat} (h : (s.ch c).losesBox q m) :
    ∃ outs, s.failBox q c m = s.setBoxesSent c (smMod {} (s.ch c).mbx.boxes m Mailbox.ended) outs := by
  rw [show s.failBox q c m = if ((s.ch c).box m).hdr.fromChannel then
    (s.onCh c fun k => k.onBox m Mailbox.ended).emit (.fwInterrupt c (boxBit m) (decide (8 ≤ m)))
    else s.onCh c fun k => k.onBox m Mailbox.ended from if_pos h]
  split
  · refine ⟨[.fwInterrupt c (boxBit m) (decide (8 ≤ m))], ?_⟩
    obtain rfl | rfl := ChanId.cases c <;> rfl
  · refine ⟨[], ?_⟩
    rw [State.setBoxesSent, List.append_nil]
    obtain rfl | rfl := ChanId.cases c <;> rfl

/-- Mailboxes end one after another: the other ones, and who owns them, stay. -/
theorem State.failBoxes_upTo (s : State) (c : ChanId) (q n : Nat) : ∃ b outs,
    (List.range n).foldl (State.failBox q c) s = s.setBoxesSent c b outs ∧ (s.ch c).boxesEnded q n b := by
  induction n with
  | zero =>
    refine ⟨(s.ch c).mbx.boxes, [], ?_, fun m => ⟨fun h => absurd h (Nat.not_lt_zero m), fun _ => rfl⟩⟩
    rw [State.setBoxesSent, List.append_nil]
    obtain rfl | rfl := ChanId.cases c <;> rfl
  | succ n ih =>
    obtain ⟨b, outs, hfold, hb⟩ := ih
    rw [List.range_succ, List.foldl_append, List.foldl_cons, List.foldl_nil, hfold]
    have hch : (s.setBoxesSent c b outs).ch c = (s.ch c).setBoxes b := by
      obtain rfl | rfl := ChanId.cases c <;> rfl
    have hbox : ((s.ch c).setBoxes b).box n = (s.ch c).box n := (hb n).2 fun h => absurd h.1 (Nat.lt_irrefl n)
    have hloses : ((s.setBoxesSent c b outs).ch c).losesBox q n ↔ (s.ch c).losesBox q n := by
      rw [hch, Channel.losesBox, Channel.losesBox, Channel.boxOwner, Channel.boxOwner, hbox]
      rfl
    by_cases h : (s.ch c).losesBox q n
    · obtain ⟨outs', hlost⟩ := State.failBox_lost (hloses.mpr h)
      refine ⟨smMod {} b n Mailbox.ended, outs ++ outs', ?_, fun m => ?_⟩
      · rw [hlost, hch]
        unfold State.setBoxesSent
        rw [← List.append_assoc]
        obtain rfl | rfl := ChanId.cases c <;> rfl
      · by_cases hm : m = n
        · subst hm
          rw [smGet_smMod_same]
          have hbm : smGet {} b m = (s.ch c).box m := hbox
          rw [hbm]
          exact ⟨fun _ _ => rfl, fun hno => absurd ⟨Nat.lt_succ_self m, h⟩ hno⟩
        · rw [smGet_smMod_other _ _ _ hm]
          have hlt : m < n + 1 ↔ m < n := by omega
          rw [hlt]
          exact hb m
    · refine ⟨b, outs, State.failBox_kept (mt hloses.mp h), fun m => ?_⟩
      by_cases hm : m = n
      · subst hm
        exact ⟨fun _ hl => absurd hl h, fun _ => hbox⟩
      · have hlt : m < n + 1 ↔ m < n := by omega
        rw [hlt]
        exact hb m


/-! ### A QP that fails or disconnects -/

/-- What ends with a QP of channel `c`: the mailboxes at work for it, and the session that it holds. -/
def State.qpWorkEnds (s : State) (c : ChanId) (n : Nat) : State :=
  let s1 := s.failBoxes c n
  if (s1.ch c).sec.session.stage ≠ 0 ∧ (s1.ch c).sec.session.qp = n then s1.endSession c else s1

/-- Of the mailboxes that firmware and the host share those of the QP have ended, and its session with them. -/
def Channel.qpWorkEnded (ch : Channel) (n : Nat) (b : SMap Mailbox) (x : Session) : Prop :=
  (∀ m < 8, (ch.losesBox n m → smGet {} b m = (ch.box m).ended) ∧ (¬ ch.losesBox n m → smGet {} b m = ch.box m)) ∧
    (ch.sec.session.stage ≠ 0 → ch.sec.session.qp = n → x = {})

/-- Channel `c` with other mailboxes and session, the port die with other QPs, and what was sent. -/
def State.withQpWork (s : State) (c : ChanId) (b : SMap Mailbox) (x : Session) (qs : List Qp) (outs : List Out) : State :=
  { s.setCh c ((s.ch c).withBoxes { (s.ch c).mbx with boxes := b } x) with ptd := { s.ptd with qps := qs }, out := s.out ++ outs }

theorem State.qpWorkEnds_eq (s : State) (c : ChanId) (n : Nat) : ∃ b x qs outs,
    s.qpWorkEnds c n = s.withQpWork c b x qs outs ∧ (s.ch c).qpWorkEnded n b x ∧ qpsKept s.ptd.qps qs := by
  obtain ⟨b, outs, hfail, hb⟩ := s.failBoxes_upTo c n 10
  have hboxes : ∀ m < 8, ((s.ch c).losesBox n m → smGet {} b m = ((s.ch c).box m).ended) ∧
      (¬ (s.ch c).losesBox n m → smGet {} b m = (s.ch c).box m) := fun m hm =>
    ⟨(hb m).1 (by omega), fun h => (hb m).2 fun h' => h h'.2⟩
  unfold State.qpWorkEnds
  rw [State.failBoxes_eq, hfail]
  have hch : (s.setBoxesSent c b outs).ch c = (s.ch c).setBoxes b := by
    obtain rfl | rfl := ChanId.cases c <;> rfl
  dsimp only
  split
  next =>
    obtain ⟨b', x, qs, hend, hb', hx, hqs⟩ := (s.setBoxesSent c b outs).endSession_eq c
    rw [hch] at hend hb' hx
    have hptd : (s.setBoxesSent c b outs).ptd = s.ptd := s.setCh_ptd c _
    refine ⟨b', x, qs, outs, ?_, ⟨fun m hm => ?_, fun hst _ => hx hst⟩, hptd ▸ hqs⟩
    · rw [hend, hptd]
      obtain rfl | rfl := ChanId.cases c <;> rfl
    · rw [hb' m hm]
      exact hboxes m hm
  next hno =>
    rw [hch] at hno
    refine ⟨b, (s.ch c).sec.session, s.ptd.qps, outs, ?_, ⟨hboxes, fun hst hqp => absurd ⟨hst, hqp⟩ hno⟩, .refl _⟩
    obtain rfl | rfl := ChanId.cases c <;> rfl

/-- A failed QP is told to its channel, where the channel has power. -/
def Channel.toldQpFailed (ch : Channel) (c : ChanId) : Channel := if ch.domain.st = .off then ch else ch.raise c 0xA007

/-- The QP in the error state. -/
def Ptd.qpInError (p : Ptd) (n : Nat) : Ptd := p.onQp n fun x => { x with error := true }

theorem Ptd.qpInError_kept (p : Ptd) (n : Nat) : qpsKept p.qps (p.qpInError n).qps := p.onQp_kept n _ fun _ => ⟨rfl, rfl, fun _ => rfl⟩

theorem Ptd.qpInError_error (p : Ptd) (n : Nat) : ∀ x ∈ (p.qpInError n).qps, x.num = n → x.error = true := by
  intro x hx hn
  obtain ⟨y, -, rfl⟩ := List.mem_map.mp hx
  by_cases h : y.num = n
  · rw [if_pos h]
  · rw [if_neg h] at hn
    exact absurd hn h

section
variable {s : State} {n : Nat} {q : Qp}

theorem State.qpFails_unknown (h : s.ptd.qp? n = none) : s.qpFails n = s := by
  simp [State.qpFails, h]

theorem State.qpFails_again (h : s.ptd.qp? n = some q) (he : q.error = true) : s.qpFails n = s := by
  simp [State.qpFails, h, he]

/-- A QP of the port die ends nothing but itself. -/
theorem State.qpFails_ptd (h : s.ptd.qp? n = some q) (he : q.error = false) (ht : targetChan q.target = none) :
    s.qpFails n = { s with ptd := s.ptd.qpInError n } := by
  simp [State.qpFails, h, he, ht, Ptd.qpInError]

theorem State.qpFails_channel {c : ChanId} (h : s.ptd.qp? n = some q) (he : q.error = false) (ht : targetChan q.target = some c) :
    s.qpFails n = (({ s with ptd := s.ptd.qpInError n } : State).qpWorkEnds c n).onCh c fun ch => ch.toldQpFailed c := by
  simp only [State.qpFails, h, he, ht]
  rfl
end

/-! ### What the failure of a QP leaves -/

theorem Channel.toldQpFailed_shape (ch : Channel) (c : ChanId) : ∃ evs rs, ch.toldQpFailed c = ch.withRaised evs rs := by
  unfold Channel.toldQpFailed
  split
  · exact ⟨ch.events, ch.beat.raised, rfl⟩
  · exact ch.raise_eq_withRaised c 0xA007

/-- From `s` to `t` nothing of the port die differs but its QPs, which are the same ones; the channels keep their memories and states, and
the module has sent what it had sent. -/
def qpStep (s t : State) : Prop :=
  t.ptd = { s.ptd with qps := t.ptd.qps } ∧ qpsKept s.ptd.qps t.ptd.qps ∧
    (∀ c, (t.ch c).mem = (s.ch c).mem ∧ (t.ch c).chn = (s.ch c).chn) ∧ s.out <+: t.out

theorem qpStep.refl (s : State) : qpStep s s := ⟨rfl, .refl _, fun _ => ⟨rfl, rfl⟩, List.prefix_rfl⟩

theorem qpStep.trans {s t u : State} (h : qpStep s t) (h' : qpStep t u) : qpStep s u := by
  obtain ⟨hptd, hqs, hch, hout⟩ := h
  obtain ⟨hptd', hqs', hch', hout'⟩ := h'
  refine ⟨?_, hqs.trans hqs', fun c => ⟨(hch' c).1.trans (hch c).1, (hch' c).2.trans (hch c).2⟩, hout.trans hout'⟩
  rw [hptd] at hptd'
  exact hptd'

theorem qpStep_qpInError (s : State) (n : Nat) : qpStep s { s with ptd := s.ptd.qpInError n } :=
  ⟨rfl, s.ptd.qpInError_kept n, fun _ => ⟨rfl, rfl⟩, List.prefix_rfl⟩

/-- A change of one channel that keeps its memory and state. -/
theorem qpStep_onCh (s : State) (c : ChanId) (f : Channel → Channel) (hf : ∀ k, (f k).mem = k.mem ∧ (f k).chn = k.chn) :
    qpStep s (s.onCh c f) := by
  refine ⟨?_, ?_, fun d => ?_, ?_⟩
  · rw [State.onCh_ptd]
  · rw [State.onCh_ptd]
    exact .refl _
  · by_cases h : d = c
    · subst h
      rw [State.ch_onCh]
      exact hf _
    · rw [State.ch_onCh_other s f h]
      exact ⟨rfl, rfl⟩
  · rw [State.onCh_out]

theorem State.withQpWork_ch (s : State) (c : ChanId) (b : SMap Mailbox) (x : Session) (qs : List Qp) (outs : List Out) :
    (s.withQpWork c b x qs outs).ch c = (s.ch c).withBoxes { (s.ch c).mbx with boxes := b } x := by
  obtain rfl | rfl := ChanId.cases c <;> rfl

theorem State.withQpWork_ch_other (s : State) {c d : ChanId} (b : SMap Mailbox) (x : Session) (qs : List Qp) (outs : List Out) (h : d ≠ c) :
    (s.withQpWork c b x qs outs).ch d = s.ch d := s.ch_setCh_other _ h

theorem qpStep_qpWorkEnds (s : State) (c : ChanId) (n : Nat) : qpStep s (s.qpWorkEnds c n) := by
  obtain ⟨b, x, qs, outs, h, -, hqs⟩ := s.qpWorkEnds_eq c n
  rw [h]
  refine ⟨rfl, hqs, fun d => ?_, List.prefix_append ..⟩
  by_cases hd : d = c
  · subst hd
    rw [State.withQpWork_ch]
    exact ⟨rfl, rfl⟩
  · rw [State.withQpWork_ch_other _ _ _ _ _ hd]
    exact ⟨rfl, rfl⟩

theorem qpStep_qpFails (s : State) (n : Nat) : qpStep s (s.qpFails n) := by
  cases h : s.ptd.qp? n with
  | none => rw [State.qpFails_unknown h]; exact .refl s
  | some q =>
    cases he : q.error with
    | true => rw [State.qpFails_again h he]; exact .refl s
    | false =>
      cases ht : targetChan q.target with
      | none => rw [State.qpFails_ptd h he ht]; exact qpStep_qpInError s n
      | some c =>
        rw [State.qpFails_channel h he ht]
        refine ((qpStep_qpInError s n).trans (qpStep_qpWorkEnds _ c n)).trans (qpStep_onCh _ c _ fun k => ?_)
        obtain ⟨evs, rs, hk⟩ := k.toldQpFailed_shape c
        rw [hk]
        exact ⟨rfl, rfl⟩

/-- Channel `ch` has met the failure of its QP `n`. -/
def Channel.lostQp (ch : Channel) (c : ChanId) (n : Nat) (k : Channel) : Prop :=
  k.mem = ch.mem ∧ k.chn = ch.chn ∧ (ch.domain.st ≠ .off → k.events = (ch.raise c 0xA007).events) ∧
    (ch.sec.session.stage ≠ 0 → ch.sec.session.qp = n → k.sec.session = {}) ∧
    ∀ m : Nat, m < 8 → (ch.losesBox n m → (k.box m).hdr.st = if (ch.box m).hdr.fromChannel then 4 else 0) ∧
      (¬ ch.losesBox n m → k.box m = ch.box m)

theorem Channel.lostQp_of_ended {ch : Channel} {n : Nat} {b : SMap Mailbox} {x : Session} (c : ChanId) (h : ch.qpWorkEnded n b x) :
    ch.lostQp c n ((ch.withBoxes { ch.mbx with boxes := b } x).toldQpFailed c) := by
  obtain ⟨hboxes, hx⟩ := h
  have hevents : ch.domain.st ≠ .off →
      ((ch.withBoxes { ch.mbx with boxes := b } x).toldQpFailed c).events = (ch.raise c 0xA007).events := fun hon => by
    rw [show (ch.withBoxes { ch.mbx with boxes := b } x).toldQpFailed c = (ch.withBoxes { ch.mbx with boxes := b } x).raise c 0xA007 from
      if_neg hon]
    exact (Channel.raise_congr ch (ch.withBoxes { ch.mbx with boxes := b } x) c 0xA007 none 0 rfl rfl rfl).1
  obtain ⟨evs, rs, hk⟩ := (ch.withBoxes { ch.mbx with boxes := b } x).toldQpFailed_shape c
  rw [hk] at hevents ⊢
  refine ⟨rfl, rfl, hevents, hx, fun m hm => ⟨fun hl => ?_, (hboxes m hm).2⟩⟩
  exact congrArg (fun y : Mailbox => y.hdr.st) ((hboxes m hm).1 hl)

/-- QP `q` of number `n` has failed. -/
def State.qpFailed (s : State) (n : Nat) (q : Qp) (t : State) : Prop :=
  (∀ x ∈ t.ptd.qps, x.num = n → x.error = true) ∧ t.ptd.qps.map (·.num) = s.ptd.qps.map (·.num) ∧
    t.sup = s.sup ∧ t.ptd.events = s.ptd.events ∧ (∀ c : ChanId, q.target ≠ c.val → t.ch c = s.ch c) ∧
    ∀ c : ChanId, q.target = c.val → (s.ch c).lostQp c n (t.ch c)

theorem targetChan_val (c : ChanId) : targetChan c.val = some c := by
  obtain rfl | rfl := ChanId.cases c <;> rfl

theorem targetChan_eq_some {t : Nat} {c : ChanId} (h : targetChan t = some c) : t = c.val := by
  unfold targetChan at h
  split at h
  · obtain rfl := Option.some.inj h
    assumption
  · split at h
    · obtain rfl := Option.some.inj h
      assumption
    · exact absurd h (by simp)

theorem State.qpFails_qpFailed {s : State} {n : Nat} {q : Qp} (h : s.ptd.qp? n = some q) (he : q.error = false) :
    s.qpFailed n q (s.qpFails n) := by
  obtain ⟨hptd, ⟨hnums, -⟩, -, -⟩ := qpStep_qpFails s n
  have hevents : (s.qpFails n).ptd.events = s.ptd.events := by rw [hptd]
  cases ht : targetChan q.target with
  | none =>
    have hno (c : ChanId) (hc : q.target = c.val) : False := by
      rw [hc, targetChan_val] at ht
      cases ht
    refine ⟨?_, hnums, (State.qpFails_frame s n).1, hevents, fun c _ => ?_, fun c hc => (hno c hc).elim⟩
    · rw [State.qpFails_ptd h he ht]
      exact s.ptd.qpInError_error n
    · rw [State.qpFails_ptd h he ht]
      rfl
  | some d =>
    have hval := targetChan_eq_some ht
    obtain ⟨b, x, qs, outs, hwork, hended, hqs⟩ := ({ s with ptd := s.ptd.qpInError n } : State).qpWorkEnds_eq d n
    refine ⟨fun y hy hn => ?_, hnums, (State.qpFails_frame s n).1, hevents, fun c hc => ?_, fun c hc => ?_⟩
    · rw [State.qpFails_channel h he ht, hwork, State.onCh_ptd] at hy
      obtain ⟨z, hz, hnum, -, herr⟩ := hqs.2 y hy
      exact herr (s.ptd.qpInError_error n z hz (hnum ▸ hn))
    · have hne : c ≠ d := fun e => hc (e ▸ hval)
      rw [State.qpFails_channel h he ht, hwork, State.ch_onCh_other _ _ hne, State.withQpWork_ch_other _ _ _ _ _ hne]
      rfl
    · obtain rfl : c = d := Fin.ext (hc.symm.trans hval)
      rw [State.qpFails_channel h he ht, hwork, State.ch_onCh, State.withQpWork_ch]
      exact Channel.lostQp_of_ended c hended

/-- Where no two QPs share a number, whatever fails one leaves it in error. -/
theorem State.qpFails_error {s : State} {n : Nat} (hnodup : (s.ptd.qps.map (·.num)).Nodup) :
    ∀ x ∈ (s.qpFails n).ptd.qps, x.num = n → x.error = true := by
  intro x hx hn
  cases h : s.ptd.qp? n with
  | none =>
    rw [State.qpFails_unknown h] at hx
    exact absurd (by simpa using hn) (List.find?_eq_none.mp h x hx)
  | some q =>
    cases he : q.error with
    | false => exact (State.qpFails_qpFailed h he).1 x hx hn
    | true =>
      rw [State.qpFails_again h he] at hx
      have hq : q.num = n := by simpa using List.find?_some h
      have hxq : x = q := List.inj_on_of_nodup_map hnodup hx (List.mem_of_find?_eq_some h) (hn.trans hq.symm)
      rw [hxq, he]

/-- The failures of several QPs one after another. -/
def State.qpsFail (s : State) (l : List Qp) : State := l.foldl (fun (r : State) q => r.qpFails q.num) s

theorem qpStep_qpsFail (l : List Qp) (s : State) : qpStep s (s.qpsFail l) := by
  induction l generalizing s with
  | nil => exact .refl s
  | cons q r ih => exact (qpStep_qpFails s q.num).trans (ih _)

theorem State.qpsFail_error (l : List Qp) (s : State) (hnodup : (s.ptd.qps.map (·.num)).Nodup) :
    ∀ x ∈ (s.qpsFail l).ptd.qps, x.num ∈ l.map (·.num) → x.error = true := by
  induction l generalizing s with
  | nil => intro x _ hx; exact absurd hx List.not_mem_nil
  | cons q r ih =>
    intro x hx hmem
    obtain ⟨-, ⟨hnums, -⟩, -, -⟩ := qpStep_qpFails s q.num
    rcases List.mem_cons.mp hmem with hq | hr
    · obtain ⟨-, ⟨-, hfrom⟩, -, -⟩ := qpStep_qpsFail r (s.qpFails q.num)
      obtain ⟨y, hy, hnum, -, herr⟩ := hfrom x hx
      exact herr (State.qpFails_error hnodup y hy (hnum.symm.trans hq))
    · exact ih _ (hnums ▸ hnodup) x hx hr

/-! ### Connection and disconnection (R377) -/

theorem Ptd.qp?_isSome (p : Ptd) (n : Nat) : (p.qp? n).isSome = true ↔ n ∈ p.qps.map (·.num) := by
  simp [Ptd.qp?]

theorem Ptd.hostUp_port {p : Ptd} {n : Nat} : (¬ (p.hostUp = true ∧ (p.port n).linkUp = true)) ↔ (!p.hostUp) = true ∨ (!(p.port n).linkUp) = true := by
  simp [imp_iff_not_or]

section
variable {s : State} {port : Fin 4} {target : Nat} {secure : Bool}

theorem State.connectReason_full (h : 4096 ≤ s.ptd.qps.length) : s.connectReason target secure = some 1 := if_pos h

theorem State.connectReason_target (h : s.ptd.qps.length < 4096) (ht : 2 < target ∨ (target = 2 ∧ secure = true)) :
    s.connectReason target secure = some 2 := by
  rw [State.connectReason, if_neg (by omega), if_pos ht]

/-- A request to a possible target is rejected for its power alone. -/
theorem State.connectReason_power (h : s.ptd.qps.length < 4096) (ht : ¬ (2 < target ∨ (target = 2 ∧ secure = true))) :
    s.connectReason target secure =
      if (target = 0 → s.ch0.domain.st ≠ .off) ∧ (target = 1 → s.ch1.domain.st ≠ .off) then none else some 3 := by
  rw [State.connectReason, if_neg (by omega), if_neg ht]
  have hle : target ≤ 2 := by omega
  match target, hle with
  | 0, _ => simp [targetChan, State.ch, ite_not]
  | 1, _ => simp [targetChan, State.ch, ite_not]
  | 2, _ => simp [targetChan]

theorem exec_cmConnectRequest_dead (h : ¬ (s.ptd.hostUp = true ∧ (s.ptd.port port.val).linkUp = true)) :
    exec (.cmConnectRequest port target secure) s = .next s := if_pos (Ptd.hostUp_port.mp h)

theorem exec_cmConnectRequest_rejected {k : Nat} (h : s.ptd.hostUp = true ∧ (s.ptd.port port.val).linkUp = true)
    (hk : s.connectReason target secure = some k) : exec (.cmConnectRequest port target secure) s =
      .next ({ s with ptd := { s.ptd with cmReject := satAdd s.ptd.cmReject 1 } }.emit (.cmReject port.val (BitVec.ofNat 8 k))) := by
  rw [show exec (.cmConnectRequest port target secure) s = execCmConnectRequest port target secure s from rfl, execCmConnectRequest,
    if_neg (mt Ptd.hostUp_port.mpr (not_not_intro h)), hk]

/-- The QP that a request makes. -/
def Ptd.freshQp (p : Ptd) (port target : Nat) (secure : Bool) : Qp :=
  { num := p.nextQp, port := port, target := target, secure := secure, rkey := BitVec.ofNat 32 (Config.drbg p.nextQp) }

theorem exec_cmConnectRequest_made (h : s.ptd.hostUp = true ∧ (s.ptd.port port.val).linkUp = true)
    (hk : s.connectReason target secure = none) : exec (.cmConnectRequest port target secure) s =
      .next ({ s with ptd := { s.ptd with qps := s.ptd.qps ++ [s.ptd.freshQp port.val target secure], nextQp := s.ptd.nextQp + 1 } }.emit
        (.cmReply port.val (s.ptd.freshQp port.val target secure).num (s.ptd.freshQp port.val target secure).rkey)) := by
  rw [show exec (.cmConnectRequest port target secure) s = execCmConnectRequest port target secure s from rfl, execCmConnectRequest,
    if_neg (mt Ptd.hostUp_port.mpr (not_not_intro h)), hk]
  rfl

end

section
variable {s : State} {n : Nat} {q : Qp}

theorem exec_cmDisconnect_down (h : s.ptd.hostUp = false) : exec (.cmDisconnect n) s = .next s := if_pos (by simp [h])

theorem exec_cmDisconnect_unknown (h : s.ptd.qp? n = none) : exec (.cmDisconnect n) s = .next s := by
  rw [show exec (.cmDisconnect n) s = execCmDisconnect n s from rfl, execCmDisconnect, h]
  split <;> rfl

/-- A QP that disconnects ends its work as one that fails does, and is gone. -/
theorem exec_cmDisconnect_known (hup : s.ptd.hostUp = true) (h : s.ptd.qp? n = some q) : ∃ t,
    exec (.cmDisconnect n) s = .next { t with ptd := { t.ptd with qps := t.ptd.qps.filter fun x => x.num != n } } ∧ qpStep s t := by
  rw [show exec (.cmDisconnect n) s = execCmDisconnect n s from rfl, execCmDisconnect, h]
  simp only [hup]
  cases targetChan q.target with
  | none => exact ⟨s, rfl, .refl s⟩
  | some c => exact ⟨s.qpWorkEnds c n, rfl, qpStep_qpWorkEnds s c n⟩

theorem Ptd.qp?_filter_self (p : Ptd) (n : Nat) : ({ p with qps := p.qps.filter fun x => x.num != n } : Ptd).qp? n = none := by
  simp [Ptd.qp?, List.find?_eq_none]

/-- The other QPs are known as before. -/
theorem Ptd.qp?_filter_other {p p' : Ptd} {n m : Nat} (hqs : qpsKept p.qps p'.qps) (h : m ≠ n) :
    (({ p' with qps := p'.qps.filter fun x => x.num != n } : Ptd).qp? m).isSome = (p.qp? m).isSome := by
  have hmem : m ∈ (p'.qps.filter fun x => x.num != n).map (·.num) ↔ m ∈ p'.qps.map (·.num) := by
    simp only [List.mem_map, List.mem_filter, bne_iff_ne]
    exact ⟨fun ⟨x, hx, hm⟩ => ⟨x, hx.1, hm⟩, fun ⟨x, hx, hm⟩ => ⟨x, ⟨hx, hm ▸ h⟩, hm⟩⟩
  rw [Bool.eq_iff_iff, Ptd.qp?_isSome, Ptd.qp?_isSome, ← hqs.1]
  exact hmem

/-! ### Requests on a QP (R376) -/

theorem exec_qpError (s : State) (n : Nat) : exec (.qpError n) s = .next (s.qpFails n) := rfl

theorem exec_rdmaUnsupported_down (h : s.ptd.hostUp = false) : exec (.rdmaUnsupported n) s = .next s := if_pos (by simp [h])

theorem exec_rdmaUnsupported_discarded (hup : s.ptd.hostUp = true)
    (h : s.ptd.qp? n = none ∨ (s.ptd.qp? n = some q ∧ q.error = true)) :
    exec (.rdmaUnsupported n) s = .next { s with ptd := { s.ptd with qpDiscard := satAdd s.ptd.qpDiscard 1 } } := by
  rw [show exec (.rdmaUnsupported n) s = execRdmaUnsupported n s from rfl, execRdmaUnsupported]
  rcases h with h | ⟨h, he⟩
  · simp [hup, h]
  · simp [hup, h, he]

theorem exec_rdmaUnsupported_refused (hup : s.ptd.hostUp = true) (h : s.ptd.qp? n = some q) (he : q.error = false) :
    exec (.rdmaUnsupported n) s = .next ((s.emit (.rdmaNakInvalid n)).qpFails n) := by
  rw [show exec (.rdmaUnsupported n) s = execRdmaUnsupported n s from rfl, execRdmaUnsupported]
  simp [hup, h, he]

end

/-! ### Ports (R376, R377, R399) -/

theorem Ptd.port_onPort_same (p : Ptd) (n : Nat) (f : EthPort → EthPort) : (p.onPort n f).port n = f (p.port n) := smGet_smMod_same ..

theorem Ptd.port_onPort_other (p : Ptd) {n m : Nat} (f : EthPort → EthPort) (h : m ≠ n) : (p.onPort n f).port m = p.port m :=
  smGet_smMod_other _ _ _ h

theorem Ptd.port_congr {p p' : Ptd} (h : p.ports = p'.ports) (n : Nat) : p.port n = p'.port n := by rw [Ptd.port, Ptd.port, h]

/-- Delivery of records touches no port, no QP, no memory, and not the supply. -/
def deliveryStep (s t : State) : Prop :=
  t.ptd.ports = s.ptd.ports ∧ t.ptd.qps = s.ptd.qps ∧ t.sup = s.sup ∧ ∀ c, (t.ch c).mem = (s.ch c).mem

theorem deliveryStep.trans {s t u : State} (h : deliveryStep s t) (h' : deliveryStep t u) : deliveryStep s u := by
  obtain ⟨hports, hqps, hsup, hmem⟩ := h
  obtain ⟨hports', hqps', hsup', hmem'⟩ := h'
  exact ⟨hports'.trans hports, hqps'.trans hqps, hsup'.trans hsup, fun c => (hmem' c).trans (hmem c)⟩

theorem Channel.setQueue_classBit_mem (k : Channel) (n : Nat) (q : EvQueue) (posted : Bool) :
    ((k.setQueue n q).classBit n posted).mem = k.mem := by
  cases posted <;> rfl

theorem deliveryStep.refl (s : State) : deliveryStep s s := ⟨rfl, rfl, rfl, fun _ => rfl⟩

theorem deliveryStep_onCh_emitAll (s : State) (c : ChanId) (f : Channel → Channel) (l : List Out) (hf : ∀ k, (f k).mem = k.mem) :
    deliveryStep s ((s.onCh c f).emitAll l) := by
  have hmem (d : ChanId) : ((s.onCh c f).ch d).mem = (s.ch d).mem := by
    by_cases h : d = c
    · rw [h, State.ch_onCh, hf]
    · rw [State.ch_onCh_other s f h]
  obtain rfl | rfl := ChanId.cases c <;> exact ⟨rfl, rfl, rfl, hmem⟩

theorem deliveryStep_flushQueue (s : State) (c : ChanId) (n : Nat) : deliveryStep s (s.flushQueue c n) := by
  unfold State.flushQueue
  dsimp only
  split
  · exact .refl s
  · exact deliveryStep_onCh_emitAll s c _ _ fun k => k.setQueue_classBit_mem n _ _

theorem deliveryStep_flushPtd (s : State) (n : Nat) : deliveryStep s (s.flushPtd n) := ⟨rfl, rfl, rfl, fun _ => rfl⟩

theorem deliveryStep_foldl (f : State → Nat → State) (hf : ∀ s n, deliveryStep s (f s n)) (l : List Nat) (s : State) :
    deliveryStep s (l.foldl f s) := by
  induction l generalizing s with
  | nil => exact .refl s
  | cons n r ih => exact (hf s n).trans (ih _)

/-- The settings enable a port. -/
def Ptd.enables (p : Ptd) (port : Fin 4) : Prop := ∃ e ∈ p.sec.settings.netPorts, e.1 = port.val

theorem Ptd.enables_iff (p : Ptd) (port : Fin 4) : (p.sec.settings.netPorts.any fun e => e.1 == port.val) = true ↔ p.enables port := by
  simp [Ptd.enables]

section
variable {s : State} {port : Fin 4}

theorem exec_ethPortLinkUp_refused (h : s.ptd.hostUp = false ∨ ¬ s.ptd.enables port) : exec (.ethPortLinkUp port) s = .next s := by
  refine if_pos ?_
  rw [← Ptd.enables_iff, Bool.not_eq_true] at h
  rcases h with h | h <;> simp [h]

/-- A port that gains link delivers what was retained for the host. -/
theorem exec_ethPortLinkUp_gains (hup : s.ptd.hostUp = true) (h : s.ptd.enables port) : ∃ t, exec (.ethPortLinkUp port) s = .next t ∧
    deliveryStep { s with ptd := s.ptd.onPort port.val fun e => { e with linkUp := true } } t := by
  rw [← Ptd.enables_iff] at h
  refine ⟨_, if_neg (by simp [hup, h]), deliveryStep_foldl _ (fun r n => ?_) _ _⟩
  exact ((deliveryStep_flushQueue r 0 n).trans (deliveryStep_flushQueue _ 1 n)).trans (deliveryStep_flushPtd _ n)

/-- A port without link, and what it counted in FEC_UNCORR. -/
def State.portDown (s : State) (port : Fin 4) : State :=
  { s with ptd := s.ptd.onPort port.val fun e => { e with
    linkUp := false, fecUncorr := if e.linkUp then satAdd e.fecUncorr (s.freeVal % 2 ^ 16) else e.fecUncorr } }.tookFree 1

theorem exec_ethPortLinkDown (s : State) (port : Fin 4) : exec (.ethPortLinkDown port) s =
    .next ((s.portDown port).qpsFail (s.ptd.qps.filter fun q => q.port == port.val)) := rfl

theorem State.portDown_fails (s : State) (port : Fin 4) (hnodup : (s.ptd.qps.map (·.num)).Nodup) :
    ∀ x ∈ ((s.portDown port).qpsFail (s.ptd.qps.filter fun q => q.port == port.val)).ptd.qps, x.port = port.val → x.error = true := by
  intro x hx hport
  refine State.qpsFail_error _ (s.portDown port) hnodup x hx ?_
  obtain ⟨-, ⟨-, hfrom⟩, -, -⟩ := qpStep_qpsFail (s.ptd.qps.filter fun q => q.port == port.val) (s.portDown port)
  obtain ⟨y, hy, hnum, hport', -⟩ := hfrom x hx
  rw [hnum]
  exact List.mem_map_of_mem (List.mem_filter.mpr ⟨hy, by simp [← hport', hport]⟩)

theorem exec_congestionNotificationRx_down (h : s.ptd.hostUp = false) : exec (.congestionNotificationRx port) s = .next s :=
  if_pos (by simp [h])

/-- A notification lowers the rate to one that is free below it. -/
def EthPort.notified (e : EthPort) (v : Nat) : EthPort :=
  { e with cnpRx := satAdd e.cnpRx 1, rate := if e.rate ≤ 1 then e.rate else 1 + v % (e.rate - 1) }

theorem EthPort.notified_rate (e : EthPort) (v : Nat) (h : 1 < e.rate) : 1 ≤ (e.notified v).rate ∧ (e.notified v).rate < e.rate := by
  have hmod := Nat.mod_lt v (Nat.sub_pos_of_lt h)
  rw [show (e.notified v).rate = 1 + v % (e.rate - 1) from if_neg (by omega)]
  omega

theorem exec_congestionNotificationRx_up (h : s.ptd.hostUp = true) : exec (.congestionNotificationRx port) s =
    .next { s with ptd := s.ptd.onPort port.val fun e => e.notified s.freeVal, free := s.free + 1 } := if_neg (by simp [h])

end

/-! ### The obligation -/

/-- Settles O53: connection by its reasons, failure and disconnection by the work that ends with the QP, ports by the QPs on them. -/
theorem queuePairsConnectAndFail : Obligations.QueuePairsConnectAndFail := by
  unfold Obligations.QueuePairsConnectAndFail
  intro port target qp secure q s p connect live powered badTarget rejected fresh known discarded owner loses failed
  refine ⟨exec_cmConnectRequest_dead, fun hl hfull => ?_, fun hl hroom hbad => ?_, fun hl hroom hok hoff => ?_,
    fun hl hroom hok hon => ?_, fun h => ⟨exec_cmDisconnect_down h, exec_rdmaUnsupported_down h⟩,
    fun h => ⟨?_, exec_cmDisconnect_unknown h⟩, exec_rdmaUnsupported_discarded, fun h he => ?_, fun h he => ⟨?_, fun hup => ?_⟩,
    fun hup h => ?_, fun h => ?_, fun hup h => ?_, ?_, exec_congestionNotificationRx_down, fun hup => ?_⟩
  · exact exec_cmConnectRequest_rejected hl (State.connectReason_full hfull)
  · exact exec_cmConnectRequest_rejected hl (State.connectReason_target hroom hbad)
  · exact exec_cmConnectRequest_rejected hl ((State.connectReason_power hroom hok).trans (if_neg hoff))
  · exact exec_cmConnectRequest_made hl ((State.connectReason_power hroom hok).trans (if_pos hon))
  · rw [exec_qpError, State.qpFails_unknown h]
  · rw [exec_qpError, State.qpFails_again h he]
  · exact ⟨_, exec_qpError s qp, State.qpFails_qpFailed h he⟩
  · obtain ⟨-, -, -, hout⟩ := qpStep_qpFails (s.emit (.rdmaNakInvalid qp)) qp
    exact ⟨_, exec_rdmaUnsupported_refused hup h he, State.qpFails_qpFailed (s := s.emit (.rdmaNakInvalid qp)) h he, hout⟩
  · obtain ⟨t, hexec, hptd, hqs, hch, -⟩ := exec_cmDisconnect_known hup h
    exact ⟨_, hexec, Ptd.qp?_filter_self _ qp, fun n hn => Ptd.qp?_filter_other hqs hn, by rw [hptd], (hch 0).1, (hch 1).1⟩
  · exact exec_ethPortLinkUp_refused (h.imp_right fun h ⟨e, he, hp⟩ => h e he hp)
  · obtain ⟨t, hexec, hports, hqps, hsup, hmem⟩ := exec_ethPortLinkUp_gains hup h
    have hport (n : Nat) : t.ptd.port n = (p.onPort port.val fun e => { e with linkUp := true }).port n := Ptd.port_congr hports n
    refine ⟨t, hexec, (hport _).trans (Ptd.port_onPort_same ..), fun n hn => (hport n).trans (Ptd.port_onPort_other _ _ hn), hqps, hsup,
      hmem 0, hmem 1⟩
  · obtain ⟨hptd, ⟨hnums, -⟩, hch, -⟩ := qpStep_qpsFail (p.qps.filter fun q => q.port == port.val) (s.portDown port)
    have hport (n : Nat) : ((s.portDown port).qpsFail (p.qps.filter fun q => q.port == port.val)).ptd.port n = (s.portDown port).ptd.port n := by
      rw [hptd]
      rfl
    have hsame := (hport port.val).trans (Ptd.port_onPort_same ..)
    refine ⟨_, exec_ethPortLinkDown s port, ?_, fun n hn => (hport n).trans (Ptd.port_onPort_other _ _ hn), s.portDown_fails port, hnums,
      (hch 0).1, (hch 1).1⟩
    rw [hsame]
  · refine ⟨_, exec_congestionNotificationRx_up hup, ?_, fun hr => ?_, fun n hn => Ptd.port_onPort_other _ _ hn, rfl⟩
    · rw [Ptd.port_onPort_same]
      rfl
    · rw [Ptd.port_onPort_same]
      exact (p.port port.val).notified_rate s.freeVal hr

end Sys2Proof.Machine
end

section
/-! PROOFS. Host accesses by RDMA, and the sideband (R21, R378, R389, R390). -/

namespace Sys2Proof.Machine

/-! ### Refusal and discard -/

theorem exec_rdmaWrite (qp : Nat) (rkey : U32) (addr : Nat) (data : List Byte) (s : State) :
    exec (.rdmaWrite qp rkey addr data) s = .next (s.rdma qp rkey addr data.length (some data)) := rfl

theorem exec_rdmaRead (qp : Nat) (rkey : U32) (addr len : Nat) (s : State) :
    exec (.rdmaRead qp rkey addr len) s = .next (s.rdma qp rkey addr len none) := rfl

/-- An access was refused: the NAK is sent and counted, its QP has failed, and no memory or channel state has changed. -/
def State.accessRefused (s : State) (qp : Nat) (t : State) : Prop :=
  s.out ++ [.rdmaNakAccess qp] <+: t.out ∧ t.ptd.accessNak = satAdd s.ptd.accessNak 1 ∧ (∀ x ∈ t.ptd.qps, x.num = qp → x.error = true) ∧
    t.ch0.mem = s.ch0.mem ∧ t.ch1.mem = s.ch1.mem ∧ t.ch0.chn = s.ch0.chn ∧ t.ch1.chn = s.ch1.chn ∧ t.sup = s.sup

theorem State.nakAccess_refused {s : State} {qp : Nat} {q : Qp} (h : s.ptd.qp? qp = some q) (he : q.error = false) :
    s.accessRefused qp (s.nakAccess qp) := by
  obtain ⟨hptd, -, hch, hout⟩ := qpStep_qpFails (s.accessNak.emit (.rdmaNakAccess qp)) qp
  obtain ⟨herr, -⟩ := State.qpFails_qpFailed (s := s.accessNak.emit (.rdmaNakAccess qp)) h he
  refine ⟨hout, ?_, herr, (hch 0).1, (hch 1).1, (hch 0).2, (hch 1).2, (State.nakAccess_frame s qp).1⟩
  rw [State.nakAccess, hptd]
  rfl

theorem exec_rdmaWrite_refused {s : State} {qp : Nat} {q : Qp} {rkey : U32} {addr : Nat} {data : List Byte} (h : s.ptd.qp? qp = some q)
    (he : q.error = false) (hnak : s.rdma qp rkey addr data.length (some data) = s.nakAccess qp) :
    ∃ t, exec (.rdmaWrite qp rkey addr data) s = .next t ∧ s.accessRefused qp t :=
  ⟨_, congrArg Host.Outcome.next hnak, State.nakAccess_refused h he⟩

theorem exec_rdmaRead_refused {s : State} {qp : Nat} {q : Qp} {rkey : U32} {addr len : Nat} (h : s.ptd.qp? qp = some q)
    (he : q.error = false) (hnak : s.rdma qp rkey addr len none = s.nakAccess qp) :
    ∃ t, exec (.rdmaRead qp rkey addr len) s = .next t ∧ s.accessRefused qp t :=
  ⟨_, congrArg Host.Outcome.next hnak, State.nakAccess_refused h he⟩

/-- The count of accesses on a QP that is unknown or has failed. -/
def State.qpDiscards (s : State) : State := { s with ptd := { s.ptd with qpDiscard := satAdd s.ptd.qpDiscard 1 } }

section
variable {s : State} {qp : Nat} {q : Qp} {rkey : U32} {addr n : Nat} {wr : Option (List Byte)}

theorem State.hostDo_down (h : s.ptd.hostUp = false) (ok : Bool) (run : AccessRun) : s.hostDo qp ok addr n wr run = s := by
  simp [State.hostDo, h]

theorem State.hostDo_discarded (hup : s.ptd.hostUp = true) (h : s.ptd.qp? qp = none ∨ (s.ptd.qp? qp = some q ∧ q.error = true))
    (ok : Bool) (run : AccessRun) : s.hostDo qp ok addr n wr run = s.qpDiscards := by
  rcases h with h | ⟨h, he⟩
  · simp [State.hostDo, hup, h, State.qpDiscards]
  · simp [State.hostDo, hup, h, he, State.qpDiscards]

/-- Whatever the QP names, the access goes through the checks of `hostDo`. -/
theorem State.rdma_hostDo (s : State) (qp : Nat) (rkey : U32) (addr n : Nat) (wr : Option (List Byte)) :
    ∃ ok run, s.rdma qp rkey addr n wr = s.hostDo qp ok addr n wr run := by
  unfold State.rdma
  split
  · exact ⟨_, _, rfl⟩
  · exact ⟨_, _, rfl⟩

theorem State.rdma_down (h : s.ptd.hostUp = false) : s.rdma qp rkey addr n wr = s := by
  obtain ⟨ok, run, hrun⟩ := s.rdma_hostDo qp rkey addr n wr
  rw [hrun, State.hostDo_down h]

theorem State.rdma_discarded (hup : s.ptd.hostUp = true) (h : s.ptd.qp? qp = none ∨ (s.ptd.qp? qp = some q ∧ q.error = true)) :
    s.rdma qp rkey addr n wr = s.qpDiscards := by
  obtain ⟨ok, run, hrun⟩ := s.rdma_hostDo qp rkey addr n wr
  rw [hrun, State.hostDo_discarded hup h]

/-! ### An access on a QP of a channel -/

theorem State.hostDo_wrongKey (hup : s.ptd.hostUp = true) (h : s.ptd.qp? qp = some q) (he : q.error = false) (run : AccessRun) :
    s.hostDo qp false addr n wr run = s.nakAccess qp := by
  simp [State.hostDo, hup, h, he]

/-- The access goes to the channel's window, under the QP's key. -/
theorem State.rdma_window {c : ChanId} (h : s.ptd.qp? qp = some q) (ht : q.target = c.val) (rkey : U32) (addr n : Nat)
    (wr : Option (List Byte)) :
    s.rdma qp rkey addr n wr = s.hostDo qp (rkey == q.rkey) addr n wr (windowRun c (.host qp) addr n wr) := by
  have hc : targetChan q.target = some c := ht ▸ targetChan_val c
  simp [State.rdma, h, hc]

variable {c : ChanId} (hup : s.ptd.hostUp = true) (h : s.ptd.qp? qp = some q) (he : q.error = false) (ht : q.target = c.val)
include hup h he ht

theorem State.hostDo_unreached (hr : (s.ch c).hostReaches q addr n = false) (ok : Bool) (run : AccessRun) :
    s.hostDo qp ok addr n wr run = s.nakAccess qp := by
  have hc : targetChan q.target = some c := ht ▸ targetChan_val c
  cases ok <;> simp [State.hostDo, hup, h, he, hc, hr]

/-- Of a channel that is not available only a SET of its inbound doorbells is taken (R389). -/
theorem State.hostDo_unavailable (ha : (s.ch c).hostAvailable = false) (hset : wr = none ∨ setBell (addr - csrBase) = none) (ok : Bool)
    (run : AccessRun) : s.hostDo qp ok addr n wr run = s.nakAccess qp := by
  have hc : targetChan q.target = some c := ht ▸ targetChan_val c
  cases ok
  · exact State.hostDo_wrongKey hup h he run
  · cases hr : (s.ch c).hostReaches q addr n
    · exact State.hostDo_unreached hup h he ht hr true run
    · rcases hset with hset | hset <;> simp [State.hostDo, hup, h, he, hc, hr, ha, hset]

theorem State.hostDo_served (hr : (s.ch c).hostReaches q addr n = true) (ha : (s.ch c).hostAvailable = true) {run : AccessRun} {t : State}
    {data : List Byte} (hrun : ∀ w, run s w = (t, .ok, data)) :
    s.hostDo qp true addr n wr run = if wr.isSome then t.emit (.rdmaAck qp) else t.emit (.rdmaData qp data) := by
  have hc : targetChan q.target = some c := ht ▸ targetChan_val c
  simp [State.hostDo, hup, h, he, hc, hr, ha, hrun, State.hostAnswer]

end

/-! ### HBM by the host -/

theorem placeOf_hbm {addr n : Nat} (h : addr + n ≤ hbmSize) : placeOf addr n = some (.hbm addr) := if_pos h

/-- An HBM range is reached by a QP that is not secure or is bound, below the Badger area and outside Squirrel's (R378). -/
theorem Channel.hostReaches_hbm (ch : Channel) (q : Qp) {addr n : Nat} (h : addr + n ≤ hbmSize) : ch.hostReaches q addr n = true ↔
    (q.secure = false ∨ q.bound = true) ∧ addr + n ≤ badgerArea ∧ ch.touchesSpa addr n = false := by
  simp only [Channel.hostReaches, placeOf_hbm h, Bool.and_eq_true, Bool.or_eq_true, Bool.not_eq_true', decide_eq_true_eq]
  tauto

theorem Channel.hostAvailable_iff (ch : Channel) : ch.hostAvailable = true ↔
    ch.chn.state ≠ .reset ∧ (ch.domain.st = .active ∨ ch.domain.st = .idle) ∧ ch.dead = false := by
  simp [Channel.hostAvailable, and_assoc]

section
variable {s : State} {qp : Nat} {q : Qp} {rkey : U32} {addr n : Nat} {wr : Option (List Byte)} {c : ChanId}
  (hup : s.ptd.hostUp = true) (h : s.ptd.qp? qp = some q) (he : q.error = false) (ht : q.target = c.val)
include hup h he ht

/-- An HBM range that the QP is not granted or that it does not reach. -/
theorem State.rdma_unreached (hin : addr + n ≤ hbmSize)
    (hno : ¬ (q.secure = false ∨ q.bound = true) ∨ ¬ (addr + n ≤ badgerArea ∧ (s.ch c).touchesSpa addr n = false)) :
    s.rdma qp rkey addr n wr = s.nakAccess qp := by
  have hreach : (s.ch c).hostReaches q addr n = false := by
    rw [← Bool.not_eq_true, Channel.hostReaches_hbm _ q hin]
    exact not_and_or.mpr hno
  rw [State.rdma_window h ht, State.hostDo_unreached hup h he ht hreach]

theorem State.rdma_unavailable
    (hno : ¬ ((s.ch c).chn.state ≠ .reset ∧ ((s.ch c).domain.st = .active ∨ (s.ch c).domain.st = .idle) ∧ (s.ch c).dead = false))
    (hset : wr = none ∨ setBell (addr - csrBase) = none) : s.rdma qp rkey addr n wr = s.nakAccess qp := by
  rw [← Channel.hostAvailable_iff, Bool.not_eq_true] at hno
  rw [State.rdma_window h ht, State.hostDo_unavailable hup h he ht hno hset]

end

theorem badgerArea_le_hbmSize : badgerArea ≤ hbmSize := by decide

/-- No doorbell lies below the registers. -/
theorem setBell_hbm {addr n : Nat} (h : addr + n ≤ hbmSize) : setBell (addr - csrBase) = none := by
  have hbelow : hbmSize ≤ csrBase := by decide
  rw [Nat.sub_eq_zero_of_le (by omega)]
  rfl

theorem windowRun_write {addr : Nat} {data : List Byte} (h : addr + data.length ≤ hbmSize) (c : ChanId) (o : Origin) (s : State) (w : Writer) :
    windowRun c o addr data.length (some data) s w = (s.onCh c fun ch => ch.hbmWrite addr data, .ok, []) := by
  simp [windowRun, placeOf_hbm h]

/-- A read of clean HBM changes nothing. -/
theorem windowRun_read {addr n : Nat} (h : addr + n ≤ hbmSize) {c : ChanId} (o : Origin) {s : State} (hp : (s.ch c).mem.hbmPoison = [])
    (he : (s.ch c).mem.hbmErr = []) (w : Writer) : windowRun c o addr n none s w = (s, .ok, (s.ch c).hbmBytes addr n) := by
  simp [windowRun, placeOf_hbm h, State.readPlace, State.checkHbm, touchedLines, hp, he]

/-! ### The sideband -/

/-- The port die hears the chassis controller. -/
def Ptd.heard (p : Ptd) : Prop := p.up = true ∧ p.i3cAddr.isSome = true

theorem Ptd.not_heard_iff (p : Ptd) : ¬ p.heard ↔ (!p.up) = true ∨ p.i3cAddr.isNone = true := by
  cases hup : p.up <;> cases haddr : p.i3cAddr <;> simp [Ptd.heard, hup, haddr]

section
variable {s : State}

theorem exec_i3cEntdaa_up (a : BitVec 7) (h : s.ptd.up = true) :
    exec (.i3cEntdaa a) s = .next { s with ptd := { s.ptd with i3cAddr := some a } } := if_pos h

theorem exec_i3cEntdaa_down (a : BitVec 7) (h : s.ptd.up = false) : exec (.i3cEntdaa a) s = .next s := if_neg (by simp [h])

theorem exec_i3cSlotWrite_unheard (v : U16) (h : ¬ s.ptd.heard) : exec (.i3cSlotWrite v) s = .next s :=
  if_pos ((Ptd.not_heard_iff _).mp h)

theorem exec_i3cSlotWrite_again (v : U16) (h : s.ptd.heard) (ht : s.ptd.slotTaken = true) :
    exec (.i3cSlotWrite v) s = .next (s.emit .i3cAck) :=
  (if_neg (mt (Ptd.not_heard_iff _).mpr (not_not_intro h))).trans (if_pos ht)

/-- A channel that has been told the slot. -/
def Channel.slotted (ch : Channel) (n : BitVec 3) : Channel := { ch with wrn := { ch.wrn with slotValid := true, slot := n } }

theorem exec_i3cSlotWrite_first (v : U16) (h : s.ptd.heard) (ht : s.ptd.slotTaken = false) :
    exec (.i3cSlotWrite v) s = .next ({ s with
      ch0 := s.ch0.slotted (v.setWidth 3), ch1 := s.ch1.slotted (v.setWidth 3)
      ptd := { s.ptd with slotTaken := true, slotValid := true, slot := v.setWidth 3 } }.emit .i3cAck) :=
  (if_neg (mt (Ptd.not_heard_iff _).mpr (not_not_intro h))).trans (if_neg (by simp [ht]))

theorem exec_i3cAlertRead_unheard (h : ¬ s.ptd.heard) : exec .i3cAlertRead s = .next s := if_pos ((Ptd.not_heard_iff _).mp h)

theorem exec_i3cAlertRead_heard (h : s.ptd.heard) : exec .i3cAlertRead s =
    .next ({ s with ptd := { s.ptd with alertTemp := false, alertInput := false, alertHotswap := false } }.emit
      (.i3cData (BitVec.ofNat 16 s.ptd.alerts))) := if_neg (mt (Ptd.not_heard_iff _).mpr (not_not_intro h))

/-- Table 18-8: a bit for each cause. -/
theorem Ptd.alerts_eq (p : Ptd) :
    p.alerts = (if p.alertTemp then 1 else 0) + (if p.alertInput then 2 else 0) + if p.alertHotswap then 4 else 0 := by
  cases hin : p.alertInput <;> cases hhot : p.alertHotswap <;> simp [Ptd.alerts, b2n, at_, hin, hhot]

end

/-! ### The obligation -/

/-- Settles O54: an access by what its QP, key, range and channel let through, and the sideband's items. -/
theorem hostAccessesAndSideband : Obligations.HostAccessesAndSideband := by
  unfold Obligations.HostAccessesAndSideband
  intro c qp q rkey addr len data a v s ch p write read known available granted reaches nak discarded n3 slotted heard
  refine ⟨fun hd => ⟨?_, ?_⟩, fun hup h => ⟨?_, ?_⟩, fun ⟨hup, h, he, ht⟩ hkey hg ha hr => ?_,
    fun ⟨hup, h, he, ht⟩ hkey hg ha hr hpoison herr => ?_, fun ⟨hup, h, he, ht⟩ hkey => ?_, fun ⟨hup, h, he, ht⟩ hkey hin hno => ?_,
    fun ⟨hup, h, he, ht⟩ hkey hin hno => ?_, fun ⟨hup, h, he, ht⟩ hkey hno => ?_, fun ⟨hup, h, he, ht⟩ hkey hno hin => ?_,
    exec_i3cEntdaa_up a, exec_i3cEntdaa_down a, fun h => ⟨exec_i3cSlotWrite_unheard v h, exec_i3cAlertRead_unheard h⟩,
    exec_i3cSlotWrite_again v, exec_i3cSlotWrite_first v, fun h => ?_⟩
  · exact congrArg _ (State.rdma_down hd)
  · exact congrArg _ (State.rdma_down hd)
  · exact congrArg _ (State.rdma_discarded hup h)
  · exact congrArg _ (State.rdma_discarded hup h)
  · have hin := hr.1.trans badgerArea_le_hbmSize
    rw [exec_rdmaWrite, State.rdma_window h ht, hkey, beq_self_eq_true, State.hostDo_served hup h he ht
      ((ch.hostReaches_hbm q hin).mpr ⟨hg, hr⟩) (ch.hostAvailable_iff.mpr ha) (windowRun_write hin c _ s)]
    rfl
  · have hin := hr.1.trans badgerArea_le_hbmSize
    rw [exec_rdmaRead, State.rdma_window h ht, hkey, beq_self_eq_true, State.hostDo_served hup h he ht
      ((ch.hostReaches_hbm q hin).mpr ⟨hg, hr⟩) (ch.hostAvailable_iff.mpr ha) (windowRun_read hin _ hpoison herr)]
    rfl
  · have hbad : (rkey == q.rkey) = false := beq_false_of_ne hkey
    have hnak (n : Nat) (wr : Option (List Byte)) : s.rdma qp rkey addr n wr = s.nakAccess qp := by
      rw [State.rdma_window h ht, hbad, State.hostDo_wrongKey hup h he]
    exact ⟨exec_rdmaWrite_refused h he (hnak ..), exec_rdmaRead_refused h he (hnak ..)⟩
  · exact exec_rdmaRead_refused h he (State.rdma_unreached hup h he ht hin hno)
  · exact exec_rdmaWrite_refused h he (State.rdma_unreached hup h he ht hin hno)
  · exact exec_rdmaRead_refused h he (State.rdma_unavailable hup h he ht hno (.inl rfl))
  · exact exec_rdmaWrite_refused h he (State.rdma_unavailable hup h he ht hno (.inr (setBell_hbm hin)))
  · rw [exec_i3cAlertRead_heard h, Ptd.alerts_eq]

end Sys2Proof.Machine
end

section
/-! PROOFS. What every command leaves: the queue of those that wait, and the switches of the supply (R19, R404, R412). -/

namespace Sys2Proof.Machine

/-! ### What a command leads to -/

/-- A command that answers a next state answers one with this property. -/
def leadsTo (P : State → Prop) (r : Result) : Prop := ∀ t, r = .next t → P t

theorem leadsTo_next {P : State → Prop} {u : State} (h : P u) : leadsTo P (.next u) := by
  rintro t ⟨⟩
  exact h

theorem leadsTo_ite {P : State → Prop} {p : Prop} [Decidable p] {a b : Result} (ha : leadsTo P a) (hb : leadsTo P b) :
    leadsTo P (if p then a else b) := by
  split
  · exact ha
  · exact hb

/-- Supply and queue are as in `s`. -/
def sameFrame (s t : State) : Prop := t.sup = s.sup ∧ t.pending = s.pending

theorem leadsTo_sameFrame {s u : State} (h : u.sup = s.sup ∧ u.pending = s.pending) : leadsTo (sameFrame s) (.next u) := leadsTo_next h

/-- What the supply's output depends on. -/
def Supply.sameSwitches (x y : Supply) : Prop :=
  y.outputOn = x.outputOn ∧ y.pwrEn = x.pwrEn ∧ y.lockout = x.lockout ∧ y.converterOk = x.converterOk

/-! ### Commands of the supply -/

/-- The commands that turn the output on or off. -/
def powerCommands : List Instr :=
  [.powerUp, .pwrEnFall, .inputOvervoltage, .inputOvercurrent, .holdupExpiry, .autoRestart, .converterFault]

/-- The commands that tell the supply what it measures. -/
def measuresInput (i : Instr) : Bool :=
  match i with
  | .inputOutOfRange _ => true
  | .inputBackInRange => true
  | .holdupTimerClear => true
  | .tlmUpdate .. => true
  | _ => false

/-- The module management controller records an event in the port die. -/
theorem exec_power_pending (s : State) : ∀ i ∈ powerCommands, leadsTo (fun t => t.pending = s.pending) (exec i s) := by
  simp only [powerCommands, List.forall_mem_cons, List.not_mem_nil, false_implies, implies_true, and_true]
  refine ⟨leadsTo_ite (leadsTo_next rfl) (leadsTo_next ?_), leadsTo_next ?_, leadsTo_ite (leadsTo_next ?_) (leadsTo_next rfl),
    leadsTo_ite (leadsTo_next ?_) (leadsTo_next rfl), leadsTo_ite (leadsTo_next ?_) (leadsTo_next rfl),
    leadsTo_ite (leadsTo_next ?_) (leadsTo_next rfl), leadsTo_next ?_⟩
  all_goals simp

/-- A measurement switches nothing. -/
theorem exec_measures_switches {i : Instr} (s : State) (h : measuresInput i = true) :
    leadsTo (fun t => s.sup.sameSwitches t.sup ∧ t.pending = s.pending) (exec i s) := by
  cases i with
  | inputOutOfRange below =>
    rw [exec_inputOutOfRange]
    exact leadsTo_next ⟨⟨rfl, rfl, rfl, rfl⟩, rfl⟩
  | inputBackInRange => exact leadsTo_ite (leadsTo_next ⟨⟨rfl, rfl, rfl, rfl⟩, rfl⟩) (leadsTo_next ⟨⟨rfl, rfl, rfl, rfl⟩, rfl⟩)
  | holdupTimerClear => exact leadsTo_ite (leadsTo_next ⟨⟨rfl, rfl, rfl, rfl⟩, rfl⟩) (leadsTo_next ⟨⟨rfl, rfl, rfl, rfl⟩, rfl⟩)
  | tlmUpdate c hbm jct =>
    refine leadsTo_ite (leadsTo_next ⟨⟨rfl, rfl, rfl, rfl⟩, rfl⟩) (leadsTo_next ?_)
    simp [Supply.sameSwitches]
  | _ => cases h

/-! ### Every other command -/

/-- A command that is none of the supply's leaves the supply and the queue: the operations it runs do. -/
theorem exec_frame {i : Instr} (s : State) (hpower : i ∉ powerCommands) (h : measuresInput i = false) : leadsTo (sameFrame s) (exec i s) := by
  cases i
  case powerUp | pwrEnFall | inputOvervoltage | inputOvercurrent | holdupExpiry | autoRestart | converterFault =>
    exact absurd (by simp [powerCommands]) hpower
  case inputOutOfRange | inputBackInRange | holdupTimerClear | tlmUpdate => cases h
  -- Commands with one test before they act.
  case beatBoundary | beatAdmission | beatrefEdge | linkSignalDetect | linkTrainingTimeout | linkAuthTimeout | linkLossOfLock |
      linkRetrainDone | mgmtPartialTimeout | treeAdd | prefetch | settStageDeadline | domainStageDeadline | abandonBroadcast |
      hbmPatrolScrubStep | sramScrubStep | scrubDeadline | calKWriteback | owlPassDeadline | channelReset | bootComplete | entropyHealthFail
      | entropyRecover | installWriteDone | mbxFirmwareOpcode | watchdogExpiry | i3cEntdaa | i3cAlertRead | hbmTrainDone | cxlTrainDone |
      scanStoreCheck | thermTripTimer | refclkSysLoss | ethPortLinkUp | congestionNotificationRx =>
    exact leadsTo_ite (leadsTo_sameFrame (by simp)) (leadsTo_sameFrame (by simp))
  -- Commands with two.
  case timeRequest | timeResponse | timeAnnounce | linkFrameRx | linkAuth | linkRetrainFail | mgmtFragmentRx | routeUpdate | adopt |
      loanOffer | domainDrainDone | owlChunkDone | i3cSlotWrite | historyRingLoad =>
    exact leadsTo_ite (leadsTo_sameFrame (by simp)) (leadsTo_ite (leadsTo_sameFrame (by simp)) (leadsTo_sameFrame (by simp)))
  -- A command of a task or of its slot looks for it first.
  case taskDispatch | taskComplete | opIssue | fence | tileDrain | pageWalk | cowFirstWrite | slotFill =>
    simp only [exec, execTaskDispatch, execTaskComplete, execOpIssue, execFence, execTileDrain, execPageWalk, execCowFirstWrite,
      execSlotFill]
    (repeat' split) <;> exact leadsTo_sameFrame (by simp)
  -- A command of a request, a packet or a link in training goes by what it meets.
  case timeRequestTimer | remoteResponse | rspTimeoutExpiry | lostAfterExpiry | packetRoute | linkTrainingDone =>
    simp only [exec, execTimeRequestTimer, execRemoteResponse, execRspTimeoutExpiry, execLostAfterExpiry, execPacketRoute,
      execLinkTrainingDone]
    (repeat' split) <;> exact leadsTo_sameFrame (by simp)
  -- So does one of a sample, a permute, a transfer, a stream, an incident or a wake.
  case sampleCopyDone | permuteComplete | dmaDescComplete | streamVerifyDone | holdoffExpiry | domainWakeDone | domainWakeFail =>
    simp only [exec, execSampleCopyDone, execPermuteComplete, execDmaDescComplete, execStreamVerifyDone, execHoldoffExpiry,
      execDomainWakeDone, execDomainWakeFail]
    (repeat' split) <;> exact leadsTo_sameFrame (by simp)
  -- And one of the host port.
  case cmConnectRequest | rdmaUnsupported | mbxEqCiWrite | eventRecordPost | cmDisconnect =>
    simp only [exec, execCmConnectRequest, execRdmaUnsupported, execMbxEqCiWrite, execEventRecordPost, execCmDisconnect]
    (repeat' split) <;> exact leadsTo_sameFrame (by simp)
  -- An operation at its target, by its place.
  case get | put | putAdd =>
    refine leadsTo_sameFrame (State.atTarget_frame _ _ _ _ _ fun t pl => ?_)
    cases pl <;> simp
  -- A request in a secure mailbox, by what it asks for.
  case sessionHello =>
    refine leadsTo_sameFrame (State.serve_frame _ _ _ _ _ _ fun t l => State.fragment_frame _ _ _ _ _ fun u x => ?_)
    dsimp only
    (repeat' split) <;> simp
  case lifecycleInstall =>
    refine leadsTo_sameFrame (State.install_frame _ _ _ _ _ _ _ fun t l => ?_)
    split <;> simp
  case settingsWrite =>
    refine leadsTo_sameFrame (State.serve_frame _ _ _ _ _ _ fun t l => State.fragment_frame _ _ _ _ _ fun u x => ?_)
    dsimp only
    (repeat' split) <;> simp
  -- Every other command is one operation on the state.
  all_goals exact leadsTo_sameFrame (by simp)

/-! ### The obligation -/

/-- Settles O58: the commands that switch the supply keep the queue, those that measure keep its switches too, and every other one keeps the
whole supply. -/
theorem commandsLeaveQueueAndSupply : Obligations.CommandsLeaveQueueAndSupply := by
  unfold Obligations.CommandsLeaveQueueAndSupply
  intro i s t hexec
  by_cases hpower : i ∈ powerCommands
  · exact ⟨exec_power_pending s i hpower t hexec, fun h => absurd hpower h⟩
  cases hmeasures : measuresInput i with
  | true =>
    obtain ⟨hsup, hpending⟩ := exec_measures_switches s hmeasures t hexec
    exact ⟨hpending, fun _ => hsup⟩
  | false =>
    obtain ⟨hsup, hpending⟩ := exec_frame s hpower hmeasures t hexec
    refine ⟨hpending, fun _ => ?_⟩
    rw [hsup]
    exact ⟨rfl, rfl, rfl, rfl⟩

end Sys2Proof.Machine
end

section
/-! PROOFS. What keeps the number of the beat: every operation that a boundary runs after it has begun the beat (R33). -/

namespace Sys2Proof.Machine

/-! ### Choices and repetitions -/

@[simp] theorem Channel.number_ite (p : Prop) [Decidable p] (a b : Channel) :
    (if p then a else b).beat.number = if p then a.beat.number else b.beat.number := by
  split <;> rfl

@[simp] theorem State.ch_ite (p : Prop) [Decidable p] (a b : State) (c : ChanId) :
    (if p then a else b).ch c = if p then a.ch c else b.ch c := by
  split <;> rfl

@[simp] theorem State.emitAll_ch (s : State) (l : List Out) (c : ChanId) : (s.emitAll l).ch c = s.ch c := rfl

@[simp] theorem State.mmcEvent_ch (s : State) (code : Nat) (c : ChanId) : (s.mmcEvent code).ch c = s.ch c := by
  unfold State.mmcEvent
  split <;> rfl

@[simp] theorem foldl_number {β : Type} (f : Channel → β → Channel) (h : ∀ k b, (f k b).beat.number = k.beat.number)
    (l : List β) (k : Channel) : (l.foldl f k).beat.number = k.beat.number := by
  induction l generalizing k with
  | nil => rfl
  | cons b r ih => exact (ih _).trans (h k b)

@[simp] theorem foldl_ch_number {β : Type} (c : ChanId) (f : State → β → State)
    (h : ∀ s b, ((f s b).ch c).beat.number = (s.ch c).beat.number) (l : List β) (s : State) :
    ((l.foldl f s).ch c).beat.number = (s.ch c).beat.number := by
  induction l generalizing s with
  | nil => rfl
  | cons b r ih => exact (ih _).trans (h s b)

@[simp] theorem foldl_fst_ch_number {β γ : Type} (c : ChanId) (f : State × γ → β → State × γ)
    (h : ∀ s b, ((f s b).1.ch c).beat.number = (s.1.ch c).beat.number) (l : List β) (s : State × γ) :
    ((l.foldl f s).1.ch c).beat.number = (s.1.ch c).beat.number := by
  induction l generalizing s with
  | nil => rfl
  | cons b r ih => exact (ih _).trans (h s b)

/-! ### Tasks, domains and events -/

@[simp] theorem Channel.onDomain_number (ch : Channel) (d : Nat) (f : Domain → Domain) :
    (ch.onDomain d f).beat.number = ch.beat.number := by rfl

@[simp] theorem Channel.onTask_number (ch : Channel) (core slot : Nat) (f : Task → Task) :
    (ch.onTask core slot f).beat.number = ch.beat.number := by rfl

@[simp] theorem Channel.raise_number (ch : Channel) (c : ChanId) (code : Nat) (detail : Option Nat) (tag : Nat) :
    (ch.raise c code detail tag).beat.number = ch.beat.number := by simp [Channel.raise, Channel.raiseEach]

/-! ### Incidents and health -/

@[simp] theorem Channel.onHealth_number (ch : Channel) (p : Nat) (f : CoreHealth → CoreHealth) :
    (ch.onHealth p f).beat.number = ch.beat.number := by rfl

@[simp] theorem Channel.report_number (ch : Channel) (c : ChanId) (code : Nat) (source : U8) (u : SuspectUnit) (second : Option Nat)
    (pair : Option (Nat × Nat)) (fill : FaultRec → FaultRec) :
    (ch.report c code source u second pair fill).beat.number = ch.beat.number := by simp [Channel.report, Channel.appendRecord]

/-! ### The memories -/

@[simp] theorem Channel.hbmWrite_number (ch : Channel) (a : Nat) (bytes : List Byte) :
    (ch.hbmWrite a bytes).beat.number = ch.beat.number := by rfl

@[simp] theorem Channel.sramWrite_number (ch : Channel) (p off : Nat) (bytes : List Byte) :
    (ch.sramWrite p off bytes).beat.number = ch.beat.number := by rfl

@[simp] theorem State.scrambleSram_number (s : State) (c : ChanId) (l : List (Nat × Nat)) :
    ((s.scrambleSram c l).ch c).beat.number = (s.ch c).beat.number := by simp [State.scrambleSram]

/-! ### Links and remote requests -/

@[simp] theorem Channel.onLink_number (ch : Channel) (l : Nat) (f : Link → Link) : (ch.onLink l f).beat.number = ch.beat.number := by rfl

@[simp] theorem State.sendLink_number (s : State) (c : ChanId) (l : LinkId) :
    ((s.sendLink c l).ch c).beat.number = (s.ch c).beat.number := by simp [State.sendLink]

@[simp] theorem State.enqueue_number (s : State) (c : ChanId) (l : LinkId) (p : Packet) :
    ((s.enqueue c l p).ch c).beat.number = (s.ch c).beat.number := by simp [State.enqueue]

@[simp] theorem Channel.routeErr_number (ch : Channel) (c : ChanId) :
    (ch.routeErr c).beat.number = ch.beat.number := by simp [Channel.routeErr]

@[simp] theorem State.issueNow_number (s : State) (c : ChanId) (owner : ReqOwner) (agent : Nat) (op : RemOp) (dmaOff : Nat) :
    ((s.issueNow c owner agent op dmaOff).1.ch c).beat.number = (s.ch c).beat.number := by
  unfold State.issueNow
  dsimp only
  (repeat' split) <;> simp

@[simp] theorem State.issue_number (s : State) (c : ChanId) (owner : ReqOwner) (agent : Nat) (op : RemOp) (dmaOff : Nat) :
    ((s.issue c owner agent op dmaOff).1.ch c).beat.number = (s.ch c).beat.number := by simp [State.issue]

@[simp] theorem Channel.countCode_number (ch : Channel) (c : ChanId) (code : CompCode) :
    (ch.countCode c code).beat.number = ch.beat.number := by
  unfold Channel.countCode
  split <;> simp

@[simp] theorem State.sendOp_number (s : State) (c : ChanId) (owner : ReqOwner) (agent : Nat) (op : RemOp) :
    ((s.sendOp c owner agent op).ch c).beat.number = (s.ch c).beat.number := by
  unfold State.sendOp
  dsimp only
  split <;> simp

/-! ### Pages, frames and pins -/

@[simp] theorem Channel.onHbmFrame_number (ch : Channel) (n : Nat) (f : Frame → Frame) :
    (ch.onHbmFrame n f).beat.number = ch.beat.number := by rfl

@[simp] theorem Channel.onBackFrame_number (ch : Channel) (n : Nat) (f : Frame → Frame) :
    (ch.onBackFrame n f).beat.number = ch.beat.number := by rfl

@[simp] theorem Channel.frameAdjust_number (ch : Channel) (l : List (Nat × Int × Int)) :
    (ch.frameAdjust l).beat.number = ch.beat.number := by simp [Channel.frameAdjust]

@[simp] theorem Channel.cancelSpill_number (ch : Channel) (n : Nat) : (ch.cancelSpill n).beat.number = ch.beat.number := by
  unfold Channel.cancelSpill
  split <;> simp

@[simp] theorem Channel.pin_number (ch : Channel) (n : Nat) : (ch.pin n).beat.number = ch.beat.number := by simp [Channel.pin]

@[simp] theorem Channel.setRegion_number (ch : Channel) (r : Nat) (v : Region) : (ch.setRegion r v).beat.number = ch.beat.number := by rfl

@[simp] theorem Channel.setPte_number (ch : Channel) (r p : Nat) (v : Pte) : (ch.setPte r p v).beat.number = ch.beat.number := by rfl

@[simp] theorem Channel.releasePins_number (ch : Channel) (t : Task) (l : List (Nat × Int × Int)) :
    (ch.releasePins t l).beat.number = ch.beat.number := by simp [Channel.releasePins]

@[simp] theorem Channel.endWrites_number (ch : Channel) (t : Task) : (ch.endWrites t).beat.number = ch.beat.number := by rfl

@[simp] theorem Channel.repointWrites_number (ch : Channel) (t : Task) :
    (ch.repointWrites t).beat.number = ch.beat.number := by simp [Channel.repointWrites]

/-! ### The end of a task -/

@[simp] theorem State.scrambleAt_number (s : State) (c : ChanId) (a n : Nat) :
    ((s.scrambleAt c a n).ch c).beat.number = (s.ch c).beat.number := by
  unfold State.scrambleAt Channel.cxlWrite
  split <;> simp

@[simp] theorem State.stopXfers_number (s : State) (c : ChanId) (t : Task) :
    ((s.stopXfers c t).ch c).beat.number = (s.ch c).beat.number := by simp [State.stopXfers]

@[simp] theorem Channel.creditBack_number (ch : Channel) (t : Task) :
    (ch.creditBack t).beat.number = ch.beat.number := by simp [Channel.creditBack]

@[simp] theorem Channel.dropSample_number (ch : Channel) (id : Option Nat) : (ch.dropSample id).beat.number = ch.beat.number := by
  unfold Channel.dropSample
  split <;> simp

@[simp] theorem Channel.leaveSlot_number (ch : Channel) (t : Task) (l : List (Nat × Int × Int)) :
    (ch.leaveSlot t l).beat.number = ch.beat.number := by simp [Channel.leaveSlot, Channel.dropTask, Channel.orphanReqs]

@[simp] theorem Channel.giveUp_number (ch : Channel) (t : Task) : (ch.giveUp t).beat.number = ch.beat.number := by simp [Channel.giveUp]

@[simp] theorem Channel.fxFlags_number (ch : Channel) (c : ChanId) (ovf ufl : Bool) :
    (ch.fxFlags c ovf ufl).beat.number = ch.beat.number := by simp [Channel.fxFlags]

@[simp] theorem State.cutTile_number (s : State) (c : ChanId) (t : Task) : ((s.cutTile c t).ch c).beat.number = (s.ch c).beat.number := by
  unfold State.cutTile
  split <;> simp

@[simp] theorem State.abortTask_number (s : State) (c : ChanId) (t : Task) (overruns : Nat) :
    ((s.abortTask c t overruns).ch c).beat.number = (s.ch c).beat.number := by simp [State.abortTask]

@[simp] theorem State.faultTask_number (s : State) (c : ChanId) (t : Task) (code : Nat) :
    ((s.faultTask c t code).ch c).beat.number = (s.ch c).beat.number := by simp [State.faultTask, Channel.lastFault]

@[simp] theorem State.faultAll_number (s : State) (c : ChanId) (code : Nat) (l : List Task) :
    ((s.faultAll c code l).ch c).beat.number = (s.ch c).beat.number := by
  refine foldl_ch_number c _ (fun r u => ?_) l s
  split <;> simp

/-! ### Checked reads -/

@[simp] theorem Channel.hbmCorrected_number (ch : Channel) (c : ChanId) (off : Nat) :
    (ch.hbmCorrected c off).beat.number = ch.beat.number := by simp [Channel.hbmCorrected]

@[simp] theorem Channel.hbmFailed_number (ch : Channel) (c : ChanId) (off : Nat) (src : UeSource) :
    (ch.hbmFailed c off src).beat.number = ch.beat.number := by simp [Channel.hbmFailed]

@[simp] theorem State.readLine_number (s : State) (c : ChanId) (src : UeSource) (line : Nat) :
    ((s.readLine c src line).1.ch c).beat.number = (s.ch c).beat.number := by simp [State.readLine]

@[simp] theorem State.checkHbm_number (s : State) (c : ChanId) (a n : Nat) :
    ((s.checkHbm c a n).1.ch c).beat.number = (s.ch c).beat.number := by simp [State.checkHbm]

/-! ### Squirrel -/

@[simp] theorem Channel.releaseBack_number (ch : Channel) (n : Nat) : (ch.releaseBack n).beat.number = ch.beat.number := by
  unfold Channel.releaseBack
  split <;> simp

@[simp] theorem Channel.dropRefs_number (ch : Channel) (l : List Pte) :
    (ch.dropRefs l).beat.number = ch.beat.number := by simp [Channel.dropRefs]

@[simp] theorem Channel.invalidatePte_number (ch : Channel) (r p : Nat) :
    (ch.invalidatePte r p).beat.number = ch.beat.number := by simp [Channel.invalidatePte]

@[simp] theorem Channel.transitServed_number (ch : Channel) (r p : Nat) (f : TransitUse → TransitUse) :
    (ch.transitServed r p f).beat.number = ch.beat.number := by
  unfold Channel.transitServed
  split <;> simp

@[simp] theorem Channel.transitRead_number (ch : Channel) (t : Task) :
    (ch.transitRead t).beat.number = ch.beat.number := by simp [Channel.transitRead]

@[simp] theorem Channel.releaseRegion_number (ch : Channel) (r : Nat) :
    (ch.releaseRegion r).beat.number = ch.beat.number := by simp [Channel.releaseRegion]

@[simp] theorem Channel.share_number (ch : Channel) (src dst first count : Nat) :
    (ch.share src dst first count).beat.number = ch.beat.number := by simp [Channel.share]

@[simp] theorem Channel.runKvActs_number (ch : Channel) (l : List KvAct) : (ch.runKvActs l).beat.number = ch.beat.number := by
  refine foldl_number _ (fun k a => ?_) l ch
  split <;> simp

@[simp] theorem State.issueMove_number (s : State) (c : ChanId) (spill : Bool) (frame : Nat) (ops : List (Nat × RemOp)) :
    ((s.issueMove c spill frame ops).ch c).beat.number = (s.ch c).beat.number := by
  refine foldl_ch_number c _ (fun r e => ?_) ops s
  dsimp only
  split <;> simp

@[simp] theorem State.startSpill_number (s : State) (c : ChanId) (p : Pool) (n : Nat) :
    ((s.startSpill c p n).1.ch c).beat.number = (s.ch c).beat.number := by
  unfold State.startSpill
  dsimp only
  split <;> simp

@[simp] theorem State.spillSelect_number (s : State) (c : ChanId) :
    ((s.spillSelect c).ch c).beat.number = (s.ch c).beat.number := by simp [State.spillSelect]

@[simp] theorem State.retryMoves_number (s : State) (c : ChanId) :
    ((s.retryMoves c).ch c).beat.number = (s.ch c).beat.number := by simp [State.retryMoves]

@[simp] theorem Channel.deferredFree_number (ch : Channel) : ch.deferredFree.beat.number = ch.beat.number := by simp [Channel.deferredFree]

@[simp] theorem Channel.rebuildPtes_number (ch : Channel) : ch.rebuildPtes.beat.number = ch.beat.number := by simp [Channel.rebuildPtes]

@[simp] theorem Channel.walkSwitch_number (ch : Channel) : ch.walkSwitch.beat.number = ch.beat.number := by
  unfold Channel.walkSwitch
  split <;> simp

@[simp] theorem Channel.showFree_number (ch : Channel) : ch.showFree.beat.number = ch.beat.number := by rfl

/-! ### Layouts -/

@[simp] theorem Channel.openTransit_number (ch : Channel) : ch.openTransit.beat.number = ch.beat.number := by simp [Channel.openTransit]

@[simp] theorem Channel.applyLayout_number (ch : Channel) (l : LayoutData) :
    (ch.applyLayout l).beat.number = ch.beat.number := by simp [Channel.applyLayout]

/-! ### Steps -/

@[simp] theorem Channel.abandonStep_number (ch : Channel) (c : ChanId) :
    (ch.abandonStep c).beat.number = ch.beat.number := by simp [Channel.abandonStep]

/-! ### The exchange -/

@[simp] theorem Channel.onBucket_number (ch : Channel) (b : Nat) (f : Bucket → Bucket) :
    (ch.onBucket b f).beat.number = ch.beat.number := by rfl

@[simp] theorem Channel.addCarried_number (ch : Channel) (b : Nat) : (ch.addCarried b).beat.number = ch.beat.number := by
  unfold Channel.addCarried
  split <;> simp

@[simp] theorem State.flagStep_number (s : State) (c : ChanId) (fail : Bool) :
    ((s.flagStep c fail).ch c).beat.number = (s.ch c).beat.number := by simp [State.flagStep]

@[simp] theorem State.flagFail_number (s : State) (c : ChanId) :
    ((s.flagFail c).ch c).beat.number = (s.ch c).beat.number := by simp [State.flagFail]

@[simp] theorem State.flagOk_number (s : State) (c : ChanId) :
    ((s.flagOk c).ch c).beat.number = (s.ch c).beat.number := by simp [State.flagOk]

@[simp] theorem State.failBucket_number (s : State) (c : ChanId) (b : Nat) :
    ((s.failBucket c b).ch c).beat.number = (s.ch c).beat.number := by simp [State.failBucket]

/-! ### Badger -/

@[simp] theorem Channel.logTaint_number (ch : Channel) (p : Nat) (tag : U32) :
    (ch.logTaint p tag).beat.number = ch.beat.number := by simp [Channel.logTaint]

@[simp] theorem Channel.onIncident_number (ch : Channel) (p : Incident → Bool) (f : Incident → Incident) :
    (ch.onIncident p f).beat.number = ch.beat.number := by rfl

@[simp] theorem State.coreAtFault_number (s : State) (c : ChanId) (p : Nat) :
    ((s.coreAtFault c p).ch c).beat.number = (s.ch c).beat.number := by simp [State.coreAtFault]

@[simp] theorem Channel.bind_number (ch : Channel) (l : Nat) (p : Option Nat) : (ch.bind l p).beat.number = ch.beat.number := by rfl

@[simp] theorem Channel.showDegraded_number (ch : Channel) : ch.showDegraded.beat.number = ch.beat.number := by rfl

@[simp] theorem Channel.fence_number (ch : Channel) (c : ChanId) (p l : Nat) : (ch.fence c p l).beat.number = ch.beat.number := by
  unfold Channel.fence Channel.copySram
  split <;> simp

@[simp] theorem Channel.applyFences_number (ch : Channel) (c : ChanId) : (ch.applyFences c).beat.number = ch.beat.number := by
  unfold Channel.applyFences
  refine foldl_number _ (fun k p => ?_) _ ch
  (repeat' split) <;> simp

@[simp] theorem Channel.bindReturned_number (ch : Channel) : ch.bindReturned.beat.number = ch.beat.number := by simp [Channel.bindReturned]

@[simp] theorem Channel.checkDup_number (ch : Channel) (c : ChanId) :
    (ch.checkDup c).beat.number = ch.beat.number := by simp [Channel.checkDup]

@[simp] theorem Channel.bdgApply_number (ch : Channel) (c : ChanId) : (ch.bdgApply c).beat.number = ch.beat.number := by
  unfold Channel.bdgApply
  dsimp only
  split <;> split <;> simp

/-! ### The ledger -/

@[simp] theorem State.ledgBoundary_number (s : State) (c : ChanId) (b : Nat) :
    ((s.ledgBoundary c b).ch c).beat.number = (s.ch c).beat.number := by simp [State.ledgBoundary]

@[simp] theorem Channel.chargeCarry_number (ch : Channel) (t : Task) (back : Bool) :
    (ch.chargeCarry t back).beat.number = ch.beat.number := by rfl

/-! ### Settings that wait for a boundary -/

@[simp] theorem Channel.bindAll_number (ch : Channel) : ch.bindAll.beat.number = ch.beat.number := by simp [Channel.bindAll]

@[simp] theorem Channel.clearCounters_number (ch : Channel) :
    ch.clearCounters.beat.number = ch.beat.number := by simp [Channel.clearCounters]

@[simp] theorem Channel.applyStream_number (ch : Channel) (c : ChanId) (st : Stream) :
    (ch.applyStream c st).beat.number = ch.beat.number := by
  unfold Channel.applyStream
  dsimp only
  split <;> simp

@[simp] theorem Channel.releaseAll_number (ch : Channel) : ch.releaseAll.beat.number = ch.beat.number := by simp [Channel.releaseAll]

@[simp] theorem Channel.setPhase_number (ch : Channel) (p : Phase) :
    (ch.setPhase p).beat.number = ch.beat.number := by simp [Channel.setPhase]

@[simp] theorem Channel.closeStream_number (ch : Channel) : ch.closeStream.beat.number = ch.beat.number := by simp [Channel.closeStream]

@[simp] theorem Channel.finishUnload_number (ch : Channel) (c : ChanId) : (ch.finishUnload c).beat.number = ch.beat.number := by
  unfold Channel.finishUnload
  (repeat' split) <;> simp

/-! ### Samples -/

@[simp] theorem Channel.onSample_number (ch : Channel) (id : Nat) (f : Sample → Sample) :
    (ch.onSample id f).beat.number = ch.beat.number := by rfl

@[simp] theorem Channel.endSample_number (ch : Channel) (id : Nat) : (ch.endSample id).beat.number = ch.beat.number := by rfl

@[simp] theorem Channel.startCopy_number (ch : Channel) (id : Nat) : (ch.startCopy id).beat.number = ch.beat.number := by
  unfold Channel.startCopy
  split <;> simp

@[simp] theorem Channel.dropCopies_number (ch : Channel) : ch.dropCopies.beat.number = ch.beat.number := by simp [Channel.dropCopies]

@[simp] theorem State.fillArea_number (s : State) (c : ChanId) (core : Nat) (t : TileRec) (d : TaskDesc) :
    ((s.fillArea c core t d).ch c).beat.number = (s.ch c).beat.number := by simp [State.fillArea]

@[simp] theorem State.unresolved_number (s : State) (c : ChanId) (pn pp : Nat) :
    ((s.unresolved c pn pp).ch c).beat.number = (s.ch c).beat.number := by simp [State.unresolved]

@[simp] theorem State.pairMismatch_number (s : State) (c : ChanId) (x : Sample) (pp : Nat) :
    ((s.pairMismatch c x pp).ch c).beat.number = (s.ch c).beat.number := by
  unfold State.pairMismatch
  dsimp only
  split <;> split <;> simp

@[simp] theorem State.dupCompare_number (s : State) (c : ChanId) (id : Nat) (digest : U64) :
    ((s.dupCompare c id digest).ch c).beat.number = (s.ch c).beat.number := by
  unfold State.dupCompare Channel.advanceClean Channel.pairToCore
  dsimp only
  split <;> simp

/-! ### Checks of the update -/

@[simp] theorem State.checkAll_number (s : State) (c : ChanId) (l : List (Nat × Nat)) :
    ((s.checkAll c l).1.ch c).beat.number = (s.ch c).beat.number := by simp [State.checkAll]

/-! ### Completion -/

@[simp] theorem Channel.completeEffects_number (ch : Channel) (t : Task) :
    (ch.completeEffects t).beat.number = ch.beat.number := by simp [Channel.completeEffects]

@[simp] theorem State.completeTask_number (s : State) (c : ChanId) (t : Task) (digest : U64) :
    ((s.completeTask c t digest).ch c).beat.number = (s.ch c).beat.number := by
  unfold State.completeTask
  (repeat' split) <;> simp

/-! ### Responses and repeats -/

@[simp] theorem Channel.saveContext_number (ch : Channel) (t : Task) : (ch.saveContext t).beat.number = ch.beat.number := by
  unfold Channel.saveContext
  dsimp only
  (repeat' split) <;> simp

@[simp] theorem Channel.park_number (ch : Channel) (core slot : Nat) (cause : ParkCause) :
    (ch.park core slot cause).beat.number = ch.beat.number := by
  unfold Channel.park
  split <;> simp

@[simp] theorem State.taskFails_number (s : State) (c : ChanId) (t : Task) (code : CompCode) :
    ((s.taskFails c t code).ch c).beat.number = (s.ch c).beat.number := by simp [State.taskFails]

@[simp] theorem Channel.parkGone_number (ch : Channel) (c : ChanId) (t : Task) (op : RemOp) :
    (ch.parkGone c t op).beat.number = ch.beat.number := by simp [Channel.parkGone]

@[simp] theorem State.taskCode_number (s : State) (c : ChanId) (t : Task) (op : RemOp) (code : CompCode) :
    ((s.taskCode c t op code).ch c).beat.number = (s.ch c).beat.number := by simp [State.taskCode]

@[simp] theorem State.codeAt_number (s : State) (c : ChanId) (core slot : Nat) (op : RemOp) (code : CompCode) :
    ((s.codeAt c core slot op code).ch c).beat.number = (s.ch c).beat.number := by
  unfold State.codeAt
  split <;> simp

@[simp] theorem State.bucketGone_number (s : State) (c : ChanId) (op : RemOp) (code : CompCode) :
    ((s.bucketGone c op code).ch c).beat.number = (s.ch c).beat.number := by
  unfold State.bucketGone
  split <;> simp

@[simp] theorem Channel.pinForward_number (ch : Channel) (op : RemOp) : (ch.pinForward op).beat.number = ch.beat.number := by
  unfold Channel.pinForward
  split <;> simp

@[simp] theorem State.issueFor_number (s : State) (c : ChanId) (core slot agent : Nat) (op : RemOp) :
    ((s.issueFor c core slot agent op).1.ch c).beat.number = (s.ch c).beat.number := by
  unfold State.issueFor
  dsimp only
  split <;> simp

@[simp] theorem State.issueOp_number (s : State) (c : ChanId) (core slot : Nat) (op : RemOp) :
    ((s.issueOp c core slot op).ch c).beat.number = (s.ch c).beat.number := by
  unfold State.issueOp Channel.countSat
  dsimp only
  (repeat' split) <;> simp

@[simp] theorem State.resume_number (s : State) (c : ChanId) (core slot : Nat) :
    ((s.resume c core slot).ch c).beat.number = (s.ch c).beat.number := by
  unfold State.resume
  (repeat' split) <;> simp

@[simp] theorem State.retryTask_number (s : State) (c : ChanId) (t : Task) :
    ((s.retryTask c t).ch c).beat.number = (s.ch c).beat.number := by simp [State.retryTask]

@[simp] theorem State.retryTasks_number (s : State) (c : ChanId) :
    ((s.retryTasks c).ch c).beat.number = (s.ch c).beat.number := by simp [State.retryTasks]

/-! ### Transfers -/

@[simp] theorem State.dmaCode_number (s : State) (c : ChanId) (x : Nat) (o : DmaOwner) (code : CompCode) :
    ((s.dmaCode c x o code).ch c).beat.number = (s.ch c).beat.number := by
  unfold State.dmaCode
  dsimp only
  split <;> simp

@[simp] theorem State.dmaPartCode_number (s : State) (c : ChanId) (x : Xfer) (off : Nat) (op : RemOp) (code : CompCode) :
    ((s.dmaPartCode c x off op code).ch c).beat.number = (s.ch c).beat.number := by
  unfold State.dmaPartCode
  split <;> simp

@[simp] theorem State.dmaIssue_number (s : State) (c : ChanId) (x : Xfer) (ops : List (Nat × RemOp)) :
    ((s.dmaIssue c x ops).ch c).beat.number = (s.ch c).beat.number := by
  refine foldl_ch_number c _ (fun r e => ?_) ops s
  dsimp only
  (repeat' split) <;> simp

@[simp] theorem State.retryXfer_number (s : State) (c : ChanId) (x : Xfer) :
    ((s.retryXfer c x).ch c).beat.number = (s.ch c).beat.number := by
  unfold State.retryXfer
  dsimp only
  split
  · rfl
  · rw [State.dmaIssue_number, State.ch_onCh]
    (repeat' split) <;> simp

@[simp] theorem State.retryXfers_number (s : State) (c : ChanId) :
    ((s.retryXfers c).ch c).beat.number = (s.ch c).beat.number := by simp [State.retryXfers]

/-! ### Tasks that wait -/

@[simp] theorem Channel.awaitReturns_number (ch : Channel) (c : ChanId) (l : List DmaDesc) :
    (ch.awaitReturns c l).beat.number = ch.beat.number := by simp [Channel.awaitReturns]

@[simp] theorem Channel.awaitPlanned_number (ch : Channel) (c : ChanId) :
    (ch.awaitPlanned c).beat.number = ch.beat.number := by simp [Channel.awaitPlanned]

/-! ### Owl -/

@[simp] theorem Channel.owlBoundary_number (ch : Channel) : ch.owlBoundary.beat.number = ch.beat.number := by
  unfold Channel.owlBoundary
  dsimp only
  (repeat' split) <;> simp

/-! ### The thermal loop -/

@[simp] theorem State.thermalStep_number (s : State) (c : ChanId) :
    ((s.thermalStep c).ch c).beat.number = (s.ch c).beat.number := by simp [State.thermalStep]

/-! ### The boundary -/

@[simp] theorem Channel.countOverrun_number (ch : Channel) (c : ChanId) (n : Nat) :
    (ch.countOverrun c n).beat.number = ch.beat.number := by simp [Channel.countOverrun]

@[simp] theorem State.settleTask_number (s : State) (c : ChanId) (t : Task) :
    ((s.settleTask c t).ch c).beat.number = (s.ch c).beat.number := by
  unfold State.settleTask
  split <;> simp

@[simp] theorem State.settleAll_number (s : State) (c : ChanId) : ((s.settleAll c).ch c).beat.number = (s.ch c).beat.number := by
  refine foldl_ch_number c _ (fun r u => ?_) _ s
  split <;> simp

@[simp] theorem Channel.stopAt_number (ch : Channel) : ch.stopAt.beat.number = ch.beat.number := by simp [Channel.stopAt]

@[simp] theorem Channel.startBeats_number (ch : Channel) : ch.startBeats.beat.number = ch.beat.number := by
  unfold Channel.startBeats
  split <;> simp

@[simp] theorem Channel.startPermute_number (ch : Channel) : ch.startPermute.beat.number = ch.beat.number := by
  unfold Channel.startPermute
  split <;> simp

@[simp] theorem Channel.endUnload_number (ch : Channel) (c : ChanId) :
    (ch.endUnload c).beat.number = ch.beat.number := by simp [Channel.endUnload]

@[simp] theorem State.rollBusy_number (s : State) (c : ChanId) :
    ((s.rollBusy c).ch c).beat.number = (s.ch c).beat.number := by simp [State.rollBusy]

@[simp] theorem Channel.spareOffs_number (ch : Channel) : ch.spareOffs.beat.number = ch.beat.number := by simp [Channel.spareOffs]

@[simp] theorem Channel.idleCores_number (ch : Channel) : ch.idleCores.beat.number = ch.beat.number := by simp [Channel.idleCores]

@[simp] theorem State.deviceWork_number (s : State) (c : ChanId) :
    ((s.deviceWork c).ch c).beat.number = (s.ch c).beat.number := by simp [State.deviceWork]

@[simp] theorem State.boundaryWork_number (s : State) (c : ChanId) :
    ((s.boundaryWork c).ch c).beat.number = (s.ch c).beat.number := by simp [State.boundaryWork, Channel.showCores, Channel.ovfApply]

/-! ### O24: the boundary, the lead-in window and BEATREF -/

@[simp] theorem Beat.align_number (b : Beat) : b.align.number = b.number := rfl

@[simp] theorem Channel.beginBeat_number (ch : Channel) : ch.beginBeat.beat.number = ch.beat.number + 1 := rfl

@[simp] theorem Channel.waitOffers_number (ch : Channel) (late : Nat) : (ch.waitOffers late).beat.number = ch.beat.number := rfl

@[simp] theorem Channel.returnCredits_number (ch : Channel) : ch.returnCredits.beat.number = ch.beat.number := rfl

/-- A boundary begins one beat (R33). -/
theorem State.boundary_number (s : State) (c : ChanId) :
    ((s.boundary c).ch c).beat.number = (s.ch c).beat.number + 1 := by
  simp [State.boundary]

theorem exec_beatBoundary_stopped (c : ChanId) (s : State) (h : (s.ch c).clocked = false) : exec (.beatBoundary c) s = .next s :=
  if_neg (by simp [h])

theorem exec_beatBoundary_clocked (c : ChanId) (s : State) (h : (s.ch c).clocked = true) :
    exec (.beatBoundary c) s = .next (s.boundary c) :=
  if_pos h

theorem exec_leadinWindowStart (c : ChanId) (s : State) : exec (.leadinWindowStart c) s = .next (s.setCh c
    (if (s.ch c).running && (s.ch c).beat.leadinPct != 0 then { s.ch c with beat := { (s.ch c).beat with leadin := true } } else s.ch c)) :=
  rfl

/-- What channel `e` is after an edge of BEATREF_IN at the offset `d` (R35). -/
def Channel.metEdge (k : Channel) (e : ChanId) (d : Int) : Channel :=
  let edge : Channel := { k with beat := { k.beat with
    edgeSeen := true, offset := d, errNs := errNsOf d, inBand := k.beat.inBand && offInBand d } }
  if k.clocked = false ∨ k.beat.beatrefEn = false ∨ offInCapture d = false then k
  else if offInBand d then edge else edge.raise e 0x4003

theorem Channel.beatref_eq_metEdge (k : Channel) (e : ChanId) (d : Int) : k.beatref e d = k.metEdge e d := by
  unfold Channel.beatref Channel.metEdge
  by_cases judged : k.clocked = true ∧ k.beat.beatrefEn = true ∧ offInCapture d = true
  · obtain ⟨hclk, hen, hcap⟩ := judged
    simp [hclk, hen, hcap, Channel.judge]
  · have ignored : k.clocked = false ∨ k.beat.beatrefEn = false ∨ offInCapture d = false := by
      simpa only [not_and_or, Bool.not_eq_true] using judged
    rw [if_pos ignored, if_neg (by simpa [and_assoc] using judged)]

theorem exec_beatrefEdge_lost (d0 d1 : Int) (s : State) (h : s.ptd.failed = true) : exec (.beatrefEdge d0 d1) s = .next s :=
  if_pos h

/-- The port die fans the edge out to both channels, each at its own offset (R19). -/
theorem exec_beatrefEdge_fansOut (d0 d1 : Int) (s : State) (h : s.ptd.failed = false) :
    exec (.beatrefEdge d0 d1) s = .next { s with ch0 := (s.ch 0).metEdge 0 d0, ch1 := (s.ch 1).metEdge 1 d1 } := by
  rw [← Channel.beatref_eq_metEdge, ← Channel.beatref_eq_metEdge]
  exact if_neg (by simp [h])

/-- Settles O24: of all a boundary does, beginning the beat alone moves its number; edges of BEATREF go by `metEdge`. -/
theorem beatBoundaryAndEdges : Obligations.BeatBoundaryAndEdges := by
  unfold Obligations.BeatBoundaryAndEdges
  intro c d0 d1 s
  refine ⟨exec_beatBoundary_stopped c s, fun running => ?_, fun running share => ?_, fun closed => ?_,
    exec_beatrefEdge_lost d0 d1 s, exec_beatrefEdge_fansOut d0 d1 s⟩
  · obtain ⟨hsup, hpending⟩ := s.boundary_frame c
    exact ⟨_, exec_beatBoundary_clocked c s running, s.boundary_number c, hsup, hpending⟩
  · rw [exec_leadinWindowStart, if_pos (by simpa [running] using share)]
  · have shut : ¬ ((s.ch c).running && (s.ch c).beat.leadinPct != 0) = true := by
      rcases closed with h | h <;> simp [h]
    rw [exec_leadinWindowStart, if_neg shut, State.setCh_ch]

end Sys2Proof.Machine
end

section
/-! PROOFS. The slots of tasks: which task a slot holds after an operation, and what the end of a task leaves unchanged (R38, R40, R43). -/

namespace Sys2Proof.Machine

/-! ### The task of a slot -/

theorem Channel.task?_place {ch : Channel} {core slot : Nat} {t : Task} (h : ch.task? core slot = some t) :
    t.core = core ∧ t.slot = slot := by
  simpa using List.find?_some h

theorem Channel.task?_congr {ch k : Channel} (h : k.tsk.tasks = ch.tsk.tasks) : k.task? = ch.task? := by
  funext core slot
  simp only [Channel.task?, h]

theorem Channel.task?_onTask (ch : Channel) {core slot : Nat} {f : Task → Task} (hf : ∀ t, (f t).core = t.core ∧ (f t).slot = t.slot) (k m : Nat) :
    (ch.onTask core slot f).task? k m = (ch.task? k m).map fun t => if t.core == core && t.slot == slot then f t else t := by
  simp only [Channel.task?, Channel.onTask, List.find?_map]
  congr 2
  funext t
  simp only [Function.comp_apply]
  split
  · rw [(hf t).1, (hf t).2]
  · rfl

theorem Channel.task?_onTask_same {ch : Channel} {core slot : Nat} {t : Task} {f : Task → Task} (h : ch.task? core slot = some t)
    (hf : ∀ t, (f t).core = t.core ∧ (f t).slot = t.slot) : (ch.onTask core slot f).task? core slot = some (f t) := by
  obtain ⟨hcore, hslot⟩ := Channel.task?_place h
  rw [ch.task?_onTask hf, h, Option.map_some, if_pos (by simp [hcore, hslot])]

theorem Channel.otherTasks_of_tasks {a b : Channel} (core slot : Nat) (h : b.tsk.tasks = a.tsk.tasks) : a.otherTasks core slot b :=
  fun k m _ => congrFun (congrFun (Channel.task?_congr h) k) m

theorem Channel.otherTasks.trans {core slot : Nat} {a b d : Channel} (h : a.otherTasks core slot b) (h' : b.otherTasks core slot d) :
    a.otherTasks core slot d := fun k m hkm => (h' k m hkm).trans (h k m hkm)

theorem Channel.otherTasks_onTask (ch : Channel) {core slot : Nat} {f : Task → Task} (hf : ∀ t, (f t).core = t.core ∧ (f t).slot = t.slot) :
    ch.otherTasks core slot (ch.onTask core slot f) := by
  intro k m hkm
  rw [ch.task?_onTask hf]
  cases h : ch.task? k m with
  | none => rfl
  | some t =>
    obtain ⟨hcore, hslot⟩ := Channel.task?_place h
    have hne : ¬ (t.core == core && t.slot == slot) = true := by simp only [hcore, hslot, Bool.and_eq_true, beq_iff_eq]; omega
    rw [Option.map_some, if_neg hne]

theorem Channel.task?_dropTask (ch : Channel) (core slot : Nat) : (ch.dropTask core slot).task? core slot = none := by
  refine List.find?_eq_none.mpr fun t ht => ?_
  simpa [imp_iff_not_or] using (List.mem_filter.mp ht).2

theorem Channel.otherTasks_dropTask (ch : Channel) (core slot : Nat) : ch.otherTasks core slot (ch.dropTask core slot) := by
  intro k m hkm
  simp only [Channel.task?, Channel.dropTask, List.find?_filter]
  congr 1
  funext t
  by_cases h : t.core = k ∧ t.slot = m
  · obtain ⟨rfl, rfl⟩ := h
    have hne : (t.core == core && t.slot == slot) = false := by
      simp only [Bool.and_eq_false_iff, beq_eq_false_iff_ne]
      exact hkm
    simp [hne]
  · have hf : (t.core == k && t.slot == m) = false := by simpa using h
    simp [hf]

/-! ### Squirrel's own state -/

/-- Nothing differs from `ch` but Squirrel's own state. -/
def Channel.sqlOnly (ch k : Channel) : Prop := ∃ q, k = { ch with sql := q }

theorem Channel.sqlOnly.refl (ch : Channel) : ch.sqlOnly ch := ⟨ch.sql, rfl⟩

theorem Channel.sqlOnly.trans {a b d : Channel} (h : a.sqlOnly b) (h' : b.sqlOnly d) : a.sqlOnly d := by
  obtain ⟨_, rfl⟩ := h
  obtain ⟨q, rfl⟩ := h'
  exact ⟨q, rfl⟩

theorem foldl_sqlOnly {β : Type} {f : Channel → β → Channel} (h : ∀ (k : Channel) (b : β), k.sqlOnly (f k b)) (l : List β) (ch : Channel) : ch.sqlOnly (l.foldl f ch) := by
  induction l generalizing ch with
  | nil => exact .refl ch
  | cons b r ih => exact (h ch b).trans (ih _)

theorem Channel.frameAdjust_sqlOnly (ch : Channel) (l : List (Nat × Int × Int)) : ch.sqlOnly (ch.frameAdjust l) :=
  (foldl_sqlOnly (fun _ _ => ⟨_, rfl⟩) l ch).trans (foldl_sqlOnly (fun _ _ => ⟨_, rfl⟩) l _)

theorem Channel.cancelSpill_sqlOnly (ch : Channel) (n : Nat) : ch.sqlOnly (ch.cancelSpill n) := by
  unfold Channel.cancelSpill
  split <;> exact ⟨_, rfl⟩

theorem Channel.releaseBack_sqlOnly (ch : Channel) (n : Nat) : ch.sqlOnly (ch.releaseBack n) := by
  unfold Channel.releaseBack
  split <;> exact ⟨_, rfl⟩

theorem Channel.dropRefs_sqlOnly (ch : Channel) (l : List Pte) : ch.sqlOnly (ch.dropRefs l) :=
  ((foldl_sqlOnly (fun (k : Channel) (p : Pte) => k.cancelSpill_sqlOnly p.frame.toNat) _ ch).trans
    (foldl_sqlOnly (fun (k : Channel) (p : Pte) => k.releaseBack_sqlOnly p.frame.toNat) _ _)).trans (Channel.frameAdjust_sqlOnly _ _)

theorem Channel.releaseRegion_sqlOnly (ch : Channel) (r : Nat) : ch.sqlOnly (ch.releaseRegion r) :=
  .trans ⟨_, rfl⟩ (Channel.dropRefs_sqlOnly _ _)

theorem Channel.share_sqlOnly (ch : Channel) (src dst first count : Nat) : ch.sqlOnly (ch.share src dst first count) :=
  foldl_sqlOnly (fun _ _ => .trans ⟨_, rfl⟩ (Channel.frameAdjust_sqlOnly _ _)) _ ch

theorem Channel.runKvActs_sqlOnly (ch : Channel) (l : List KvAct) : ch.sqlOnly (ch.runKvActs l) := by
  refine foldl_sqlOnly (fun k a => ?_) l ch
  cases a with
  | release r => exact ite_ind k.sqlOnly (k.releaseRegion_sqlOnly r) (.refl k)
  | share src dst first count => exact ite_ind k.sqlOnly (k.share_sqlOnly src dst first count) (.refl k)

theorem Channel.invalidatePte_sqlOnly (ch : Channel) (r p : Nat) : ch.sqlOnly (ch.invalidatePte r p) :=
  ite_ind ch.sqlOnly (.trans ⟨_, rfl⟩ (Channel.dropRefs_sqlOnly _ _)) (.refl ch)

theorem Channel.transitServed_sqlOnly (ch : Channel) (r p : Nat) (f : TransitUse → TransitUse) : ch.sqlOnly (ch.transitServed r p f) := by
  unfold Channel.transitServed
  split
  · exact .refl ch
  · exact ite_ind ch.sqlOnly (.trans ⟨_, rfl⟩ (Channel.invalidatePte_sqlOnly _ r p)) ⟨_, rfl⟩

theorem Channel.transitRead_sqlOnly (ch : Channel) (t : Task) : ch.sqlOnly (ch.transitRead t) :=
  foldl_sqlOnly (fun k _ => k.transitServed_sqlOnly _ _ _) _ ch

theorem Channel.repointWrites_sqlOnly (ch : Channel) (t : Task) : ch.sqlOnly (ch.repointWrites t) :=
  .trans (b := ch.endWrites t) ⟨_, rfl⟩ (foldl_sqlOnly (fun _ _ => ⟨_, rfl⟩) _ _)

theorem Channel.releasePins_sqlOnly (ch : Channel) (t : Task) (l : List (Nat × Int × Int)) : ch.sqlOnly (ch.releasePins t l) :=
  .trans ⟨_, rfl⟩ (Channel.frameAdjust_sqlOnly _ _)

/-! ### A task leaves its slot -/

/-- A channel whose task has left its slot: its requests find no task, and its context is no longer kept. -/
def Channel.freed (ch : Channel) (t : Task) : Channel :=
  let k := (ch.orphanReqs t.core t.slot).dropTask t.core t.slot
  { k with vec := { k.vec with saved := k.vec.saved.filter fun e => !(e.1 == t.core && e.2.1 == t.slot) } }

theorem Channel.leaveSlot_eq (ch : Channel) (t : Task) (l : List (Nat × Int × Int)) : ∃ q, ch.leaveSlot t l = { ch.freed t with sql := q } := by
  obtain ⟨q, h⟩ := ch.releasePins_sqlOnly t l
  exact ⟨q, by rw [Channel.leaveSlot, h]; rfl⟩

theorem Channel.task?_freed (ch : Channel) (t : Task) : (ch.freed t).task? t.core t.slot = none := ch.task?_dropTask t.core t.slot

theorem Channel.otherTasks_freed (ch : Channel) (t : Task) : ch.otherTasks t.core t.slot (ch.freed t) := ch.otherTasks_dropTask t.core t.slot

/-! ### COMPLETE (R40, R43) -/

/-- `k` is `ch` after a task has completed: it is counted and has left its slot; of the rest only the ledger, Squirrel's and the Badger's
state, the count of carried tasks and what look-ahead tasks wrote may differ. -/
def Channel.hasCompleted (ch : Channel) (t : Task) (k : Channel) : Prop := ∃ carry ledg sql bdg sram wrote,
  k = { ch.freed t with
    tsk := { (ch.freed t).tsk with completed := wrapAdd ch.tsk.completed 1, commitCarry := carry }
    ledg := ledg, sql := sql, bdg := bdg, upd := { ch.upd with aheadSram := sram, aheadWrote := wrote } }

theorem Channel.logTaint_eq (ch : Channel) (p : Nat) (tag : U32) : ∃ b, ch.logTaint p tag = { ch with bdg := b } :=
  ite_ind (fun k => ∃ b, k = { ch with bdg := b }) ⟨_, rfl⟩ ⟨_, rfl⟩

/-- What follows the counts of a COMPLETE: page writes, references, the taint log, the slot. -/
theorem Channel.hasCompleted_of_counted {ch k : Channel} (t : Task) (p : Nat) (l : Channel → List (Nat × Int × Int))
    (h : ∃ carry ledg sram wrote, k = { ch with
      tsk := { ch.tsk with completed := wrapAdd ch.tsk.completed 1, commitCarry := carry }
      ledg := ledg, upd := { ch.upd with aheadSram := sram, aheadWrote := wrote } }) :
    ch.hasCompleted t (((((k.repointWrites t).runKvActs t.kvActs).transitRead t).logTaint p t.desc.outTag).leaveSlot t (l k)) := by
  obtain ⟨carry, ledg, sram, wrote, rfl⟩ := h
  obtain ⟨_, hpages⟩ := ((Channel.repointWrites_sqlOnly _ t).trans (Channel.runKvActs_sqlOnly _ t.kvActs)).trans (Channel.transitRead_sqlOnly _ t)
  rw [hpages]
  obtain ⟨bdg, htaint⟩ := Channel.logTaint_eq _ p t.desc.outTag
  rw [htaint]
  obtain ⟨sql, hslot⟩ := Channel.leaveSlot_eq _ t _
  exact ⟨carry, ledg, sql, bdg, sram, wrote, hslot⟩

theorem Channel.completeEffects_hasCompleted (ch : Channel) (t : Task) : ch.hasCompleted t (ch.completeEffects t) := by
  refine Channel.hasCompleted_of_counted t _ (fun k => k.copySources t) ?_
  split <;> split <;> exact ⟨_, _, _, _, rfl⟩

/-- What a task's COMPLETE leaves: its slot is free, it is counted, and memory, events, registers and the other tasks stay. -/
theorem Channel.hasCompleted.keeps {ch k : Channel} {t : Task} (h : ch.hasCompleted t k) :
    k.task? t.core t.slot = none ∧ ch.otherTasks t.core t.slot k ∧ k.tsk.completed = wrapAdd ch.tsk.completed 1 ∧
      k.tsk.faulted = ch.tsk.faulted ∧ k.mem = ch.mem ∧ k.cxl = ch.cxl ∧ k.arr = ch.arr ∧ k.vec.regs = ch.vec.regs ∧
      k.events = ch.events ∧ k.chn = ch.chn ∧ k.beat = ch.beat := by
  obtain ⟨_, _, _, _, _, _, rfl⟩ := h
  exact ⟨ch.task?_freed t, ch.otherTasks_freed t, rfl, rfl, rfl, rfl, rfl, rfl, rfl, rfl, rfl⟩

theorem Channel.hasCompleted.stopping {ch k : Channel} {t : Task} (h : ch.hasCompleted t k) :
    k.pss.stopping = ch.pss.stopping ∧ k.stepOkDue = ch.stepOkDue := by
  obtain ⟨_, _, _, _, _, _, rfl⟩ := h
  exact ⟨rfl, rfl⟩

/-- A task of no sample, without a completion SIGNAL, that completes while neither a step nor an unload waits for it. -/
theorem State.completeTask_plain {s : State} {c : ChanId} {t : Task} (digest : U64) (hdone : t.desc.doneSig = 0) (hsample : t.sample = none)
    (hdup : t.dup = none) (hstop : (s.ch c).pss.stopping = false) (hstep : (s.ch c).stepOkDue = false) :
    s.completeTask c t digest = s.setCh c ((s.ch c).completeEffects t) := by
  obtain ⟨hstop', hstep'⟩ := ((s.ch c).completeEffects_hasCompleted t).stopping
  simp [State.completeTask, hdone, hsample, hdup, State.flagOk, State.onCh, hstep', hstep, Channel.finishUnload, hstop', hstop]

end Sys2Proof.Machine
end

section
/-! PROOFS. Dispatch of a READY task (R40, R77, R84, R124). -/

namespace Sys2Proof.Machine

theorem exec_taskDispatch_idle {c : ChanId} {core : LCore} {s : State} (h : ((s.ch c).readyTasks core.val).find? (s.ch c).mayRun = none) :
    exec (.taskDispatch c core) s = .next s := by
  change execTaskDispatch c core s = _
  simp only [execTaskDispatch, h]

theorem exec_taskDispatch_ready {c : ChanId} {core : LCore} {s : State} {k : Task}
    (h : ((s.ch c).readyTasks core.val).find? (s.ch c).mayRun = some k) : exec (.taskDispatch c core) s = .next (s.dispatch c k) := by
  change execTaskDispatch c core s = _
  simp only [execTaskDispatch, h]

theorem Channel.restoreContext_eq (ch : Channel) (t : Task) : ∃ v, ch.restoreContext t = { ch with vec := v } := by
  unfold Channel.restoreContext
  split <;> exact ⟨_, rfl⟩

/-- Without a slot of key blocks no tile meets pages. -/
theorem State.bind_noSlots {s : State} {c : ChanId} (t : Task) (tr : TileRec) (h : (s.ch c).sql.slots = []) : s.bind c t tr = s := by
  have hruns : (s.ch c).bindTile t tr = .runs := by simp [Channel.bindTile, Channel.boundSlot, h]
  simp only [State.bind, hruns]

/-- A task that its dispatch starts. -/
def Task.startedAt (t : Task) (n : Nat) : Task := { t with st := .running, cause := .none, hasRun := true, started := n }

/-- The channel with the task running, its live registers restored. -/
def Channel.starts (ch : Channel) (t : Task) : Channel :=
  let k := (ch.restoreContext t).onTask t.core t.slot fun x => x.startedAt ch.tsk.starts
  { k with tsk := { k.tsk with starts := ch.tsk.starts + 1 } }

/-- A start changes the registers, the state of its task and the count of dispatches. -/
theorem Channel.starts_eq (ch : Channel) (t : Task) : ∃ v, ch.starts t = { ch with
    vec := v
    tsk := { ch.tsk with tasks := (ch.onTask t.core t.slot fun x => x.startedAt ch.tsk.starts).tsk.tasks, starts := ch.tsk.starts + 1 } } := by
  obtain ⟨v, hrestore⟩ := ch.restoreContext_eq t
  exact ⟨v, by rw [Channel.starts, hrestore]; rfl⟩

theorem Channel.otherTasks_starts (ch : Channel) (t : Task) : ch.otherTasks t.core t.slot (ch.starts t) := by
  obtain ⟨v, hv⟩ := ch.starts_eq t
  rw [hv]
  exact (ch.otherTasks_onTask (f := fun x => x.startedAt ch.tsk.starts) fun _ => ⟨rfl, rfl⟩).trans (Channel.otherTasks_of_tasks _ _ rfl)

/-- A tile that starts takes a clk of the array, in which its operand buffer fills (R77). -/
def Channel.tileClk (ch : Channel) (t : Task) : Channel :=
  { ch with arr := { ch.arr with busy := addClk ch.arr.busy t.core 1, feedStall := addClk ch.arr.feedStall t.core 1 } }

/-- A fully masked tile is counted (R84). -/
def Channel.skipsTile (ch : Channel) : Channel := { ch with arr := { ch.arr with skipped := satAdd ch.arr.skipped 1 } }

theorem State.dispatch_runs {s : State} {c : ChanId} {t : Task} (hmask : ¬(t.exec = 0 ∧ fullyMasked t.desc ∧ t.dup = none))
    (hwait : t.waitPages = false) (hgone : (s.ch c).readsAny c t (s.ch c).upd.actGone = false)
    (hpend : (s.ch c).readsAny c t (s.ch c).upd.actPending = false) (hdma : t.exec = 2 → t.dmaDone.length ≠ t.dmaDescs.length)
    (htile : t.tileRec = none ∨ (s.ch c).sql.slots = []) :
    s.dispatch c t = s.setCh c (if t.exec = 0 then ((s.ch c).starts t).tileClk t else (s.ch c).starts t) := by
  have hclk : (t.exec = 0 ∧ (!(fullyMasked t.desc && t.dup.isNone)) = true ∧ (!t.waitPages) = true) ↔ t.exec = 0 := by
    have hnot (h : t.exec = 0) : (fullyMasked t.desc && t.dup.isNone) = false :=
      Bool.eq_false_iff.mpr fun hboth => hmask ⟨h, by simpa using hboth⟩
    simp only [hwait, Bool.not_false, and_true, and_iff_left_iff_imp]
    intro h
    rw [hnot h, Bool.not_false]
  have hstart : (if t.exec = 0 then (s.setCh c ((s.ch c).starts t)).onCh c fun ch => ch.tileClk t else s.setCh c ((s.ch c).starts t)) =
      s.setCh c (if t.exec = 0 then ((s.ch c).starts t).tileClk t else (s.ch c).starts t) := by
    split <;> simp [State.onCh]
  unfold State.dispatch
  dsimp only
  rw [if_neg hmask, if_neg (by simp [hwait]), if_neg (by simp [hgone]), if_neg (by simp [hpend]), if_neg fun h => hdma h.1 h.2, ← hstart]
  simp only [hclk]
  split
  next tr htr =>
    have hslots : (s.ch c).sql.slots = [] := htile.resolve_left (by simp [htr])
    obtain ⟨v, hv⟩ := (s.ch c).starts_eq t
    have hkept : ((s.ch c).starts t).sql.slots = [] := by rw [hv]; exact hslots
    refine State.bind_noSlots _ _ ?_
    split <;> simp only [State.onCh, State.ch_setCh] <;> exact hkept
  next => rfl

theorem State.dispatch_skips {s : State} {c : ChanId} {t : Task} (hexec : t.exec = 0) (hmask : fullyMasked t.desc) (hdup : t.dup = none)
    (hsample : t.sample = none) (hdone : t.desc.doneSig = 0) (hstop : (s.ch c).pss.stopping = false) (hstep : (s.ch c).stepOkDue = false) :
    s.dispatch c t = s.setCh c (((s.ch c).starts t).skipsTile.completeEffects (t.startedAt (s.ch c).tsk.starts)) := by
  have hskip : s.dispatch c t = (s.setCh c ((s.ch c).starts t).skipsTile).completeTask c (t.startedAt (s.ch c).tsk.starts) := by
    unfold State.dispatch
    dsimp only
    rw [if_pos ⟨hexec, hmask, hdup⟩, if_neg (by simp [hmask, hdup]), State.onCh_onCh]
    rfl
  obtain ⟨v, hv⟩ := (s.ch c).starts_eq t
  rw [hskip, State.completeTask_plain 0 (t := t.startedAt _) hdone hsample hdup]
  · simp
  · rw [State.ch_setCh, hv]
    exact hstop
  · rw [State.ch_setCh, hv]
    exact hstep

/-- Settles O7: a READY task starts, or, where it is a fully masked tile, goes straight to its COMPLETE. -/
theorem taskDispatchRunsOrSkips : Obligations.TaskDispatchRunsOrSkips := by
  unfold Obligations.TaskDispatchRunsOrSkips
  intro c core s k
  refine ⟨exec_taskDispatch_idle, fun hready hmask hwait hgone hpend hdma htile => ?_,
    fun hready hexec hmask hdup hsample hdone hstop hstep => ?_⟩
  · obtain ⟨v, hv⟩ := (s.ch c).restoreContext_eq k
    rw [exec_taskDispatch_ready hready, State.dispatch_runs hmask hwait hgone hpend hdma htile]
    unfold Channel.starts
    rw [hv]
    split <;> rfl
  · obtain ⟨v, hv⟩ := (s.ch c).starts_eq k
    obtain ⟨hslot, hothers, hcount, -, hmem, hcxl, harr, -, hev, hchn, hbeat⟩ :=
      (((s.ch c).starts k).skipsTile.completeEffects_hasCompleted (k.startedAt (s.ch c).tsk.starts)).keeps
    refine ⟨_, (exec_taskDispatch_ready hready).trans
      (congrArg Host.Outcome.next (State.dispatch_skips hexec hmask hdup hsample hdone hstop hstep)), ?_⟩
    rw [onlyChannel, State.ch_setCh]
    refine ⟨hslot, harr.trans ?_, hcount.trans ?_, hmem.trans ?_, hcxl.trans ?_, hev.trans ?_, hchn.trans ?_, hbeat.trans ?_,
      ((s.ch c).otherTasks_starts k).trans hothers, rfl⟩ <;>
    · rw [hv]
      rfl

end Sys2Proof.Machine
end

section
/-! PROOFS. The drain of a tile (R80, R81, R82, R102, R119, R121). -/

namespace Sys2Proof.Machine

/-! ### Stores one after another -/

/-- A memory after stores, in their order. -/
def smStores (m : SMap Byte) (l : List (Nat × List Byte)) : SMap Byte := l.foldl (fun m e => smSetAll 0 m e.1 e.2) m

theorem smStores_outside (l : List (Nat × List Byte)) (m : SMap Byte) (i : Nat) (h : ∀ e ∈ l, i < e.1 ∨ e.1 + e.2.length ≤ i) :
    smGet 0 (smStores m l) i = smGet 0 m i := by
  induction l generalizing m with
  | nil => rfl
  | cons e r ih =>
    exact (ih _ fun x hx => h x (List.mem_cons_of_mem _ hx)).trans (smGet_smSetAll_outside 0 e.2 m e.1 i (h e List.mem_cons_self))

/-- Of stores apart from each other, each reads back. -/
theorem smGetAll_smStores (l : List (Nat × List Byte)) (m : SMap Byte)
    (hapart : l.Pairwise fun x y => x.1 + x.2.length ≤ y.1 ∨ y.1 + y.2.length ≤ x.1) :
    ∀ e ∈ l, smGetAll 0 (smStores m l) e.1 e.2.length = e.2 := by
  induction l generalizing m with
  | nil => exact fun e he => absurd he List.not_mem_nil
  | cons x r ih =>
    obtain ⟨hx, hr⟩ := List.pairwise_cons.mp hapart
    intro e he
    rcases List.mem_cons.mp he with rfl | her
    · have hkept : smGetAll 0 (smStores m (e :: r)) e.1 e.2.length = smGetAll 0 (smSetAll 0 m e.1 e.2) e.1 e.2.length := by
        refine List.map_congr_left fun i hi => smStores_outside r _ _ fun y hy => ?_
        have := List.mem_range.mp hi
        have := hx y hy
        omega
      exact hkept.trans (smGetAll_smSetAll 0 m e.1 e.2)
    · exact ih _ hr e her

/-! ### Core SRAM without poison or errors -/

theorem State.checkSram_clean {s : State} {c : ChanId} (p off n : Nat) (hp : (s.ch c).mem.sramPoison = []) (he : (s.ch c).mem.sramErr = []) :
    s.checkSram c p off n = (s, true) := by
  simp [State.checkSram, touchedLines, hp, he]

theorem State.checkRanges_clean {s : State} {c : ChanId} (p : Nat) (l : List (Nat × Nat)) (hp : (s.ch c).mem.sramPoison = [])
    (he : (s.ch c).mem.sramErr = []) : s.checkRanges c p l = (s, true) := by
  induction l with
  | nil => rfl
  | cons e r ih => simpa [State.checkRanges, State.checkSram_clean p e.1 e.2 hp he] using ih

def Channel.withSram (ch : Channel) (m : SMap Byte) : Channel := { ch with mem := { ch.mem with sram := m } }

theorem Channel.sramWrite_clean {ch : Channel} (p off : Nat) (bytes : List Byte) (hp : ch.mem.sramPoison = []) (he : ch.mem.sramErr = []) :
    ch.sramWrite p off bytes = ch.withSram (smSetAll 0 ch.mem.sram (sramAt p off) bytes) := by
  simp [Channel.sramWrite, Channel.withSram, hp, he, writeUnder_clean, uncovered]

theorem Channel.sramWrites_clean {ch : Channel} (p : Nat) (l : List (Nat × List Byte)) (hp : ch.mem.sramPoison = []) (he : ch.mem.sramErr = []) :
    l.foldl (fun h e => h.sramWrite p e.1 e.2) ch = ch.withSram (smStores ch.mem.sram (l.map fun e => (sramAt p e.1, e.2))) := by
  induction l generalizing ch with
  | nil => rfl
  | cons e r ih =>
    rw [List.foldl_cons, Channel.sramWrite_clean p e.1 e.2 hp he]
    exact ih (ch := ch.withSram _) hp he

/-! ### What drains -/

/-- A sound core gets no byte wrong. -/
theorem spoil_nil (l : List (Nat × List Byte)) : spoil [] l = l := by
  have hkeeps (l : List (Nat × List Byte)) (r : Nat × List (Nat × List Byte)) :
      (l.foldl (fun (r : Nat × List (Nat × List Byte)) e => (r.1 + e.2.length, r.2 ++ [e])) r).2 = r.2 ++ l := by
    induction l generalizing r with
    | nil => exact (List.append_nil r.2).symm
    | cons e t ih => rw [List.foldl_cons, ih, List.append_assoc, List.singleton_append]
  simpa [spoil] using hkeeps l (0, [])

/-- The counts and flags of a tile that has drained (R102, R119, R121). -/
def Arr.drained (a : Arr) (tr : TileRec) (o : TileOut) : Arr :=
  { a with
    tiles := wrapAdd a.tiles 1, fxUfl := a.fxUfl || o.ufl, fxOvf := a.fxOvf || o.sat
    sliceTiles := if tr.isSlice then wrapAdd a.sliceTiles 1 else a.sliceTiles, fallbackElems := satAdd a.fallbackElems o.fell }

theorem Channel.raiseIf_eq (ch : Channel) (c : ChanId) (code : Nat) (p : Prop) [Decidable p] :
    ∃ evs rs, (if p then ch.raise c code else ch) = ch.withRaised evs rs :=
  ite_ind (fun k => ∃ evs rs, k = ch.withRaised evs rs) (ch.raise_eq_withRaised c code) ⟨ch.events, ch.beat.raised, rfl⟩

theorem Channel.fxFlags_eq (ch : Channel) (c : ChanId) (ovf ufl : Bool) : ∃ evs rs, ch.fxFlags c ovf ufl =
    { ch with arr := { ch.arr with fxUfl := ch.arr.fxUfl || ufl, fxOvf := ch.arr.fxOvf || ovf } }.withRaised evs rs := by
  unfold Channel.fxFlags
  obtain ⟨_, _, hovf⟩ := Channel.raiseIf_eq { ch with arr := { ch.arr with fxUfl := ch.arr.fxUfl || ufl, fxOvf := ch.arr.fxOvf || ovf } } c
    0x1003 ((ovf && !ch.arr.fxOvf) = true)
  dsimp only
  rw [hovf]
  exact Channel.raiseIf_eq _ c 0x1004 _

theorem Channel.drainFlags_eq (ch : Channel) (c : ChanId) (tr : TileRec) (o : TileOut) : ∃ evs rs,
    ch.drainFlags c tr o = { ch with arr := ch.arr.drained tr o }.withRaised evs rs := by
  obtain ⟨_, _, hfx⟩ := Channel.fxFlags_eq { ch with arr := { ch.arr with tiles := wrapAdd ch.arr.tiles 1 } } c o.sat o.ufl
  rw [Channel.drainFlags, hfx]
  exact Channel.raiseIf_eq _ c 0x1005 _

/-! ### The drain -/

section

variable {c : ChanId} {core : LCore} {slot : Nat} {s : State} {t : Task} {tr : TileRec}

/-- Another tile that runs on the core was dispatched before (R82). -/
def Channel.tileBefore (ch : Channel) (t : Task) : Prop :=
  ∃ x ∈ ch.tsk.tasks, x.core = t.core ∧ x.exec = 0 ∧ x.st = .running ∧ x.started < t.started

theorem exec_tileDrain_behind (ht : (s.ch c).task? core.val slot = some t) (hbefore : (s.ch c).tileBefore t) (wrong : List (Nat × Byte)) :
    exec (.tileDrain c core slot wrong) s = .next s := by
  change execTileDrain c core slot wrong s = _
  simp only [execTileDrain, ht]
  refine if_pos (.inr (List.any_eq_true.mpr ?_))
  simpa [Channel.tileBefore, and_assoc] using hbefore

theorem exec_tileDrain_first (ht : (s.ch c).task? core.val slot = some t) (hrun : t.st = .running) (hfirst : ¬ (s.ch c).tileBefore t)
    (hdup : t.dup = none) (htr : t.tileRec = some tr) (wrong : List (Nat × Byte)) :
    exec (.tileDrain c core slot wrong) s = .next (s.drainTile c t tr wrong) := by
  have hany : ¬ (s.ch c).tsk.tasks.any (fun x => x.core == t.core && x.exec == 0 && x.st == .running && decide (x.started < t.started)) = true := by
    simpa [Channel.tileBefore, and_assoc] using hfirst
  change execTileDrain c core slot wrong s = _
  simp only [execTileDrain, ht, hrun, hdup, htr]
  exact if_neg (by simpa using hany)

end

/-- What a tile computes from the SRAM of its core (R92 to R118). -/
def Channel.tileOut (ch : Channel) (t : Task) (tr : TileRec) : TileOut :=
  runTile tr (ch.tileEnv tr ch.arr.ovfMode t.step.toNat) t.desc.arg1.toNat t.desc.arg2.toNat (ch.tileRead (ch.pcore t.core))

/-- The bytes that a tile writes: undefined ones where its output meets what it reads (R80). -/
def State.tileWrites (s : State) (c : ChanId) (t : Task) (tr : TileRec) : List (Nat × List Byte) :=
  if tr.selfOverlap t.desc.arg1.toNat t.desc.arg2.toNat then freeRows s.free ((s.ch c).tileOut t tr).writes else ((s.ch c).tileOut t tr).writes

/-- The channel into which a tile has drained. -/
def State.drainsInto (s : State) (c : ChanId) (t : Task) (tr : TileRec) (evs : List EvRec) (rs : List U16) : Channel :=
  { (s.ch c).withSram (smStores (s.ch c).mem.sram ((s.tileWrites c t tr).map fun (e : Nat × List Byte) => (sramAt ((s.ch c).pcore t.core) e.1, e.2))) with
    arr := (s.ch c).arr.drained tr ((s.ch c).tileOut t tr) }.withRaised evs rs

/-- A task with what its drain wrote noted. -/
def Task.noting (t : Task) (l : List (Nat × Nat)) : Task := { t with written := t.written ++ l }

/-- The free values that a drain takes: one for each row of undefined output. -/
def State.drainTakes (s : State) (c : ChanId) (t : Task) (tr : TileRec) : Nat :=
  if tr.selfOverlap t.desc.arg1.toNat t.desc.arg2.toNat then (s.tileWrites c t tr).length else 0

theorem State.drainTile_clean {s : State} {c : ChanId} {t : Task} (r : TileRec) (hp : (s.ch c).mem.sramPoison = [])
    (he : (s.ch c).mem.sramErr = []) : ∃ evs rs l digest, s.drainTile c t r [] =
      ((s.setCh c (s.drainsInto c t (r.withPageFmt t.pageFmt) evs rs)).tookFree (s.drainTakes c t (r.withPageFmt t.pageFmt))).completeTask c
        (t.noting l) digest := by
  let tr := r.withPageFmt t.pageFmt
  let w := s.tileWrites c t tr
  let p := (s.ch c).pcore t.core
  have hdrain : s.drainTile c t r [] = ((s.onCh c fun k => (w.foldl (fun h e => h.sramWrite p e.1 e.2) k).drainFlags c tr
      { (s.ch c).tileOut t tr with writes := w }).tookFree (s.drainTakes c t tr)).completeTask c
        (t.noting (w.map fun e => (sramAt p e.1, e.2.length))) ({ (s.ch c).tileOut t tr with writes := w } : TileOut).digest := by
    unfold State.drainTile
    dsimp only
    rw [State.checkRanges_clean _ _ hp he, spoil_nil]
    rfl
  rw [hdrain, State.onCh, Channel.sramWrites_clean p w hp he]
  obtain ⟨evs, rs, hflags⟩ := Channel.drainFlags_eq
    ((s.ch c).withSram (smStores (s.ch c).mem.sram (w.map fun e => (sramAt p e.1, e.2)))) c tr { (s.ch c).tileOut t tr with writes := w }
  rw [hflags]
  exact ⟨evs, rs, _, _, rfl⟩

/-- A drain changes no byte beside its writes. -/
theorem State.drainsInto_outside {s : State} {c : ChanId} {t : Task} {tr : TileRec} {evs : List EvRec} {rs : List U16} (x : Nat)
    (h : ∀ e ∈ s.tileWrites c t tr, x < sramAt ((s.ch c).pcore t.core) e.1 ∨ sramAt ((s.ch c).pcore t.core) e.1 + e.2.length ≤ x) :
    smGet 0 (s.drainsInto c t tr evs rs).mem.sram x = smGet 0 (s.ch c).mem.sram x := by
  refine smStores_outside _ _ x fun e he => ?_
  obtain ⟨y, hy, rfl⟩ := List.mem_map.mp he
  exact h y hy

/-- Where the rows of a drain lie apart, each reads back. -/
theorem State.drainsInto_reads {s : State} {c : ChanId} {t : Task} {tr : TileRec} {evs : List EvRec} {rs : List U16}
    (h : disjointStores (s.tileWrites c t tr)) :
    ∀ e ∈ s.tileWrites c t tr, (s.drainsInto c t tr evs rs).sramBytes ((s.ch c).pcore t.core) e.1 e.2.length = e.2 := by
  intro e he
  refine smGetAll_smStores _ _ (List.pairwise_map.mpr (h.imp fun hxy => ?_)) _ (List.mem_map_of_mem he)
  simp only [sramAt]
  omega

/-- Settles O8: what a tile drains into its channel, followed by its COMPLETE. -/
theorem tileDrainWritesItsOutput : Obligations.TileDrainWritesItsOutput := by
  unfold Obligations.TileDrainWritesItsOutput
  intro c core slot s t r
  dsimp only
  refine ⟨fun ht hbefore => ?_, fun ht hrun hfirst hdup hr hexec hsample hdone hstop hstep hp he => ?_⟩
  · obtain ⟨hcore, -⟩ := Channel.task?_place ht
    exact exec_tileDrain_behind ht (by rw [Channel.tileBefore, hcore]; exact hbefore) []
  · obtain ⟨hcore, hslot⟩ := Channel.task?_place ht
    rw [← hcore] at hfirst
    obtain ⟨evs, rs, l, digest, hdrain⟩ := State.drainTile_clean r hp he (t := t)
    let k := s.drainsInto c t (r.withPageFmt t.pageFmt) evs rs
    rw [State.completeTask_plain (t := t.noting l) digest hdone hsample hdup (by rw [State.tookFree_ch, State.ch_setCh]; exact hstop)
      (by rw [State.tookFree_ch, State.ch_setCh]; exact hstep)] at hdrain
    refine ⟨_, (exec_tileDrain_first ht hrun hfirst hdup hr []).trans (congrArg Host.Outcome.next hdrain), ?_⟩
    obtain ⟨hfree, hothers, hcount, -, hmem, hcxl, harr, hregs, -, hchn, -⟩ := (k.completeEffects_hasCompleted (t.noting l)).keeps
    rw [State.ch_setCh, State.tookFree_ch, State.ch_setCh, ← hcore, ← hslot]
    unfold Channel.sramBytes
    rw [hmem, harr, hcxl, hregs, hchn]
    refine ⟨State.drainsInto_outside, State.drainsInto_reads, rfl, rfl, rfl, rfl, rfl, rfl, rfl, hcount, hfree, hothers, rfl, rfl, ?_⟩
    obtain rfl | rfl := ChanId.cases c <;> rfl

end Sys2Proof.Machine
end

section
/-! PROOFS. The end of a task's program (R40, R48, R210, R226 to R228). -/

namespace Sys2Proof.Machine

/-! ### Works of the exchange and the update -/

theorem foldl_tsk {β : Type} {f : Channel → β → Channel} (h : ∀ (k : Channel) (b : β), (f k b).tsk = k.tsk) (l : List β) (ch : Channel) :
    (l.foldl f ch).tsk = ch.tsk := by
  induction l generalizing ch with
  | nil => rfl
  | cons b r ih => exact (ih _).trans (h ch b)

theorem Channel.finishSegment_tsk (ch : Channel) (c : ChanId) (b : Nat) : (ch.finishSegment c b).tsk = ch.tsk := by
  unfold Channel.finishSegment
  split
  · exact ite_ind (fun k : Channel => k.tsk = ch.tsk) rfl rfl
  · rfl

theorem Channel.requantise_tsk (ch : Channel) (c : ChanId) (check : Bool) (b : Nat) : (ch.requantise c check b).tsk = ch.tsk :=
  ite_ind (fun k : Channel => k.tsk = ch.tsk) rfl rfl

theorem Channel.chainAdd_tsk (ch : Channel) (c : ChanId) (check : Bool) (b : Nat) : (ch.chainAdd c check b).tsk = ch.tsk := by
  unfold Channel.chainAdd
  dsimp only
  split
  · rfl
  · exact ite_ind (fun k : Channel => k.tsk = ch.tsk) rfl rfl

theorem Channel.lowEnd_tsk (ch : Channel) (b sum resid prev : Nat) : (ch.lowEnd b sum resid prev).tsk = ch.tsk := by
  unfold Channel.lowEnd
  split <;> rfl

theorem Channel.onTile_tsk {f : Channel → TileCtx → Channel} (hf : ∀ (k : Channel) x, (f k x).tsk = k.tsk) (ch : Channel) (n : Nat) :
    (ch.onTile n f).tsk = ch.tsk := by
  unfold Channel.onTile
  split
  · rfl
  · exact ite_ind (fun k : Channel => k.tsk = ch.tsk) rfl (hf ch _)

theorem Channel.blockTile_tsk (ch : Channel) (x : TileCtx) : (ch.blockTile x).tsk = ch.tsk :=
  ite_ind (fun k : Channel => k.tsk = ch.tsk) rfl rfl

theorem Channel.copyStaged_tsk (ch : Channel) (x : TileCtx) (st : TileStage) : (ch.copyStaged x st).tsk = ch.tsk := by
  unfold Channel.copyStaged
  exact (foldl_tsk (by intro _ _; rfl) _ _).trans rfl

theorem Channel.writebackTile_tsk (ch : Channel) (x : TileCtx) : (ch.writebackTile x).tsk = ch.tsk :=
  ite_ind (fun k : Channel => k.tsk = ch.tsk) rfl (Channel.copyStaged_tsk (ch.writeJournal x 1) x _)

/-- A work of the exchange or the update leaves the tasks as they are. -/
theorem Channel.doWork_tsk (ch : Channel) (c : ChanId) (w : TaskWork) : (ch.doWork c w).tsk = ch.tsk := by
  have hthen (k : Channel) (check : Bool) (b : Nat) (h : k.tsk = ch.tsk) : (if check then k else k.finishSegment c b).tsk = ch.tsk :=
    ite_ind (fun k : Channel => k.tsk = ch.tsk) h ((k.finishSegment_tsk c b).trans h)
  cases w with
  | own => rfl
  | settAdd check b => exact hthen _ check b rfl
  | requantise check b => exact hthen _ check b (ch.requantise_tsk c check b)
  | chainAdd check b => exact hthen _ check b (ch.chainAdd_tsk c check b)
  | lowSum g e sum n => rfl
  | lowOrth b => cases h : ch.lowTensor b <;> simp only [Channel.doWork, h, Channel.lowOrth]
  | lowEnd b sum resid prev => exact ch.lowEnd_tsk b sum resid prev
  | stat n => exact Channel.onTile_tsk (f := Channel.statTile) (fun _ _ => rfl) ch n
  | block n => exact Channel.onTile_tsk Channel.blockTile_tsk ch n
  | writeback n => exact Channel.onTile_tsk Channel.writebackTile_tsk ch n

/-! ### HBM without poison or errors -/

theorem State.checkHbm_clean {s : State} {c : ChanId} (a n : Nat) (hp : (s.ch c).mem.hbmPoison = []) (he : (s.ch c).mem.hbmErr = []) :
    s.checkHbm c a n = (s, true) := by
  simp [State.checkHbm, touchedLines, hp, he]

theorem State.checkAll_clean {s : State} {c : ChanId} (l : List (Nat × Nat)) (hp : (s.ch c).mem.hbmPoison = []) (he : (s.ch c).mem.hbmErr = []) :
    s.checkAll c l = (s, true) := by
  induction l with
  | nil => rfl
  | cons e r ih => simpa [State.checkAll, State.checkHbm_clean e.1 e.2 hp he] using ih

/-! ### The end of a program -/

theorem State.endWork_refused (s : State) (c : ChanId) {t : Task} {w : TaskWork} (k : State → State) (h : t.mayWork w = false) :
    s.endWork c t w k = k s := by simp [State.endWork, h]

theorem State.endWork_own (s : State) (c : ChanId) (t : Task) (k : State → State) : s.endWork c t .own k = k s := by
  simp [State.endWork, Task.mayWork, Channel.workReads, State.checkAll, State.onCh, Channel.doWork]

theorem State.endWork_clean {s : State} {c : ChanId} {t : Task} {w : TaskWork} (k : State → State) (h : t.mayWork w = true)
    (hp : (s.ch c).mem.hbmPoison = []) (he : (s.ch c).mem.hbmErr = []) : s.endWork c t w k = k (s.setCh c ((s.ch c).doWork c w)) := by
  simp [State.endWork, h, State.checkAll_clean _ hp he, State.onCh]

/-- A task whose program has ended. -/
def Task.ended (t : Task) : Task := { t with programEnded := true }

/-- A task that has ended waits for its operations, or for the route of those that completed GONE (R48). -/
def Task.waitsForOps (t : Task) : Task :=
  { t with programEnded := true, st := .parked, cause := if t.retry = [] then .programEnd else .goneRoute }

theorem exec_taskComplete {c : ChanId} {core : LCore} {slot : Nat} {s : State} {t : Task} (ht : (s.ch c).task? core.val slot = some t)
    (hrun : t.st = .running) (htile : t.exec ≠ 0) (hdma : t.exec ≠ 2) (hdup : t.dup = none) (w : TaskWork) :
    exec (.taskComplete c core { slot := slot, work := w }) s = .next (s.endWork c t w fun r => r.programEnds c t.ended) := by
  change execTaskComplete c core { slot := slot, work := w } s = _
  simp only [execTaskComplete, ht]
  exact if_pos ⟨hrun, htile, hdma, hdup⟩

/-- Settles O9: the program ends after its work, and the task completes or waits for its operations. -/
theorem taskCompleteEndsOrParks : Obligations.TaskCompleteEndsOrParks := by
  unfold Obligations.TaskCompleteEndsOrParks
  intro c core slot work s t
  dsimp only
  intro ht hrun htile hdma hdup
  obtain ⟨hcore, hslot⟩ := Channel.task?_place ht
  have hexec (w : TaskWork) := exec_taskComplete ht hrun htile hdma hdup w
  have hown : exec (.taskComplete c core { slot := slot, work := .own }) s = .next (s.programEnds c t.ended) := by
    rw [hexec, State.endWork_own]
  refine ⟨fun hmay => ?_, fun hmay hp he => ?_, fun hops hretry hsample hdone hstop hstep => ?_, fun hops hretry => ?_⟩
  · rw [hexec, hown, State.endWork_refused s c _ hmay]
  · have hkept : ((s.setCh c ((s.ch c).doWork c work)).ch c).task? core.val slot = some t := by
      rw [State.ch_setCh, Channel.task?_congr (congrArg Tsk.tasks ((s.ch c).doWork_tsk c work)), ht]
    rw [hexec, State.endWork_clean _ hmay hp he, exec_taskComplete hkept hrun htile hdma hdup, State.endWork_own]
  · have hends : s.programEnds c t.ended = s.setCh c ((s.ch c).completeEffects t.ended) := by
      rw [State.programEnds, if_pos ⟨by rw [← hcore, ← hslot] at hops; exact hops, hretry⟩]
      exact State.completeTask_plain (t := t.ended) 0 hdone hsample hdup hstop hstep
    obtain ⟨hfree, hothers, hcount, hfaulted, hmem, hcxl, harr, hregs, hev, hchn, -⟩ :=
      ((s.ch c).completeEffects_hasCompleted t.ended).keeps
    refine ⟨_, hown.trans (congrArg Host.Outcome.next hends), ?_⟩
    rw [onlyChannel, State.ch_setCh, ← hcore, ← hslot]
    exact ⟨hfree, hcount, hfaulted, hmem, hcxl, harr, hregs, hev, hchn, hothers, rfl⟩
  · have hends : s.programEnds c t.ended = s.setCh c ((s.ch c).onTask core.val slot Task.waitsForOps) := by
      rw [State.programEnds, if_neg (fun h => hops (by rw [← hcore, ← hslot]; exact h.1)), ← hcore, ← hslot]
      rfl
    have hf : ∀ x : Task, x.waitsForOps.core = x.core ∧ x.waitsForOps.slot = x.slot := fun _ => ⟨rfl, rfl⟩
    refine ⟨_, hown.trans (congrArg Host.Outcome.next hends), ?_⟩
    rw [State.ch_setCh]
    refine ⟨(Channel.task?_onTask_same ht hf).trans ?_, Channel.otherTasks_onTask _ hf, rfl⟩
    simp [Task.waitsForOps, hretry]

end Sys2Proof.Machine
end

section
/-! PROOFS. Operations and fences of a running task (R42, R46 to R48, R88, R124, R253, R269). -/

namespace Sys2Proof.Machine

/-! ### A task that parks saves its context (R124) -/

/-- A channel with another router and other tasks. -/
def Channel.withWork (ch : Channel) (w : Wrn) (k : Tsk) : Channel := { ch with wrn := w, tsk := k }

/-- The live registers of a task (R124). -/
def Channel.liveContext (ch : Channel) (t : Task) : List LaneVec :=
  (List.range (ch.liveRegs t.desc)).map fun r => smGet (Vector.replicate 64 0) ch.vec.regs (t.core * 64 + r)

/-- The channel without the context of a task. -/
def Channel.withoutContext (ch : Channel) (t : Task) : Channel :=
  { ch with vec := { ch.vec with saved := ch.vec.saved.filter fun e => !(e.1 == t.core && e.2.1 == t.slot) } }

/-- The context area that a task takes. -/
def Channel.savesAt (ch : Channel) (t : Task) : Option Nat :=
  if ch.liveContext t = [] then none else (ch.withoutContext t).contextArea t.core (ch.liveContext t).length

/-- The channel with the context of a task in an area. -/
def Channel.savesTo (ch : Channel) (t : Task) (area : Option Nat) : Channel :=
  let k := match area with
    | some a => (ch.withoutContext t).sramWrite ((ch.withoutContext t).pcore t.core) a (regBytes (ch.liveContext t))
    | none => ch.withoutContext t
  { k with vec := { k.vec with saved := k.vec.saved ++ [(t.core, t.slot, area, ch.liveContext t)] } }

theorem Channel.saveContext_if (ch : Channel) (t : Task) :
    ch.saveContext t = if t.onEngine && t.st == .running then ch.savesTo t (ch.savesAt t) else ch := rfl

theorem Channel.savesTo_eq (ch : Channel) (t : Task) (area : Option Nat) : ∃ m v, ch.savesTo t area = { ch with mem := m, vec := v } ∧ v.regs = ch.vec.regs := by
  cases area <;> exact ⟨_, _, rfl, rfl⟩

theorem Channel.saveContext_eq (ch : Channel) (t : Task) : ∃ m v, ch.saveContext t = { ch with mem := m, vec := v } ∧ v.regs = ch.vec.regs :=
  ite_ind (fun k : Channel => ∃ m v, k = { ch with mem := m, vec := v } ∧ v.regs = ch.vec.regs) (ch.savesTo_eq t _) ⟨_, _, rfl, rfl⟩

theorem Channel.savesTo_withWork (ch : Channel) (w : Wrn) (k : Tsk) (t : Task) (b : Bool) (area : Option Nat) :
    (ch.withWork w k).savesTo { t with committed := b } area = (ch.savesTo t area).withWork w k := by
  cases area <;> rfl

/-- What is saved depends on neither the router nor the other tasks, nor on whether the task is COMMITTED. -/
theorem Channel.saveContext_withWork (ch : Channel) (w : Wrn) (k : Tsk) (t : Task) (b : Bool) :
    (ch.withWork w k).saveContext { t with committed := b } = (ch.saveContext t).withWork w k := by
  rw [Channel.saveContext_if, Channel.saveContext_if, apply_ite (Channel.withWork · w k), ← Channel.savesTo_withWork ch w k t b]
  rfl

/-- A task that parks for a cause. -/
def Task.parkedFor (t : Task) (cause : ParkCause) : Task := { t with st := .parked, cause := cause }

theorem Task.parkedFor_place (cause : ParkCause) (t : Task) : (t.parkedFor cause).core = t.core ∧ (t.parkedFor cause).slot = t.slot := ⟨rfl, rfl⟩

theorem Channel.park_eq {ch : Channel} {core slot : Nat} {t : Task} (cause : ParkCause) (h : ch.task? core slot = some t) :
    ch.park core slot cause = (ch.saveContext t).onTask core slot fun x => x.parkedFor cause := by
  simp only [Channel.park, h]
  rfl

/-! ### What an issue leaves of its task -/

/-- An operation other than GET and PUT commits its task (R42). -/
def Task.issues (t : Task) (op : RemOp) : Task := { t with committed := t.committed || !op.kind.idempotent }

/-- A task after the issue of an operation: one that waits for its response is parked (R47). -/
def Task.afterIssue (t : Task) (op : RemOp) : Task :=
  { t.issues op with st := if op.kind.blocks then .parked else .running, cause := if op.kind.blocks then .response else t.cause }

/-- The channel with the task of a slot as an operation makes it. -/
def Channel.commits (ch : Channel) (core slot : Nat) (op : RemOp) : Channel :=
  if op.kind.idempotent then ch else ch.onTask core slot fun t => { t with committed := true }

theorem Channel.commits_eq (ch : Channel) (core slot : Nat) (op : RemOp) : ∃ k, ch.commits core slot op = ch.withWork ch.wrn k :=
  ite_ind (fun d : Channel => ∃ k, d = ch.withWork ch.wrn k) ⟨ch.tsk, rfl⟩ ⟨_, rfl⟩

theorem Channel.otherTasks_commits (ch : Channel) (core slot : Nat) (op : RemOp) : ch.otherTasks core slot (ch.commits core slot op) :=
  ite_ind (ch.otherTasks core slot) (Channel.otherTasks_of_tasks _ _ rfl) (ch.otherTasks_onTask fun _ => ⟨rfl, rfl⟩)

theorem Channel.task?_commits {ch : Channel} {core slot : Nat} {t : Task} (op : RemOp) (h : ch.task? core slot = some t) :
    (ch.commits core slot op).task? core slot = some (t.issues op) := by
  cases hop : op.kind.idempotent with
  | true => simp [Channel.commits, Task.issues, hop, h]
  | false =>
    rw [Channel.commits, if_neg (by simp [hop]), Channel.task?_onTask_same h (by exact fun _ => ⟨rfl, rfl⟩)]
    simp [Task.issues, hop]

/-- The channel after an issue that left the router at `w`. -/
def Channel.afterIssue (ch : Channel) (core slot : Nat) (op : RemOp) (w : Wrn) : Channel :=
  let k := { ch.commits core slot op with wrn := w }
  if op.kind.blocks then k.park core slot .response else k

theorem Channel.afterIssue_goesOn {ch : Channel} {core slot : Nat} {op : RemOp} (w : Wrn) (h : op.kind.blocks = false) :
    ch.afterIssue core slot op w = { ch.commits core slot op with wrn := w } := if_neg (by simp [h])

theorem Channel.afterIssue_parks {ch : Channel} {core slot : Nat} {t : Task} {op : RemOp} (w : Wrn) (ht : ch.task? core slot = some t)
    (h : op.kind.blocks = true) : ch.afterIssue core slot op w =
      ((ch.saveContext t).withWork w (ch.commits core slot op).tsk).onTask core slot fun x => x.parkedFor .response := by
  obtain ⟨k, hk⟩ := ch.commits_eq core slot op
  have htask := Channel.task?_commits op ht
  unfold Channel.afterIssue
  rw [hk] at htask ⊢
  rw [if_pos h]
  exact (Channel.park_eq (ch := ch.withWork w k) .response htask).trans
    (congrArg (fun d : Channel => d.onTask core slot _) (ch.saveContext_withWork w k t _))

theorem Channel.afterIssue_keeps {ch : Channel} {core slot : Nat} {t : Task} (op : RemOp) (w : Wrn) (ht : ch.task? core slot = some t)
    (hrun : t.st = .running) :
    (ch.afterIssue core slot op w).task? core slot = some (t.afterIssue op) ∧ ch.otherTasks core slot (ch.afterIssue core slot op w) ∧
      (ch.afterIssue core slot op w).wrn = w ∧
      (ch.afterIssue core slot op w).mem = (if op.kind.blocks then (ch.saveContext t).mem else ch.mem) ∧
      (ch.afterIssue core slot op w).cxl = ch.cxl ∧ (ch.afterIssue core slot op w).events = ch.events ∧
      (ch.afterIssue core slot op w).vec.regs = ch.vec.regs := by
  obtain ⟨k, hk⟩ := ch.commits_eq core slot op
  have htask := Channel.task?_commits op ht
  have hothers := ch.otherTasks_commits core slot op
  cases hop : op.kind.blocks with
  | false =>
    rw [Channel.afterIssue_goesOn w hop]
    rw [hk] at htask hothers ⊢
    refine ⟨htask.trans ?_, hothers, rfl, rfl, rfl, rfl, rfl⟩
    simp [Task.afterIssue, Task.issues, hop, hrun]
  | true =>
    obtain ⟨m, v, hsave, hregs⟩ := ch.saveContext_eq t
    rw [Channel.afterIssue_parks w ht hop, hsave]
    have hsaved : (({ ch with mem := m, vec := v } : Channel).withWork w (ch.commits core slot op).tsk).task? core slot = some (t.issues op) := htask
    refine ⟨(Channel.task?_onTask_same hsaved (Task.parkedFor_place _)).trans ?_,
      .trans hothers (Channel.otherTasks_onTask _ (Task.parkedFor_place _)), rfl, rfl, rfl, rfl, hregs⟩
    simp [Task.afterIssue, Task.issues, Task.parkedFor, hop]

/-! ### The issue itself (R253, R269) -/

section

variable {c : ChanId} {core slot : Nat} {s : State} {op : RemOp}

@[simp] theorem State.setCh_emit (s : State) (c : ChanId) (k : Channel) (o : Out) : (s.emit o).setCh c k = (s.setCh c k).emit o := by
  obtain rfl | rfl := ChanId.cases c <;> rfl

/-- An operation that is no transfer of the exchange reads no memory before it leaves. -/
theorem State.issueOp_eq (c : ChanId) (core slot : Nat) (s : State) (hbucket : op.bucket = none) :
    s.issueOp c core slot op = let r := (s.onCh c fun ch => ch.commits core slot op).issueFor c core slot core op
      if r.2 && op.kind.blocks then r.1.onCh c fun ch => ch.park core slot .response else r.1 := by
  have hreads : (s.ch c).opReads op = [] := by simp [Channel.opReads, hbucket]
  have hfill : (s.ch c).fillOp c op = (op, 0) := by simp [Channel.fillOp, hbucket]
  simp only [State.issueOp, hreads, State.checkAll, List.foldl_nil, Bool.not_true, Bool.false_eq_true, if_false, hfill, if_true, hbucket]
  simp only [State.onCh, State.setCh_ch]
  rfl

/-- The router with one more operation that waits for its issue. -/
def Channel.stalls (ch : Channel) (owner : ReqOwner) (agent : Nat) (op : RemOp) : Wrn :=
  { ch.wrn with
    issueStall := satAdd ch.wrn.issueStall 1
    waiting := ch.wrn.waiting ++ [{ owner := owner, agent := BitVec.ofNat 8 agent, op := op }] }

theorem State.issueOp_waits (hfull : (s.ch c).issueFull = true) (hbucket : op.bucket = none) :
    s.issueOp c core slot op = s.setCh c ((s.ch c).afterIssue core slot op ((s.ch c).stalls (.task core slot) core op)) := by
  obtain ⟨k, hk⟩ := (s.ch c).commits_eq core slot op
  have hfor : (s.onCh c fun ch => ch.commits core slot op).issueFor c core slot core op =
      (s.setCh c { (s.ch c).commits core slot op with wrn := (s.ch c).stalls (.task core slot) core op }, true) := by
    have hfull' : ((s.ch c).withWork (s.ch c).wrn k).issueFull = true := hfull
    simp only [State.issueFor, State.issue, State.onCh, State.ch_setCh, hk, hfull', if_true, State.setCh_setCh]
    rfl
  rw [State.issueOp_eq c core slot s hbucket, hfor]
  simp only [Channel.afterIssue, Bool.true_and, State.onCh, State.ch_setCh, State.setCh_setCh]
  exact (apply_ite (s.setCh c) _ _ _).symm

/-- The request of an operation that leaves on the own channel. -/
def Channel.requestOf (ch : Channel) (core slot : Nat) (op : RemOp) : Request :=
  { tag := ch.wrn.nextTag, owner := .task core slot, agent := BitVec.ofNat 8 core, module := BitVec.ofNat 14 (gaModule op.addr.toNat)
    channel := BitVec.ofNat 1 (gaChannel op.addr.toNat), op := op, timeoutUs := ch.rspTimeoutUs, lostAfterMs := ch.lostAfterMs }

/-- The router after it. -/
def Channel.sends (ch : Channel) (core slot : Nat) (op : RemOp) : Wrn :=
  let key := flowKey core (gaModule op.addr.toNat) (gaChannel op.addr.toNat) op.cls.toNat
  { ch.wrn with
    reqs := ch.wrn.reqs ++ [ch.requestOf core slot op], nextTag := ch.wrn.nextTag + 1
    seqs := smMod 0 ch.wrn.seqs key fun q => q + 1, psels := smSet 0 ch.wrn.psels key 0 }

theorem State.issueOp_sends (hroom : (s.ch c).issueFull = false) (hown : (s.ch c).isOwn c op.addr.toNat = true) (hbucket : op.bucket = none)
    (hforward : op.forward = none) : s.issueOp c core slot op =
      (s.setCh c ((s.ch c).afterIssue core slot op ((s.ch c).sends core slot op))).emit (.nocRequest c ((s.ch c).mkRequest c core 0 op)) := by
  obtain ⟨k, hk⟩ := (s.ch c).commits_eq core slot op
  have hfor : (s.onCh c fun ch => ch.commits core slot op).issueFor c core slot core op =
      ((s.setCh c { (s.ch c).commits core slot op with wrn := (s.ch c).sends core slot op }).emit (.nocRequest c ((s.ch c).mkRequest c core 0 op)), true) := by
    have hroom' : ((s.ch c).withWork (s.ch c).wrn k).issueFull = false := hroom
    have hown' : ((s.ch c).withWork (s.ch c).wrn k).isOwn c op.addr.toNat = true := hown
    have hpin (d : Channel) : d.pinForward op = d := by simp only [Channel.pinForward, Channel.forwardFrame, hforward]
    simp only [State.issueFor, State.issue, State.issueNow, State.onCh, State.ch_setCh, hk, hroom', hown', hpin, Bool.not_true, Bool.false_and,
      Bool.false_eq_true, if_false, if_true, ite_self, State.emit_ch, State.setCh_emit, State.setCh_setCh]
    rfl
  rw [State.issueOp_eq c core slot s hbucket, hfor]
  simp only [Channel.afterIssue, Bool.true_and, State.onCh, State.emit_ch, State.setCh_emit, State.ch_setCh, State.setCh_setCh]
  split <;> rfl

end

/-! ### The commands -/

section

variable {c : ChanId} {core : LCore} {slot : Nat} {s : State} {t : Task}

/-- A task that issues an operation when one of its 64 outstanding ones has completed (R48). -/
def Task.holding (t : Task) (op : RemOp) : Task := { t with held := some op }

theorem exec_opIssue_refused {op : RemOp} (ht : (s.ch c).task? core.val slot = some t) (htile : t.exec = 0) (hop : op.kind.idempotent = false) :
    exec (.opIssue c core slot op) s = .next s := by
  change execOpIssue c core slot op s = _
  simp only [execOpIssue, ht]
  exact if_pos (.inr (.inr ⟨htile, by simp [hop]⟩))

theorem exec_opIssue_held {op : RemOp} (ht : (s.ch c).task? core.val slot = some t) (hrun : t.st = .running) (hprog : t.programEnded = false)
    (hop : t.exec = 0 → op.kind.idempotent = true) (hblocks : op.kind.blocks = false) (hlimit : 64 ≤ ((s.ch c).opsOf core.val slot).length) :
    exec (.opIssue c core slot op) s =
      .next (s.setCh c (((s.ch c).park core.val slot .opLimit).onTask core.val slot fun x => x.holding op)) := by
  change execOpIssue c core slot op s = _
  simp only [execOpIssue, ht]
  rw [if_neg (by simpa [hrun, hprog] using hop), if_pos (by simpa [hblocks] using hlimit)]
  rfl

theorem exec_opIssue_issues {op : RemOp} (ht : (s.ch c).task? core.val slot = some t) (hrun : t.st = .running) (hprog : t.programEnded = false)
    (hop : t.exec = 0 → op.kind.idempotent = true) (hroom : op.kind.blocks = true ∨ ((s.ch c).opsOf core.val slot).length < 64) :
    exec (.opIssue c core slot op) s = .next (s.issueOp c core.val slot op) := by
  change execOpIssue c core slot op s = _
  simp only [execOpIssue, ht]
  rw [if_neg (by simpa [hrun, hprog] using hop), if_neg]
  rcases hroom with hblocks | hless
  · simp [hblocks]
  · simp [hless]

/-- A task behind a FENCE on these classes (R46). -/
def Task.fencing (t : Task) (mask : U8) : Task := { t with fenceMask := mask }

theorem exec_fence_parks {mask : U8} (ht : (s.ch c).task? core.val slot = some t) (hrun : t.st = .running) (hprog : t.programEnded = false)
    (hops : ((s.ch c).opsOf core.val slot).any (inFence mask) = true) :
    exec (.fence c core slot mask) s = .next (s.setCh c (((s.ch c).park core.val slot .fence).onTask core.val slot fun x => x.fencing mask)) := by
  change execFence c core slot mask s = _
  simp only [execFence, ht]
  rw [if_pos ⟨hrun, by simp [hprog], hops⟩]
  rfl

theorem exec_fence_passes {mask : U8} (ht : (s.ch c).task? core.val slot = some t)
    (hops : ((s.ch c).opsOf core.val slot).any (inFence mask) = false) : exec (.fence c core slot mask) s = .next s := by
  change execFence c core slot mask s = _
  simp only [execFence, ht]
  exact if_neg fun h => by simp [hops] at h

end

/-- A task that parks, and in which what it waits for is then noted. -/
theorem Channel.park_keeps {ch : Channel} {core slot : Nat} {t : Task} (cause : ParkCause) {f : Task → Task}
    (hf : ∀ x, (f x).core = x.core ∧ (f x).slot = x.slot) (ht : ch.task? core slot = some t) :
    let k := (ch.park core slot cause).onTask core slot f
    k.task? core slot = some (f (t.parkedFor cause)) ∧ k.wrn = ch.wrn ∧ k.mem = (ch.saveContext t).mem ∧ k.vec = (ch.saveContext t).vec ∧
      ch.otherTasks core slot k := by
  obtain ⟨m, v, hsave, -⟩ := ch.saveContext_eq t
  intro k
  have hk : k = ((ch.saveContext t).onTask core slot fun x => x.parkedFor cause).onTask core slot f := by rw [← Channel.park_eq cause ht]
  have hsaved : (ch.saveContext t).tsk.tasks = ch.tsk.tasks := by rw [hsave]
  rw [hk]
  refine ⟨Channel.task?_onTask_same (Channel.task?_onTask_same ?_ (Task.parkedFor_place cause)) hf, ?_, rfl, rfl, ?_⟩
  · rw [Channel.task?_congr hsaved, ht]
  · rw [hsave]
    rfl
  · exact ((Channel.otherTasks_of_tasks core slot hsaved).trans (Channel.otherTasks_onTask _ (Task.parkedFor_place cause))).trans
      (Channel.otherTasks_onTask _ hf)

/-- Settles O10: an issue waits, parks or leaves its request; a FENCE parks or passes. -/
theorem opIssueAndFence : Obligations.OpIssueAndFence := by
  unfold Obligations.OpIssueAndFence
  intro c core slot op mask s t
  dsimp only
  intro ht hrun hprog
  refine ⟨fun htile hop => exec_opIssue_refused ht htile hop, fun hop hfull hroom hbucket => ?_, fun hop hblocks hlimit => ?_,
    fun hop hfree hroom hown hbucket hforward => ?_, fun hops => ?_, fun hops => exec_fence_passes ht hops⟩
  · obtain ⟨htask, hothers, hwrn, hmem, -, -, -⟩ :=
      Channel.afterIssue_keeps op ((s.ch c).stalls (.task core.val slot) core.val op) ht hrun
    refine ⟨_, (exec_opIssue_issues ht hrun hprog hop hroom).trans (congrArg Host.Outcome.next (State.issueOp_waits hfull hbucket)), ?_⟩
    rw [onlyChannel, State.ch_setCh]
    exact ⟨hwrn, htask, hmem, hothers, rfl⟩
  · obtain ⟨htask, hwrn, hmem, hvec, hothers⟩ :=
      Channel.park_keeps .opLimit (f := fun x => x.holding op) (fun _ => ⟨rfl, rfl⟩) ht
    refine ⟨_, exec_opIssue_held ht hrun hprog hop hblocks hlimit, ?_⟩
    rw [onlyChannel, State.ch_setCh]
    exact ⟨htask, hwrn, hmem, hvec, hothers, rfl⟩
  · obtain ⟨htask, hothers, hwrn, hmem, hcxl, hev, hregs⟩ :=
      Channel.afterIssue_keeps op ((s.ch c).sends core.val slot op) ht hrun
    refine ⟨_, (exec_opIssue_issues ht hrun hprog hop hroom).trans (congrArg Host.Outcome.next (State.issueOp_sends hfree hown hbucket hforward)), ?_⟩
    rw [onlyChannelSent, State.emit_ch, State.ch_setCh, State.emit_out, State.setCh_out]
    refine ⟨rfl, ⟨(s.ch c).requestOf core.val slot op, ?_, rfl, rfl, rfl, rfl, rfl⟩, htask, hmem, hcxl, hev, hregs, hothers, ?_⟩
    · rw [hwrn]
      rfl
    · obtain rfl | rfl := ChanId.cases c <;> rfl
  · obtain ⟨htask, hwrn, hmem, hvec, hothers⟩ :=
      Channel.park_keeps .fence (f := fun x => x.fencing mask) (fun _ => ⟨rfl, rfl⟩) ht
    refine ⟨_, exec_fence_parks ht hrun hprog hops, ?_⟩
    rw [onlyChannel, State.ch_setCh]
    exact ⟨htask, hwrn, hmem, hvec, hothers, rfl⟩

end Sys2Proof.Machine
end

section
/-! PROOFS. Regions of Squirrel: opening, release and sharing (R170, R177, R179, R182). -/

namespace Sys2Proof.Machine

/-! ### Tables -/

theorem smGet_filter_kept {α : Type} (d : α) (p : Nat × α → Bool) (m : SMap α) (i : Nat) (h : ∀ v, p (i, v) = true) :
    smGet d (m.filter p) i = smGet d m i := by
  induction m with
  | nil => rfl
  | cons e r ih =>
    by_cases hp : p e = true
    · rw [List.filter_cons_of_pos hp]
      simp only [smGet, ih]
    · have hne : e.1 ≠ i := by
        rintro rfl
        exact hp (h e.2)
      rw [List.filter_cons_of_neg hp, ih, smGet, if_neg hne]

theorem smGet_filter_gone {α : Type} (d : α) (p : Nat × α → Bool) (m : SMap α) (i : Nat) (h : ∀ v, p (i, v) = false) :
    smGet d (m.filter p) i = d := by
  induction m with
  | nil => rfl
  | cons e r ih =>
    by_cases hp : p e = true
    · have hne : e.1 ≠ i := by
        rintro rfl
        exact absurd hp (Bool.eq_false_iff.mp (h e.2))
      rw [List.filter_cons_of_pos hp, smGet, if_neg hne, ih]
    · rw [List.filter_cons_of_neg hp, ih]

theorem smGet_smClear_outside {α : Type} (d : α) (a n : Nat) (m : SMap α) {i : Nat} (h : i < a ∨ a + n ≤ i) :
    smGet d (smClear a n m) i = smGet d m i :=
  smGet_filter_kept d _ m i fun _ => by simp; omega

theorem smGet_smClear_inside {α : Type} (d : α) (a n : Nat) (m : SMap α) {i : Nat} (h : a ≤ i) (h' : i < a + n) :
    smGet d (smClear a n m) i = d :=
  smGet_filter_gone d _ m i fun _ => by simp; omega

/-- Keys of pages below 2^18 of two regions lie apart. -/
theorem pteKey_apart {x r p : Nat} (h : x ≠ r) (hp : p < 2 ^ 18) : pteKey x p < pteKey r 0 ∨ pteKey r 0 + 2 ^ 18 ≤ pteKey x p := by
  simp only [pteKey]
  omega

/-! ### Region descriptors and page tables -/

/-- The region descriptors and page tables of `k` are those of `ch`. -/
def Channel.sameTables (ch k : Channel) : Prop := k.sql.regions = ch.sql.regions ∧ k.sql.ptes = ch.sql.ptes

theorem Channel.sameTables.trans {a b d : Channel} (h : a.sameTables b) (h' : b.sameTables d) : a.sameTables d :=
  ⟨h'.1.trans h.1, h'.2.trans h.2⟩

theorem Channel.foldl_sameTables {β : Type} {f : Channel → β → Channel} (h : ∀ (k : Channel) (b : β), k.sameTables (f k b)) (l : List β) (ch : Channel) :
    ch.sameTables (l.foldl f ch) :=
  List.foldlRecOn l f (motive := ch.sameTables) ⟨rfl, rfl⟩ fun k hk b _ => hk.trans (h k b)

theorem Channel.frameAdjust_sameTables (ch : Channel) (l : List (Nat × Int × Int)) : ch.sameTables (ch.frameAdjust l) := by
  refine (Channel.foldl_sameTables ?_ l ch).trans (Channel.foldl_sameTables ?_ l _) <;> exact fun _ _ => ⟨rfl, rfl⟩

theorem Channel.cancelSpill_sameTables (ch : Channel) (n : Nat) : ch.sameTables (ch.cancelSpill n) := by
  unfold Channel.cancelSpill
  split <;> exact ⟨rfl, rfl⟩

theorem Channel.releaseBack_sameTables (ch : Channel) (n : Nat) : ch.sameTables (ch.releaseBack n) := by
  unfold Channel.releaseBack
  split <;> exact ⟨rfl, rfl⟩

theorem Channel.dropRefs_sameTables (ch : Channel) (l : List Pte) : ch.sameTables (ch.dropRefs l) :=
  ((Channel.foldl_sameTables (fun (k : Channel) (p : Pte) => k.cancelSpill_sameTables p.frame.toNat) _ ch).trans
    (Channel.foldl_sameTables (fun (k : Channel) (p : Pte) => k.releaseBack_sameTables p.frame.toNat) _ _)).trans
    (Channel.frameAdjust_sameTables _ _)

theorem Channel.dropRefs_nil (ch : Channel) : ch.dropRefs [] = ch := rfl

/-- Every region but one, with its pages, is in `k` as in `ch`. -/
def Channel.otherRegions (r : Nat) (ch k : Channel) : Prop := ∀ x p : Nat, x ≠ r → p < 2 ^ 18 → k.region x = ch.region x ∧ k.pte x p = ch.pte x p

theorem Channel.otherRegions_of_sameTables {ch k : Channel} (r : Nat) (h : ch.sameTables k) : ch.otherRegions r k := by
  intro x p _ _
  simp only [Channel.region, Channel.pte, h.1, h.2, and_self]

theorem Channel.otherRegions.trans {r : Nat} {a b d : Channel} (h : a.otherRegions r b) (h' : b.otherRegions r d) : a.otherRegions r d :=
  fun x p hx hp => ⟨(h' x p hx hp).1.trans (h x p hx hp).1, (h' x p hx hp).2.trans (h x p hx hp).2⟩

/-- A region with a new descriptor and its first pages cleared, as KV_OPEN and KV_RELEASE make it. -/
def Channel.clearsRegion (ch : Channel) (r pages : Nat) (v : Region) : Channel :=
  { ch with sql := { ch.sql with
      regions := smSet {} ch.sql.regions r v, ptes := smClear (pteKey r 0) pages ch.sql.ptes
      lost := ch.sql.lost.filter fun e => e.1 != r } }

theorem Channel.clearsRegion_tables (ch : Channel) {r pages : Nat} (v : Region) (h : pages ≤ 2 ^ 18) :
    (ch.clearsRegion r pages v).region r = v ∧ (∀ p : Nat, p < pages → (ch.clearsRegion r pages v).pte r p = {}) ∧
      ch.otherRegions r (ch.clearsRegion r pages v) := by
  refine ⟨smGet_smSet_same ({} : Region) _ r v, fun p hp => ?_, fun x p hx hp => ?_⟩
  · refine smGet_smClear_inside ({} : Pte) _ _ _ ?_ ?_ <;>
    · simp only [pteKey]
      omega
  · have hkey := pteKey_apart hx hp
    exact ⟨smGet_smSet_other ({} : Region) _ v hx, smGet_smClear_outside ({} : Pte) _ _ _ (by omega)⟩

/-! ### KV_OPEN (R170) -/

theorem Channel.openPlace_pages {ch : Channel} {r pool pages base : Nat} (h : ch.openPlace r pool pages = some base) : pages ≤ 2 ^ 18 := by
  by_contra hbig
  have hnone : ch.openPlace r pool pages = none := if_pos (by simp; omega)
  simp [hnone] at h

/-! ### KV_RELEASE (R182) -/

theorem Channel.releaseRegion_tables (ch : Channel) (r : Nat) :
    (ch.releaseRegion r).region r = {} ∧ (∀ p : Nat, p < 2 ^ 18 → (ch.releaseRegion r).pte r p = {}) ∧ ch.otherRegions r (ch.releaseRegion r) := by
  obtain ⟨hregion, hpages, hothers⟩ := ch.clearsRegion_tables (r := r) {} (le_refl (2 ^ 18))
  have htables : (ch.clearsRegion r (2 ^ 18) {}).sameTables (ch.releaseRegion r) := Channel.dropRefs_sameTables _ _
  refine ⟨?_, fun p hp => ?_, hothers.trans (Channel.otherRegions_of_sameTables r htables)⟩
  · rw [Channel.region, htables.1]
    exact hregion
  · rw [Channel.pte, htables.2]
    exact hpages p hp

/-- The release of a region without valid pages touches no frame. -/
theorem Channel.releaseRegion_frames {ch : Channel} {r : Nat} (h : ch.validPtes r = []) :
    (ch.releaseRegion r).sql.hbm = ch.sql.hbm ∧ (ch.releaseRegion r).sql.back = ch.sql.back := by
  unfold Channel.releaseRegion
  dsimp only
  rw [h, List.map_nil, Channel.dropRefs_nil]
  exact ⟨rfl, rfl⟩

/-! ### KV_SHARE (R177, R179) -/

theorem Frame.settle_referenced {f : Frame} (h : f.refcount ≠ 0) : f.settle = f := by
  unfold Frame.settle
  split
  · exact if_neg h
  · rfl

theorem adjust_succ {x : U16} (h : x.toNat < 65535) : (adjust x 1).toNat = x.toNat + 1 := by
  have hint : ((x.toNat : Int) + 1).toNat = x.toNat + 1 := by omega
  rw [adjust, hint, BitVec.toNat_ofNat, Nat.mod_eq_of_lt (by omega)]

/-- A frame that takes a reference holds one more; the others stay. -/
theorem Channel.hbmFrame_takesRef {ch : Channel} {n : Nat} (f : Nat) (h : (ch.hbmFrame n).refcount.toNat < 65535) :
    ((ch.frameAdjust [(n, 0, 1)]).hbmFrame f).refcount.toNat = (ch.hbmFrame f).refcount.toNat + if n = f then 1 else 0 := by
  let take (x : Frame) : Frame := { x with pins := adjust x.pins 0, refcount := adjust x.refcount 1 }
  have hread : (ch.frameAdjust [(n, 0, 1)]).hbmFrame f =
      { smGet {} (smMod {} (smMod {} ch.sql.hbm n take) n Frame.settle) f with
        pool := ((ch.frameAdjust [(n, 0, 1)]).hbmFrame f).pool } := rfl
  rw [hread]
  by_cases hf : n = f
  · subst hf
    have hone : (take (smGet {} ch.sql.hbm n)).refcount.toNat = (ch.hbmFrame n).refcount.toNat + 1 := adjust_succ h
    have hsettle : (take (smGet {} ch.sql.hbm n)).settle = take (smGet {} ch.sql.hbm n) :=
      Frame.settle_referenced fun h0 => by
        rw [h0] at hone
        exact absurd hone (Nat.succ_ne_zero _).symm
    rw [smGet_smMod_same, smGet_smMod_same, hsettle, if_pos rfl]
    exact hone
  · rw [smGet_smMod_other _ _ _ (Ne.symm hf), smGet_smMod_other _ _ _ (Ne.symm hf), if_neg hf]
    rfl

theorem countIf_range_succ (p : Nat → Bool) (n : Nat) : countIf p (List.range (n + 1)) = countIf p (List.range n) + if p n = true then 1 else 0 := by
  cases h : p n <;> simp [countIf, List.range_succ, List.filter_append, h]

theorem countIf_range_mono (p : Nat → Bool) {n m : Nat} (h : n ≤ m) : countIf p (List.range n) ≤ countIf p (List.range m) :=
  ((List.range_sublist.mpr h).filter p).length_le

/-- How often the pages `[first, first + n)` of a region name a frame. -/
def Channel.names (ch : Channel) (src first n f : Nat) : Nat :=
  countIf (fun i => (ch.pte src (first + i)).frame.toNat == f) (List.range n)

/-- One page of a region takes a PTE, and its frame a reference. -/
def Channel.takesPage (ch : Channel) (dst q : Nat) (p : Pte) : Channel := (ch.setPte dst q p).frameAdjust [(p.frame.toNat, 0, 1)]

theorem Channel.share_succ (ch : Channel) (src dst first n : Nat) : ch.share src dst first (n + 1) =
    (ch.share src dst first n).takesPage dst (first + n) ((ch.share src dst first n).pte src (first + n)) := by
  simp only [Channel.share, List.range_succ, List.foldl_append, List.foldl_cons, List.foldl_nil]
  rfl

theorem Channel.takesPage_tables {ch : Channel} {dst q : Nat} (p : Pte) (hq : q < 2 ^ 18) :
    (ch.takesPage dst q p).pte dst q = p ∧ (∀ i ≠ q, (ch.takesPage dst q p).pte dst i = ch.pte dst i) ∧ ch.otherRegions dst (ch.takesPage dst q p) := by
  have htables : (ch.setPte dst q p).sameTables (ch.takesPage dst q p) := Channel.frameAdjust_sameTables _ _
  have hpte (r i : Nat) : (ch.takesPage dst q p).pte r i = smGet {} (smSet {} ch.sql.ptes (pteKey dst q) p) (pteKey r i) := by
    rw [Channel.pte, htables.2]
    rfl
  refine ⟨?_, fun i hi => ?_, fun x i hx hi => ⟨?_, ?_⟩⟩
  · rw [hpte, smGet_smSet_same]
  · rw [hpte, smGet_smSet_other _ _ _ (by simp only [pteKey]; omega)]
    rfl
  · rw [Channel.region, htables.1]
    rfl
  · rw [hpte, smGet_smSet_other _ _ _ (by simp only [pteKey]; omega)]
    rfl

theorem Channel.share_shares {ch : Channel} {src dst first count : Nat} (hne : src ≠ dst) (hpages : first + count ≤ 2 ^ 18)
    (hroom : ∀ i < count, (ch.hbmFrame (ch.pte src (first + i)).frame.toNat).refcount.toNat
      + ch.names src first count (ch.pte src (first + i)).frame.toNat ≤ 65535) (n : Nat) (hn : n ≤ count) :
    (∀ i < n, (ch.share src dst first n).pte dst (first + i) = ch.pte src (first + i)) ∧
      ch.otherRegions dst (ch.share src dst first n) ∧
      (∀ f, ((ch.share src dst first n).hbmFrame f).refcount.toNat = (ch.hbmFrame f).refcount.toNat + ch.names src first n f) ∧
      (ch.share src dst first n).sql.back = ch.sql.back := by
  induction n with
  | zero => exact ⟨fun _ hi => absurd hi (Nat.not_lt_zero _), fun _ _ _ _ => ⟨rfl, rfl⟩, fun _ => rfl, rfl⟩
  | succ n ih =>
    obtain ⟨hshared, hothers, hrefs, hback⟩ := ih (by omega)
    rw [Channel.share_succ, (hothers src (first + n) hne (by omega)).2]
    obtain ⟨hpage, hkept, hregions⟩ := Channel.takesPage_tables (ch := ch.share src dst first n) (dst := dst) (ch.pte src (first + n))
      (show first + n < 2 ^ 18 by omega)
    refine ⟨fun i hi => ?_, hothers.trans hregions, fun f => ?_, hback⟩
    · rcases Nat.lt_succ_iff_lt_or_eq.mp hi with hlt | rfl
      · rw [hkept _ (by omega), hshared i hlt]
      · exact hpage
    · have hnames (f : Nat) : ch.names src first (n + 1) f = ch.names src first n f + if (ch.pte src (first + n)).frame.toNat = f then 1 else 0 := by
        simpa [Channel.names] using countIf_range_succ (fun i => (ch.pte src (first + i)).frame.toNat == f) n
      have hfull : ((ch.share src dst first n).hbmFrame (ch.pte src (first + n)).frame.toNat).refcount.toNat < 65535 := by
        have hone := hnames (ch.pte src (first + n)).frame.toNat
        have hmono : ch.names src first (n + 1) (ch.pte src (first + n)).frame.toNat ≤ ch.names src first count (ch.pte src (first + n)).frame.toNat :=
          countIf_range_mono _ hn
        have hleft := hroom n (by omega)
        rw [hrefs]
        rw [if_pos rfl] at hone
        omega
      have htakes := Channel.hbmFrame_takesRef (ch := (ch.share src dst first n).setPte dst (first + n) (ch.pte src (first + n))) f hfull
      rw [hnames, ← Nat.add_assoc, ← hrefs]
      exact htakes

theorem Channel.mayShare_pages {ch : Channel} {src dst first count : Nat} (h : ch.mayShare src dst first count = true) :
    ∀ i < count, (ch.pte src (first + i)).valid = true ∧ (ch.pte dst (first + i)).valid = false ∧
      (ch.hbmFrame (ch.pte src (first + i)).frame.toNat).refcount.toNat + ch.names src first count (ch.pte src (first + i)).frame.toNat ≤ 65535 := by
  intro i hi
  simp only [Channel.mayShare, Bool.and_eq_true, List.all_eq_true, List.mem_range, Bool.not_eq_true', decide_eq_true_eq] at h
  obtain ⟨⟨⟨hvalid, -⟩, hfree⟩, hroom⟩ := h.2 i hi
  refine ⟨hvalid, hfree, ?_⟩
  have hsame (a b : Pte) : (a.frame == b.frame) = (a.frame.toNat == b.frame.toNat) := by
    rw [Bool.eq_iff_iff, beq_iff_eq, beq_iff_eq, BitVec.toNat_inj]
  simpa only [hsame, Channel.names] using hroom

theorem Channel.share_effect {ch : Channel} {src dst first count : Nat} (h : ch.mayShare src dst first count = true) (hpages : first + count ≤ 2 ^ 18) :
    (∀ i < count, (ch.share src dst first count).pte dst (first + i) = ch.pte src (first + i)) ∧
      ch.otherRegions dst (ch.share src dst first count) ∧
      (∀ f, ((ch.share src dst first count).hbmFrame f).refcount.toNat = (ch.hbmFrame f).refcount.toNat + ch.names src first count f) ∧
      (ch.share src dst first count).sql.back = ch.sql.back := by
  have hmay := Channel.mayShare_pages h
  rcases Nat.eq_zero_or_pos count with rfl | hpos
  · exact ⟨fun _ hi => absurd hi (Nat.not_lt_zero _), fun _ _ _ _ => ⟨rfl, rfl⟩, fun _ => rfl, rfl⟩
  · have hne : src ≠ dst := by
      rintro rfl
      obtain ⟨hvalid, hfree, -⟩ := hmay 0 hpos
      exact absurd (hvalid.symm.trans hfree) (by decide)
    exact Channel.share_shares hne hpages (fun i hi => (hmay i hi).2.2) count le_rfl

/-! ### Key-value faults (R40, R193) -/

theorem State.kvFault_host (s : State) (c : ChanId) (code : Nat) : s.kvFault c none code = s.setCh c ((s.ch c).kvFaulted c code) := by
  obtain ⟨evs, rs, hraise⟩ := (s.ch c).raise_eq_withRaised c code
  simp only [State.kvFault, State.onCh, State.ch_setCh, State.setCh_setCh, Channel.kvFaulted, hraise]
  rfl

/-- A task that faults without transfers of the engine. -/
def Channel.faults (ch : Channel) (t : Task) (code : Nat) : Channel :=
  let k := ((ch.giveUp t).dropSample t.sample).dropSample t.dup
  { k with tsk := { k.tsk with faulted := satAdd k.tsk.faulted 1, lastCode := BitVec.ofNat 16 code } }.lastFault code

theorem State.faultTask_noXfers {s : State} {c : ChanId} (t : Task) (code : Nat) (h : (s.ch c).dma.xfers = []) :
    s.faultTask c t code = s.setCh c ((s.ch c).faults t code) := by
  have hstop : s.stopXfers c t = s := by
    have hmine : (s.ch c).dma.xfers.filter (xferOf t.core t.slot) = [] := by rw [h, List.filter_nil]
    have hrest : ((s.ch c).dma.xfers.filter fun x => !xferOf t.core t.slot x) = (s.ch c).dma.xfers := by rw [h, List.filter_nil]
    unfold State.stopXfers
    rw [hmine, State.onCh, hrest]
    exact s.setCh_ch c
  rw [State.faultTask, hstop]
  rfl

theorem Channel.giveUp_eq (ch : Channel) (t : Task) : ∃ sql credits, ch.giveUp t =
    { ch.freed t with sql := sql, tsk := { (ch.freed t).tsk with credits := credits } } := by
  obtain ⟨credits, hcredit⟩ : ∃ q, (ch.endWrites t).creditBack t = { ch.endWrites t with tsk := { ch.tsk with credits := q } } :=
    ite_ind (fun k : Channel => ∃ q, k = { ch.endWrites t with tsk := { ch.tsk with credits := q } }) ⟨_, rfl⟩ ⟨ch.tsk.credits, rfl⟩
  obtain ⟨sql, hslot⟩ := Channel.leaveSlot_eq { ch.endWrites t with tsk := { ch.tsk with credits := credits } } t (ch.withdrawn t)
  exact ⟨sql, credits, by rw [Channel.giveUp, hcredit, hslot]; rfl⟩

theorem Channel.dropSample_eq (ch : Channel) (id : Option Nat) : ∃ b, ch.dropSample id = { ch with bdg := b } := by
  unfold Channel.dropSample
  split
  · exact ⟨_, rfl⟩
  · exact ite_ind (fun k : Channel => ∃ b, k = { ch with bdg := b }) ⟨_, rfl⟩ ⟨_, rfl⟩

theorem Channel.faults_keeps (ch : Channel) (t : Task) (code : Nat) :
    (ch.faults t code).task? t.core t.slot = none ∧ (ch.faults t code).tsk.faulted = satAdd ch.tsk.faulted 1 ∧
      (ch.faults t code).tsk.lastCode = BitVec.ofNat 16 code ∧ (ch.faults t code).chn.lastFault = BitVec.ofNat 16 code ∧
      ch.otherTasks t.core t.slot (ch.faults t code) ∧ (ch.faults t code).mem = ch.mem ∧ (ch.faults t code).vec.regs = ch.vec.regs := by
  obtain ⟨sql, credits, hgive⟩ := ch.giveUp_eq t
  obtain ⟨_, hsample⟩ := (ch.giveUp t).dropSample_eq t.sample
  obtain ⟨_, hdup⟩ := ((ch.giveUp t).dropSample t.sample).dropSample_eq t.dup
  unfold Channel.faults
  rw [hdup, hsample, hgive]
  exact ⟨ch.task?_freed t, rfl, rfl, rfl, ch.otherTasks_freed t, rfl, rfl⟩

/-- A command that ends in a key-value fault of a task without transfers faults that task. -/
theorem faultsTask_of_kvFault {i : Instr} {c : ChanId} {o : LCore × Nat} {t : Task} {code : Nat} {s : State}
    (hexec : exec i s = .next (s.kvFault c (some o) code)) (ht : (s.ch c).task? o.1.val o.2 = some t) (hxfers : (s.ch c).dma.xfers = []) :
    faultsTask i c o.1.val o.2 code s := by
  obtain ⟨hcore, hslot⟩ := Channel.task?_place ht
  obtain ⟨evs, rs, hraise⟩ := (s.ch c).raise_eq_withRaised c code
  have hraised : ((s.ch c).withRaised evs rs).task? o.1.val o.2 = some t := ht
  have hfault : s.kvFault c (some o) code = s.setCh c (((s.ch c).withRaised evs rs).faults t code) := by
    simp only [State.kvFault, State.onCh, hraise, State.ch_setCh, hraised]
    rw [State.faultTask_noXfers t code (by rw [State.ch_setCh]; exact hxfers), State.ch_setCh, State.setCh_setCh]
  obtain ⟨hfree, hcount, hcode, hlast, hothers, hmem, hregs⟩ := ((s.ch c).withRaised evs rs).faults_keeps t code
  refine ⟨_, hexec.trans (congrArg Host.Outcome.next hfault), ?_⟩
  rw [onlyChannel, State.ch_setCh, ← hcore, ← hslot]
  exact ⟨hfree, hcount, hcode, hlast, hothers, hmem, hregs, rfl⟩

/-! ### The commands -/

section

variable {c : ChanId} {s : State} {r layer pool pages seq src dst first count base : Nat}

theorem exec_kvOpen_opens (owner : Option (LCore × Nat)) (h : (s.ch c).openPlace r pool pages = some base) :
    exec (.kvOpen c owner r layer pool pages seq) s = .next (s.setCh c ((s.ch c).openRegion base r layer pool pages seq)) := by
  change execKvOpen c owner r layer pool pages seq s = _
  simp only [execKvOpen, State.kvOpen, h, State.onCh]

theorem exec_kvOpen_fails (owner : Option (LCore × Nat)) (h : (s.ch c).openPlace r pool pages = none) :
    exec (.kvOpen c owner r layer pool pages seq) s = .next (s.kvFault c owner 0x5008) := by
  change execKvOpen c owner r layer pool pages seq s = _
  simp only [execKvOpen, State.kvOpen, h]

theorem exec_kvRelease_acts (owner : Option (LCore × Nat)) (htransit : (s.ch c).transitPool? r = none) (hlive : ((s.ch c).region r).live = true) :
    exec (.kvRelease c owner r) s = .next (s.setCh c ((s.ch c).kvAct owner (.release r) fun h => h.releaseRegion r)) := by
  change execKvRelease c owner r s = _
  rw [execKvRelease, State.kvRelease, if_pos ⟨htransit, hlive⟩, State.onCh]

theorem exec_kvRelease_fails (owner : Option (LCore × Nat)) (h : (s.ch c).transitPool? r ≠ none ∨ ((s.ch c).region r).live = false) :
    exec (.kvRelease c owner r) s = .next (s.kvFault c owner 0x5008) := by
  change execKvRelease c owner r s = _
  rw [execKvRelease, State.kvRelease, if_neg]
  rintro ⟨htransit, hlive⟩
  rcases h with h | h
  · exact h htransit
  · exact absurd (hlive.symm.trans h) (by decide)

theorem exec_kvShare_acts (owner : Option (LCore × Nat)) (h : (s.ch c).mayShare src dst first count = true) :
    exec (.kvShare c owner src dst first count) s =
      .next (s.setCh c ((s.ch c).kvAct owner (.share src dst first count) fun h => h.share src dst first count)) := by
  change execKvShare c owner src dst first count s = _
  rw [execKvShare, State.kvShare, if_pos h, State.onCh]

theorem exec_kvShare_fails (owner : Option (LCore × Nat)) (h : (s.ch c).mayShare src dst first count = false) :
    exec (.kvShare c owner src dst first count) s = .next (s.kvFault c owner 0x5006) := by
  change execKvShare c owner src dst first count s = _
  rw [execKvShare, State.kvShare, if_neg (by simp [h])]

end

theorem onlySquirrel_of_sqlOnly {c : ChanId} {s : State} {k : Channel} (h : (s.ch c).sqlOnly k) : onlySquirrel c none s (s.setCh c k) := by
  obtain ⟨q, rfl⟩ := h
  rw [onlySquirrel, State.ch_setCh]
  rfl

/-- Settles O26: each command acts on its region's tables and its frames, or faults; what a task asks waits for its COMPLETE. -/
theorem kvRegionOperations : Obligations.KvRegionOperations := by
  unfold Obligations.KvRegionOperations
  intro c owner r layer pool pages seq src dst first count base s
  dsimp only
  refine ⟨fun hplace => ?_, fun hplace => ?_, fun htransit hlive => ?_, fun hclosed => ?_, fun hmay hpages => ?_, fun hmay => ?_, ?_, ?_⟩
  · obtain ⟨hregion, hptes, hothers⟩ := (s.ch c).clearsRegion_tables (r := r)
      { pteBase := BitVec.ofNat 40 base, pool := BitVec.ofNat 8 pool, live := true, layer := BitVec.ofNat 8 layer
        maxPages := BitVec.ofNat 32 pages, seq := BitVec.ofNat 32 seq } (Channel.openPlace_pages hplace)
    refine ⟨_, exec_kvOpen_opens owner hplace, ?_⟩
    rw [State.ch_setCh]
    exact ⟨hregion, hptes, hothers, rfl, rfl, onlySquirrel_of_sqlOnly ⟨_, rfl⟩⟩
  · rw [exec_kvOpen_fails none hplace, State.kvFault_host]
  · obtain ⟨hregion, hptes, hothers⟩ := (s.ch c).releaseRegion_tables r
    refine ⟨_, exec_kvRelease_acts none htransit hlive, ?_⟩
    rw [State.ch_setCh]
    exact ⟨hregion, hptes, hothers, Channel.releaseRegion_frames, onlySquirrel_of_sqlOnly ((s.ch c).releaseRegion_sqlOnly r)⟩
  · rw [exec_kvRelease_fails none hclosed, State.kvFault_host]
  · obtain ⟨hshared, hothers, hrefs, hback⟩ := Channel.share_effect hmay hpages
    refine ⟨_, exec_kvShare_acts none hmay, ?_⟩
    rw [State.ch_setCh]
    exact ⟨hshared, hrefs, hothers, hback, onlySquirrel_of_sqlOnly ((s.ch c).share_sqlOnly src dst first count)⟩
  · rw [exec_kvShare_fails none hmay, State.kvFault_host]
  · rintro o rfl
    exact ⟨exec_kvRelease_acts (some o), exec_kvShare_acts (some o)⟩
  · rintro k o rfl hk hxfers - -
    exact ⟨fun hclosed => faultsTask_of_kvFault (exec_kvRelease_fails (some o) hclosed) hk hxfers,
      fun hplace => faultsTask_of_kvFault (exec_kvOpen_fails (some o) hplace) hk hxfers,
      fun hmay => faultsTask_of_kvFault (exec_kvShare_fails (some o) hmay) hk hxfers⟩

end Sys2Proof.Machine
end

section
/-! PROOFS. The completion of a transfer of the DMA engine (R286). -/

namespace Sys2Proof.Machine

/-! ### Writes that lie in HBM -/

def Channel.withHbm (ch : Channel) (m : SMap Byte) (e : SMap Nat) : Channel := { ch with mem := { ch.mem with hbm := m, hbmErr := e } }

theorem Channel.hbmWrite_clean {ch : Channel} (a : Nat) (l : List Byte) (h : ch.mem.hbmPoison = []) :
    ∃ e, ch.hbmWrite a l = ch.withHbm (smSetAll 0 ch.mem.hbm a l) e :=
  ⟨_, by simp only [Channel.hbmWrite, Channel.withHbm, h, writeUnder_clean, uncovered, List.filter_nil]; rfl⟩

theorem Channel.localPlace_of_hbmPlace {ch : Channel} {c : ChanId} {a n o : Nat} (h : ch.hbmPlace c a n = some o) :
    ch.localPlace c a n = some (.hbm o) := by
  unfold Channel.hbmPlace at h
  split at h
  case h_1 o' hplace => exact (Option.some.inj h) ▸ hplace
  case h_2 => cases h

/-- The writes of a transfer as stores to HBM. -/
def Channel.hbmStores (ch : Channel) (c : ChanId) (w : List (U64 × List Byte)) : List (Nat × List Byte) :=
  w.map fun e => ((ch.hbmPlace c e.1.toNat e.2.length).getD 0, e.2)

theorem Channel.hbmStores_cons {ch : Channel} {c : ChanId} {e : U64 × List Byte} {o : Nat} (w : List (U64 × List Byte))
    (h : ch.hbmPlace c e.1.toNat e.2.length = some o) : ch.hbmStores c (e :: w) = (o, e.2) :: ch.hbmStores c w := by
  simp [Channel.hbmStores, h]

theorem State.dmaWrites_cons {s : State} {c : ChanId} {e : U64 × List Byte} {o : Nat} (w : List (U64 × List Byte))
    (h : (s.ch c).hbmPlace c e.1.toNat e.2.length = some o) :
    s.dmaWrites c (e :: w) = (s.onCh c fun k => k.hbmWrite o e.2).dmaWrites c w := by
  have hplace := Channel.localPlace_of_hbmPlace h
  simp [State.dmaWrites, hplace, Channel.intoSystem, State.writePlace]

/-- Writes to HBM without poison store their bytes one after another. -/
theorem State.dmaWrites_hbm {c : ChanId} {w : List (U64 × List Byte)} {s : State} (hp : (s.ch c).mem.hbmPoison = [])
    (hw : ∀ e ∈ w, ((s.ch c).hbmPlace c e.1.toNat e.2.length).isSome = true) :
    ∃ err, s.dmaWrites c w =
      (s.setCh c ((s.ch c).withHbm (smStores (s.ch c).mem.hbm ((s.ch c).hbmStores c w)) err), .ok) := by
  induction w generalizing s with
  | nil => exact ⟨(s.ch c).mem.hbmErr, congrArg (·, CompCode.ok) (State.setCh_ch s c).symm⟩
  | cons e r ih =>
    obtain ⟨o, ho⟩ := Option.isSome_iff_exists.mp (hw e List.mem_cons_self)
    obtain ⟨err, hwrite⟩ := Channel.hbmWrite_clean o e.2 hp
    have hstep : (s.onCh c fun k => k.hbmWrite o e.2) = s.setCh c ((s.ch c).withHbm (smSetAll 0 (s.ch c).mem.hbm o e.2) err) :=
      congrArg (s.setCh c) hwrite
    obtain ⟨err', hrest⟩ := ih (s := s.setCh c ((s.ch c).withHbm (smSetAll 0 (s.ch c).mem.hbm o e.2) err))
      (by rw [State.ch_setCh]; exact hp) (by rw [State.ch_setCh]; exact fun x hx => hw x (List.mem_cons_of_mem _ hx))
    refine ⟨err', ?_⟩
    rw [State.dmaWrites_cons r ho, hstep, hrest, State.ch_setCh, State.setCh_setCh, Channel.hbmStores_cons r ho]
    rfl

/-! ### What the engine and the tasks keep of a transfer -/

/-- The transfer leaves the engine, which counts it. -/
def Channel.leavesEngine (ch : Channel) (c : ChanId) (x : Xfer) : Channel :=
  ({ ch with
      dma := { ch.dma with
        xfers := ch.dma.xfers.filter fun y => y.id != x.id
        descs := wrapAdd ch.dma.descs 1, bytes := wrapAdd ch.dma.bytes x.bytes }
      upd := { ch.upd with offloadKib := wrapAdd ch.upd.offloadKib (ch.offloadKib c x.desc) }
      sql := { ch.sql with walked := match x.walked with
        | some w => (ch.sql.walked.filter fun (y : WalkedList) => y.region != w.region) ++ [w]
        | none => ch.sql.walked } } : Channel).actReturned c x.desc

/-- A return copy that ends changes of a task whether it waits, and nothing else. -/
theorem Channel.actReturned_eq (ch : Channel) (c : ChanId) (d : DmaDesc) : ∃ (u : Upd) (f : Task → Task),
    (∀ t, ∃ st cause, f t = { t with st := st, cause := cause }) ∧
    ch.actReturned c d = { ch with upd := u, tsk := { ch.tsk with tasks := ch.tsk.tasks.map f } } := by
  unfold Channel.actReturned
  split
  · exact ⟨ch.upd, id, fun t => ⟨t.st, t.cause, rfl⟩, by rw [List.map_id]⟩
  · exact ⟨_, _, fun t => ite_ind (fun v => ∃ st cause, v = { t with st := st, cause := cause }) ⟨_, _, rfl⟩ ⟨t.st, t.cause, rfl⟩, rfl⟩

theorem Channel.leavesEngine_mem (ch : Channel) (c : ChanId) (x : Xfer) : (ch.leavesEngine c x).mem = ch.mem := by
  obtain ⟨_, _, -, h⟩ := Channel.actReturned_eq _ c x.desc
  rw [Channel.leavesEngine, h]

theorem Channel.leavesEngine_task? (ch : Channel) (c : ChanId) (x : Xfer) (core slot : Nat) :
    (ch.task? core slot = none → (ch.leavesEngine c x).task? core slot = none) ∧
    (∀ t, ch.task? core slot = some t → ∃ st cause, (ch.leavesEngine c x).task? core slot = some { t with st := st, cause := cause }) := by
  obtain ⟨_, f, hf, h⟩ := Channel.actReturned_eq _ c x.desc
  have hmap : (ch.leavesEngine c x).task? core slot = (ch.task? core slot).map f := by
    rw [Channel.leavesEngine, h]
    simp only [Channel.task?, List.find?_map]
    congr 2
    funext t
    obtain ⟨_, _, ht⟩ := hf t
    simp [ht]
  refine ⟨fun hnone => by rw [hmap, hnone]; rfl, fun t ht => ?_⟩
  obtain ⟨st, cause, hft⟩ := hf t
  exact ⟨st, cause, by rw [hmap, ht, Option.map_some, hft]⟩

/-- The end of a transfer with owner `o`, noted in `k` where it belongs; `ch` says what the task had noted before (R37, R43). -/
def Channel.notesEnd (ch : Channel) (o : DmaOwner) (wrote : List (Nat × Nat)) (k : Channel) : Channel :=
  match o with
  | .control => k
  | .planned core b q i => { k with dma := { k.dma with early := k.dma.early ++ [(core, b, q, i)] } }
  | .task core slot i => match ch.task? core slot with
    | some u => k.onTask core slot fun v => { v with dmaDone := insertNat i u.dmaDone, dmaWrote := u.dmaWrote ++ wrote }
    | none => k

theorem Channel.notesEnd_mem (ch : Channel) (o : DmaOwner) (wrote : List (Nat × Nat)) (k : Channel) : (ch.notesEnd o wrote k).mem = k.mem := by
  cases o with
  | control => rfl
  | planned => rfl
  | task core slot i =>
    simp only [Channel.notesEnd]
    cases ch.task? core slot with
    | none => rfl
    | some u => rfl

/-- The end of a transfer that is not the last of its task. -/
theorem State.dmaTaskEnds_more {s : State} {c : ChanId} {ch k : Channel} {o : DmaOwner} (w : List (U64 × List Byte))
    (htask : ∀ core slot, (ch.task? core slot = none → k.task? core slot = none) ∧
      ∀ t, ch.task? core slot = some t → ∃ st cause, k.task? core slot = some { t with st := st, cause := cause })
    (hmore : ∀ (core slot i : Nat) (u : Task), o = .task core slot i → ch.task? core slot = some u →
      (insertNat i u.dmaDone).length ≠ u.dmaDescs.length) :
    (s.setCh c k).dmaTaskEnds c o w = s.setCh c (ch.notesEnd o (w.map fun e => (e.1.toNat, e.2.length)) k) := by
  cases o with
  | control => rfl
  | planned => simp [State.dmaTaskEnds, Channel.notesEnd, State.onCh]
  | task core slot i =>
    obtain ⟨hnone, hsome⟩ := htask core slot
    cases h : ch.task? core slot with
    | none => simp [State.dmaTaskEnds, Channel.notesEnd, h, hnone h]
    | some u =>
      obtain ⟨st, cause, hu⟩ := hsome u h
      have hlast := hmore core slot i u rfl h
      simp [State.dmaTaskEnds, Channel.notesEnd, h, hu, hlast, State.onCh]

/-! ### The completion -/

theorem exec_dmaDescComplete_absent {c : ChanId} {id : Nat} {s : State} (h : ((s.ch c).dma.xfers.find? fun y => y.id == id) = none) :
    exec (.dmaDescComplete c id) s = .next s := by
  change execDmaDescComplete c id s = _
  rw [execDmaDescComplete, h]

theorem exec_dmaDescComplete_waits {c : ChanId} {id : Nat} {x : Xfer} {s : State} (h : ((s.ch c).dma.xfers.find? fun y => y.id == id) = some x)
    (hout : x.outstanding ≠ 0) : exec (.dmaDescComplete c id) s = .next s := by
  change execDmaDescComplete c id s = _
  rw [execDmaDescComplete, h]
  exact if_neg hout

theorem exec_dmaDescComplete_completes {c : ChanId} {id : Nat} {x : Xfer} {s : State}
    (h : ((s.ch c).dma.xfers.find? fun y => y.id == id) = some x) (hout : x.outstanding = 0) :
    exec (.dmaDescComplete c id) s = .next (s.dmaComplete c x) := by
  change execDmaDescComplete c id s = _
  rw [execDmaDescComplete, h]
  exact if_pos hout

/-- What a transfer into HBM whose SIG is clear leaves, when it is not the last of its task. -/
theorem State.dmaComplete_hbm {c : ChanId} {x : Xfer} {s : State} (hsig : x.desc.sig = false) (hp : (s.ch c).mem.hbmPoison = [])
    (hw : ∀ e ∈ (s.ch c).finalWrites c x, ((s.ch c).hbmPlace c e.1.toNat e.2.length).isSome = true)
    (hmore : ∀ (core slot i : Nat) (u : Task), x.owner = .task core slot i → (s.ch c).task? core slot = some u →
      (insertNat i u.dmaDone).length ≠ u.dmaDescs.length) :
    ∃ err, s.dmaComplete c x = s.setCh c ((s.ch c).notesEnd x.owner (((s.ch c).finalWrites c x).map fun e => (e.1.toNat, e.2.length))
      (((s.ch c).withHbm (smStores (s.ch c).mem.hbm ((s.ch c).hbmStores c ((s.ch c).finalWrites c x))) err).leavesEngine c x)) := by
  obtain ⟨err, hwrites⟩ := State.dmaWrites_hbm hp hw
  refine ⟨err, ?_⟩
  set h := (s.ch c).withHbm (smStores (s.ch c).mem.hbm ((s.ch c).hbmStores c ((s.ch c).finalWrites c x))) err
  have hsignal (r : State) : r.dmaSignal c x = r := by rw [State.dmaSignal, hsig]; rfl
  have hends := State.dmaTaskEnds_more (s := s) (c := c) (k := h.leavesEngine c x) ((s.ch c).finalWrites c x)
    (fun core slot => h.leavesEngine_task? c x core slot) hmore
  simp only [State.dmaComplete, hwrites, hsignal, State.onCh, State.ch_setCh, State.setCh_setCh]
  exact hends

theorem Channel.hbmStores_outside {ch : Channel} {c : ChanId} {w : List (U64 × List Byte)}
    (hw : ∀ e ∈ w, (ch.hbmPlace c e.1.toNat e.2.length).isSome = true) {a : Nat}
    (ha : ∀ e ∈ w, ∀ o : Nat, ch.hbmPlace c e.1.toNat e.2.length = some o → a < o ∨ o + e.2.length ≤ a) :
    ∀ e ∈ ch.hbmStores c w, a < e.1 ∨ e.1 + e.2.length ≤ a := by
  intro e he
  obtain ⟨y, hy, rfl⟩ := List.mem_map.mp he
  obtain ⟨o, ho⟩ := Option.isSome_iff_exists.mp (hw y hy)
  simpa [ho] using ha y hy o ho

theorem Channel.hbmStores_apart {ch : Channel} {c : ChanId} {w : List (U64 × List Byte)}
    (hw : ∀ e ∈ w, (ch.hbmPlace c e.1.toNat e.2.length).isSome = true) (h : ch.apartWrites c w) :
    (ch.hbmStores c w).Pairwise fun x y => x.1 + x.2.length ≤ y.1 ∨ y.1 + y.2.length ≤ x.1 := by
  refine List.pairwise_map.mpr (h.imp_of_mem fun {x y} hx hy hxy => ?_)
  obtain ⟨a, ha⟩ := Option.isSome_iff_exists.mp (hw x hx)
  obtain ⟨b, hb⟩ := Option.isSome_iff_exists.mp (hw y hy)
  simpa [ha, hb] using hxy a b ha hb

/-- Settles O39: the writes store their bytes one after another; then the transfer leaves the engine, and its end is noted. -/
theorem dmaCompletionMakesWritesVisible : Obligations.DmaCompletionMakesWritesVisible := by
  intro c id x s
  refine ⟨exec_dmaDescComplete_absent, exec_dmaDescComplete_waits, fun hfound hout hmore hsig hp hw => ?_⟩
  obtain ⟨err, hcomplete⟩ := State.dmaComplete_hbm hsig hp hw hmore
  set w := (s.ch c).finalWrites c x
  set m := smStores (s.ch c).mem.hbm ((s.ch c).hbmStores c w)
  set k := (s.ch c).notesEnd x.owner (w.map fun e => (e.1.toNat, e.2.length)) (((s.ch c).withHbm m err).leavesEngine c x)
  have hmem : k.mem = ((s.ch c).withHbm m err).mem := (Channel.notesEnd_mem _ _ _ _).trans (Channel.leavesEngine_mem _ c x)
  refine ⟨s.setCh c k, (exec_dmaDescComplete_completes hfound hout).trans (congrArg _ hcomplete), fun a ha => ?_,
    fun hapart e he o ho => ?_, ?_⟩
  · rw [State.ch_setCh, hmem]
    exact smStores_outside _ _ a (Channel.hbmStores_outside hw ha)
  · rw [State.ch_setCh, Channel.hbmBytes, hmem]
    have hin : (o, e.2) ∈ (s.ch c).hbmStores c w := List.mem_map.mpr ⟨e, he, by rw [ho]; rfl⟩
    exact smGetAll_smStores _ _ (Channel.hbmStores_apart hw hapart) (o, e.2) hin
  · rw [State.ch_setCh, hmem]
    rfl

end Sys2Proof.Machine
end

section
/-! PROOFS. The admission of a beat that has at most one task on offer (R36, R39, R49, R50, R53, R319). -/

namespace Sys2Proof.Machine

theorem satAdd_zero {w : Nat} (x : BitVec w) : satAdd x 0 = x := by
  simp [satAdd, x.isLt]

/-! ### The account of one offer -/

/-- The account as an admission finds it. -/
def Channel.account (ch : Channel) : Adm := { fg := ch.ledg.admitted, bg := ch.ledg.bgAdmitted, urg := ch.ledg.urgentAdmitted }

def Channel.payBack (ch : Channel) (a : Adm) (o : Offer) : Option Adm :=
  a.background ch.reserveNow ch.slice (o.kind == .urgent) (ch.charge o.desc)

/-- A second chance pays from what the budget has left. -/
def Channel.payFirst (ch : Channel) (a : Adm) (o : Offer) : Option Adm :=
  if decide (0 < ch.ledg.admissible) = true ∧ (a.fg + ch.charge o.desc : Int) ≤ ch.ledg.admissible then a.pay none o.core (ch.charge o.desc) else none

/-- Other work pays within its core's share of an open budget. -/
def Channel.payShare (ch : Channel) (limit : Nat → Option Nat) (a : Adm) (o : Offer) : Option Adm :=
  if o.kind = .background then ch.payBack a o
  else if decide (0 < ch.ledg.admissible) = true then a.pay (limit o.core) o.core (ch.charge o.desc) else none

/-- What an offer that is paid and sound adds to an account. -/
def Adm.admits (b : Adm) (o : Offer) : Adm :=
  { b with
    yes := b.yes ++ [0]
    slots := smSet 0 b.slots o.core (smGet 0 b.slots o.core + 1)
    credits := if o.desc.producer then smSet 0 b.credits o.desc.creditQ.toNat (smGet 0 b.credits o.desc.creditQ.toNat + 1) else b.credits }

/-- The queue of an offer has a credit for it. -/
def Channel.hasCredit (ch : Channel) (o : Offer) : Prop :=
  o.desc.producer = true → 0 < (smGet {} ch.tsk.credits o.desc.creditQ.toNat).available.toNat

section

variable {ch : Channel} {o : Offer} {b : Adm} {r : Nat × Option Nat} {pay : Adm → Offer → Option Adm}

/-- A free core and a queue with a credit leave the question to the budget, and then to the descriptor. -/
theorem Channel.consider_open (ht : ch.tsk.tasks = []) (hc : ch.hasCredit o) (pay : Adm → Offer → Option Adm) :
    ch.consider pay ch.account (0, o) = match pay ch.account o with
      | none => { ch.account with stops := [(o.core, o.kind)], energy := if o.kind = .foreground then [0] else [] }
      | some b => match ch.refusal o with
        | some r => { ch.account with bad := [(0, r)] }
        | none => b.admits o := by
  have hfree : ¬ (4096 ≤ smGet 0 ch.account.slots o.core + countIf (fun (t : Task) => t.core == o.core) ch.tsk.tasks ∨
      ch.account.stops.contains (o.core, o.kind) = true) := by
    rw [ht]
    exact of_decide_eq_true rfl
  have hdry : ¬ (o.desc.producer && (ch.account.dry.contains o.desc.creditQ.toNat ||
      decide ((smGet {} ch.tsk.credits o.desc.creditQ.toNat).available.toNat ≤ smGet 0 ch.account.credits o.desc.creditQ.toNat))) = true := by
    intro h
    obtain ⟨hproducer, hnone⟩ := Bool.and_eq_true_iff.mp h
    exact absurd (of_decide_eq_true hnone) (Nat.not_le.mpr (hc hproducer))
  exact (if_neg hfree).trans (if_neg hdry)

theorem Channel.consider_unpaid (ht : ch.tsk.tasks = []) (hc : ch.hasCredit o) (hp : pay ch.account o = none) :
    ch.consider pay ch.account (0, o) =
      { ch.account with stops := [(o.core, o.kind)], energy := if o.kind = .foreground then [0] else [] } := by
  rw [Channel.consider_open ht hc, hp]

theorem Channel.consider_refused (ht : ch.tsk.tasks = []) (hc : ch.hasCredit o) (hp : pay ch.account o = some b) (hr : ch.refusal o = some r) :
    ch.consider pay ch.account (0, o) = { ch.account with bad := [(0, r)] } := by
  rw [Channel.consider_open ht hc, hp, hr]

theorem Channel.consider_admitted (ht : ch.tsk.tasks = []) (hc : ch.hasCredit o) (hp : pay ch.account o = some b) (hr : ch.refusal o = none) :
    ch.consider pay ch.account (0, o) = b.admits o := by
  rw [Channel.consider_open ht hc, hp, hr]

/-! ### Where one offer is weighed -/

/-- What an admission makes of urgent work, second chances and the rest, each in its order. -/
def Channel.weighs (ch : Channel) (urgent second rest : List Numbered) : Adm :=
  let a : Adm := { ch.secondChances ch.payFirst (urgent.foldl (ch.consider ch.payBack) ch.account) second with fgCore := [] }
  let all := rest.foldl (ch.consider (ch.payShare fun _ => none)) a
  let left : Nat := (ch.ledg.admissible - (a.fg : Int)).toNat
  let total : Nat := all.fg - a.fg
  if total ≤ left then all
  else rest.foldl (ch.consider (ch.payShare fun core => some (left * smGet 0 all.fgCore core / total))) a

theorem Channel.choose_eq (ch : Channel) (l : List Numbered) : ch.choose l = ch.weighs
    (sortBy (fun (e : Numbered) => e.2.desc.planSeq.toNat) (l.filter fun e => e.2.kind == .urgent))
    (sortBy (fun (e : Numbered) => e.2.core) (sortBy (fun (e : Numbered) => e.2.desc.planSeq.toNat)
      (l.filter fun e => e.2.kind == .foreground && e.2.secondChance)))
    (sortBy (fun (e : Numbered) => e.2.place)
      (l.filter fun e => e.2.kind == .background || (e.2.kind == .foreground && !e.2.secondChance))) := rfl

theorem Channel.weighs_noRest (ch : Channel) (urgent second : List Numbered) : ch.weighs urgent second [] =
    { ch.secondChances ch.payFirst (urgent.foldl (ch.consider ch.payBack) ch.account) second with fgCore := [] } :=
  if_pos ((Nat.sub_self _).trans_le (Nat.zero_le _))

theorem Channel.choose_none (ch : Channel) : ch.choose [] = ch.account := by
  rw [Channel.choose_eq]
  exact ch.weighs_noRest [] []

theorem Channel.choose_urgent (hk : o.kind = .urgent) :
    ch.choose [(0, o)] = { ch.consider ch.payBack ch.account (0, o) with fgCore := [] } := by
  have hlists : ch.choose [(0, o)] = ch.weighs [(0, o)] [] [] := by simp [Channel.choose_eq, hk, sortBy, insertBy]
  exact hlists.trans (ch.weighs_noRest _ _)

theorem Channel.choose_second (hk : o.kind = .foreground) (hs : o.secondChance = true) :
    ch.choose [(0, o)] = { ch.consider ch.payFirst ch.account (0, o) with fgCore := [] } := by
  have hlists : ch.choose [(0, o)] = ch.weighs [] [(0, o)] [] := by simp [Channel.choose_eq, hk, hs, sortBy, insertBy]
  exact hlists.trans (ch.weighs_noRest _ _)

/-- What the budget has left for planned work. -/
def Channel.leftover (ch : Channel) : Nat := (ch.ledg.admissible - (ch.ledg.admitted : Int)).toNat

/-- The rest is weighed without a limit first, and within its core's share of what is left where the budget does not hold it. -/
theorem Channel.choose_rest (hk : o.kind = .background ∨ o.kind = .foreground ∧ o.secondChance = false) :
    ch.choose [(0, o)] =
      (let all := ch.consider (ch.payShare fun _ => none) ch.account (0, o)
       let total := all.fg - ch.ledg.admitted
       if total ≤ ch.leftover then all
       else ch.consider (ch.payShare fun core => some (ch.leftover * smGet 0 all.fgCore core / total)) ch.account (0, o)) := by
  have hlists : ch.choose [(0, o)] = ch.weighs [] [] [(0, o)] := by
    rcases hk with hk | ⟨hk, hs⟩
    · simp [Channel.choose_eq, hk, sortBy, insertBy]
    · simp [Channel.choose_eq, hk, hs, sortBy, insertBy]
  exact hlists

theorem Channel.choose_rest_fits (hk : o.kind = .background ∨ o.kind = .foreground ∧ o.secondChance = false)
    (hfits : (ch.consider (ch.payShare fun _ => none) ch.account (0, o)).fg - ch.ledg.admitted ≤ ch.leftover) :
    ch.choose [(0, o)] = ch.consider (ch.payShare fun _ => none) ch.account (0, o) :=
  (Channel.choose_rest hk).trans (if_pos hfits)

/-! ### What comes of one offer -/

/-- The budget of an offer's kind of work pays its charge. -/
def Channel.paysFor (ch : Channel) (o : Offer) : Prop :=
  match o.kind with
  | .foreground => 0 < ch.ledg.admissible ∧ (ch.ledg.admitted + ch.charge o.desc : Int) ≤ ch.ledg.admissible
  | .background => ch.charge o.desc ≤ ch.reserveNow - ch.ledg.bgAdmitted
  | .urgent => ch.ledg.urgentAdmitted + ch.charge o.desc ≤ ch.slice

/-- An open budget counts a planned task against its core's share, whether or not it can pay it. -/
def Channel.countsOnly (ch : Channel) (o : Offer) : Prop :=
  o.kind = .foreground ∧ 0 < ch.ledg.admissible ∧ o.secondChance = false

/-- The account when an offer has been paid. -/
def Channel.paid (ch : Channel) (o : Offer) : Adm :=
  let n := ch.charge o.desc
  let room := ch.reserveNow - ch.ledg.bgAdmitted
  match o.kind with
  | .foreground => { ch.account with fg := ch.ledg.admitted + n }
  | .background => { ch.account with bg := ch.ledg.bgAdmitted + n }
  | .urgent => { ch.account with urg := ch.ledg.urgentAdmitted + n, bg := ch.ledg.bgAdmitted + min n room, fg := ch.ledg.admitted + (n - room) }

/-- An account without the tables that only the choice reads. -/
def Adm.outcome (a : Adm) : Adm := { a with slots := [], fgCore := [], credits := [], dry := [], stops := [] }

theorem Channel.payBack_urgent (hk : o.kind = .urgent) :
    (ch.paysFor o → ch.payBack ch.account o = some (ch.paid o)) ∧ (¬ ch.paysFor o → ch.payBack ch.account o = none) := by
  simp only [Channel.paysFor, Channel.paid, Channel.payBack, Adm.background, hk]
  exact ⟨fun h => if_pos h, fun h => if_neg h⟩

theorem Channel.payShare_background (limit : Nat → Option Nat) (hk : o.kind = .background) :
    (ch.paysFor o → ch.payShare limit ch.account o = some (ch.paid o)) ∧ (¬ ch.paysFor o → ch.payShare limit ch.account o = none) := by
  simp only [Channel.paysFor, Channel.paid, Channel.payShare, Channel.payBack, Adm.background, hk]
  exact ⟨fun h => if_pos h, fun h => if_neg h⟩

/-- The account when a foreground task on `core` has been paid. -/
def Channel.paidOn (ch : Channel) (o : Offer) : Adm :=
  { ch.account with fg := ch.ledg.admitted + ch.charge o.desc, fgCore := smSet 0 [] o.core (0 + ch.charge o.desc) }

theorem Channel.payFirst_foreground (hk : o.kind = .foreground) :
    (ch.paysFor o → ch.payFirst ch.account o = some (ch.paidOn o)) ∧ (¬ ch.paysFor o → ch.payFirst ch.account o = none) := by
  simp only [Channel.paysFor, Channel.payFirst, hk, decide_eq_true_eq]
  exact ⟨fun h => if_pos h, fun h => if_neg h⟩

theorem Channel.payShare_open (hk : o.kind = .foreground) (hopen : 0 < ch.ledg.admissible) :
    ch.payShare (fun _ => none) ch.account o = some (ch.paidOn o) := by
  simp [Channel.payShare, hk, hopen, Adm.pay, Channel.paidOn, Channel.account, smGet]

theorem Channel.payShare_shut (hk : o.kind = .foreground) (hshut : ¬ 0 < ch.ledg.admissible) (limit : Nat → Option Nat) :
    ch.payShare limit ch.account o = none := by
  simp [Channel.payShare, hk, hshut]

theorem Channel.leftover_lt (hk : o.kind = .foreground) (hpaid : ¬ ch.paysFor o) (hopen : 0 < ch.ledg.admissible) (hn : 0 < ch.charge o.desc) :
    ch.leftover < ch.charge o.desc := by
  simp only [Channel.paysFor, hk] at hpaid
  unfold Channel.leftover
  omega

/-- The share of the only task is all that is left, which is too small where the budget does not hold its charge. -/
theorem Channel.payShare_over (hk : o.kind = .foreground) (hover : ch.leftover < ch.charge o.desc) :
    ch.payShare (fun core => some (ch.leftover * smGet 0 ((ch.paidOn o).admits o).fgCore core / (((ch.paidOn o).admits o).fg - ch.ledg.admitted)))
      ch.account o = none := by
  have hshare : ch.leftover * smGet 0 ((ch.paidOn o).admits o).fgCore o.core / (((ch.paidOn o).admits o).fg - ch.ledg.admitted) = ch.leftover := by
    simp [Adm.admits, Channel.paidOn, Nat.mul_div_cancel _ (Nat.zero_lt_of_lt hover)]
  simp [Channel.payShare, hk, Adm.pay, Channel.account, smGet, hshare, hover]

theorem Channel.choose_takes (ht : ch.tsk.tasks = []) (hc : ch.hasCredit o) (hpaid : ch.paysFor o) (hr : ch.refusal o = none) :
    (ch.choose [(0, o)]).outcome = { ch.paid o with yes := [0] } := by
  cases hk : o.kind with
  | urgent =>
    rw [Channel.choose_urgent hk, Channel.consider_admitted ht hc ((Channel.payBack_urgent hk).1 hpaid) hr]
    simp only [Channel.paid, hk]
    rfl
  | background =>
    have hone := Channel.consider_admitted ht hc ((Channel.payShare_background (fun _ => none) hk).1 hpaid) hr
    rw [Channel.choose_rest_fits (.inl hk) (by rw [hone]; simp [Adm.admits, Channel.paid, hk, Channel.account]), hone]
    simp only [Channel.paid, hk]
    rfl
  | foreground =>
    cases hs : o.secondChance with
    | true =>
      rw [Channel.choose_second hk hs, Channel.consider_admitted ht hc ((Channel.payFirst_foreground hk).1 hpaid) hr]
      simp only [Channel.paid, hk]
      rfl
    | false =>
      have hfits : 0 < ch.ledg.admissible ∧ (ch.ledg.admitted + ch.charge o.desc : Int) ≤ ch.ledg.admissible := by
        simpa only [Channel.paysFor, hk] using hpaid
      have hone := Channel.consider_admitted ht hc (Channel.payShare_open hk hfits.1) hr
      rw [Channel.choose_rest_fits (.inr ⟨hk, hs⟩) (by rw [hone]; simp only [Adm.admits, Channel.paidOn, Channel.leftover]; omega), hone]
      simp only [Channel.paid, hk]
      rfl

theorem Channel.choose_refuses (ht : ch.tsk.tasks = []) (hc : ch.hasCredit o) (hcounted : ch.paysFor o ∨ ch.countsOnly o)
    (hr : ch.refusal o = some r) : (ch.choose [(0, o)]).outcome = { ch.account with bad := [(0, r)] } := by
  have hrest (hk : o.kind = .background ∨ o.kind = .foreground ∧ o.secondChance = false) {b : Adm}
      (hp : ch.payShare (fun _ => none) ch.account o = some b) : (ch.choose [(0, o)]).outcome = { ch.account with bad := [(0, r)] } := by
    have hone := Channel.consider_refused ht hc hp hr
    rw [Channel.choose_rest_fits hk (by rw [hone]; simp [Channel.account]), hone]
    rfl
  cases hk : o.kind with
  | urgent =>
    have hpaid : ch.paysFor o := hcounted.resolve_right fun h => by simp [Channel.countsOnly, hk] at h
    rw [Channel.choose_urgent hk, Channel.consider_refused ht hc ((Channel.payBack_urgent hk).1 hpaid) hr]
    rfl
  | background =>
    have hpaid : ch.paysFor o := hcounted.resolve_right fun h => by simp [Channel.countsOnly, hk] at h
    exact hrest (.inl hk) ((Channel.payShare_background _ hk).1 hpaid)
  | foreground =>
    cases hs : o.secondChance with
    | true =>
      have hpaid : ch.paysFor o := hcounted.resolve_right fun h => by simp [Channel.countsOnly, hs] at h
      rw [Channel.choose_second hk hs, Channel.consider_refused ht hc ((Channel.payFirst_foreground hk).1 hpaid) hr]
      rfl
    | false =>
      have hopen : 0 < ch.ledg.admissible := hcounted.elim (fun h => by simp only [Channel.paysFor, hk] at h; exact h.1) fun h => h.2.1
      exact hrest (.inr ⟨hk, hs⟩) (Channel.payShare_open hk hopen)

theorem Channel.choose_defers (ht : ch.tsk.tasks = []) (hc : ch.hasCredit o) (hpaid : ¬ ch.paysFor o)
    (hr : ch.countsOnly o → ch.refusal o = none) (hn : 0 < ch.charge o.desc) :
    (ch.choose [(0, o)]).outcome = { ch.account with energy := if o.kind = .foreground then [0] else [] } := by
  have hrest (hk : o.kind = .background ∨ o.kind = .foreground ∧ o.secondChance = false)
      (hp : ch.payShare (fun _ => none) ch.account o = none) :
      (ch.choose [(0, o)]).outcome = { ch.account with energy := if o.kind = .foreground then [0] else [] } := by
    have hone := Channel.consider_unpaid ht hc hp
    rw [Channel.choose_rest_fits hk (by rw [hone]; simp [Channel.account]), hone]
    rfl
  cases hk : o.kind with
  | urgent =>
    rw [Channel.choose_urgent hk, Channel.consider_unpaid ht hc ((Channel.payBack_urgent hk).2 hpaid), hk]
    rfl
  | background => exact hk ▸ hrest (.inl hk) ((Channel.payShare_background _ hk).2 hpaid)
  | foreground =>
    cases hs : o.secondChance with
    | true =>
      rw [Channel.choose_second hk hs, Channel.consider_unpaid ht hc ((Channel.payFirst_foreground hk).2 hpaid), hk]
      rfl
    | false =>
      by_cases hopen : 0 < ch.ledg.admissible
      · have hone := Channel.consider_admitted ht hc (Channel.payShare_open hk hopen) (hr ⟨hk, hopen, hs⟩)
        have hover := Channel.leftover_lt hk hpaid hopen hn
        have htotal : ¬ ((ch.paidOn o).admits o).fg - ch.ledg.admitted ≤ ch.leftover := by
          simpa [Adm.admits, Channel.paidOn] using hover
        rw [Channel.choose_rest (.inr ⟨hk, hs⟩)]
        dsimp only
        rw [hone, if_neg htotal, Channel.consider_unpaid ht hc (Channel.payShare_over hk hover), hk]
        rfl
      · exact hk ▸ hrest (.inr ⟨hk, hs⟩) (Channel.payShare_shut hk hopen _)

end

end Sys2Proof.Machine
end

section
/-! PROOFS. What an admission leaves: counts, slots and samples (R36, R38, R53). -/

namespace Sys2Proof.Machine

/-! ### The end of an admission -/

/-- The channel as an admission leaves it before slots are taken: the offers that stay, those counted as deferred, those without energy. -/
def Channel.settled (ch : Channel) (a : Adm) (offers : List Offer) (deferred energy : Nat) : Channel :=
  { ch with
    beat := { ch.beat with admitted := true, defer := satAdd ch.beat.defer deferred }
    tsk := { ch.tsk with offers := offers }
    ledg := { ch.ledg with
      admitted := a.fg, bgAdmitted := a.bg, urgentAdmitted := a.urg, energyDefer := satAdd ch.ledg.energyDefer energy } }

theorem Channel.settled_counts (ch : Channel) (a : Adm) (offers : List Offer) : ch.settled a offers 0 0 =
    { ch with
      beat := { ch.beat with admitted := true }, tsk := { ch.tsk with offers := offers }
      ledg := { ch.ledg with admitted := a.fg, bgAdmitted := a.bg, urgentAdmitted := a.urg } } := by
  simp only [Channel.settled, satAdd_zero]

theorem Channel.settled_nothing {ch : Channel} (ho : ch.tsk.offers = []) :
    ch.settled ch.account [] 0 0 = { ch with beat := { ch.beat with admitted := true } } := by
  rw [Channel.settled_counts, ← ho]
  rfl

theorem Channel.settleAdmission_none (ch : Channel) (c : ChanId) : ch.settleAdmission c ch.account [] [] [] = ch.settled ch.account [] 0 0 := by
  simp [Channel.settleAdmission, Channel.settled, Channel.account, sortBy, satAdd_zero]

theorem Channel.settleAdmission_takes {ch : Channel} {c : ChanId} {a : Adm} (o : Offer) (hyes : a.yes = [0]) (hbad : a.bad = []) (hheld : a.held = [])
    (henergy : a.energy = []) : ch.settleAdmission c a [(0, o)] [] [] = ch.settled a [] 0 0 := by
  simp [Channel.settleAdmission, Channel.settled, hyes, hbad, hheld, henergy, sortBy, satAdd_zero]

theorem Channel.settleAdmission_refuses (ch : Channel) (c : ChanId) (o : Offer) (r : Nat × Option Nat) :
    ch.settleAdmission c { ch.account with bad := [(0, r)] } [(0, o)] [] [] = (ch.refuse c o r).settled ch.account [] 0 0 := by
  simp [Channel.settleAdmission, Channel.settled, Channel.account, sortBy, insertBy, satAdd_zero]

theorem Channel.settleAdmission_defers (ch : Channel) (c : ChanId) (o : Offer) (l : List Nat) :
    ch.settleAdmission c { ch.account with energy := l } [(0, o)] [] [] =
      ch.settled ch.account [{ o with missed := o.desc.isBg, secondChance := l.contains 0 }] 1 l.length := by
  simp [Channel.settleAdmission, Channel.settled, Channel.account, sortBy, satAdd_zero, Adm.keep]

/-- A channel that has counted a refused descriptor. -/
def Channel.refused (ch : Channel) (arr : Arr) : Channel := { ch with tsk := { ch.tsk with badDesc := satAdd ch.tsk.badDesc 1 }, arr := arr }

/-- A refusal is counted, noted with its cause, and raised. -/
theorem Channel.refuse_eq (ch : Channel) (c : ChanId) (o : Offer) (r : Nat × Option Nat) : ∃ arr rs, ch.refuse c o r =
    (ch.refused arr).withRaised (ch.raise c r.1).events rs := by
  have hraise (arr : Arr) : (ch.refused arr).raise c r.1 =
      (ch.refused arr).withRaised (ch.raise c r.1).events ((ch.refused arr).raise c r.1).beat.raised := by
    rw [← (Channel.raise_congr ch (ch.refused arr) c r.1 none 0 rfl rfl rfl).1]
    exact (ch.refused arr).raise_shape c r.1 none 0
  unfold Channel.refuse
  cases r.2 with
  | none => exact ⟨_, _, hraise ch.arr⟩
  | some cause => exact ⟨_, _, hraise _⟩

/-! ### A task takes its slot -/

/-- The task that an offer becomes. -/
def Channel.newTask (ch : Channel) (o : Offer) : Task :=
  { core := o.core, slot := ch.freeSlot o.core, desc := o.desc, exec := (ch.execOf o.desc).getD 0
    step := o.step.getD ch.upd.sJob, lookahead := o.lookahead, plan := o.beat
    overruns := o.overruns, urgent := o.urgent, beat := ch.beat.number.toNat, creditTaken := o.desc.producer
    waitPages := !(ch.pageList o.desc).isEmpty && !ch.sql.walk, dup := o.dup }

/-- The task takes its slot and its credit, and its core wakes. -/
def Channel.takesSlot (ch : Channel) (o : Offer) : Channel :=
  ({ ch with tsk := { ch.tsk with
      tasks := ch.tsk.tasks ++ [ch.newTask o]
      credits := if o.desc.producer then
          smMod {} ch.tsk.credits o.desc.creditQ.toNat fun (q : Credit) => { q with available := q.available - 1 }
        else ch.tsk.credits } } : Channel).onDomain (ch.pcore o.core) fun d => if d.st = .idle then { d with st := .active } else d

/-- Reads what a task's class brings from core SRAM: a tile record, or DMA descriptors. -/
def State.readsClass (s : State) (c : ChanId) (t : Task) : State :=
  if t.exec = 0 ∧ t.dup = none then s.readRecord c t else if t.exec = 2 then s.readDescs c t else s

/-- What follows for the task of a slot, unless it has faulted. -/
def State.ifHeld (s : State) (c : ChanId) (core slot : Nat) (f : State → Task → State) : State :=
  match (s.ch c).task? core slot with
  | some u => f s u
  | none => s

theorem State.admitOffer_eq (s : State) (c : ChanId) (o : Offer) : s.admitOffer c o =
    ((((s.onCh c fun _ => (s.ch c).takesSlot o).readsClass c ((s.ch c).newTask o)).ifHeld c o.core ((s.ch c).freeSlot o.core)
      fun r u => r.checkDep c u).ifHeld c o.core ((s.ch c).freeSlot o.core)
      fun r _ => if ((s.ch c).newTask o).exec = 0 then r.sampleDecide c o.core ((s.ch c).freeSlot o.core) else r) := rfl

theorem Channel.freeSlot_empty {ch : Channel} (ht : ch.tsk.tasks = []) (core : Nat) : ch.freeSlot core = 0 := by
  simp [Channel.freeSlot, ht]

theorem Channel.takesSlot_task? {ch : Channel} {o : Offer} (ht : ch.tsk.tasks = []) :
    (ch.takesSlot o).task? o.core (ch.freeSlot o.core) = some (ch.newTask o) := by
  simp [Channel.task?, Channel.takesSlot, Channel.onDomain, Channel.newTask, ht]

theorem Channel.takesSlot_credits (ch : Channel) (o : Offer) (m : Nat) : smGet {} (ch.takesSlot o).tsk.credits m =
    if o.desc.producer = true ∧ m = o.desc.creditQ.toNat then
      { smGet {} ch.tsk.credits m with available := (smGet {} ch.tsk.credits m).available - 1 } else smGet {} ch.tsk.credits m := by
  change smGet {} (if o.desc.producer = true then _ else ch.tsk.credits) m = _
  by_cases hp : o.desc.producer = true
  · by_cases hm : m = o.desc.creditQ.toNat
    · rw [if_pos hp, if_pos ⟨hp, hm⟩, hm, smGet_smMod_same]
    · rw [if_pos hp, if_neg fun h => hm h.2, smGet_smMod_other _ _ _ hm]
  · rw [if_neg hp, if_neg fun h => hp h.1]

/-- A vector or Squirrel task without a dependency takes its slot, and nothing more happens. -/
theorem State.admitOffer_first {s : State} {c : ChanId} {o : Offer} {n : Nat} (ht : (s.ch c).tsk.tasks = []) (hdep : o.desc.dep = false)
    (hexec : (s.ch c).execOf o.desc = some n) (htile : n ≠ 0) (hdma : n ≠ 2) : s.admitOffer c o = s.setCh c ((s.ch c).takesSlot o) := by
  have hclass : ((s.ch c).newTask o).exec = n := by simp [Channel.newTask, hexec]
  have hreads (r : State) : r.readsClass c ((s.ch c).newTask o) = r := by simp [State.readsClass, hclass, htile, hdma]
  have hdep' (r : State) : r.checkDep c ((s.ch c).newTask o) = r := by simp [State.checkDep, Channel.newTask, hdep]
  have hheld := Channel.takesSlot_task? (o := o) ht
  rw [State.admitOffer_eq, hreads]
  simp [State.ifHeld, State.onCh, hheld, hdep', hclass, htile]

/-! ### The samples -/

theorem Channel.sampleCores_free {ch : Channel} (ht : ch.tsk.tasks = []) (i : Nat) : smGet {} ch.sampleCores.tsk.sample i = {} := by
  have hsets (l : List Nat) (m : SMap CoreSample) (hm : ∀ i, smGet {} m i = {}) :
      smGet {} (l.foldl (fun (m : SMap CoreSample) k => smSet {} m k {}) m) i = {} := by
    induction l generalizing m with
    | nil => exact hm i
    | cons k r ih =>
      refine ih _ fun j => ?_
      by_cases hj : j = k
      · rw [hj, smGet_smSet_same]
      · rw [smGet_smSet_other _ _ _ hj, hm]
  simp only [Channel.sampleCores, ht]
  exact hsets (List.range 128) [] fun _ => rfl

/-! ### One admission -/

section

variable {c : ChanId} {o : Offer} {s : State} {a : Adm}

/-- A running channel without tasks or planned work, before the admission of its beat. -/
def Channel.quiet (ch : Channel) : Prop := ch.running = true ∧ ch.beat.admitted = false ∧ ch.planOffers = [] ∧ ch.tsk.tasks = []

theorem Channel.quiet.noTasks {ch : Channel} (h : ch.quiet) : ch.tsk.tasks = [] := by
  obtain ⟨-, -, -, ht⟩ := h
  exact ht

/-- One offer is due, and nothing holds it back. -/
def Channel.offersOne (ch : Channel) (o : Offer) : Prop := ch.tsk.offers = [o] ∧ o.beat ≤ ch.beat.number.toNat ∧ ch.holds o = false

/-- An admission that has chosen: the counts, the slots of the offers that it takes, and the samples. -/
def State.settles (s : State) (c : ChanId) (a : Adm) (l : List Numbered) (later back : List Offer) : State :=
  ((a.yes.filterMap fun i => (l.find? fun e => e.1 == i).map (·.2)).foldl (fun (r : State) o => r.admitOffer c o)
    (s.setCh c ((s.ch c).settleAdmission c a l later back))).onCh c Channel.sampleCores

theorem State.settles_outcome (s : State) (c : ChanId) (a : Adm) (l : List Numbered) (later back : List Offer) :
    s.settles c a l later back = s.settles c a.outcome l later back := rfl

theorem State.settles_nothing (s : State) (c : ChanId) {a : Adm} (l : List Numbered) (later back : List Offer) (h : a.yes = []) :
    s.settles c a l later back = s.setCh c ((s.ch c).settleAdmission c a l later back).sampleCores := by
  simp [State.settles, State.onCh, h]

theorem exec_beatAdmission_over (h : (s.ch c).running = false ∨ (s.ch c).beat.admitted = true) : exec (.beatAdmission c) s = .next s := by
  change execBeatAdmission c s = _
  have hover : ¬ ((s.ch c).running && !(s.ch c).beat.admitted) = true := by
    rcases h with h | h
    · simp [h]
    · simp [h]
  exact if_neg hover

theorem Channel.chargeCarried_idle {ch : Channel} (ht : ch.tsk.tasks = []) : ch.chargeCarried = ch := by
  simp only [Channel.chargeCarried, ht, List.filter_nil, List.foldl_nil, List.map_nil]
  rw [← ht]

theorem State.beatAdmission_quiet (hq : (s.ch c).quiet) : s.beatAdmission c =
    (let ch := s.ch c
     let due := ch.tsk.offers.filter fun o => decide (o.beat ≤ ch.beat.number.toNat)
     let l : List Numbered := ((due.filter fun o => !ch.holds o).zipIdx).map fun e => (e.2, e.1)
     s.settles c (ch.choose l) l (ch.tsk.offers.filter fun o => decide (ch.beat.number.toNat < o.beat)) (due.filter ch.holds)) := by
  obtain ⟨-, -, hplan, ht⟩ := hq
  simp only [State.beatAdmission, State.settles, State.onCh, Channel.chargeCarried_idle ht, State.setCh_ch, hplan, List.append_nil]

theorem exec_beatAdmission_quiet (hq : (s.ch c).quiet) : exec (.beatAdmission c) s = .next (s.beatAdmission c) := by
  obtain ⟨hrun, hadmitted, -, -⟩ := hq
  change execBeatAdmission c s = _
  exact if_pos (by simp [hrun, hadmitted])

theorem exec_beatAdmission_none (hq : (s.ch c).quiet) (ho : (s.ch c).tsk.offers = []) :
    exec (.beatAdmission c) s = .next (s.setCh c ((s.ch c).settled (s.ch c).account [] 0 0).sampleCores) := by
  have hchoose : s.beatAdmission c = s.settles c (s.ch c).account [] [] [] := by
    simp [State.beatAdmission_quiet hq, ho, Channel.choose_none]
  rw [exec_beatAdmission_quiet hq, hchoose, State.settles_nothing s c [] [] [] rfl, Channel.settleAdmission_none]

theorem exec_beatAdmission_one (hq : (s.ch c).quiet) (ho : (s.ch c).offersOne o) (ha : ((s.ch c).choose [(0, o)]).outcome = a) :
    exec (.beatAdmission c) s = .next (s.settles c a [(0, o)] [] []) := by
  obtain ⟨hoffers, hbeat, hholds⟩ := ho
  rw [exec_beatAdmission_quiet hq, State.beatAdmission_quiet hq, ← ha, ← State.settles_outcome]
  simp [hoffers, hbeat, hholds]

variable {n : Nat} {r : Nat × Option Nat}

theorem Channel.paid_lists (ch : Channel) (o : Offer) : (ch.paid o).bad = [] ∧ (ch.paid o).held = [] ∧ (ch.paid o).energy = [] := by
  unfold Channel.paid
  cases o.kind <;> exact ⟨rfl, rfl, rfl⟩

theorem exec_beatAdmission_takes (hq : (s.ch c).quiet) (ho : (s.ch c).offersOne o) (hc : (s.ch c).hasCredit o) (hpaid : (s.ch c).paysFor o)
    (hr : (s.ch c).refusal o = none) (hdep : o.desc.dep = false) (hexec : (s.ch c).execOf o.desc = some n) (htile : n ≠ 0) (hdma : n ≠ 2) :
    exec (.beatAdmission c) s =
      .next (s.setCh c (((s.ch c).settled ((s.ch c).paid o) [] 0 0).takesSlot o).sampleCores) := by
  have ht := Channel.quiet.noTasks hq
  obtain ⟨hbad, hheld, henergy⟩ := (s.ch c).paid_lists o
  have hsettled : s.setCh c ((s.ch c).settleAdmission c { (s.ch c).paid o with yes := [0] } [(0, o)] [] []) =
      s.setCh c ((s.ch c).settled ((s.ch c).paid o) [] 0 0) := congrArg (s.setCh c) (Channel.settleAdmission_takes o rfl hbad hheld henergy)
  have hslot : (s.setCh c ((s.ch c).settled ((s.ch c).paid o) [] 0 0)).admitOffer c o =
      s.setCh c (((s.ch c).settled ((s.ch c).paid o) [] 0 0).takesSlot o) := by
    rw [State.admitOffer_first (by rw [State.ch_setCh]; exact ht) hdep (by rw [State.ch_setCh]; exact hexec) htile hdma,
      State.ch_setCh, State.setCh_setCh]
  rw [exec_beatAdmission_one hq ho (Channel.choose_takes ht hc hpaid hr)]
  simp [State.settles, hsettled, hslot, State.onCh]

theorem exec_beatAdmission_refuses (hq : (s.ch c).quiet) (ho : (s.ch c).offersOne o) (hc : (s.ch c).hasCredit o)
    (hcounted : (s.ch c).paysFor o ∨ (s.ch c).countsOnly o) (hr : (s.ch c).refusal o = some r) :
    exec (.beatAdmission c) s = .next (s.setCh c (((s.ch c).refuse c o r).settled (s.ch c).account [] 0 0).sampleCores) := by
  have ht := Channel.quiet.noTasks hq
  rw [exec_beatAdmission_one hq ho (Channel.choose_refuses ht hc hcounted hr), State.settles_nothing s c _ _ _ rfl,
    Channel.settleAdmission_refuses]

/-- What an offer that is not paid becomes. -/
def Offer.deferred (o : Offer) : Offer := { o with missed := o.desc.isBg, secondChance := o.kind == .foreground }

theorem exec_beatAdmission_defers (hq : (s.ch c).quiet) (ho : (s.ch c).offersOne o) (hc : (s.ch c).hasCredit o) (hpaid : ¬ (s.ch c).paysFor o)
    (hr : (s.ch c).countsOnly o → (s.ch c).refusal o = none) (hn : 0 < (s.ch c).charge o.desc) :
    exec (.beatAdmission c) s = .next (s.setCh c ((s.ch c).settled (s.ch c).account
      [o.deferred] 1 (if o.kind = .foreground then 1 else 0)).sampleCores) := by
  have ht := Channel.quiet.noTasks hq
  rw [exec_beatAdmission_one hq ho (Channel.choose_defers ht hc hpaid hr hn), State.settles_nothing s c _ _ _ rfl,
    Channel.settleAdmission_defers, Offer.deferred]
  cases o.kind <;> rfl

end

/-- Settles O25: what comes of the one offer, by the kind of its work, and what the admission leaves of it. -/
theorem beatAdmissionTakesWork : Obligations.BeatAdmissionTakesWork := by
  intro c o r s
  have honly (k : Channel) : onlyChannel c s (s.setCh c k) := by rw [onlyChannel, State.ch_setCh]
  refine ⟨exec_beatAdmission_over, fun hq ho => ?_, fun hq ho hcounted hc hr => ?_, fun n hq ho hpaid hc hr _ hdep hexec htile hdma => ?_,
    fun hq ho hpaid hr hc hn => ?_⟩
  · have ht := Channel.quiet.noTasks hq
    refine ⟨_, exec_beatAdmission_none hq ho, ?_, fun l => ?_⟩
    · rw [State.ch_setCh, Channel.settled_nothing ho]
      rfl
    · rw [State.ch_setCh]
      exact Channel.sampleCores_free ht l.val
  · have ht := Channel.quiet.noTasks hq
    obtain ⟨arr, rs, hrefuse⟩ := (s.ch c).refuse_eq c o r
    refine ⟨_, exec_beatAdmission_refuses hq ho hc hcounted hr, ?_⟩
    rw [hrefuse, Channel.settled_counts, State.ch_setCh]
    exact ⟨ht, rfl, rfl, rfl, rfl, rfl, rfl, rfl, rfl, honly _⟩
  · have ht := Channel.quiet.noTasks hq
    refine ⟨_, (s.ch c).newTask o, exec_beatAdmission_takes hq ho hc hpaid hr hdep hexec htile hdma, ?_⟩
    rw [Channel.settled_counts, State.ch_setCh]
    refine ⟨congrArg (· ++ [(s.ch c).newTask o]) ht, rfl, Channel.freeSlot_empty ht _, rfl, rfl, ?_, rfl, rfl, rfl, fun hk => ?_, fun hk => ?_,
      fun hk => ?_, fun m => Channel.takesSlot_credits _ o m, rfl, rfl, rfl, honly _⟩
    · simp [Channel.newTask, hexec]
    · simp only [Channel.paid, hk]
      rfl
    · simp only [Channel.paid, hk]
      rfl
    · simp only [Channel.paid, hk]
      rfl
  · have ht := Channel.quiet.noTasks hq
    have henergy (x : U16) : satAdd x (if o.kind = .foreground then 1 else 0) = if o.kind = .foreground then satAdd x 1 else x := by
      split
      · rfl
      · exact satAdd_zero x
    refine ⟨_, o.deferred, exec_beatAdmission_defers hq ho hc hpaid (fun h => hr (.inr h)) hn, ?_⟩
    rw [State.ch_setCh]
    exact ⟨ht, rfl, rfl, rfl, rfl, rfl, congrArg (fun x => ({ (s.ch c).ledg with energyDefer := x } : Ledg)) (henergy _), rfl, rfl, rfl, rfl, honly _⟩

end Sys2Proof.Machine
end

section
/-! PROOFS. What the operations of a vector engine leave in their registers and issue counts (R123, R125, R137, R215). -/

namespace Sys2Proof.Machine

/-! ### Vector registers, lane by lane -/

theorem Channel.vreg_setVreg_eq (ch : Channel) (core core' : LCore) (r r' : VReg) (v : LaneVec) :
    (ch.setVreg core r v).vreg core' r' = if core' = core ∧ r' = r then v else ch.vreg core' r' := by
  split
  · next h => rw [h.1, h.2, Channel.vreg_setVreg]
  · next h => exact Channel.vreg_setVreg_other ch v (by tauto)

/-- A channel with other vector registers. -/
def Channel.withRegs (ch : Channel) (m : SMap LaneVec) : Channel := { ch with vec := { ch.vec with regs := m } }

/-- `k` is `ch` but for vector registers. -/
def Channel.regsOnly (ch k : Channel) : Prop := ∃ m, k = ch.withRegs m

theorem Channel.regsOnly.refl (ch : Channel) : ch.regsOnly ch := ⟨ch.vec.regs, rfl⟩

theorem Channel.regsOnly.setVreg {ch k : Channel} (h : ch.regsOnly k) (core : LCore) (r : VReg) (v : LaneVec) :
    ch.regsOnly (k.setVreg core r v) := by
  obtain ⟨m, rfl⟩ := h
  exact ⟨_, rfl⟩

/-- A channel whose engine wrote registers and issued. -/
theorem Channel.regsOnly.vecBusy_eq {ch k : Channel} (h : ch.regsOnly k) (core : LCore) (clk : Nat) : k.vecBusy core clk =
    { ch with vec := { ch.vec with regs := (k.vecBusy core clk).vec.regs, busy := (k.vecBusy core clk).vec.busy } } := by
  obtain ⟨m, rfl⟩ := h
  rfl

theorem Channel.regsOnly.busy {ch k : Channel} (h : ch.regsOnly k) : k.vec.busy = ch.vec.busy := by
  obtain ⟨m, rfl⟩ := h
  rfl

theorem lanes2_getElem (w : Nat) (f : Nat → Nat → Nat) (a b : LaneVec) (l : Lane) :
    (lanes2 w f a b)[l] = laneOf w (f (lowBits w a[l]) (lowBits w b[l])) := by simp [lanes2]

/-- Lane l of a register of which one lane was written. -/
theorem set_getElem_lane {α : Type} (v : Vector α 64) (a : Lane) (x : α) (l : Lane) : (v.set a x)[l] = if l = a then x else v[l] := by
  simp [Vector.getElem_set, Fin.ext_iff, eq_comm]

section

variable {i : Instr} {c : ChanId} {core : LCore} {d : VReg} {clk n : Nat} {s : State}

/-! ### Issue counts, and what stays -/

/-- A command that issues after changes that leave the issue counts. -/
theorem issuedFor_vecBusy {k : Channel} (h : k.vec.busy = (s.ch c).vec.busy) :
    issuedFor c core clk s ((s.setCh c (k.vecBusy core clk)).tookFree n) := by
  intro j
  rw [State.tookFree_ch, State.ch_setCh, Channel.vecBusy, h]
  split
  · next hj => rw [hj, smGet_smMod_same]
  · next hj => rw [smGet_smMod_other _ _ _ (mt Fin.ext hj)]

/-- A command that writes registers, and issues. -/
theorem onlyVector_of_regsOnly {k : Channel} (h : (s.ch c).regsOnly k) :
    onlyVector c n s ((s.setCh c (k.vecBusy core clk)).tookFree n) := by
  rw [onlyVector, State.tookFree_ch, State.ch_setCh, ← h.vecBusy_eq, State.tookFree, State.setCh_free]

/-! ### Operations that write one register -/

/-- An operation that writes the register `d` whole. -/
theorem laneStep_of_vecWrite {v : LaneVec} {f : Lane → U64} (hexec : exec i s = .next ((vecWrite s c core d clk v).tookFree n))
    (hv : ∀ l : Lane, v[l] = f l) : laneStep i c core d clk n f s := by
  have hch : ((vecWrite s c core d clk v).tookFree n).ch c = ((s.ch c).setVreg core d v).vecBusy core clk := vecWrite_ch s c core d clk v
  refine ⟨_, hexec, fun l => ?_, fun k r hkr => ?_, issuedFor_vecBusy rfl, onlyVector_of_regsOnly ((Channel.regsOnly.refl _).setVreg core d v)⟩
  · rw [hch, Channel.vreg_vecBusy, Channel.vreg_setVreg, hv]
  · rw [hch, Channel.vreg_vecBusy, Channel.vreg_setVreg_eq, if_neg (by simpa using hkr)]

/-- A lane operation of two registers. -/
theorem laneStep_vecOp2 {w : Nat} {f : Bool → Nat → Nat → Nat} {a b : VReg} (hexec : exec i s = .next (vecOp2 s c core w clk f d a b)) :
    laneStep i c core d clk 0 (fun l => laneOf w (f (s.ch c).vsat (s.lane c core w a l) (s.lane c core w b l))) s :=
  laneStep_of_vecWrite (n := 0) hexec fun _ => lanes2_getElem ..

/-- An operation that leaves its result in lane 0 of the register (R125). -/
theorem laneStep_treeWrite {w x : Nat} (hexec : exec i s = .next (treeWrite s c core d clk w x)) :
    laneStep i c core d clk 0 (fun l => if l = 0 then laneOf w x else ((s.ch c).vreg core d)[l]) s :=
  laneStep_of_vecWrite (n := 0) hexec fun l => set_getElem_lane _ 0 _ l

end

/-- Settles O2: the softmax steps by lanes of two registers, the trees by lane 0, the broadcast and SR_UPD as writes of a whole register. -/
theorem softmaxTreeUpdateLaneResults : Obligations.SoftmaxTreeUpdateLaneResults := by
  intro c core p k sr lane d a b s
  refine ⟨laneStep_vecOp2 (f := fun _ => fpMax fpF32) rfl, laneStep_vecOp2 (f := fun sat => expsubLane sat k.toNat) rfl,
    laneStep_vecOp2 (f := smdivLane) rfl, laneStep_treeWrite rfl, laneStep_treeWrite rfl, laneStep_of_vecWrite (n := 0) rfl fun l => ?_,
    laneStep_of_vecWrite (n := 0) rfl fun l => ?_⟩
  · exact Vector.getElem_replicate _
  · exact Vector.getElem_ofFn _

end Sys2Proof.Machine
end

section
/-! PROOFS. Lane states, and the random words of PHILOX (R133, R134, R141). -/

namespace Sys2Proof.Machine

/-! ### Lane states -/

@[simp] theorem Channel.laneStates_setLaneStates (ch : Channel) (core : LCore) (v : Vector LaneState 64) :
    (ch.setLaneStates core v).laneStates core = v := smGet_smSet_same _ _ _ _

/-- A write of the lane states of a core leaves those of every other core. -/
theorem Channel.laneStates_setLaneStates_other (ch : Channel) {core k : LCore} (v : Vector LaneState 64) (h : k ≠ core) :
    (ch.setLaneStates core v).laneStates k = ch.laneStates k := smGet_smSet_other _ _ _ (mt Fin.ext h)

/-! ### Fields that these writes keep -/

@[simp] theorem Channel.laneStates_vecBusy (ch : Channel) (core k : LCore) (n : Nat) : (ch.vecBusy core n).laneStates k = ch.laneStates k := rfl
@[simp] theorem Channel.vreg_setLaneStates (ch : Channel) (core k : LCore) (v : Vector LaneState 64) (r : VReg) :
    (ch.setLaneStates core v).vreg k r = ch.vreg k r := rfl
@[simp] theorem Channel.vecBusy_regs (ch : Channel) (core : LCore) (n : Nat) : (ch.vecBusy core n).vec.regs = ch.vec.regs := rfl
@[simp] theorem Channel.vecBusy_xacc (ch : Channel) (core : LCore) (n : Nat) : (ch.vecBusy core n).vec.xacc = ch.vec.xacc := rfl
@[simp] theorem Channel.setLaneStates_regs (ch : Channel) (core : LCore) (v : Vector LaneState 64) :
    (ch.setLaneStates core v).vec.regs = ch.vec.regs := rfl
@[simp] theorem Channel.setLaneStates_xacc (ch : Channel) (core : LCore) (v : Vector LaneState 64) :
    (ch.setLaneStates core v).vec.xacc = ch.vec.xacc := rfl
@[simp] theorem Channel.setLaneStates_busy (ch : Channel) (core : LCore) (v : Vector LaneState 64) :
    (ch.setLaneStates core v).vec.busy = ch.vec.busy := rfl

theorem Channel.regsOnly.lanes {ch k : Channel} (h : ch.regsOnly k) : k.vec.lanes = ch.vec.lanes := by
  obtain ⟨m, rfl⟩ := h
  rfl

theorem Channel.regsOnly.xacc {ch k : Channel} (h : ch.regsOnly k) : k.vec.xacc = ch.vec.xacc := by
  obtain ⟨m, rfl⟩ := h
  rfl

/-- A channel whose engine wrote lane states and registers, and issued. -/
theorem Channel.regsOnly.engine_eq {ch k : Channel} {core : LCore} {v : Vector LaneState 64} (h : (ch.setLaneStates core v).regsOnly k)
    (clk : Nat) : k.vecBusy core clk =
      { ch with vec := { ch.vec with
          regs := (k.vecBusy core clk).vec.regs, lanes := (k.vecBusy core clk).vec.lanes
          xacc := (k.vecBusy core clk).vec.xacc, busy := (k.vecBusy core clk).vec.busy } } := by
  obtain ⟨m, rfl⟩ := h
  rfl

/-! ### A lane state in three registers (log entry 211) -/

/-- A channel with one lane of a register written. -/
def Channel.setLane (ch : Channel) (core : LCore) (a : Lane) (d : VReg) (x : U64) : Channel := ch.setVreg core d ((ch.vreg core d).set a x)

theorem Channel.stateOut_eq (ch : Channel) (core : LCore) (a : Lane) (r : VReg × VReg × VReg) (l : LaneState) : ch.stateOut core a r l =
    ((ch.setLane core a r.1 (BitVec.ofNat 64 (l.n.toNat + 2 ^ 32 * b2n l.poison))).setLane core a r.2.1 l.mean).setLane core a r.2.2 l.m2 := rfl

theorem Channel.setLane_getElem (ch : Channel) (core : LCore) (a : Lane) (d r : VReg) (x : U64) (l : Lane) :
    ((ch.setLane core a d x).vreg core r)[l] = if r = d ∧ l = a then x else (ch.vreg core r)[l] := by
  by_cases hr : r = d
  · simpa [Channel.setLane, hr] using set_getElem_lane (ch.vreg core d) a x l
  · simp [Channel.setLane, hr, Channel.vreg_setVreg_eq]

/-- Of registers that coincide, the one of the later part stands. -/
theorem Channel.stateOut_getElem (ch : Channel) (core : LCore) (a : Lane) (r : VReg × VReg × VReg) (x : LaneState) (v : VReg) (l : Lane) :
    ((ch.stateOut core a r x).vreg core v)[l] =
      if v = r.2.2 ∧ l = a then x.m2
      else if v = r.2.1 ∧ l = a then x.mean
      else if v = r.1 ∧ l = a then BitVec.ofNat 64 (x.n.toNat + 2 ^ 32 * b2n x.poison)
      else (ch.vreg core v)[l] := by
  simp only [Channel.stateOut_eq, Channel.setLane_getElem]

theorem Channel.stateOut_regsOnly (ch : Channel) (core : LCore) (a : Lane) (r : VReg × VReg × VReg) (x : LaneState) :
    ch.regsOnly (ch.stateOut core a r x) :=
  (((Channel.regsOnly.refl ch).setVreg ..).setVreg ..).setVreg ..

theorem Channel.setLane_vreg_other (ch : Channel) {core k : LCore} {d r : VReg} (a : Lane) (x : U64) (h : ¬ (k = core ∧ r = d)) :
    (ch.setLane core a d x).vreg k r = ch.vreg k r := by rw [Channel.setLane, Channel.vreg_setVreg_eq, if_neg h]

theorem Channel.stateOut_vreg_other (ch : Channel) {core k : LCore} {v : VReg} (a : Lane) {r : VReg × VReg × VReg} (x : LaneState)
    (h : ¬ (k = core ∧ v ∈ [r.1, r.2.1, r.2.2])) : (ch.stateOut core a r x).vreg k v = ch.vreg k v := by
  have hne : ∀ d ∈ [r.1, r.2.1, r.2.2], ¬ (k = core ∧ v = d) := fun d hd e => h ⟨e.1, e.2 ▸ hd⟩
  rw [Channel.stateOut_eq, Channel.setLane_vreg_other _ a _ (hne _ (by simp)), Channel.setLane_vreg_other _ a _ (hne _ (by simp)),
    Channel.setLane_vreg_other _ a _ (hne _ (by simp))]

/-! ### Statistics -/

section

variable {i : Instr} {c : ChanId} {core : LCore} {clk : Nat} {s : State}

/-- A command that writes lane states of its core and registers, and issues. -/
theorem onlyEngine_of_regsOnly {v : Vector LaneState 64} {k : Channel} (h : ((s.ch c).setLaneStates core v).regsOnly k) :
    onlyEngine c core 0 s (s.setCh c (k.vecBusy core clk)) := by
  rw [onlyEngine, State.ch_setCh, ← h.engine_eq]
  refine ⟨?_, fun j hj => ⟨?_, ?_⟩⟩
  · change (s.setCh c _).tookFree 0 = _
    rw [State.tookFree, State.setCh_free]
  · rw [Channel.laneStates_vecBusy, Channel.laneStates, h.lanes]
    exact (s.ch c).laneStates_setLaneStates_other v hj
  · rw [Channel.xaccs, Channel.vecBusy_xacc, h.xacc, Channel.setLaneStates_xacc, Channel.xaccs]

/-- An operation that writes the lane states of its core. -/
theorem laneStateStep_of_setLaneStates {v : Vector LaneState 64} {f : Lane → LaneState}
    (hexec : exec i s = .next (s.setCh c (((s.ch c).setLaneStates core v).vecBusy core clk))) (hv : ∀ l : Lane, v[l] = f l) :
    laneStateStep i c core clk f s := by
  refine ⟨_, hexec, fun l => ?_, ?_, ?_, issuedFor_vecBusy (n := 0) rfl, onlyEngine_of_regsOnly (.refl _)⟩
  all_goals rw [State.ch_setCh]
  · rw [← hv l, Channel.laneStates_vecBusy, Channel.laneStates_setLaneStates]
  · rw [Channel.vecBusy_regs, Channel.setLaneStates_regs]
  · rw [Channel.vecBusy_xacc, Channel.setLaneStates_xacc]

/-- WELFORD and SUMSQ: every active lane takes its element, into the empty state when `first`. -/
theorem laneStateStep_statUpdate {p : Prec} {first : Bool} {active : Nat} {r : VReg} {g : FpFmt → Bool → Nat → LaneState → LaneState}
    (hexec : exec i s = .next (statUpdate s c core p first active r g)) :
    laneStateStep i c core (2 * precClk p) (fun l =>
      let old : LaneState := if first then {} else ((s.ch c).laneStates core)[l]
      if l.val < active then g (precFmt p) (s.ch c).vsat (s.lane c core (precBits p) r l) old else old) s := by
  refine laneStateStep_of_setLaneStates hexec fun l => (Vector.getElem_ofFn _).trans ?_
  have hold : (if first then zeroLanes else (s.ch c).laneStates core)[l] = if first then {} else ((s.ch c).laneStates core)[l] := by
    cases first
    · rfl
    · exact Vector.getElem_replicate _
  dsimp only
  rw [← hold]
  rfl

end

section

variable (c : ChanId) (core : LCore) (p : Prec) (sumsq : Bool) (a : Lane) (s : State)

/-- The second state of a MERGE: that of a lane, or one that lies in registers. -/
def Channel.secondState (ch : Channel) (core : LCore) (p : Prec) (src : LaneSrc) : LaneState :=
  match src.regs with
  | some r => ch.stateIn core p r src.lane
  | none => (ch.laneStates core)[src.lane]

/-- What MERGE leaves in lane a (R134). -/
def Channel.merged (ch : Channel) (core : LCore) (p : Prec) (sumsq : Bool) (a : Lane) (src : LaneSrc) : LaneState :=
  mergeAny sumsq (precFmt p) ch.vsat (ch.laneStates core)[a] (ch.secondState core p src)

/-- A channel whose lane states MERGE has changed. -/
def Channel.merges (ch : Channel) (core : LCore) (p : Prec) (sumsq : Bool) (a : Lane) (src : LaneSrc) : Channel :=
  ch.setLaneStates core ((ch.laneStates core).set a (ch.merged core p sumsq a src))

/-- MERGE whose result stays in the lane states. -/
theorem laneStateStep_merge (src : LaneSrc) : laneStateStep (.merge c core p sumsq { lane := a } src) c core (2 * precClk p) (fun l =>
    if l = a then (s.ch c).merged core p sumsq a src else ((s.ch c).laneStates core)[l]) s :=
  laneStateStep_of_setLaneStates (v := ((s.ch c).laneStates core).set a ((s.ch c).merged core p sumsq a src)) rfl
    fun l => set_getElem_lane _ a _ l

/-- MERGE whose result goes into registers as well. -/
theorem exec_merge_regs (q : VReg × VReg × VReg) (src : LaneSrc) : exec (.merge c core p sumsq { lane := a, regs := some q } src) s =
    .next (s.setCh c
      ((((s.ch c).merges core p sumsq a src).stateOut core a q ((s.ch c).merged core p sumsq a src)).vecBusy core (2 * precClk p))) := rfl

/-- What MERGE leaves in lane a of its registers, in the lane states, and everywhere else. -/
theorem merge_regs_leaves (q : VReg × VReg × VReg) (src : LaneSrc) :
    ∃ t, exec (.merge c core p sumsq { lane := a, regs := some q } src) s = .next t ∧
      (∀ l : Lane, ((t.ch c).laneStates core)[l] = if l = a then (s.ch c).merged core p sumsq a src else ((s.ch c).laneStates core)[l]) ∧
      ((t.ch c).vreg core q.2.2)[a] = ((s.ch c).merged core p sumsq a src).m2 ∧
      (q.2.1 ≠ q.2.2 → ((t.ch c).vreg core q.2.1)[a] = ((s.ch c).merged core p sumsq a src).mean) ∧
      (q.1 ≠ q.2.2 → q.1 ≠ q.2.1 → ((t.ch c).vreg core q.1)[a] =
        BitVec.ofNat 64 (((s.ch c).merged core p sumsq a src).n.toNat + 2 ^ 32 * b2n ((s.ch c).merged core p sumsq a src).poison)) ∧
      (∀ (v : VReg) (l : Lane), l ≠ a → ((t.ch c).vreg core v)[l] = ((s.ch c).vreg core v)[l]) ∧
      vregsKept c core [q.1, q.2.1, q.2.2] s t ∧ (t.ch c).vec.xacc = (s.ch c).vec.xacc ∧ issuedFor c core (2 * precClk p) s t ∧
      onlyEngine c core 0 s t := by
  have hregs := ((s.ch c).merges core p sumsq a src).stateOut_regsOnly core a q ((s.ch c).merged core p sumsq a src)
  refine ⟨_, exec_merge_regs c core p sumsq a s q src, fun l => ?_, ?_, fun h => ?_, fun h h' => ?_, fun v l h => ?_, fun k v h => ?_, ?_,
    issuedFor_vecBusy (n := 0) hregs.busy, onlyEngine_of_regsOnly hregs⟩
  all_goals rw [State.ch_setCh]
  · rw [Channel.laneStates_vecBusy, Channel.laneStates, hregs.lanes]
    exact (congrArg (·[l]) (Channel.laneStates_setLaneStates ..)).trans (set_getElem_lane _ a _ l)
  · rw [Channel.vreg_vecBusy, Channel.stateOut_getElem, if_pos ⟨rfl, rfl⟩]
  · rw [Channel.vreg_vecBusy, Channel.stateOut_getElem, if_neg (by simp [h]), if_pos ⟨rfl, rfl⟩]
  · rw [Channel.vreg_vecBusy, Channel.stateOut_getElem, if_neg (by simp [h]), if_neg (by simp [h']), if_pos ⟨rfl, rfl⟩]
  · rw [Channel.vreg_vecBusy, Channel.stateOut_getElem, if_neg (by simp [h]), if_neg (by simp [h]), if_neg (by simp [h]), Channel.merges,
      Channel.vreg_setLaneStates]
  · rw [Channel.vreg_vecBusy, Channel.stateOut_vreg_other _ a _ h, Channel.merges, Channel.vreg_setLaneStates]
  · rw [Channel.vecBusy_xacc, hregs.xacc, Channel.merges, Channel.setLaneStates_xacc]

end

/-! ### PHILOX -/

/-- A channel with the four words of PHILOX written, one register after another. -/
def Channel.putWords (ch : Channel) (core : LCore) (d0 d1 d2 d3 : VReg) (w : Vector (Nat × Nat × Nat × Nat) 64) : Channel :=
  (((ch.setVreg core d0 (w.map fun x => laneOf 32 x.1)).setVreg core d1 (w.map fun x => laneOf 32 x.2.1)).setVreg
    core d2 (w.map fun x => laneOf 32 x.2.2.1)).setVreg core d3 (w.map fun x => laneOf 32 x.2.2.2)

/-- The words of each lane, with their key and counter (R141). -/
def Channel.philoxWords (ch : Channel) (core : LCore) (k a b : VReg) : Vector (Nat × Nat × Nat × Nat) 64 :=
  Vector.ofFn fun l => philoxLane (ch.vreg core k)[l] (ch.vreg core a)[l] (ch.vreg core b)[l]

theorem exec_philox (c : ChanId) (core : LCore) (k a b d0 d1 d2 d3 : VReg) (s : State) : exec (.philox c core k a b d0 d1 d2 d3) s =
    .next (s.setCh c (((s.ch c).putWords core d0 d1 d2 d3 ((s.ch c).philoxWords core k a b)).vecBusy core 4)) := rfl

/-- Of registers that coincide, the one of the later word stands. -/
theorem Channel.putWords_vreg (ch : Channel) (core core' : LCore) (d0 d1 d2 d3 r : VReg) (w : Vector (Nat × Nat × Nat × Nat) 64) (n : Nat) :
    ((ch.putWords core d0 d1 d2 d3 w).vecBusy core n).vreg core' r =
      if core' = core ∧ r = d3 then w.map fun x => laneOf 32 x.2.2.2
      else if core' = core ∧ r = d2 then w.map fun x => laneOf 32 x.2.2.1
      else if core' = core ∧ r = d1 then w.map fun x => laneOf 32 x.2.1
      else if core' = core ∧ r = d0 then w.map fun x => laneOf 32 x.1
      else ch.vreg core' r := by
  rw [Channel.vreg_vecBusy, Channel.putWords]
  simp only [Channel.vreg_setVreg_eq]

theorem Channel.putWords_vreg_other (ch : Channel) {core core' : LCore} {d0 d1 d2 d3 r : VReg} (w : Vector (Nat × Nat × Nat × Nat) 64) {n : Nat}
    (h : ¬ (core' = core ∧ r ∈ [d0, d1, d2, d3])) : ((ch.putWords core d0 d1 d2 d3 w).vecBusy core n).vreg core' r = ch.vreg core' r := by
  have hne : ∀ d ∈ [d0, d1, d2, d3], ¬ (core' = core ∧ r = d) := fun d hd e => h ⟨e.1, e.2 ▸ hd⟩
  rw [Channel.putWords_vreg, if_neg (hne d3 (by simp)), if_neg (hne d2 (by simp)), if_neg (hne d1 (by simp)), if_neg (hne d0 (by simp))]

theorem Channel.putWords_regsOnly (ch : Channel) (core : LCore) (d0 d1 d2 d3 : VReg) (w : Vector (Nat × Nat × Nat × Nat) 64) :
    ch.regsOnly (ch.putWords core d0 d1 d2 d3 w) :=
  ((((Channel.regsOnly.refl ch).setVreg ..).setVreg ..).setVreg ..).setVreg ..

/-- Settles O3: PHILOX by its four writes in order, the statistics by what becomes of the lane states, MERGE into registers by one lane of each. -/
theorem philoxAndStatistics : Obligations.PhiloxAndStatistics := by
  refine ⟨fun c core k a b d0 d1 d2 d3 s => ?_, fun c core p first sumsq active r a b src q s => ?_⟩
  · refine ⟨_, exec_philox c core k a b d0 d1 d2 d3 s, fun l => ?_, fun j r hr => ?_,
      issuedFor_vecBusy (n := 0) (Channel.regsOnly.busy ((s.ch c).putWords_regsOnly ..)), ?_⟩
    · simp only [State.ch_setCh, Channel.putWords_vreg]
      refine ⟨?_, fun h2 => ?_, fun h1 h1' => ?_, fun h0 h0' h0'' => ?_⟩
      · simp [Channel.philoxWords, philoxLane]
      · simp [Channel.philoxWords, philoxLane, h2]
      · simp [Channel.philoxWords, philoxLane, h1, h1']
      · simp [Channel.philoxWords, philoxLane, h0, h0', h0'']
    · rw [State.ch_setCh, Channel.putWords_vreg_other _ _ hr]
    · exact onlyVector_of_regsOnly (n := 0) ((s.ch c).putWords_regsOnly ..)
  · refine ⟨laneStateStep_statUpdate rfl, laneStateStep_statUpdate rfl, ?_, ?_, ?_⟩
    · cases src <;> exact laneStateStep_merge c core p sumsq a s { lane := b, regs := _ }
    · cases src <;> exact merge_regs_leaves c core p sumsq a s q { lane := b, regs := _ }
    · have hclk : 12 * precClk p = 6 * statClk p := by simp only [statClk]; omega
      rw [hclk]
      exact laneStateStep_of_setLaneStates rfl fun l => set_getElem_lane _ 0 _ l

end Sys2Proof.Machine
end

section
/-! PROOFS. Loads of a vector engine from the SRAM of its core, with the decoder of BLK8 (R123, R140, R281). -/

namespace Sys2Proof.Machine

/-- Bytes that a load finds in a range of its core's SRAM: none beyond the SRAM (log entry 23). -/
def Channel.loadBytes (ch : Channel) (core : LCore) (off n : Nat) : List Byte :=
  if off + n ≤ sramSize then ch.sramBytes (ch.pcore core.val) off n else []

theorem vecRead_clean {s : State} {c : ChanId} (core : LCore) (slot : Nat) (l : List (Nat × Nat)) (k : State → List (List Byte) → State)
    (hp : (s.ch c).mem.sramPoison = []) (he : (s.ch c).mem.sramErr = []) :
    vecRead s c core slot l k = k s (l.map fun e => (s.ch c).loadBytes core e.1 e.2) := by
  rw [vecRead, State.checkRanges_clean _ _ hp he]
  rfl

/-- The codes that the decoder takes: those of a packed register, or those of a block in SRAM. -/
def Channel.blk8Codes (ch : Channel) (core : LCore) (packed : Option VReg) (group : Nat) (blk : Fin 4) : List Byte :=
  match packed with
  | some v => unpackLanes (ch.vreg core v)
  | none => ch.loadBytes core (group + 4 + 32 * blk.val) 32

theorem laneVec_getElem {l : List U64} (h : l.length = 64) (i : Lane) : (laneVec l)[i] = l[i.val] := by
  simp [laneVec, h]

/-- Lanes of one half of a register replaced. -/
theorem withHalf_getElem (v : LaneVec) (upper : Bool) (l : List Nat) (i : Lane) :
    (withHalf v upper l)[i] = if upper = decide (32 ≤ i.val) then laneOf 32 (l.getD (i.val % 32) 0) else v[i] := by
  refine (Vector.getElem_ofFn _).trans ?_
  have hi := i.isLt
  by_cases h : 32 ≤ i.val
  · have hmod : i.val % 32 = i.val - 32 := by omega
    cases upper <;> simp [h, hmod]
  · have hmod : i.val % 32 = i.val := by omega
    cases upper <;> simp [h, hmod]

section

variable {c : ChanId} {s : State} (core : LCore) (slot : Nat) (ty : ElemTy) (addr stride col : Nat) (d : VReg)
  (hp : (s.ch c).mem.sramPoison = []) (he : (s.ch c).mem.sramErr = [])
include hp he

theorem laneStep_vecLoad : laneStep (.vecLoad c core slot ty addr stride d) c core d 1 64
    (fun l => loadLane ty (s.free + l.val) ((s.ch c).loadBytes core (addr + l.val * stride) ty.size)) s := by
  refine laneStep_of_vecWrite (congrArg Host.Outcome.next (vecRead_clean core slot _ _ hp he)) fun l => ?_
  refine (laneVec_getElem (by simp) l).trans ?_
  simp

theorem laneStep_vecLoadTranspose : laneStep (.vecLoadTranspose c core slot ty addr stride col d) c core d 1 64 (fun l =>
    if (addr + l.val * stride + col * ty.size) % ty.size = 0 then
      loadLane ty (s.free + l.val) ((s.ch c).loadBytes core (addr + l.val * stride + col * ty.size) ty.size)
    else 0) s := by
  refine laneStep_of_vecWrite (congrArg Host.Outcome.next (vecRead_clean core slot _ _ hp he)) fun l => ?_
  refine (laneVec_getElem (by simp) l).trans ?_
  by_cases h : (addr + l.val * stride) % ty.size = 0
  · simp [h]
  · simp [h]

theorem laneStep_blk8Decode (upper : Bool) (blk : Fin 4) (packed : Option VReg) :
    laneStep (.blk8Decode c core slot upper addr blk { lanes := d, packed := packed }) c core d 1 0 (fun l =>
      if upper = decide (32 ≤ l.val) then
        laneOf 32 ((((s.ch c).blk8Codes core packed addr blk).map
          (blk8Decode (leNat ((s.ch c).loadBytes core (addr + blk.val) 1)))).getD (l.val % 32) 0)
      else ((s.ch c).vreg core d)[l]) s := by
  cases packed <;>
    exact laneStep_of_vecWrite (n := 0) (congrArg Host.Outcome.next (vecRead_clean core slot _ _ hp he)) (withHalf_getElem _ upper _)

end

end Sys2Proof.Machine
end

section
/-! PROOFS. Stores of a vector engine to the SRAM of its core, with QUANT and BLK8_ENCODE (R68, R123, R139, R140, log entries 23, 77 and 205). -/

namespace Sys2Proof.Machine

/-! ### One store, and several -/

theorem storable_iff (off n : Nat) : storable off n ↔ ¬ (sramSize < off + n ∨ systemBlocked false off n = true) := by
  simp [storable]

/-- What a store that is allowed does. -/
def Channel.takesStore (ch : Channel) (core : LCore) (slot : Nat) (e : Nat × List Byte) : Channel :=
  (ch.sramWrite (ch.pcore core.val) e.1 e.2).onTask core.val slot fun t =>
    t.noting [(sramAt (ch.pcore core.val) e.1, e.2.length)]

theorem Channel.vecStore_allowed {ch : Channel} {e : Nat × List Byte} (core : LCore) (slot : Nat) (h : storable e.1 e.2.length) :
    ch.vecStore core slot e.1 e.2 = ch.takesStore core slot e := if_neg ((storable_iff _ _).mp h)

theorem Channel.vecStore_void {ch : Channel} {e : Nat × List Byte} (core : LCore) (slot : Nat) (h : ¬ storable e.1 e.2.length) :
    ch.vecStore core slot e.1 e.2 = ch := if_pos (not_not.mp (mt (storable_iff _ _).mpr h))

section

variable {ch : Channel} {core : LCore} {slot : Nat} {l : List (Nat × List Byte)}

/-- What holds at first and is kept by every store that is allowed, holds after all of them. -/
theorem Channel.vecStores_ind {P : Channel → Prop} (hch : P ch)
    (hstore : ∀ k, ∀ e ∈ l, storable e.1 e.2.length → P k → P (k.takesStore core slot e)) : P (ch.vecStores core slot l) := by
  induction l generalizing ch with
  | nil => exact hch
  | cons e r ih =>
    refine ih (ch := ch.vecStore core slot e.1 e.2) ?_ fun k x hx => hstore k x (List.mem_cons_of_mem e hx)
    by_cases h : storable e.1 e.2.length
    · rw [Channel.vecStore_allowed core slot h]
      exact hstore ch e List.mem_cons_self h hch
    · rwa [Channel.vecStore_void core slot h]

/-- `k` is `ch` but for core SRAM and the tasks. -/
def Channel.sramOnly (ch k : Channel) : Prop := ∃ m p e ts, k =
  { ch with mem := { ch.mem with sram := m, sramPoison := p, sramErr := e }, tsk := { ch.tsk with tasks := ts } }

theorem Channel.sramOnly.pcore {k : Channel} (h : ch.sramOnly k) (i : Nat) : k.pcore i = ch.pcore i := by
  obtain ⟨m, p, e, ts, rfl⟩ := h
  rfl

theorem Channel.sramOnly.vreg {k : Channel} (h : ch.sramOnly k) (core : LCore) (r : VReg) : k.vreg core r = ch.vreg core r := by
  obtain ⟨m, p, e, ts, rfl⟩ := h
  rfl

theorem Channel.vecStores_sramOnly : ch.sramOnly (ch.vecStores core slot l) := by
  refine Channel.vecStores_ind ⟨ch.mem.sram, ch.mem.sramPoison, ch.mem.sramErr, ch.tsk.tasks, rfl⟩ fun k x _ _ hk => ?_
  obtain ⟨m, p, e, ts, rfl⟩ := hk
  exact ⟨_, _, _, _, rfl⟩

/-- Stores change no byte outside the ranges that may be stored. -/
theorem Channel.vecStores_outside {i : Nat} (h : ∀ e ∈ l, storable e.1 e.2.length →
    i < sramAt (ch.pcore core.val) e.1 ∨ sramAt (ch.pcore core.val) e.1 + e.2.length ≤ i) :
    smGet 0 (ch.vecStores core slot l).mem.sram i = smGet 0 ch.mem.sram i := by
  refine (Channel.vecStores_ind (P := fun k => k.pcore core.val = ch.pcore core.val ∧ smGet 0 k.mem.sram i = smGet 0 ch.mem.sram i)
    ⟨rfl, rfl⟩ fun k e hin hst hk => ?_).2
  obtain ⟨hcore, hbyte⟩ := hk
  exact ⟨hcore, (k.sramWrite_outside _ e.1 e.2 (by rw [hcore]; exact h e hin hst)).trans hbyte⟩

theorem Channel.vecStores_otherTasks : ch.otherTasks core.val slot (ch.vecStores core slot l) :=
  Channel.vecStores_ind (Channel.otherTasks_of_tasks _ _ rfl) fun k e _ _ hk =>
    hk.trans ((k.sramWrite (k.pcore core.val) e.1 e.2).otherTasks_onTask fun _ => ⟨rfl, rfl⟩)

/-- A task without the list of what it has written. -/
def Task.unwritten (t : Task) : Task := { t with written := [] }

/-- Stores change of a task what it has written. -/
theorem Channel.vecStores_tasks : (ch.vecStores core slot l).tsk.tasks.map Task.unwritten = ch.tsk.tasks.map Task.unwritten := by
  refine Channel.vecStores_ind (P := fun k => k.tsk.tasks.map Task.unwritten = ch.tsk.tasks.map Task.unwritten) rfl fun k e _ _ hk => Eq.trans ?_ hk
  simp only [Channel.takesStore, Channel.onTask, List.map_map]
  refine List.map_congr_left fun t _ => ?_
  simp only [Function.comp_apply]
  split <;> rfl

theorem Channel.vecStores_clean (hp : ch.mem.sramPoison = []) : (ch.vecStores core slot l).mem.sramPoison = [] := by
  refine Channel.vecStores_ind (P := fun k => k.mem.sramPoison = []) hp fun k e _ _ hk => ?_
  change uncovered 8 _ _ k.mem.sramPoison = []
  rw [hk]
  rfl

/-- Of stores apart from each other into SRAM without poison, each that is allowed reads back. -/
theorem Channel.vecStores_reads (hp : ch.mem.sramPoison = []) (hapart : disjointStores l) : ∀ e ∈ l, storable e.1 e.2.length →
    (ch.vecStores core slot l).sramBytes (ch.pcore core.val) e.1 e.2.length = e.2 := by
  induction l generalizing ch with
  | nil => exact fun e he => absurd he List.not_mem_nil
  | cons x r ih =>
    obtain ⟨hx, hr⟩ := List.pairwise_cons.mp hapart
    have hcore : (ch.vecStore core slot x.1 x.2).pcore core.val = ch.pcore core.val := (Channel.vecStores_sramOnly (l := [x])).pcore _
    have hclean : (ch.vecStore core slot x.1 x.2).mem.sramPoison = [] := Channel.vecStores_clean (l := [x]) hp
    intro e he hst
    rcases List.mem_cons.mp he with rfl | her
    · have hkept : (ch.vecStores core slot (e :: r)).sramBytes (ch.pcore core.val) e.1 e.2.length =
          (ch.vecStore core slot e.1 e.2).sramBytes (ch.pcore core.val) e.1 e.2.length := by
        refine List.map_congr_left fun i hi => Channel.vecStores_outside (l := r) fun y hy _ => ?_
        have := List.mem_range.mp hi
        have := hx y hy
        rw [hcore]
        simp only [sramAt]
        omega
      rw [hkept, Channel.vecStore_allowed core slot hst]
      exact ch.sramBytes_sramWrite _ e.1 e.2 hp
    · rw [← hcore]
      exact ih hclean hr e her hst

/-! ### What a storing operation makes of its channel -/

/-- A channel whose engine stored `l`, and left a register where one is named. -/
def Channel.storesTo (ch : Channel) (core : LCore) (slot : Nat) (l : List (Nat × List Byte)) (reg : Option (VReg × LaneVec)) : Channel :=
  reg.elim (ch.vecStores core slot l) fun e => (ch.vecStores core slot l).setVreg core e.1 e.2

/-- A channel with other counts of saturations. -/
def Channel.withSats (ch : Channel) (sat gsat : U32) : Channel :=
  { ch with vec := { ch.vec with blk8Sat := sat }, gxc := { ch.gxc with sat := gsat } }

/-- What a storing operation makes of its channel: the stores, a register, the counts of saturations, and its issue clk. -/
def Channel.stores (ch : Channel) (core : LCore) (slot : Nat) (l : List (Nat × List Byte)) (sat gsat : U32) (reg : Option (VReg × LaneVec)) :
    Channel := ((ch.storesTo core slot l reg).withSats sat gsat).vecBusy core 1

variable (ch core slot l) (sat gsat : U32) (reg : Option (VReg × LaneVec))

/-- Beside core SRAM and the tasks, stores leave a register. -/
theorem Channel.storesTo_shape : ∃ m p e ts rs, ch.storesTo core slot l reg =
    { ch with
      mem := { ch.mem with sram := m, sramPoison := p, sramErr := e }, vec := { ch.vec with regs := rs }, tsk := { ch.tsk with tasks := ts } } := by
  obtain ⟨m, p, e, ts, h⟩ := Channel.vecStores_sramOnly (ch := ch) (core := core) (slot := slot) (l := l)
  rw [Channel.storesTo, h]
  cases reg with
  | none => exact ⟨m, p, e, ts, ch.vec.regs, rfl⟩
  | some r => exact ⟨m, p, e, ts, _, rfl⟩

theorem Channel.storesTo_sats :
    (ch.storesTo core slot l reg).vec.blk8Sat = ch.vec.blk8Sat ∧ (ch.storesTo core slot l reg).gxc.sat = ch.gxc.sat := by
  obtain ⟨m, p, e, ts, rs, h⟩ := ch.storesTo_shape core slot l reg
  rw [h]
  exact ⟨rfl, rfl⟩

theorem Channel.storesTo_busy : (ch.storesTo core slot l reg).vec.busy = ch.vec.busy := by
  obtain ⟨m, p, e, ts, rs, h⟩ := ch.storesTo_shape core slot l reg
  rw [h]

/-- An operation that saturates nothing. -/
theorem Channel.stores_sound : ch.stores core slot l ch.vec.blk8Sat ch.gxc.sat reg = (ch.storesTo core slot l reg).vecBusy core 1 := by
  obtain ⟨hsat, hgsat⟩ := ch.storesTo_sats core slot l reg
  rw [Channel.stores, ← hsat, ← hgsat]
  rfl

/-- An operation that saturates n elements, which count in GXC_STAT.SAT as well where `ex` (log entry 77). -/
theorem Channel.stores_counting (n : Nat) (ex : Bool) :
    ch.stores core slot l (satAdd ch.vec.blk8Sat n) (if ex then satAdd ch.gxc.sat n else ch.gxc.sat) reg =
      (let k := ch.storesTo core slot l reg
      (k.withSats (satAdd k.vec.blk8Sat n) (if ex then satAdd k.gxc.sat n else k.gxc.sat)).vecBusy core 1) := by
  obtain ⟨hsat, hgsat⟩ := ch.storesTo_sats core slot l reg
  dsimp only
  rw [Channel.stores, hsat, hgsat]

theorem Channel.stores_mem : (ch.stores core slot l sat gsat reg).mem = (ch.vecStores core slot l).mem := by cases reg <;> rfl

theorem Channel.stores_tasks : (ch.stores core slot l sat gsat reg).tsk.tasks = (ch.vecStores core slot l).tsk.tasks := by cases reg <;> rfl

theorem Channel.stores_vreg (k : LCore) (r : VReg) : (ch.stores core slot l sat gsat reg).vreg k r =
    reg.elim (ch.vreg k r) fun e => if k = core ∧ r = e.1 then e.2 else ch.vreg k r := by
  have hkept := (Channel.vecStores_sramOnly (ch := ch) (core := core) (slot := slot) (l := l)).vreg k r
  cases reg with
  | none => exact hkept
  | some e =>
    rw [Option.elim_some, ← hkept]
    exact Channel.vreg_setVreg_eq _ core k e.1 r e.2

theorem Channel.stores_regs : (ch.stores core slot l sat gsat none).vec.regs = ch.vec.regs := by
  obtain ⟨m, p, e, ts, h⟩ := Channel.vecStores_sramOnly (ch := ch) (core := core) (slot := slot) (l := l)
  change (ch.vecStores core slot l).vec.regs = _
  rw [h]

/-- What a storing operation leaves as it was. -/
theorem Channel.stores_eq : ch.stores core slot l sat gsat reg =
    (let k := ch.stores core slot l sat gsat reg
    { ch with
      mem := { ch.mem with sram := k.mem.sram, sramPoison := k.mem.sramPoison, sramErr := k.mem.sramErr }
      vec := { ch.vec with regs := k.vec.regs, busy := k.vec.busy, blk8Sat := k.vec.blk8Sat }
      gxc := { ch.gxc with sat := k.gxc.sat }
      tsk := { ch.tsk with tasks := k.tsk.tasks } }) := by
  obtain ⟨m, p, e, ts, rs, h⟩ := ch.storesTo_shape core slot l reg
  rw [Channel.stores, h]
  rfl

end

/-- A storing operation stores what may be stored, and changes nothing else but its register, its counts and its issue clks. -/
theorem storeStep_of_stores {i : Instr} {c : ChanId} {core : LCore} {slot : Nat} {l : List (Nat × List Byte)} {sat gsat : U32}
    {reg : Option (VReg × LaneVec)} {s : State} (hexec : exec i s = .next (s.setCh c ((s.ch c).stores core slot l sat gsat reg))) :
    storeStep i c core slot l sat gsat reg s := by
  refine ⟨_, hexec, fun x hx => ?_, fun hp hapart => ?_, ?_, ?_, issuedFor_vecBusy (n := 0) ((s.ch c).storesTo_busy core slot l reg), ?_, ?_,
    fun k r hkr => ?_, fun e he => ?_, fun hnone => ?_, ?_⟩
  all_goals rw [State.ch_setCh]
  · rw [Channel.stores_mem]
    exact Channel.vecStores_outside hx
  · simp only [Channel.sramBytes, Channel.stores_mem]
    exact Channel.vecStores_reads hp hapart
  · exact Channel.vecStores_otherTasks.trans (Channel.otherTasks_of_tasks _ _ ((s.ch c).stores_tasks ..))
  · rw [Channel.stores_tasks]
    exact Channel.vecStores_tasks
  · rfl
  · rfl
  · rw [Channel.stores_vreg]
    cases reg with
    | none => rfl
    | some e => exact if_neg (by simpa using hkr)
  · obtain rfl := Option.mem_def.mp he
    rw [Channel.stores_vreg]
    exact if_pos ⟨rfl, rfl⟩
  · subst hnone
    exact (s.ch c).stores_regs ..
  · exact congrArg (s.setCh c) ((s.ch c).stores_eq ..)

/-! ### The storing operations -/

/-- The register of packed codes that a codec operation leaves, where one is named. -/
def Channel.inReg (ch : Channel) (core : LCore) (packed : Option VReg) (codes : List Nat) : Option (VReg × LaneVec) :=
  packed.map fun v => (v, packLanes (ch.vreg core v) codes)

theorem Channel.putPacked_vecStores (ch : Channel) (core : LCore) (slot : Nat) (l : List (Nat × List Byte)) (packed : Option VReg)
    (codes : List Nat) :
    (ch.vecStores core slot l).putPacked core packed codes = ch.storesTo core slot l (ch.inReg core packed codes) := by
  cases packed with
  | none => rfl
  | some v =>
    change (ch.vecStores core slot l).setVreg core v (packLanes ((ch.vecStores core slot l).vreg core v) codes) = _
    rw [Channel.vecStores_sramOnly.vreg]
    rfl

section

variable (c : ChanId) (core : LCore) (slot : Nat) (sr : SrArg) (s : State)

theorem exec_vecStore (ty : ElemTy) (addr stride : Nat) (a : VReg) : exec (.vecStore c core slot ty sr addr stride a) s =
    .next (s.setCh c ((s.ch c).stores core slot ((List.finRange 64).map fun l =>
      (addr + l.val * stride, (s.ch c).storeBytes core ty sr l.val ((s.ch c).vreg core a)[l])) (s.ch c).vec.blk8Sat (s.ch c).gxc.sat none)) := by
  have hlist : (((s.ch c).vreg core a).toList.mapIdx fun i x => (addr + i * stride, (s.ch c).storeBytes core ty sr i x)) =
      (List.finRange 64).map fun l => (addr + l.val * stride, (s.ch c).storeBytes core ty sr l.val ((s.ch c).vreg core a)[l]) :=
    List.ext_getElem (by simp) fun i _ _ => by simp
  rw [Channel.stores_sound, ← hlist]
  rfl

/-- The code block of QUANT: its scale and its element codes (R139). -/
def Channel.quantOf (ch : Channel) (core : LCore) (fmt : Fin 3) (sr : SrArg) (upper : Bool) (a : VReg) : Nat × List Nat :=
  quantBlock (elFmt fmt.val) (rndOf sr.on ch.srSeed (ch.srStep core) sr.tensor sr.index selQuant) (halfLanes (ch.vreg core a) upper)

theorem exec_quant (fmt : Fin 3) (upper : Bool) (eaddr saddr : Nat) (packed : Option VReg) (a : VReg) :
    exec (.quant c core slot fmt sr upper eaddr saddr { lanes := a, packed := packed }) s =
      (let q := (s.ch c).quantOf core fmt sr upper a
      .next (s.setCh c ((s.ch c).stores core slot [(eaddr, packCodes (elFmt fmt.val) q.2), (saddr, [BitVec.ofNat 8 q.1])]
        (s.ch c).vec.blk8Sat (s.ch c).gxc.sat ((s.ch c).inReg core packed q.2)))) := by
  dsimp only
  rw [Channel.stores_sound, ← Channel.putPacked_vecStores]
  rfl

/-- What BLK8_ENCODE makes of 32 lanes under an exponent byte: the codes, and how many saturated (R140). -/
def Channel.blk8Of (ch : Channel) (core : LCore) (mom : Bool) (sr : SrArg) (agreed : Bool) (e : Nat) (half : List Nat) : List Byte × Nat :=
  blk8Encode (!mom && agreed) (rndOf (mom || sr.on) ch.srSeed (ch.srStep core) sr.tensor sr.index selBlk8) e half

theorem exec_blk8Encode (mom upper : Bool) (agreed : Option U8) (group : Nat) (blk : Fin 4) (packed : Option VReg) (a : VReg) :
    exec (.blk8Encode c core slot mom sr agreed upper group blk { lanes := a, packed := packed }) s =
      (let half := halfLanes ((s.ch c).vreg core a) upper
      let e := encodeExp mom agreed half
      let r := (s.ch c).blk8Of core mom sr agreed.isSome e half
      .next (s.setCh c ((s.ch c).stores core slot [(group + blk.val, [BitVec.ofNat 8 e]), (group + 4 + 32 * blk.val, r.1)]
        (satAdd (s.ch c).vec.blk8Sat r.2) (if !mom && agreed.isSome then satAdd (s.ch c).gxc.sat r.2 else (s.ch c).gxc.sat)
        ((s.ch c).inReg core packed (r.1.map BitVec.toNat))))) := by
  dsimp only
  rw [Channel.stores_counting, ← Channel.putPacked_vecStores]
  rfl

end

/-- Settles O5: loads by the bytes that they find in SRAM, stores by what they make of SRAM, a register and the counts. -/
theorem vecLoadsAndStores : Obligations.VecLoadsAndStores := by
  refine ⟨fun c core slot ty addr stride col upper blk packed d s hp he => ?_,
    fun c core slot ty sr fmt mom upper agreed addr stride eaddr saddr group blk packed a s => ?_⟩
  · refine ⟨laneStep_vecLoad core slot ty addr stride d hp he, laneStep_vecLoadTranspose core slot ty addr stride col d hp he, ?_⟩
    cases packed <;> exact laneStep_blk8Decode core slot addr d hp he upper blk _
  · refine ⟨storeStep_of_stores (exec_vecStore ..), storeStep_of_stores (exec_quant ..), ?_⟩
    have hencode := storeStep_of_stores (exec_blk8Encode c core slot sr s mom upper agreed group blk packed a)
    cases agreed <;> cases mom <;> exact hencode

end Sys2Proof.Machine
end

section
/-! PROOFS. Arithmetic, integers, conversions and special functions of a vector engine, lane by lane (R123, R126 to R131). -/

namespace Sys2Proof.Machine

theorem lanes1_getElem (w : Nat) (f : Nat → Nat) (a : LaneVec) (l : Lane) : (lanes1 w f a)[l] = laneOf w (f (lowBits w a[l])) := by
  simp [lanes1]

theorem lanes3_getElem (w : Nat) (f : Nat → Nat → Nat → Nat) (a b x : LaneVec) (l : Lane) :
    (lanes3 w f a b x)[l] = laneOf w (f (lowBits w a[l]) (lowBits w b[l]) (lowBits w x[l])) := by simp [lanes3]

section

variable {i : Instr} {c : ChanId} {core : LCore} {d a b x : VReg} {w clk : Nat} {s : State}

/-- A lane operation of one register. -/
theorem laneStep_vecOp1 {f : Bool → Nat → Nat} (hexec : exec i s = .next (vecOp1 s c core w clk f d a)) :
    laneStep i c core d clk 0 (fun l => laneOf w (f (s.ch c).vsat (s.lane c core w a l))) s :=
  laneStep_of_vecWrite (n := 0) hexec fun _ => lanes1_getElem ..

/-- A lane operation of three registers. -/
theorem laneStep_vecOp3 {f : Bool → Nat → Nat → Nat → Nat} (hexec : exec i s = .next (vecOp3 s c core w clk f d a b x)) :
    laneStep i c core d clk 0
      (fun l => laneOf w (f (s.ch c).vsat (s.lane c core w a l) (s.lane c core w b l) (s.lane c core w x l))) s :=
  laneStep_of_vecWrite (n := 0) hexec fun _ => lanes3_getElem ..

/-- A special function of every FP32 lane (R128). -/
theorem laneStep_vecSfu {f : Sfu} (hexec : exec i s = .next (vecSfu s c core f d a)) :
    laneStep i c core d 1 0 (fun l => laneOf 32 (sfu f (s.ch c).vsat (s.lane c core 32 a l))) s :=
  laneStep_vecOp1 (f := sfu f) hexec

end

/-- Settles O1: each operation by the lane function that it applies to one, two or three registers; a shift and a conversion write their
register whole. -/
theorem vectorLaneResults : Obligations.VectorLaneResults := by
  refine ⟨fun c core p op d a b x s => ?_, fun c core wide signed op sh k sr d a b m s => ?_, fun c core d a s => ?_⟩
  · exact ⟨laneStep_vecOp2 (f := fpAdd (precFmt p)) rfl, laneStep_vecOp2 (f := fpSub (precFmt p)) rfl,
      laneStep_vecOp2 (f := fpMul (precFmt p)) rfl, laneStep_vecOp3 (f := fpFma (precFmt p)) rfl,
      laneStep_vecOp2 (f := fun _ => fpMin (precFmt p)) rfl, laneStep_vecOp2 (f := fun _ => fpMax (precFmt p)) rfl,
      laneStep_vecOp1 (f := fun _ => fpAbs (precFmt p)) rfl, laneStep_vecOp1 (f := fun _ => fpNeg (precFmt p)) rfl,
      laneStep_vecOp2 (f := fun _ u v => b2n (fpCmp (precFmt p) op u v)) rfl,
      laneStep_vecOp2 (f := fpDiv fpF32) rfl, laneStep_vecOp1 (f := fpSqrt fpF32) rfl,
      laneStep_vecOp2 (f := fpDiv fpF64) rfl, laneStep_vecOp1 (f := fpSqrt fpF64) rfl⟩
  · exact ⟨laneStep_vecOp2 (f := fun _ u v => u + v) rfl, laneStep_vecOp2 (f := fun _ u v => u + (2 ^ intBits wide - v)) rfl,
      laneStep_vecOp2 (f := fun _ u v => u * v) rfl, laneStep_vecOp2 (f := fun _ u v => u &&& v) rfl,
      laneStep_vecOp2 (f := fun _ u v => u ||| v) rfl, laneStep_vecOp2 (f := fun _ u v => u ^^^ v) rfl,
      laneStep_vecOp3 (f := fun _ n u v => if n = 0 then v else u) rfl,
      laneStep_vecOp2 (f := fun _ u v => b2n (intCmp (intBits wide) signed op u v)) rfl,
      laneStep_of_vecWrite rfl fun _ => Vector.getElem_ofFn _, laneStep_of_vecWrite (n := 0) rfl fun _ => Vector.getElem_ofFn _⟩
  · exact ⟨laneStep_vecSfu rfl, laneStep_vecSfu rfl, laneStep_vecSfu rfl, laneStep_vecSfu rfl, laneStep_vecSfu rfl, laneStep_vecSfu rfl,
      laneStep_vecSfu rfl, laneStep_vecSfu rfl, laneStep_vecSfu rfl, laneStep_vecSfu rfl, laneStep_vecSfu rfl⟩

end Sys2Proof.Machine
end

section
/-! PROOFS. Operations that leave their VEC block changed and may raise an event, with GATHER (R142, R148). -/

namespace Sys2Proof.Machine

/-! ### A VEC block, and an event -/

/-- A channel with another VEC block. -/
def Channel.withVec (ch : Channel) (v : Vec) : Channel := { ch with vec := v }

/-- A channel with another VEC block, which has raised an event where `p` holds. -/
def Channel.vecRaised (ch : Channel) (c : ChanId) (code : Nat) (p : Bool) (v : Vec) : Channel := if p then (ch.withVec v).raise c code else ch.withVec v

section

variable (ch : Channel) (c : ChanId) (code : Nat) (p : Bool) (v : Vec)

theorem Channel.vecRaised_eq : ∃ evs rs, ch.vecRaised c code p v = (ch.withVec v).withRaised evs rs :=
  Channel.raiseIf_eq (ch.withVec v) c code (p = true)

@[simp] theorem Channel.vecRaised_vec : (ch.vecRaised c code p v).vec = v := by
  obtain ⟨evs, rs, h⟩ := ch.vecRaised_eq c code p v
  rw [h]
  rfl

/-- Whether an event is raised does not depend on the VEC block. -/
theorem Channel.vecRaised_events : (ch.vecRaised c code p v).events = if p then (ch.raise c code).events else ch.events := by
  cases p
  · rfl
  · exact (Channel.raise_congr ch (ch.withVec v) c code none 0 rfl rfl rfl).1

theorem Channel.vecRaised_void : ch.vecRaised c code false v = ch.withVec v := rfl

@[simp] theorem Channel.vecRaised_vreg (core : LCore) (r : VReg) : (ch.vecRaised c code p v).vreg core r = (ch.withVec v).vreg core r := by
  rw [Channel.vreg, Channel.vecRaised_vec]
  rfl

end

theorem onlyVecEvents_vecRaised (s : State) (c : ChanId) (code : Nat) (p : Bool) (v : Vec) :
    onlyVecEvents c s (s.setCh c ((s.ch c).vecRaised c code p v)) := by
  obtain ⟨evs, rs, h⟩ := (s.ch c).vecRaised_eq c code p v
  rw [onlyVecEvents, State.ch_setCh, h]
  rfl

/-- An operation whose VEC block has the issue counts of an engine that issued. -/
theorem issuedFor_vecRaised {s : State} {c : ChanId} {core : LCore} {clk code : Nat} {p : Bool} {v : Vec} {k : Channel}
    (hk : k.vec.busy = (s.ch c).vec.busy) (hv : v.busy = (k.vecBusy core clk).vec.busy) :
    issuedFor c core clk s (s.setCh c ((s.ch c).vecRaised c code p v)) := by
  have hissued : issuedFor c core clk s (s.setCh c (k.vecBusy core clk)) := issuedFor_vecBusy (n := 0) hk
  simpa only [issuedFor, State.ch_setCh, Channel.vecRaised_vec, hv] using hissued

/-! ### GATHER -/

/-- The address of a lane's element lies in the SRAM, at a multiple of its size. -/
def gatherGood (n a : Nat) : Bool := decide (a < 0x400000) && decide (a % n = 0)

/-- An aligned element that begins within the SRAM ends there. -/
theorem add_le_sramSize {k a : Nat} (hk : k < 4) (h : a % 2 ^ k = 0) : a + 2 ^ k ≤ sramSize ↔ a < 0x400000 := by
  unfold sramSize
  interval_cases k <;> omega

theorem gatherGood_eq (size : Fin 4) (a : Nat) :
    (decide (a + 2 ^ size.val ≤ sramSize) && decide (a % 2 ^ size.val = 0)) = gatherGood (2 ^ size.val) a := by
  by_cases h : a % 2 ^ size.val = 0
  · simp [gatherGood, h, add_le_sramSize size.isLt h]
  · simp [gatherGood, h]

section

variable (ch : Channel) (core : LCore) (size : Fin 4) (base : Nat) (d idx : VReg)

/-- The address that a lane gathers from (R142). -/
def Channel.gatherAt (l : Lane) : Nat := base + lowBits 32 (ch.vreg core idx)[l] * 2 ^ size.val

/-- How many lanes lie outside the SRAM or astray. -/
def Channel.gatherMisses : Nat := countIf (fun l => !gatherGood (2 ^ size.val) (ch.gatherAt core size base idx l)) (List.finRange 64)

/-- The register that GATHER leaves. -/
def Channel.gathered : LaneVec := Vector.ofFn fun l =>
  if gatherGood (2 ^ size.val) (ch.gatherAt core size base idx l) then
    laneOf 64 (leNat (ch.sramBytes (ch.pcore core.val) (ch.gatherAt core size base idx l) (2 ^ size.val)))
  else 0

end

section

variable (ch : Channel) (core : LCore) (d : VReg) (x : LaneVec) (n : Nat)

/-- The VEC block that GATHER leaves when it loads `x` and misses n lanes: the register, the issue clks, the count and the status bit. -/
def Channel.gatherVec : Vec :=
  let v := ((ch.setVreg core d x).vecBusy core 2).vec
  { v with gatherOor := v.gatherOor || decide (0 < n), gatherOorCnt := satAdd v.gatherOorCnt n }

theorem Channel.setVreg_busy : (ch.setVreg core d x).vec.busy = ch.vec.busy := rfl

theorem Channel.gatherVec_busy : (ch.gatherVec core d x n).busy = ((ch.setVreg core d x).vecBusy core 2).vec.busy := rfl
theorem Channel.gatherVec_cnt : (ch.gatherVec core d x n).gatherOorCnt = satAdd ch.vec.gatherOorCnt n := rfl
theorem Channel.gatherVec_oor : (ch.gatherVec core d x n).gatherOor = (ch.vec.gatherOor || decide (0 < n)) := rfl

theorem Channel.gatherVec_vreg (k : LCore) (r : VReg) :
    (ch.withVec (ch.gatherVec core d x n)).vreg k r = if k = core ∧ r = d then x else ch.vreg k r := ch.vreg_setVreg_eq core k d r x

/-- GATHER by the register that it loads and the lanes that it misses. -/
theorem Channel.vecRaised_gatherVec (c : ChanId) : ch.vecRaised c 0x1006 (decide (0 < n)) (ch.gatherVec core d x n) =
    (let k := (ch.setVreg core d x).vecBusy core 2
    if n = 0 then k else { k with vec := { k.vec with gatherOor := true, gatherOorCnt := satAdd k.vec.gatherOorCnt n } }.raise c 0x1006) := by
  by_cases h : n = 0
  · subst h
    simp only [Channel.gatherVec, satAdd_zero, Nat.lt_irrefl, decide_false, Bool.or_false]
    rfl
  · simp only [Channel.gatherVec, Nat.pos_of_ne_zero h, decide_true, Bool.or_true, if_neg h]
    rfl

end

/-- Lane by lane, a list over the lanes of a register is one over their numbers. -/
theorem toList_map_lane {α : Type} (v : LaneVec) (f : U64 → α) : v.toList.map f = (List.finRange 64).map fun l : Lane => f v[l] :=
  List.ext_getElem (by simp) fun i _ _ => by simp

/-- What GATHER makes of the ranges that it reads. -/
theorem Channel.gathered_eq (ch : Channel) (core : LCore) (size : Fin 4) (base : Nat) (idx : VReg) :
    (let addrs := (List.finRange 64).map (ch.gatherAt core size base idx)
    let good := addrs.map (gatherGood (2 ^ size.val))
    let l := ((addrs.zip good).map fun e => if e.2 then (e.1, 2 ^ size.val) else (0, 0)).map fun e => ch.loadBytes core e.1 e.2
    laneVec ((l.zip good).map fun e => if e.2 then laneOf 64 (leNat e.1) else 0)) = ch.gathered core size base idx := by
  refine Vector.ext fun i hi => (laneVec_getElem (by simp) ⟨i, hi⟩).trans ?_
  by_cases h : gatherGood (2 ^ size.val) (ch.gatherAt core size base idx ⟨i, hi⟩) = true
  · have hin : ch.gatherAt core size base idx ⟨i, hi⟩ + 2 ^ size.val ≤ sramSize := by
      rw [← gatherGood_eq, Bool.and_eq_true, decide_eq_true_eq] at h
      exact h.1
    simp [Channel.gathered, Channel.loadBytes, h, hin]
  · simp [Channel.gathered, h]

theorem exec_gather {c : ChanId} {s : State} (core : LCore) (slot : Nat) (size : Fin 4) (base : Nat) (d idx : VReg)
    (hp : (s.ch c).mem.sramPoison = []) (he : (s.ch c).mem.sramErr = []) : exec (.gather c core slot size base d idx) s =
      (let n := (s.ch c).gatherMisses core size base idx
      .next (s.setCh c ((s.ch c).vecRaised c 0x1006 (decide (0 < n))
        ((s.ch c).gatherVec core d ((s.ch c).gathered core size base idx) n)))) := by
  have haddrs : ((s.ch c).vreg core idx).toList.map (fun i => base + lowBits 32 i * 2 ^ size.val) =
      (List.finRange 64).map ((s.ch c).gatherAt core size base idx) := toList_map_lane ..
  have hmiss : countIf (fun b : Bool => !b) (((List.finRange 64).map ((s.ch c).gatherAt core size base idx)).map (gatherGood (2 ^ size.val))) =
      (s.ch c).gatherMisses core size base idx := by
    simp [countIf, Channel.gatherMisses, List.filter_map, Function.comp_def]
  change execGather c core slot size base d idx s = _
  unfold execGather
  dsimp only
  simp only [gatherGood_eq, haddrs]
  rw [hmiss, vecRead_clean core slot _ _ hp he, Channel.gathered_eq, Channel.vecRaised_gatherVec]
  rfl

/-- Settles O6: the VEC block that GATHER leaves, field by field, and its event. -/
theorem gatherLoadsItsLanes : Obligations.GatherLoadsItsLanes := by
  unfold Obligations.GatherLoadsItsLanes
  intro c core slot size base d idx s hp he
  refine ⟨_, exec_gather core slot size base d idx hp he, fun l => ?_, ?_, ?_, fun h => ?_, fun h => ?_, fun k r hkr => ?_,
    issuedFor_vecRaised (Channel.setVreg_busy ..) (Channel.gatherVec_busy ..), onlyVecEvents_vecRaised ..⟩
  all_goals rw [State.ch_setCh]
  · rw [Channel.vecRaised_vreg, Channel.gatherVec_vreg, if_pos ⟨rfl, rfl⟩]
    exact Vector.getElem_ofFn _
  · rw [Channel.vecRaised_vec, Channel.gatherVec_cnt]
    rfl
  · rw [Channel.vecRaised_vec, Channel.gatherVec_oor]
    rfl
  · exact (Channel.vecRaised_events ..).trans (if_neg (mt of_decide_eq_true (Nat.not_lt.mpr h.le)))
  · exact (Channel.vecRaised_events ..).trans (if_pos (decide_eq_true h))
  · rw [Channel.vecRaised_vreg, Channel.gatherVec_vreg, if_neg (by simpa using hkr)]

end Sys2Proof.Machine
end

section
/-! PROOFS. FINISH, and the exact sums of XSUM and TREE-ADD (R125, R136 to R138). -/

namespace Sys2Proof.Machine

/-! ### FINISH -/

/-- A channel with the outputs of FINISH in one lane of three registers, one after another; SUMSQ writes no mean. -/
def Channel.putOutputs (ch : Channel) (core : LCore) (p : Prec) (sumsq : Bool) (lane : Lane) (dMean dVar dR : VReg) (r : Nat × Nat × Nat) : Channel :=
  (((if sumsq then ch else ch.setLane core lane dMean (laneOf (precBits p) r.1)).setLane core lane dVar (laneOf (precBits p) r.2.1)).setLane
    core lane dR (laneOf (precBits p) r.2.2))

theorem exec_finish (c : ChanId) (core : LCore) (p : Prec) (sumsq bessel : Bool) (eps : U32) (lane : Lane) (dMean dVar dR : VReg) (s : State) :
    exec (.finish c core p sumsq bessel eps lane dMean dVar dR) s = .next ((s.setCh c (((s.ch c).putOutputs core p sumsq lane dMean dVar dR
      (finishLane p sumsq bessel (s.ch c).vsat eps.toNat (Config.freeValue s.free) ((s.ch c).laneStates core)[lane])).vecBusy
        core (2 * precClk p))).tookFree 1) := by
  cases sumsq <;> rfl

section

variable (ch : Channel) (core : LCore) (p : Prec) (sumsq : Bool) (lane : Lane) (dMean dVar dR : VReg) (r : Nat × Nat × Nat)

/-- Of registers that coincide, the one of the later output stands. -/
theorem Channel.putOutputs_getElem (q : VReg) (l : Lane) : ((ch.putOutputs core p sumsq lane dMean dVar dR r).vreg core q)[l] =
    if q = dR ∧ l = lane then laneOf (precBits p) r.2.2
    else if q = dVar ∧ l = lane then laneOf (precBits p) r.2.1
    else if sumsq = false ∧ q = dMean ∧ l = lane then laneOf (precBits p) r.1
    else (ch.vreg core q)[l] := by
  cases sumsq <;> simp only [Channel.putOutputs, Channel.setLane_getElem, Bool.false_eq_true, if_true, if_false, true_and, false_and, reduceCtorEq]

theorem Channel.putOutputs_regsOnly : ch.regsOnly (ch.putOutputs core p sumsq lane dMean dVar dR r) := by
  cases sumsq
  · exact (((Channel.regsOnly.refl ch).setVreg ..).setVreg ..).setVreg ..
  · exact ((Channel.regsOnly.refl ch).setVreg ..).setVreg ..

theorem Channel.putOutputs_vreg_other {k : LCore} {q : VReg} (h : ¬ (k = core ∧ q ∈ [dMean, dVar, dR])) :
    (ch.putOutputs core p sumsq lane dMean dVar dR r).vreg k q = ch.vreg k q := by
  have hne : ∀ d ∈ [dMean, dVar, dR], ¬ (k = core ∧ q = d) := fun d hd e => h ⟨e.1, e.2 ▸ hd⟩
  rw [Channel.putOutputs, Channel.setLane_vreg_other _ lane _ (hne dR (by simp)), Channel.setLane_vreg_other _ lane _ (hne dVar (by simp))]
  cases sumsq
  · exact Channel.setLane_vreg_other _ lane _ (hne dMean (by simp))
  · rfl

end

/-! ### Exact accumulators -/

@[simp] theorem Channel.xaccs_setXaccs (ch : Channel) (core : LCore) (v : Vector Xacc 64) : (ch.setXaccs core v).xaccs core = v :=
  smGet_smSet_same _ _ _ _

theorem Channel.xaccs_setXaccs_other (ch : Channel) {core k : LCore} (v : Vector Xacc 64) (h : k ≠ core) :
    (ch.setXaccs core v).xaccs k = ch.xaccs k := smGet_smSet_other _ _ _ (mt Fin.ext h)

@[simp] theorem Channel.vecRaised_xaccs (ch : Channel) (c : ChanId) (code : Nat) (p : Bool) (w : Vec) (k : LCore) :
    (ch.vecRaised c code p w).xaccs k = (ch.withVec w).xaccs k := by
  rw [Channel.xaccs, Channel.vecRaised_vec]
  rfl

section

variable (ch : Channel) (core : LCore) (clk : Nat) (v : Vector Xacc 64) (newly : Bool)

/-- The VEC block that an exact sum leaves: accumulators and issue clks, and XSUM_OVF where one newly reached 2^171. -/
def Channel.sumVec : Vec :=
  let w := ((ch.setXaccs core v).vecBusy core clk).vec
  { w with xsumOvf := w.xsumOvf || newly }

theorem Channel.sumVec_regs : (ch.sumVec core clk v newly).regs = ch.vec.regs := rfl
theorem Channel.sumVec_lanes : (ch.sumVec core clk v newly).lanes = ch.vec.lanes := rfl
theorem Channel.sumVec_xsumOvf : (ch.sumVec core clk v newly).xsumOvf = (ch.vec.xsumOvf || newly) := rfl
theorem Channel.sumVec_busy : (ch.sumVec core clk v newly).busy = ((ch.setXaccs core v).vecBusy core clk).vec.busy := rfl
theorem Channel.setXaccs_busy : (ch.setXaccs core v).vec.busy = ch.vec.busy := rfl

theorem Channel.sumVec_vreg (k : Channel) (j : LCore) (r : VReg) : (k.withVec (ch.sumVec core clk v newly)).vreg j r = ch.vreg j r := rfl

theorem Channel.sumVec_xaccs (k : Channel) : (k.withVec (ch.sumVec core clk v newly)).xaccs core = v := ch.xaccs_setXaccs core v

theorem Channel.sumVec_xaccs_other (k : Channel) {j : LCore} (h : j ≠ core) :
    (k.withVec (ch.sumVec core clk v newly)).xaccs j = ch.xaccs j := ch.xaccs_setXaccs_other v h

theorem Channel.xsumOver_withVec (c : ChanId) (w : Vec) :
    (ch.withVec w).xsumOver c newly = ch.vecRaised c 0x1007 newly { w with xsumOvf := w.xsumOvf || newly } := by
  cases newly
  · simp only [Bool.or_false]
    rfl
  · simp only [Bool.or_true]
    rfl

theorem Channel.regsOnly.withVec_sum {k : Channel} (h : ch.regsOnly k) :
    (k.setXaccs core v).vecBusy core clk = ch.withVec ((k.setXaccs core v).vecBusy core clk).vec := by
  obtain ⟨m, rfl⟩ := h
  rfl

/-- An exact sum of a channel whose registers were written, as one of the channel before. -/
theorem Channel.xsumOver_eq {k : Channel} (h : ch.regsOnly k) (c : ChanId) :
    ((k.setXaccs core v).vecBusy core clk).xsumOver c newly = ch.vecRaised c 0x1007 newly (k.sumVec core clk v newly) := by
  rw [h.withVec_sum, Channel.xsumOver_withVec]
  rfl

end

/-- The fields of the VEC block that an exact sum changes, where no accumulator newly reached 2^171. -/
theorem Channel.sumVec_eq {ch k : Channel} (h : ch.regsOnly k) (core : LCore) (clk : Nat) (v : Vector Xacc 64) :
    k.sumVec core clk v false =
      (let w := k.sumVec core clk v false
      { ch.vec with regs := w.regs, lanes := w.lanes, xacc := w.xacc, busy := w.busy }) := by
  obtain ⟨m, rfl⟩ := h
  simp only [Channel.sumVec, Bool.or_false]
  rfl

/-- An exact sum in which no accumulator newly reached 2^171. -/
theorem onlyEngine_sumVec {s : State} {c : ChanId} {k : Channel} (h : (s.ch c).regsOnly k) (core : LCore) (clk code : Nat) (v : Vector Xacc 64) :
    onlyEngine c core 0 s (s.setCh c ((s.ch c).vecRaised c code false (k.sumVec core clk v false))) := by
  rw [onlyEngine, State.ch_setCh, Channel.vecRaised_vec, ← Channel.sumVec_eq h]
  refine ⟨?_, fun j hj => ⟨?_, ?_⟩⟩
  · change (s.setCh c _).tookFree 0 = _
    rw [State.tookFree, State.setCh_free]
    rfl
  · rw [Channel.laneStates, Channel.vecRaised_vec, Channel.sumVec_lanes, h.lanes]
    rfl
  · rw [Channel.vecRaised_xaccs, Channel.sumVec_xaccs_other _ _ _ _ _ _ hj, Channel.xaccs, h.xacc]
    rfl

/-- Command `i` completes: the accumulators of `core` become `v` and the registers those of `k`; where one newly reached 2^171, XSUM_OVF is set and
its event raised (R138). -/
def exactSumStep (i : Instr) (c : ChanId) (core : LCore) (clk : Nat) (k : Channel) (v : Vector Xacc 64) (newly : Bool) (s : State) : Prop :=
  ∃ t, exec i s = .next t ∧ (t.ch c).xaccs core = v ∧ (t.ch c).vec.regs = k.vec.regs ∧ (∀ j r, (t.ch c).vreg j r = k.vreg j r) ∧
    (t.ch c).vec.lanes = (s.ch c).vec.lanes ∧ issuedFor c core clk s t ∧ (newly = false → onlyEngine c core 0 s t) ∧
    (newly = true → (t.ch c).vec.xsumOvf = true ∧ (t.ch c).events = ((s.ch c).raise c 0x1007).events ∧ onlyVecEvents c s t)

theorem exactSumStep_of_xsumOver {i : Instr} {c : ChanId} {core : LCore} {clk : Nat} {k : Channel} {v : Vector Xacc 64} {newly : Bool} {s : State}
    (hk : (s.ch c).regsOnly k) (hexec : exec i s = .next (s.setCh c (((k.setXaccs core v).vecBusy core clk).xsumOver c newly))) :
    exactSumStep i c core clk k v newly s := by
  rw [Channel.xsumOver_eq (s.ch c) core clk v newly hk] at hexec
  refine ⟨_, hexec, ?_, ?_, fun j r => ?_, ?_, issuedFor_vecRaised ((Channel.setXaccs_busy ..).trans hk.busy) (Channel.sumVec_busy ..),
    fun h => ?_, fun h => ⟨?_, ?_, onlyVecEvents_vecRaised ..⟩⟩
  · rw [State.ch_setCh, Channel.vecRaised_xaccs, Channel.sumVec_xaccs]
  · rw [State.ch_setCh, Channel.vecRaised_vec, Channel.sumVec_regs]
  · rw [State.ch_setCh, Channel.vecRaised_vreg, Channel.sumVec_vreg]
  · rw [State.ch_setCh, Channel.vecRaised_vec, Channel.sumVec_lanes, hk.lanes]
  · subst h
    exact onlyEngine_sumVec hk core clk 0x1007 v
  · rw [State.ch_setCh, Channel.vecRaised_vec, Channel.sumVec_xsumOvf, h, Bool.or_true]
  · rw [State.ch_setCh, Channel.vecRaised_events, h, if_pos rfl]

/-! ### XSUM and TREE-ADD -/

/-- Whether an accumulator newly reached 2^171. -/
def newlyOver (old new : Vector Xacc 64) : Bool := (old.toList.zip new.toList).any fun p => !p.1.ovf && p.2.ovf

theorem newlyOver_iff (old new : Vector Xacc 64) : newlyOver old new = true ↔ ∃ l : Lane, old[l].ovf = false ∧ new[l].ovf = true := by
  simp only [newlyOver, List.any_eq_true, Bool.and_eq_true, Bool.not_eq_true']
  constructor
  · rintro ⟨p, hp, hover⟩
    obtain ⟨i, hi, rfl⟩ := List.mem_iff_getElem.mp hp
    have hlt : i < 64 := by simpa using hi
    exact ⟨⟨i, hlt⟩, by simpa using hover⟩
  · rintro ⟨l, hover⟩
    exact ⟨(old[l], new[l]), List.mem_iff_getElem.mpr ⟨l.val, by simp, by simp⟩, hover⟩

theorem any_over_iff (v : Vector Xacc 64) : (v.toList.any fun x => x.ovf) = true ↔ ∃ l : Lane, v[l].ovf = true := by
  rw [List.any_eq_true]
  constructor
  · rintro ⟨x, hx, hover⟩
    obtain ⟨i, hi, rfl⟩ := List.mem_iff_getElem.mp hx
    exact ⟨⟨i, by simpa using hi⟩, by simpa using hover⟩
  · rintro ⟨l, hover⟩
    exact ⟨v[l], by simp, hover⟩

/-- The accumulators that XSUM begins with, and those that it leaves (R138). -/
def Channel.xsumOld (ch : Channel) (core : LCore) (first : Bool) : Vector Xacc 64 := if first then zeroXaccs else ch.xaccs core
def Channel.xsumNew (ch : Channel) (core : LCore) (first : Bool) (active : Nat) (a : VReg) : Vector Xacc 64 := Vector.ofFn fun l =>
  if l.val < active then xsumLane (lowBits 32 (ch.vreg core a)[l]) (ch.xsumOld core first)[l] else (ch.xsumOld core first)[l]

theorem Channel.xsumOld_getElem (ch : Channel) (core : LCore) (first : Bool) (l : Lane) :
    (ch.xsumOld core first)[l] = if first then {} else (ch.xaccs core)[l] := by
  cases first
  · rfl
  · exact Vector.getElem_replicate _

theorem Channel.xsumNew_getElem (ch : Channel) (core : LCore) (first : Bool) (active : Nat) (a : VReg) (l : Lane) :
    (ch.xsumNew core first active a)[l] =
      (let old : Xacc := if first then {} else (ch.xaccs core)[l]
      if l.val < active then xsumLane (lowBits 32 (ch.vreg core a)[l]) old else old) := by
  dsimp only
  rw [← Channel.xsumOld_getElem]
  exact Vector.getElem_ofFn _

theorem exactSumStep_xsum (c : ChanId) (core : LCore) (first : Bool) (active : Nat) (a : VReg) (s : State) :
    exactSumStep (.xsum c core first active a) c core 1 (s.ch c) ((s.ch c).xsumNew core first active a)
      (newlyOver ((s.ch c).xsumOld core first) ((s.ch c).xsumNew core first active a)) s :=
  exactSumStep_of_xsumOver (.refl _) rfl

/-- The exact sum of all accumulators by the fixed tree (R125). -/
def Channel.xsumTotal (ch : Channel) (core : LCore) : Xacc := (treeFold xaccAdd (ch.xaccs core).toList).headD {}

/-- What a tree leaves beside its register. -/
theorem treeWrite_onCh (s : State) (c : ChanId) (core : LCore) (d : VReg) (clk w x : Nat) (f : Channel → Channel) :
    (treeWrite s c core d clk w x).onCh c f = s.setCh c (f (((s.ch c).setLane core 0 d (laneOf w x)).vecBusy core clk)) := State.onCh_onCh ..

theorem exactSumStep_treeAdd (c : ChanId) (core : LCore) (p : Prec) (d a : VReg) (s : State) :
    exactSumStep (.treeAdd c core p true d a) c core 6
      ((s.ch c).setLane core 0 d (laneOf 32 (xaccRound (s.ch c).vsat ((s.ch c).xsumTotal core))))
      (((s.ch c).xaccs core).set 0 ((s.ch c).xsumTotal core))
      (((s.ch c).xsumTotal core).ovf && !((s.ch c).xaccs core).toList.any fun x => x.ovf) s :=
  exactSumStep_of_xsumOver ((Channel.regsOnly.refl _).setVreg ..) (congrArg Host.Outcome.next (treeWrite_onCh ..))

/-- Settles O4: FINISH by its writes in order, XSUM and TREE-ADD as exact sums of which an accumulator may newly reach 2^171. -/
theorem finishAndExactSums : Obligations.FinishAndExactSums := by
  unfold Obligations.FinishAndExactSums
  refine ⟨fun c core p sumsq bessel eps lane dMean dVar dR s => ?_, fun c core p first active d a s => ⟨?_, ?_⟩⟩
  · have hregs := (s.ch c).putOutputs_regsOnly core p sumsq lane dMean dVar dR
    refine ⟨_, exec_finish c core p sumsq bessel eps lane dMean dVar dR s, ?_, fun h => ?_, fun h h' => ?_, fun q l hl => ?_,
      fun k q h => ?_, issuedFor_vecBusy (hregs _).busy, onlyVector_of_regsOnly (hregs _)⟩
    all_goals rw [State.tookFree_ch, State.ch_setCh, Channel.vreg_vecBusy]
    · rw [Channel.putOutputs_getElem, if_pos ⟨rfl, rfl⟩]
    · rw [Channel.putOutputs_getElem, if_neg (by simp [h]), if_pos ⟨rfl, rfl⟩]
    · rw [Channel.putOutputs_getElem, if_neg (by simp [h]), if_neg (by simp [h'])]
      cases sumsq <;> simp
    · rw [Channel.putOutputs_getElem, if_neg (by simp [hl]), if_neg (by simp [hl]), if_neg (by simp [hl])]
    · exact (s.ch c).putOutputs_vreg_other core p sumsq lane dMean dVar dR _ h
  · obtain ⟨t, hexec, hxacc, hregs, -, hlanes, hissued, hkept, hover⟩ := exactSumStep_xsum c core first active a s
    have hnewly := newlyOver_iff ((s.ch c).xsumOld core first) ((s.ch c).xsumNew core first active a)
    simp only [Channel.xsumOld_getElem, Channel.xsumNew_getElem] at hnewly
    refine ⟨t, hexec, fun l => ?_, hregs, hlanes, hissued, fun h => hkept ?_, fun l hnew hold => hover (hnewly.mpr ⟨l, hold, hnew⟩)⟩
    · rw [hxacc]
      exact Channel.xsumNew_getElem ..
    · refine Bool.eq_false_iff.mpr fun hn => ?_
      obtain ⟨l, hold, hnew⟩ := hnewly.mp hn
      exact Bool.false_ne_true (hold.symm.trans (h l hnew))
  · obtain ⟨t, hexec, hxacc, -, hregs, hlanes, hissued, hkept, hover⟩ := exactSumStep_treeAdd c core p d a s
    have hlane (l : Lane) := (s.ch c).setLane_getElem core 0 d d (laneOf 32 (xaccRound (s.ch c).vsat ((s.ch c).xsumTotal core))) l
    have hacc (l : Lane) := set_getElem_lane ((s.ch c).xaccs core) 0 ((s.ch c).xsumTotal core) l
    refine ⟨t, hexec, ?_, ?_, fun l hl => ⟨?_, ?_⟩, fun k r h => ?_, hlanes, hissued, fun h => hkept ?_, fun hsum hnone => hover ?_⟩
    · rw [hxacc]
      exact hacc 0
    · rw [hregs]
      exact (hlane 0).trans (if_pos ⟨rfl, rfl⟩)
    · rw [hxacc]
      exact (hacc l).trans (if_neg hl)
    · rw [hregs]
      exact (hlane l).trans (if_neg fun e => hl e.2)
    · rw [hregs, Channel.setLane_vreg_other _ _ _ (by simpa using h)]
    · refine Bool.eq_false_iff.mpr fun hn => ?_
      obtain ⟨hsum, hnone⟩ := Bool.and_eq_true_iff.mp hn
      rw [(any_over_iff _).mpr (h hsum)] at hnone
      exact Bool.false_ne_true hnone
    · have hany : ((s.ch c).xaccs core).toList.any (fun x => x.ovf) = false := by
        refine Bool.eq_false_iff.mpr fun ha => ?_
        obtain ⟨l, hl⟩ := (any_over_iff _).mp ha
        exact Bool.false_ne_true ((hnone l).symm.trans hl)
      rw [hany]
      exact Bool.and_eq_true_iff.mpr ⟨hsum, rfl⟩

end Sys2Proof.Machine
end

section
/-! PROOFS. The atomic operations at a word or range of a core's SRAM (R143 to R145, R254). -/

namespace Sys2Proof.Machine

/-! ### An operation that its target carries out -/

/-- A request that passes every check has its effect at its place, and is answered with what the effect gives. -/
theorem State.atTarget_ok {s : State} {c : ChanId} {o : Origin} {p : Packet} {pl : Place} (ho : o.sendsOps = true)
    (hh : (s.ch c).hears o = true) (hj : o.remote = true → (s.ch c).joined = true) (hown : (s.ch c).isOwn c p.addr.toNat = true)
    (hreach : (s.ch c).reach o p = (.ok, pl)) (f : State → Place → State × CompCode × List Byte) :
    s.atTarget c o p f = (f s pl).1.respondTo c o p (f s pl).2.1 (f s pl).2.2 := by
  have hearly : (o.remote && !(s.ch c).joined) = false := by
    cases hr : o.remote
    · rfl
    · simp [hj hr]
  simp [State.atTarget, ho, hh, hearly, hown, hreach]

/-! ### PUT_ADD -/

section

variable (ch : Channel) (slot lines sats kept : Nat)

/-- The VEC block that a PUT_ADD leaves: its clks, its saturations and the blocks left unchanged (R143, R145). -/
def Channel.addVec : Vec :=
  { ch.vec with
    putadd := smMod {} ch.vec.putadd slot fun x => { x with now := satAdd x.now lines }
    blk8Sat := satAdd ch.vec.blk8Sat sats
    scaleMismatchCnt := satAdd ch.vec.scaleMismatchCnt kept
    scaleMismatch := ch.vec.scaleMismatch || kept != 0 }

theorem Channel.countAdd_eq (c : ChanId) :
    ch.countAdd c slot lines sats kept = ch.vecRaised c 0x1008 (kept != 0) (ch.addVec slot lines sats kept) := by
  by_cases h : kept = 0
  · subst h
    rfl
  · simp only [Channel.countAdd, Channel.vecRaised, bne_iff_ne, ne_eq, h, not_false_eq_true, if_true]
    rfl

end

/-- What a PUT_ADD leaves of its channel: the sum in its range, and the counts of its lines (R143). -/
def Channel.adds (ch : Channel) (c : ChanId) (fmt slot off : Nat) (new : List Byte) : Channel :=
  let x := addPayload fmt ch.vec.ovfMode (ch.sramBytes (ch.pcore slot) off new.length) new
  (ch.withSram (smSetAll 0 ch.mem.sram (sramAt (ch.pcore slot) off) x.1)).vecRaised c 0x1008 (x.2.2 != 0)
    (ch.addVec slot ((off + new.length + 63) / 64 - off / 64) x.2.1 x.2.2)

theorem Channel.adds_eq (ch : Channel) (c : ChanId) (fmt slot off : Nat) (new : List Byte) : ∃ evs rs, ch.adds c fmt slot off new =
    (let x := addPayload fmt ch.vec.ovfMode (ch.sramBytes (ch.pcore slot) off new.length) new
    ((ch.withSram (smSetAll 0 ch.mem.sram (sramAt (ch.pcore slot) off) x.1)).withVec
      (ch.addVec slot ((off + new.length + 63) / 64 - off / 64) x.2.1 x.2.2)).withRaised evs rs) := Channel.vecRaised_eq ..

/-- A PUT_ADD that adds to every block raises no event. -/
theorem Channel.adds_events (ch : Channel) (c : ChanId) (fmt slot off : Nat) (new : List Byte)
    (h : (addPayload fmt ch.vec.ovfMode (ch.sramBytes (ch.pcore slot) off new.length) new).2.2 = 0) :
    (ch.adds c fmt slot off new).events = ch.events := by
  rw [Channel.adds, Channel.vecRaised_events, h]
  rfl

theorem State.addAt_clean {s : State} {c : ChanId} (fmt slot off : Nat) (new : List Byte) (hp : (s.ch c).mem.sramPoison = [])
    (he : (s.ch c).mem.sramErr = []) : s.addAt c fmt slot off new =
      (let x := addPayload fmt (s.ch c).vec.ovfMode ((s.ch c).sramBytes ((s.ch c).pcore slot) off new.length) new
      (s.setCh c ((s.ch c).adds c fmt slot off new), if x.2.2 = 0 then .ok else .scaleMismatch, [])) := by
  unfold State.addAt
  dsimp only
  rw [State.checkSram_clean _ _ _ hp he]
  simp only [State.onCh, Channel.sramWrite_clean _ _ _ hp he, Channel.countAdd_eq]
  rfl

/-! ### A word rewritten -/

/-- A channel one of whose words in SRAM has become `new`, with the tasks that waited for it (R254). -/
def Channel.rewriteWord (ch : Channel) (slot off new : Nat) : Channel :=
  (ch.withSram (smSetAll 0 ch.mem.sram (sramAt (ch.pcore slot) off) (leBytes 8 new))).counterMoved slot off new

theorem Channel.counterMoved_eq (ch : Channel) (slot off v : Nat) :
    ch.counterMoved slot off v = { ch with tsk := (ch.counterMoved slot off v).tsk } := by
  unfold Channel.counterMoved
  split <;> rfl

theorem Channel.counterMoved_withSram_tsk (ch : Channel) (m : SMap Byte) (slot off v : Nat) :
    ((ch.withSram m).counterMoved slot off v).tsk = (ch.counterMoved slot off v).tsk := by
  unfold Channel.counterMoved
  split <;> rfl

theorem Channel.rewriteWord_eq (ch : Channel) (slot off new : Nat) : ch.rewriteWord slot off new =
    { ch.withSram (smSetAll 0 ch.mem.sram (sramAt (ch.pcore slot) off) (leBytes 8 new)) with tsk := (ch.counterMoved slot off new).tsk } := by
  rw [Channel.rewriteWord, Channel.counterMoved_eq, Channel.counterMoved_withSram_tsk]

theorem State.atomicAt_clean {s : State} {c : ChanId} (slot off : Nat) (f : Nat → Nat) (hp : (s.ch c).mem.sramPoison = [])
    (he : (s.ch c).mem.sramErr = []) : s.atomicAt c (.sram slot off) f =
      (let old := leNat ((s.ch c).sramBytes ((s.ch c).pcore slot) off 8)
      (s.setCh c ((s.ch c).rewriteWord slot off (f old % 2 ^ 64)), .ok, leBytes 8 old)) := by
  simp only [State.atomicAt, State.readPlace, State.writePlace, State.checkSram_clean _ _ _ hp he, State.onCh,
    Channel.sramWrite_clean _ _ _ hp he]
  simp [Channel.rewriteWord]

/-- State `t` is `s` with one word of a core's SRAM rewritten and the tasks that waited for it READY. -/
def wordRewritten (c : ChanId) (slot off : Nat) (s t : State) (new : Nat) : Prop :=
  leNat ((t.ch c).sramBytes ((s.ch c).pcore slot) off 8) = new ∧
  (∀ y : Nat, y < sramAt ((s.ch c).pcore slot) off ∨ sramAt ((s.ch c).pcore slot) off + 8 ≤ y →
    smGet 0 (t.ch c).mem.sram y = smGet 0 (s.ch c).mem.sram y) ∧
  (t.ch c).tsk = ((s.ch c).counterMoved slot off new).tsk ∧
  t = s.setCh c { s.ch c with mem := { (s.ch c).mem with sram := (t.ch c).mem.sram }, tsk := (t.ch c).tsk }

theorem wordRewritten_rewriteWord (c : ChanId) (slot off v : Nat) (s : State) :
    wordRewritten c slot off s (s.setCh c ((s.ch c).rewriteWord slot off (v % 2 ^ 64))) (v % 2 ^ 64) := by
  have hlen := leBytes_length 8 (v % 2 ^ 64)
  rw [wordRewritten, State.ch_setCh, Channel.rewriteWord_eq]
  refine ⟨?_, fun y hy => smGet_smSetAll_outside 0 _ _ _ y (by rwa [hlen]), rfl, rfl⟩
  have hread := smGetAll_smSetAll 0 (s.ch c).mem.sram (sramAt ((s.ch c).pcore slot) off) (leBytes 8 (v % 2 ^ 64))
  rw [hlen] at hread
  refine (congrArg leNat hread).trans ((leNat_leBytes 8 _).trans (Nat.mod_eq_of_lt ?_))
  exact Nat.mod_lt _ (by norm_num)

/-- Settles O15: PUT_ADD by what it adds in its range, the three others as one word rewritten. -/
theorem atomicsRewriteTheirWord : Obligations.AtomicsRewriteTheirWord := by
  unfold Obligations.AtomicsRewriteTheirWord
  intro c o p slot off s
  dsimp only
  intro ho hh hj hown hreach hp he
  have hat := State.atTarget_ok ho hh hj hown hreach
  have hatomic (f : Nat → Nat) := State.atomicAt_clean slot off f hp he
  refine ⟨fun hop => ?_, fun hop => ?_, fun hop => ?_, fun hop hring => ?_⟩
  · obtain ⟨evs, rs, hadds⟩ := (s.ch c).adds_eq c p.arg.toNat slot off p.payload
    refine ⟨s.setCh c ((s.ch c).adds c p.arg.toNat slot off p.payload), ?_, ?_⟩
    · change execPutAdd c o p s = _
      rw [execPutAdd, Packet.asOp_self hop, hat]
      dsimp only
      rw [State.addAt_clean _ _ _ _ hp he]
    · rw [onlyChannel, State.ch_setCh]
      refine ⟨?_, fun y hy => ?_, ?_, ?_, ?_, ?_, ?_, ?_, Channel.adds_events _ _ _ _ _ _, rfl⟩
      all_goals rw [hadds]
      · exact smGetAll_smSetAll ..
      · exact smGet_smSetAll_outside 0 _ _ _ y hy
      all_goals rfl
  · refine ⟨_, ?_, wordRewritten_rewriteWord ..⟩
    change execCas c o p s = _
    rw [execCas, Packet.asOp_self hop, hat, hatomic]
  · refine ⟨_, ?_, wordRewritten_rewriteWord ..⟩
    change execFetchAdd64 c o p s = _
    rw [execFetchAdd64, Packet.asOp_self hop, hat, hatomic]
  · refine ⟨_, ?_, wordRewritten_rewriteWord ..⟩
    change execSignal c o p .plain s = _
    rw [execSignal, Packet.asOp_self hop, hat, hatomic]
    simp only [hring, ne_eq, not_true_eq_false, if_false, Bool.false_eq_true]
    rfl

end Sys2Proof.Machine
end

section
/-! PROOFS. The start of a descriptor that moves bytes within the HBM of its channel (Tables 13-2 and 13-3, R169, R286). -/

namespace Sys2Proof.Machine

/-! ### Ranges that lie in HBM -/

section

variable {ch : Channel} {c : ChanId} {a n o : Nat}

theorem placeOf_eq_hbm (h : placeOf a n = some (.hbm o)) : a + n ≤ hbmSize := by
  by_contra hout
  unfold placeOf at h
  rw [if_neg hout] at h
  split at h
  · cases h
  · split at h
    · dsimp only at h
      split at h <;> cases h
    · split at h <;> cases h

/-- A range that lies in HBM is of its own channel, and within HBM. -/
theorem Channel.hbmPlace_inside (h : ch.hbmPlace c a n = some o) : ch.isOwn c a = true ∧ gaOffset a + n ≤ hbmSize := by
  have hlocal := Channel.localPlace_of_hbmPlace h
  unfold Channel.localPlace at hlocal
  split at hlocal
  case isFalse => cases hlocal
  case isTrue hown =>
    refine ⟨hown, ?_⟩
    split at hlocal
    · cases hlocal
    · exact placeOf_eq_hbm hlocal

theorem Channel.hbmPlace_below_csr (h : ch.hbmPlace c a n = some o) : gaOffset a < csrBase := by
  obtain ⟨-, hin⟩ := Channel.hbmPlace_inside h
  exact lt_of_le_of_lt (le_trans (Nat.le_add_right _ n) hin) (by decide)

theorem Channel.isLocal_of_hbmPlace (h : ch.hbmPlace c a n = some o) : ch.isLocal c a = true := by
  obtain ⟨hown, -⟩ := Channel.hbmPlace_inside h
  simp [Channel.isLocal, hown, Channel.hbmPlace_below_csr h]

theorem badCsr_of_hbmPlace (h : ch.hbmPlace c a n = some o) (m : Nat) : badCsr a m = false := by
  have hbelow := Channel.hbmPlace_below_csr h
  have hcsr : isCsrAddr a = false := decide_eq_false (by omega)
  simp [badCsr, hcsr]

theorem Channel.badLocal_read (h : ch.hbmPlace c a n = some o) : ch.badLocal c false a n = false := by
  simp [Channel.badLocal, Channel.localPlace_of_hbmPlace h]

theorem Channel.badLocal_write (h : ch.hbmPlace c a n = some o) (hbelow : o + n ≤ badgerArea) : ch.badLocal c true a n = false := by
  simp [Channel.badLocal, Channel.localPlace_of_hbmPlace h, hbelow]

/-- Parts within HBM pass the checks of Table 13-3. -/
theorem Channel.partsCause_hbm {l : List Part3} (hl : ∀ p ∈ l, ch.hbmPart c p) : ch.partsCause c l = 0 := by
  have hcsr : (l.any fun p => badCsr p.src p.len || badCsr p.dst p.len) = false := by
    refine List.any_eq_false.mpr fun p hp => ?_
    obtain ⟨-, hsrc, o, hdst, -⟩ := hl p hp
    obtain ⟨i, hi⟩ := Option.isSome_iff_exists.mp hsrc
    simp [badCsr_of_hbmPlace hi, badCsr_of_hbmPlace hdst]
  have hlocal : (l.any fun p => ch.badLocal c false p.src p.len || ch.badLocal c true p.dst p.len) = false := by
    refine List.any_eq_false.mpr fun p hp => ?_
    obtain ⟨-, hsrc, o, hdst, hbelow⟩ := hl p hp
    obtain ⟨i, hi⟩ := Option.isSome_iff_exists.mp hsrc
    simp [Channel.badLocal_read hi, Channel.badLocal_write hdst hbelow]
  rw [Channel.partsCause, hcsr, hlocal]
  rfl

end

/-! ### What a descriptor reads and moves before it starts -/

section

variable {r : DmaRun} {c : ChanId} (hp : (r.s.ch c).mem.hbmPoison = []) (he : (r.s.ch c).mem.hbmErr = [])
include hp he

theorem DmaRun.read_hbm {a n o : Nat} (h : (r.s.ch c).hbmPlace c a n = some o) : r.read c a n = (r, (r.s.ch c).hbmRead o n) := by
  simp only [DmaRun.read, Channel.localPlace_of_hbmPlace h, State.readPlace, State.checkHbm_clean o n hp he]
  rfl

theorem DmaRun.indices_hbm {d : DmaDesc} {o : Nat} (hop : d.op = 2 ∨ d.op = 3) (h : (r.s.ch c).hbmPlace c d.aux.toNat (4 * d.count.toNat) = some o) :
    r.indices c d = (r, words32 ((r.s.ch c).hbmRead o (4 * d.count.toNat))) := by
  rw [DmaRun.indices, if_pos hop, Channel.isLocal_of_hbmPlace h, DmaRun.read_hbm hp he h]
  rfl

end

theorem DmaRun.indices_none (r : DmaRun) (c : ChanId) {d : DmaDesc} (hop : ¬ (d.op = 2 ∨ d.op = 3)) : r.indices c d = (r, []) := if_neg hop

/-- A run that has also read the bytes of parts and holds their writes. -/
def DmaRun.holds (r : DmaRun) (c : ChanId) (l : List Part3) : DmaRun :=
  { r with
    writes := r.writes ++ l.map fun p => (BitVec.ofNat 64 p.dst, (r.s.ch c).partBytes c p)
    bytes := (l.map (·.len)).foldl (· + ·) r.bytes
    srcs := r.srcs ++ l.map fun p => (p.src, p.len) }

theorem DmaRun.part_hbm {r : DmaRun} {c : ChanId} (cls : BitVec 3) {p : Part3} (hcause : r.cause = 0) (hcode : r.code = .ok)
    (hp : (r.s.ch c).mem.hbmPoison = []) (he : (r.s.ch c).mem.hbmErr = []) (h : (r.s.ch c).hbmPart c p) :
    r.part c cls p = r.holds c [p] := by
  obtain ⟨hlen, hsrc, o, hdst, -⟩ := h
  obtain ⟨i, hi⟩ := Option.isSome_iff_exists.mp hsrc
  have hbytes : (r.s.ch c).hbmRead i p.len = (r.s.ch c).partBytes c p := by rw [Channel.partBytes, hi, Option.getD_some]
  simp [DmaRun.part, DmaRun.holds, hcause, hcode, hlen, Channel.isLocal_of_hbmPlace hi, Channel.isLocal_of_hbmPlace hdst,
    DmaRun.read_hbm hp he hi, hbytes]

theorem DmaRun.parts_hbm {c : ChanId} (cls : BitVec 3) {l : List Part3} {r : DmaRun} (hcause : r.cause = 0) (hcode : r.code = .ok)
    (hp : (r.s.ch c).mem.hbmPoison = []) (he : (r.s.ch c).mem.hbmErr = []) (hl : ∀ p ∈ l, (r.s.ch c).hbmPart c p) :
    l.foldl (fun x p => x.part c cls p) r = r.holds c l := by
  induction l generalizing r with
  | nil => simp [DmaRun.holds]
  | cons p l ih =>
    rw [List.foldl_cons, DmaRun.part_hbm cls hcause hcode hp he (hl p List.mem_cons_self),
      ih (r := r.holds c [p]) hcause hcode hp he fun q hq => hl q (List.mem_cons_of_mem _ hq)]
    simp [DmaRun.holds]

/-! ### The start -/

section

variable {s : State} {c : ChanId} {d : DmaDesc}

/-- The engine has room for a descriptor that passes the checks without data and reads its own channel, whose HBM is clean. -/
def Channel.mayStart (ch : Channel) (c : ChanId) (d : DmaDesc) : Prop :=
  ch.mem.hbmPoison = [] ∧ ch.mem.hbmErr = [] ∧ ch.dma.xfers.length < 32 ∧ d.badRsvd = false ∧ d.badSize = false ∧ d.badAlign = false ∧
    ch.isOwn c d.src.toNat = true

theorem State.dmaRun_hbm {idx : List Nat} (cls : BitVec 3) (hd : (s.ch c).mayStart c d) (hop : 1 ≤ d.op.toNat ∧ d.op.toNat ≤ 5)
    (hidx : ({ s := s } : DmaRun).indices c d = ({ s := s }, idx)) (hl : ∀ p ∈ d.parts idx, (s.ch c).hbmPart c p) :
    s.dmaRun c cls d = (({ s := s } : DmaRun).holds c (d.parts idx), none) := by
  obtain ⟨hp, he, -, hrsvd, hsize, halign, hown⟩ := hd
  have hparts := DmaRun.parts_hbm (r := { s := s }) (c := c) cls rfl rfl hp he hl
  have h0 : ¬ (d.op = 0 ∨ 7 < d.op.toNat) := by
    rintro (h | h)
    · exact absurd (h ▸ hop) (by decide)
    · omega
  have h6 : ¬ d.op = 6 := fun h => absurd (h ▸ hop) (by decide)
  have h7 : ¬ d.op = 7 := fun h => absurd (h ▸ hop) (by decide)
  unfold State.dmaRun
  dsimp only
  rw [if_neg h0, if_neg (by simp [hrsvd]), if_neg (by simp [hsize]), if_neg (by simp [halign]), if_neg fun h => h7 h.1,
    if_neg (by simp [hown]), if_neg h6, if_neg h7, hidx, if_neg (by simp), Channel.partsCause_hbm hl]
  exact congrArg (·, none) hparts

theorem State.dmaCommand_control {op : Nat} (hop : d.op.toNat = op) (hroom : (s.ch c).dma.xfers.length < 32) :
    s.dmaCommand c op d none = s.startDma c .control d := by
  have hstart : (s.ch c).dmaMayStart d none = some .control := if_neg (Nat.not_le.mpr hroom)
  rw [State.dmaCommand, if_neg fun h => h.1 hop, hstart]

/-- A run that holds the writes of parts and sends nothing leaves a transfer with these writes. -/
theorem dmaStarts_of_holds {i : Instr} {l : List Part3} {walked : Option WalkedList} (hexec : exec i s = .next (s.startDma c .control d))
    (hrun : s.dmaRun c 0 d = (({ s := s } : DmaRun).holds c l, walked)) :
    dmaStarts i c d (l.map fun p => (p.src, p.len)) (l.map fun p => (BitVec.ofNat 64 p.dst, (s.ch c).partBytes c p))
      ((l.map (·.len)).foldl (· + ·) 0) walked s := by
  have hnone : (s.ch c).dmaOwnerTask .control = none := rfl
  refine hexec.trans ?_
  simp only [State.startDma, hnone, Option.map_none, Option.getD_none, hrun]
  rw [if_neg (by simp [DmaRun.holds]), if_neg (by simp [DmaRun.holds])]
  simp only [DmaRun.holds, List.nil_append, State.onCh, State.tookFree, State.setCh_free]
  rfl

/-- COPY, GATHER, SCATTER, STRIDE2D and TRANSPOSE of the control complex, by their index list. -/
theorem dmaStarts_parts {i : Instr} {op : U8} {idx : List Nat} (hexec : exec i s = .next (s.dmaCommand c op.toNat d none))
    (hd : (s.ch c).mayStart c d) (hop : d.op = op) (hrange : 1 ≤ op.toNat ∧ op.toNat ≤ 5)
    (hidx : ({ s := s } : DmaRun).indices c d = ({ s := s }, idx)) (hl : ∀ p ∈ d.parts idx, (s.ch c).hbmPart c p) :
    dmaStarts i c d ((d.parts idx).map fun p => (p.src, p.len))
      ((d.parts idx).map fun p => (BitVec.ofNat 64 p.dst, (s.ch c).partBytes c p)) (((d.parts idx).map (·.len)).foldl (· + ·) 0) none s := by
  subst hop
  obtain ⟨-, -, hroom, -⟩ := id hd
  rw [State.dmaCommand_control rfl hroom] at hexec
  exact dmaStarts_of_holds hexec (State.dmaRun_hbm 0 hd hrange hidx hl)

end

/-- Settles O36: each command starts its descriptor; GATHER and SCATTER take their indices from HBM, the others need none. -/
theorem dmaMovesItsParts : Obligations.DmaMovesItsParts := by
  unfold Obligations.DmaMovesItsParts
  intro c d io s
  dsimp only
  intro hd
  have hstart : (s.ch c).mayStart c d := hd
  obtain ⟨hp, he, -⟩ := hd
  have hplain (op : U8) (hop : d.op = op) (hne : ¬ (op = 2 ∨ op = 3)) : ({ s := s } : DmaRun).indices c d = ({ s := s }, []) :=
    DmaRun.indices_none _ c (hop ▸ hne)
  have hlist (haux : (s.ch c).hbmPlace c d.aux.toNat (4 * d.count.toNat) = some io) (hop : d.op = 2 ∨ d.op = 3) :=
    DmaRun.indices_hbm (r := { s := s }) hp he hop haux
  refine ⟨fun hop hl => ?_, fun hop hl => ?_, fun hop hl => ?_, fun haux => ⟨fun hop hl => ?_, fun hop hl => ?_⟩⟩
  · exact dmaStarts_parts rfl hstart hop (by decide) (hplain 1 hop (by decide)) hl
  · exact dmaStarts_parts rfl hstart hop (by decide) (hplain 4 hop (by decide)) hl
  · exact dmaStarts_parts rfl hstart hop (by decide) (hplain 5 hop (by decide)) hl
  · exact dmaStarts_parts rfl hstart hop (by decide) (hlist haux (.inl hop)) hl
  · exact dmaStarts_parts rfl hstart hop (by decide) (hlist haux (.inr hop)) hl

end Sys2Proof.Machine
end

section
/-! PROOFS. Pages that move between HBM and their backing tiers: spills, fetches, prefetch and the LAST_USE sweep (R173 to R177, R187, R188, R190). -/

namespace Sys2Proof.Machine

/-! ### Frames and page table entries after a change -/

section

variable {ch k : Channel} {n : Nat} {p : Pool} {g : Frame → Frame}

/-- A change of one HBM frame, to its pool's POOL, is what its descriptor shows; the others stay. -/
theorem Channel.hbmFrame_changed (hpools : k.sql.pools = ch.sql.pools) (hhbm : k.sql.hbm = smMod {} ch.sql.hbm n g)
    (hpool : ch.poolOf true n = some p) (hg : ∀ x : Frame, { g x with pool := p.pool } = g { x with pool := p.pool }) :
    k.hbmFrame n = g (ch.hbmFrame n) ∧ ∀ i ≠ n, k.hbmFrame i = ch.hbmFrame i := by
  have hsame (i : Nat) : k.poolOf true i = ch.poolOf true i := by rw [Channel.poolOf, hpools, Channel.poolOf]
  refine ⟨?_, fun i hi => ?_⟩
  · simp only [Channel.hbmFrame, hsame, hpool, hhbm, smGet_smMod_same, Option.map_some, Option.getD_some, hg]
  · simp only [Channel.hbmFrame, hsame, hhbm, smGet_smMod_other _ _ _ hi]

theorem Channel.backFrame_changed (hpools : k.sql.pools = ch.sql.pools) (hback : k.sql.back = smMod {} ch.sql.back n g)
    (hpool : ch.poolOf false n = some p) (hg : ∀ x : Frame, { g x with pool := p.pool } = g { x with pool := p.pool }) :
    k.backFrame n = g (ch.backFrame n) ∧ ∀ i ≠ n, k.backFrame i = ch.backFrame i := by
  have hsame (i : Nat) : k.poolOf false i = ch.poolOf false i := by rw [Channel.poolOf, hpools, Channel.poolOf]
  refine ⟨?_, fun i hi => ?_⟩
  · simp only [Channel.backFrame, hsame, hpool, hback, smGet_smMod_same, Option.map_some, Option.getD_some, hg]
  · simp only [Channel.backFrame, hsame, hback, smGet_smMod_other _ _ _ hi]

theorem Channel.pte_changed {r q : Nat} {v : Pte} (hptes : k.sql.ptes = smSet {} ch.sql.ptes (pteKey r q) v) (hq : q < 2 ^ 18) :
    k.pte r q = v ∧ ∀ x i : Nat, i < 2 ^ 18 → (x ≠ r ∨ i ≠ q) → k.pte x i = ch.pte x i := by
  refine ⟨?_, fun x i hi h => ?_⟩
  · rw [Channel.pte, hptes, smGet_smSet_same]
  · rw [Channel.pte, hptes, smGet_smSet_other _ _ _ (by simp only [pteKey]; omega), Channel.pte]

end

/-- The changes of both frames of a move, as one change of Squirrel's state. -/
theorem Channel.onFrames_eq (ch : Channel) (f n : Nat) (g b : Frame → Frame) : (ch.onHbmFrame f g).onBackFrame n b =
    { ch with sql := { ch.sql with hbm := smMod {} ch.sql.hbm f g, back := smMod {} ch.sql.back n b } } := rfl

/-! ### A page changes tier (R177) -/

/-- In `k` the two frames of a move have changed, with the page's PTE, and no other frame or PTE. -/
def Channel.movedPage (ch : Channel) (f : Nat) (m : Move) (g b : Frame → Frame) (v : Pte) (k : Channel) : Prop :=
  k.sql.pools = ch.sql.pools ∧ k.sql.hbm = smMod {} ch.sql.hbm f g ∧ k.sql.back = smMod {} ch.sql.back m.backFrame b ∧
    k.sql.ptes = smSet {} ch.sql.ptes (pteKey m.region m.page) v

theorem Channel.movedPage.reads {ch k : Channel} {f : Nat} {m : Move} {g b : Frame → Frame} {v : Pte} {bp hp : Pool} (h : ch.movedPage f m g b v k)
    (hback : ch.poolOf false m.backFrame = some bp) (hhbm : ch.poolOf true f = some hp) (hpage : m.page < 2 ^ 18)
    (hg : ∀ x : Frame, { g x with pool := hp.pool } = g { x with pool := hp.pool })
    (hb : ∀ x : Frame, { b x with pool := bp.pool } = b { x with pool := bp.pool }) :
    (k.hbmFrame f = g (ch.hbmFrame f) ∧ k.backFrame m.backFrame = b (ch.backFrame m.backFrame) ∧ k.pte m.region m.page = v) ∧
      (∀ x p : Nat, p < 2 ^ 18 → (x ≠ m.region ∨ p ≠ m.page) → k.pte x p = ch.pte x p) ∧
      (∀ x : Nat, x ≠ f → k.hbmFrame x = ch.hbmFrame x) ∧ ∀ x : Nat, x ≠ m.backFrame → k.backFrame x = ch.backFrame x := by
  obtain ⟨hpools, hframes, hbacks, hptes⟩ := h
  obtain ⟨hframe, hframes⟩ := Channel.hbmFrame_changed hpools hframes hhbm hg
  obtain ⟨hbackFrame, hbacks⟩ := Channel.backFrame_changed hpools hbacks hback hb
  obtain ⟨hpte, hptes⟩ := Channel.pte_changed hptes hpage
  exact ⟨⟨hframe, hbackFrame, hpte⟩, hptes, hframes, hbacks⟩

/-- A spill copy has completed: the HBM frame is free, and the PTE names the backing frame. -/
def Channel.spillEnds (ch : Channel) (f : Nat) (m : Move) : Channel :=
  let k := (ch.onHbmFrame f Frame.toFree).onBackFrame m.backFrame fun x => { x with st := .spilled }
  let k := k.setPte m.region m.page { k.pte m.region m.page with tier := m.backTier, frame := BitVec.ofNat 36 m.backFrame }
  { k with sql := { k.sql with spills := k.sql.spills.filter fun x => x.hbmFrame != f, spilled := wrapAdd k.sql.spilled 1 } }

theorem Channel.spillEnds_eq (ch : Channel) (f : Nat) (m : Move) : ch.spillEnds f m = { ch with sql := { ch.sql with
    hbm := smMod {} ch.sql.hbm f Frame.toFree, back := smMod {} ch.sql.back m.backFrame fun x => { x with st := .spilled }
    ptes := smSet {} ch.sql.ptes (pteKey m.region m.page)
      { ch.pte m.region m.page with tier := m.backTier, frame := BitVec.ofNat 36 m.backFrame }
    spills := ch.sql.spills.filter fun x => x.hbmFrame != f, spilled := wrapAdd ch.sql.spilled 1 } } := by
  simp only [Channel.spillEnds, Channel.onFrames_eq, Channel.setPte, Channel.pte]

theorem Channel.fetchArrived_eq {ch : Channel} {m : Move} (h : m.released = false) : ch.fetchArrived m = { ch with sql := { ch.sql with
    hbm := smMod {} ch.sql.hbm m.hbmFrame fun x => { x with st := .active }, back := smMod {} ch.sql.back m.backFrame Frame.toFree
    ptes := smSet {} ch.sql.ptes (pteKey m.region m.page)
      { ch.pte m.region m.page with tier := 0, frame := BitVec.ofNat 36 m.hbmFrame, lastUse := BitVec.ofNat 16 m.useBeat }
    fetches := ch.sql.fetches.filter fun x => x.hbmFrame != m.hbmFrame, fetched := wrapAdd ch.sql.fetched 1 } } := by
  simp only [Channel.fetchArrived, Channel.onFrames_eq, Channel.setPte, Channel.pte, h, Bool.false_eq_true, if_false]

/-! ### An access to the CXL tier whose ports are up (R276 to R278, Table 15-4) -/

/-- A channel whose power domains are other ones. -/
def Channel.withDomains (ch : Channel) (d : SMap Domain) : Channel := { ch with pwr := { ch.pwr with domains := d } }

theorem Channel.foldl_onDomain (l : List (Fin 2)) (d : Fin 2 → Nat) (g : Domain → Domain) (ch : Channel) :
    ∃ e, l.foldl (fun (h : Channel) p => h.onDomain (d p) g) ch = ch.withDomains e := by
  induction l generalizing ch with
  | nil => exact ⟨ch.pwr.domains, rfl⟩
  | cons p l ih =>
    obtain ⟨e, he⟩ := ih (ch.onDomain (d p) g)
    exact ⟨e, he⟩

/-- An access to a range behind ports that are up succeeds, a read when no line is poisoned; it may wake a port. -/
theorem State.checkCxl_up {s : State} {c : ChanId} {read : Bool} {a n : Nat} (hup : ∀ q ∈ (s.ch c).cxlPortsOf a n, ((s.ch c).cxlPort q).isUp = true)
    (hclean : read = true → (s.ch c).cxl.poison = []) : ∃ d, s.checkCxl c read a n = (s.setCh c ((s.ch c).withDomains d), true) := by
  have hdown : ((s.ch c).cxlPortsOf a n).filter (fun p => !((s.ch c).cxlPort p).isUp) = [] :=
    List.filter_eq_nil_iff.mpr fun q hq => by simp [hup q hq]
  have hbad : (if read then ((s.ch c).cxl.poison.filter fun e => touchesLine 64 a n e.1).map (·.1) else []) = [] := by
    cases read with
    | false => rfl
    | true => rw [hclean rfl]; rfl
  obtain ⟨d, hd⟩ := Channel.foldl_onDomain ((s.ch c).cxlPortsOf a n) (fun p => portDomain p.val)
    (fun d => if d.st = .idle then { d with st := .active } else d) (s.ch c)
  refine ⟨d, ?_⟩
  rw [← hd]
  simp only [State.checkCxl, hdown, hbad]
  rfl

/-! ### The end of a spill, and of a fetch (R177, R190) -/

theorem move_idle {l : List Request} {o : ReqOwner} {m : Move} (hidle : ∀ r ∈ l, r.owner ≠ o) (hretry : m.retry = []) :
    ¬ ((l.any fun r => r.owner == o) || !m.retry.isEmpty) = true := by simpa [hretry] using hidle

/-- What the end of a spill does once none of its requests is left: the CXL tier takes the bytes, and the page moves. -/
def State.spills (s : State) (c : ChanId) (f : Nat) (m : Move) (bp hp : Pool) : State :=
  let n := bp.frameKib.toNat * 1024
  let r := if bp.tier = 2 then (s, true) else s.checkCxl c false (bp.frameAddr m.backFrame) n
  if !r.2 then r.1.onCh c fun k => k.cancelSpill f
  else r.1.onCh c fun k =>
    (if bp.tier = 2 then k else k.cxlWrite (bp.frameAddr m.backFrame) (k.hbmBytes (hp.frameAddr f) n)).spillEnds f m

/-- What the end of a fetch does once none of its requests is left: HBM takes the bytes, and the page moves, or it is lost. -/
def State.fetches (s : State) (c : ChanId) (f : Nat) (inc : U16) (m : Move) (bp hp : Pool) : State :=
  if bp.tier = 2 then
    if smGet 0 (s.ch c).sql.incs m.backFrame = inc then s.onCh c fun k => k.fetchArrived m
    else s.onCh c fun k => k.pageLost c m
  else
    let n := bp.frameKib.toNat * 1024
    let a := bp.frameAddr m.backFrame
    let r := s.checkCxl c true a n
    if r.2 then r.1.onCh c fun k => (k.hbmWrite (hp.frameAddr f) (k.cxlBytes a n)).fetchArrived m
    else r.1.onCh c fun k => k.pageLost c m

section

variable {s : State} {c : ChanId} {f : Nat} {m : Move} {bp hp : Pool}

theorem State.spillDone_spills (hback : (s.ch c).poolOf false m.backFrame = some bp) (hhbm : (s.ch c).poolOf true f = some hp) (hretry : m.retry = [])
    (hfound : (s.ch c).sql.spills.find? (fun x => x.hbmFrame == f) = some m)
    (hidle : ∀ r ∈ (s.ch c).wrn.reqs ++ (s.ch c).wrn.waiting, r.owner ≠ .spill f) : s.spillDone c f = s.spills c f m bp hp := by
  have heq : s.spillDone c f = match (s.ch c).sql.spills.find? fun m => m.hbmFrame == f with
    | none => s
    | some m =>
      if (((s.ch c).wrn.reqs ++ (s.ch c).wrn.waiting).any fun r => r.owner == .spill f) || !m.retry.isEmpty then s
      else match (s.ch c).poolOf false m.backFrame, (s.ch c).poolOf true f with
        | some bp, some hp => s.spills c f m bp hp
        | _, _ => s := rfl
  rw [heq, hfound]
  dsimp only
  rw [if_neg (move_idle hidle hretry), hback, hhbm]

theorem State.fetchDone_fetches {inc : U16} (hback : (s.ch c).poolOf false m.backFrame = some bp) (hhbm : (s.ch c).poolOf true f = some hp)
    (hretry : m.retry = []) (hfound : (s.ch c).sql.fetches.find? (fun x => x.hbmFrame == f) = some m)
    (hidle : ∀ r ∈ (s.ch c).wrn.reqs ++ (s.ch c).wrn.waiting, r.owner ≠ .fetch f) : s.fetchDone c f inc = s.fetches c f inc m bp hp := by
  have heq : s.fetchDone c f inc = match (s.ch c).sql.fetches.find? fun m => m.hbmFrame == f with
    | none => s
    | some m =>
      if (((s.ch c).wrn.reqs ++ (s.ch c).wrn.waiting).any fun r => r.owner == .fetch f) || !m.retry.isEmpty then s
      else match (s.ch c).poolOf false m.backFrame, (s.ch c).poolOf true f with
        | some bp, some hp => s.fetches c f inc m bp hp
        | _, _ => s := rfl
  rw [heq, hfound]
  dsimp only
  rw [if_neg (move_idle hidle hretry), hback, hhbm]

theorem State.spills_remote (htier : bp.tier = 2) : s.spills c f m bp hp = s.setCh c ((s.ch c).spillEnds f m) := by
  simp only [State.spills, htier, if_true, Bool.not_true, Bool.false_eq_true, if_false, State.onCh]

theorem State.spills_cxl (htier : bp.tier ≠ 2)
    (hup : ∀ q ∈ (s.ch c).cxlPortsOf (bp.frameAddr m.backFrame) (bp.frameKib.toNat * 1024), ((s.ch c).cxlPort q).isUp = true) :
    ∃ d, s.spills c f m bp hp = s.setCh c ((((s.ch c).withDomains d).cxlWrite (bp.frameAddr m.backFrame)
      (((s.ch c).withDomains d).hbmBytes (hp.frameAddr f) (bp.frameKib.toNat * 1024))).spillEnds f m) := by
  obtain ⟨d, hd⟩ := State.checkCxl_up (read := false) hup nofun
  refine ⟨d, ?_⟩
  simp only [State.spills, htier, if_false, hd, Bool.not_true, Bool.false_eq_true, State.onCh, State.ch_setCh, State.setCh_setCh]

theorem State.fetches_remote {inc : U16} (htier : bp.tier = 2) : s.fetches c f inc m bp hp =
    s.setCh c (if smGet 0 (s.ch c).sql.incs m.backFrame = inc then (s.ch c).fetchArrived m else (s.ch c).pageLost c m) := by
  simp only [State.fetches, htier, if_true, State.onCh]
  split <;> rfl

theorem State.fetches_cxl {inc : U16} (htier : bp.tier ≠ 2) (hpoison : (s.ch c).cxl.poison = [])
    (hup : ∀ q ∈ (s.ch c).cxlPortsOf (bp.frameAddr m.backFrame) (bp.frameKib.toNat * 1024), ((s.ch c).cxlPort q).isUp = true) :
    ∃ d, s.fetches c f inc m bp hp = s.setCh c ((((s.ch c).withDomains d).hbmWrite (hp.frameAddr f)
      (((s.ch c).withDomains d).cxlBytes (bp.frameAddr m.backFrame) (bp.frameKib.toNat * 1024))).fetchArrived m) := by
  obtain ⟨d, hd⟩ := State.checkCxl_up (read := true) hup fun _ => hpoison
  refine ⟨d, ?_⟩
  simp only [State.fetches, htier, if_false, hd, if_true, State.onCh, State.ch_setCh, State.setCh_setCh]

end

/-! ### What a move leaves (R177) -/

/-- A channel whose memories and power domains are other ones, as the copy of a frame leaves it. -/
def Channel.withCopy (ch : Channel) (mem : Mem) (cxl : Cxl) (d : SMap Domain) : Channel :=
  { ch with mem := mem, cxl := cxl, pwr := { ch.pwr with domains := d } }

theorem Channel.spillEnds_moves (ch : Channel) (f : Nat) (m : Move) (mem : Mem) (cxl : Cxl) (d : SMap Domain) :
    ch.movedPage f m Frame.toFree (fun x => { x with st := .spilled })
      { ch.pte m.region m.page with tier := m.backTier, frame := BitVec.ofNat 36 m.backFrame } ((ch.withCopy mem cxl d).spillEnds f m) ∧
    ((ch.withCopy mem cxl d).spillEnds f m).sql.spilled = wrapAdd ch.sql.spilled 1 ∧ ((ch.withCopy mem cxl d).spillEnds f m).mem = mem ∧
    ((ch.withCopy mem cxl d).spillEnds f m).cxl = cxl ∧ ((ch.withCopy mem cxl d).spillEnds f m).tsk = ch.tsk ∧
    ((ch.withCopy mem cxl d).spillEnds f m).events = ch.events := by
  rw [Channel.spillEnds_eq]
  exact ⟨⟨rfl, rfl, rfl, rfl⟩, rfl, rfl, rfl, rfl, rfl⟩

theorem Channel.fetchArrived_moves (ch : Channel) {f : Nat} {m : Move} (hreleased : m.released = false) (hframe : m.hbmFrame = f)
    (mem : Mem) (cxl : Cxl) (d : SMap Domain) : ch.movedPage f m (fun x => { x with st := .active }) Frame.toFree
      { ch.pte m.region m.page with tier := 0, frame := BitVec.ofNat 36 f, lastUse := BitVec.ofNat 16 m.useBeat }
      ((ch.withCopy mem cxl d).fetchArrived m) ∧
    ((ch.withCopy mem cxl d).fetchArrived m).sql.fetched = wrapAdd ch.sql.fetched 1 ∧ ((ch.withCopy mem cxl d).fetchArrived m).mem = mem ∧
    ((ch.withCopy mem cxl d).fetchArrived m).cxl = cxl ∧ ((ch.withCopy mem cxl d).fetchArrived m).tsk = ch.tsk ∧
    ((ch.withCopy mem cxl d).fetchArrived m).events = ch.events := by
  rw [Channel.fetchArrived_eq hreleased, hframe]
  exact ⟨⟨rfl, rfl, rfl, rfl⟩, rfl, rfl, rfl, rfl, rfl⟩

section

variable {s : State} {c : ChanId} {f : Nat} {m : Move} {bp hp : Pool}

/-- The memories when a spill's page moves: the CXL tier has taken the frame's bytes, and HBM has kept its own. -/
theorem State.spills_copies (hup : bp.tier ≠ 2 →
      ∀ q ∈ (s.ch c).cxlPortsOf (bp.frameAddr m.backFrame) (bp.frameKib.toNat * 1024), ((s.ch c).cxlPort q).isUp = true) :
    ∃ cxl d, s.spills c f m bp hp = s.setCh c (((s.ch c).withCopy (s.ch c).mem cxl d).spillEnds f m) ∧
      (bp.tier ≠ 2 → smGetAll 0 cxl.mem (bp.frameAddr m.backFrame) (bp.frameKib.toNat * 1024) =
        (s.ch c).hbmBytes (hp.frameAddr f) (bp.frameKib.toNat * 1024)) ∧
      (∀ x, (x < bp.frameAddr m.backFrame ∨ bp.frameAddr m.backFrame + bp.frameKib.toNat * 1024 ≤ x) →
        smGet 0 cxl.mem x = smGet 0 (s.ch c).cxl.mem x) ∧ (bp.tier = 2 → cxl.mem = (s.ch c).cxl.mem) := by
  by_cases htier : bp.tier = 2
  · exact ⟨_, _, State.spills_remote htier, fun h => absurd htier h, fun _ _ => rfl, fun _ => rfl⟩
  · obtain ⟨d, hd⟩ := State.spills_cxl htier (hup htier)
    have hlen : (((s.ch c).withDomains d).hbmBytes (hp.frameAddr f) (bp.frameKib.toNat * 1024)).length = bp.frameKib.toNat * 1024 :=
      smGetAll_length ..
    refine ⟨_, d, hd, fun _ => ?_, fun x hx => ?_, fun h => absurd h htier⟩
    · have hread := ((s.ch c).withDomains d).cxlBytes_cxlWrite (bp.frameAddr m.backFrame)
        (((s.ch c).withDomains d).hbmBytes (hp.frameAddr f) (bp.frameKib.toNat * 1024))
      rw [hlen] at hread
      exact hread
    · exact ((s.ch c).withDomains d).cxlWrite_outside _ _ (by rw [hlen]; exact hx)

/-- The memories when a fetch's page moves: HBM has taken the backing frame's bytes, and kept all others. -/
theorem State.fetches_copies {inc : U16} (hinc : bp.tier = 2 → smGet 0 (s.ch c).sql.incs m.backFrame = inc)
    (hclean : bp.tier ≠ 2 → (s.ch c).cxl.poison = [] ∧ (s.ch c).mem.hbmPoison = [] ∧
      ∀ q ∈ (s.ch c).cxlPortsOf (bp.frameAddr m.backFrame) (bp.frameKib.toNat * 1024), ((s.ch c).cxlPort q).isUp = true) :
    ∃ mem d, s.fetches c f inc m bp hp = s.setCh c (((s.ch c).withCopy mem (s.ch c).cxl d).fetchArrived m) ∧ mem.sram = (s.ch c).mem.sram ∧
      (bp.tier ≠ 2 → smGetAll 0 mem.hbm (hp.frameAddr f) (bp.frameKib.toNat * 1024) =
        (s.ch c).cxlBytes (bp.frameAddr m.backFrame) (bp.frameKib.toNat * 1024)) ∧
      (∀ x, (x < hp.frameAddr f ∨ hp.frameAddr f + bp.frameKib.toNat * 1024 ≤ x) → smGet 0 mem.hbm x = smGet 0 (s.ch c).mem.hbm x) ∧
      (bp.tier = 2 → mem.hbm = (s.ch c).mem.hbm) := by
  by_cases htier : bp.tier = 2
  · exact ⟨_, _, by rw [State.fetches_remote htier, if_pos (hinc htier)]; rfl, rfl, fun h => absurd htier h, fun _ _ => rfl, fun _ => rfl⟩
  · obtain ⟨hcxl, hhbm, hup⟩ := hclean htier
    obtain ⟨d, hd⟩ := State.fetches_cxl (inc := inc) (hp := hp) htier hcxl hup
    have hlen : (((s.ch c).withDomains d).cxlBytes (bp.frameAddr m.backFrame) (bp.frameKib.toNat * 1024)).length = bp.frameKib.toNat * 1024 :=
      smGetAll_length ..
    refine ⟨_, d, hd, rfl, fun _ => ?_, fun x hx => ?_, fun h => absurd h htier⟩
    · have hread := ((s.ch c).withDomains d).hbmBytes_hbmWrite (hp.frameAddr f)
        (((s.ch c).withDomains d).cxlBytes (bp.frameAddr m.backFrame) (bp.frameKib.toNat * 1024)) hhbm
      rw [hlen] at hread
      exact hread
    · exact ((s.ch c).withDomains d).hbmWrite_outside _ _ (by rw [hlen]; exact hx)

end

/-! ### The LAST_USE sweep and the prefetch (R187, R188) -/

theorem exec_lastUseSweep_walk {s : State} {c : ChanId} (h : (s.ch c).sql.walk = true) : exec (.lastUseSweep c) s = .next s := by
  change execLastUseSweep c s = _
  simp only [execLastUseSweep, State.onCh, h, if_true, State.setCh_ch]

theorem exec_lastUseSweep_ages {s : State} {c : ChanId} (h : (s.ch c).sql.walk = false) : exec (.lastUseSweep c) s =
    .next (s.setCh c { s.ch c with sql := { (s.ch c).sql with ptes := (s.ch c).sql.ptes.map fun x =>
      if 32768 < ((s.ch c).beat16 - x.2.lastUse).toNat then (x.1, { x.2 with lastUse := (s.ch c).beat16 - 32768 }) else x } }) := by
  change execLastUseSweep c s = _
  simp only [execLastUseSweep, State.onCh, h, Bool.false_eq_true, if_false]

theorem exec_prefetch_off {s : State} {c : ChanId} (h : (s.ch c).sql.walk = true ∨ (s.ch c).running = false) :
    exec (.prefetch c) s = .next s := by
  change execPrefetch c s = _
  exact if_pos (by simpa using h)

/-- A fetch of page `p` of region `r` begins, from backing frame `n` into HBM frame `f` of its home pool. -/
def Channel.startsFetch (ch : Channel) (r p f useBeat : Nat) (home : Pool) : Channel :=
  let pte := ch.pte r p
  let n := pte.frame.toNat
  let b := ch.backFrame n
  let k := ch.onHbmFrame f fun x => { x with
    st := .fetching, refcount := 1, pins := 0, owner := b.owner, page := b.page, pool := home.pool }
  let k := k.onBackFrame n fun x => { x with st := .fetching }
  { k with sql := { k.sql with fetches := k.sql.fetches ++ [
      { hbmFrame := f, backFrame := n, backTier := pte.tier, region := r, page := p, useBeat := useBeat }] } }

theorem Channel.startsFetch_eq (ch : Channel) (r p f useBeat : Nat) (home : Pool) : ch.startsFetch r p f useBeat home = { ch with sql := { ch.sql with
    hbm := smMod {} ch.sql.hbm f fun x => { x with st := .fetching, refcount := 1, pins := 0
                                                   owner := (ch.backFrame (ch.pte r p).frame.toNat).owner
                                                   page := (ch.backFrame (ch.pte r p).frame.toNat).page, pool := home.pool }
    back := smMod {} ch.sql.back (ch.pte r p).frame.toNat fun x => { x with st := .fetching }
    fetches := ch.sql.fetches ++ [{ hbmFrame := f, backFrame := (ch.pte r p).frame.toNat, backTier := (ch.pte r p).tier
                                    region := r, page := p, useBeat := useBeat }] } } := by
  simp only [Channel.startsFetch, Channel.onFrames_eq]

theorem State.startFetch_cxl {s : State} {c : ChanId} {r p f useBeat : Nat} {home bp : Pool}
    (hst : ((s.ch c).backFrame ((s.ch c).pte r p).frame.toNat).st = .spilled)
    (hhome : (s.ch c).homePool? ((s.ch c).backFrame ((s.ch c).pte r p).frame.toNat).owner.toNat = some home)
    (hfree : (s.ch c).freeFrame? home = some f) (hback : (s.ch c).poolOf false ((s.ch c).pte r p).frame.toNat = some bp) (htier : bp.tier ≠ 2) :
    s.startFetch c r p useBeat = (s.setCh c ((s.ch c).startsFetch r p f useBeat home), true) := by
  unfold State.startFetch
  simp only [hst, ne_eq, not_true_eq_false, if_false, hhome, hfree, Option.map_some, hback, htier]
  rfl

/-- The prefetch of a plan with one page: it begins that page's fetch, and counts it. -/
theorem exec_prefetch_one {s : State} {c : ChanId} {r p f : Nat} {e : Nat × Bool × TaskDesc} {home bp : Pool}
    (hwalk : (s.ch c).sql.walk = false) (hrun : (s.ch c).running = true) (hahead : (s.ch c).sql.ahead = 1)
    (hplan : (s.ch c).planOf ((s.ch c).beat.number.toNat + 1) = [e]) (hnames : (s.ch c).namedPages e.2.2 = [(r, p)])
    (hmax : (s.ch c).sql.fetchedNow < (s.ch c).sql.prefetchMax.toNat) (hvalid : ((s.ch c).pte r p).valid = true) (htier : ((s.ch c).pte r p).tier = 1)
    (hlost : (s.ch c).sql.lost.contains (r, p) = false)
    (hst : ((s.ch c).backFrame ((s.ch c).pte r p).frame.toNat).st = .spilled)
    (hhome : (s.ch c).homePool? ((s.ch c).backFrame ((s.ch c).pte r p).frame.toNat).owner.toNat = some home)
    (hfree : (s.ch c).freeFrame? home = some f) (hback : (s.ch c).poolOf false ((s.ch c).pte r p).frame.toNat = some bp) (hcxl : bp.tier ≠ 2) :
    exec (.prefetch c) s = .next (s.setCh c (let k := (s.ch c).startsFetch r p f ((s.ch c).beat.number.toNat + 1) home
      { k with sql := { k.sql with fetchedNow := k.sql.fetchedNow + 1 } })) := by
  have hwanted : ((List.range (s.ch c).sql.ahead.toNat).flatMap fun i =>
      (sortBy (fun e => e.2.2.planSeq.toNat) ((s.ch c).planOf ((s.ch c).beat.number.toNat + 1 + i))).flatMap fun e =>
        ((s.ch c).namedPages e.2.2).map fun x => ((s.ch c).beat.number.toNat + 1 + i, x)) = [((s.ch c).beat.number.toNat + 1, r, p)] := by
    simp [hahead, hplan, sortBy, insertBy, hnames]
  have hstart := State.startFetch_cxl (useBeat := (s.ch c).beat.number.toNat + 1) hst hhome hfree hback hcxl
  change execPrefetch c s = _
  unfold execPrefetch
  dsimp only
  rw [hwanted, if_neg (by simp [hwalk, hrun])]
  simp only [List.foldl_cons, List.foldl_nil, Nat.not_le.mpr hmax, if_false, hvalid, htier, hlost, hstart, State.onCh, State.ch_setCh, State.setCh_setCh]
  rfl

/-- The frames, the fetch and the rest of Squirrel's state when the fetch of a page begins. -/
theorem Channel.startsFetch_frames {ch : Channel} {r p f useBeat : Nat} {home bp : Pool}
    (hback : ch.poolOf false (ch.pte r p).frame.toNat = some bp) (hhbm : ch.poolOf true f = some home) :
    (ch.startsFetch r p f useBeat home).hbmFrame f = { ch.hbmFrame f with
        st := .fetching, refcount := 1, pins := 0, owner := (ch.backFrame (ch.pte r p).frame.toNat).owner
        page := (ch.backFrame (ch.pte r p).frame.toNat).page, pool := home.pool } ∧
      (ch.startsFetch r p f useBeat home).backFrame (ch.pte r p).frame.toNat =
        { ch.backFrame (ch.pte r p).frame.toNat with st := .fetching } := by
  have hpools : (ch.startsFetch r p f useBeat home).sql.pools = ch.sql.pools := by rw [Channel.startsFetch_eq]
  have hframes := congrArg (fun k => k.sql.hbm) (ch.startsFetch_eq r p f useBeat home)
  have hbacks := congrArg (fun k => k.sql.back) (ch.startsFetch_eq r p f useBeat home)
  dsimp only at hframes hbacks
  have hframe := Channel.hbmFrame_changed hpools hframes hhbm fun _ => rfl
  have hbackFrame := Channel.backFrame_changed hpools hbacks hback fun _ => rfl
  exact ⟨hframe.1, hbackFrame.1⟩

/-! ### The statement -/

/-- Settles O29: a completed move is one change of both frames and of the page's PTE on top of the copied bytes, and prefetch begins one fetch. -/
theorem pagesMoveBetweenTiers : Obligations.PagesMoveBetweenTiers := by
  unfold Obligations.PagesMoveBetweenTiers
  refine ⟨fun c f inc m bp hp s => ?_, fun c r p f e home bp s => ?_⟩ <;> dsimp only
  · intro hback hhbm hretry hpage
    refine ⟨fun hfound hidle hup => ?_, fun hfound hidle => ⟨fun htier hinc => ?_, fun hreleased hinc hclean => ?_⟩⟩
    · obtain ⟨cxl, d, hs, hcopy, hout, hremote⟩ := State.spills_copies (hp := hp) hup
      obtain ⟨hmoved, hcount, hmem, hcxl, htsk, hevents⟩ := (s.ch c).spillEnds_moves f m (s.ch c).mem cxl d
      obtain ⟨⟨hframe, hbackFrame, hpte⟩, hptes, hframes, hbacks⟩ := hmoved.reads hback hhbm hpage (fun _ => rfl) fun _ => rfl
      have hexec : exec (.spillCopyDone c f) s = .next (s.spillDone c f) := rfl
      rw [hexec, State.spillDone_spills hback hhbm hretry hfound hidle, hs]
      refine ⟨_, rfl, ?_⟩
      simp only [State.ch_setCh, onlyChannel, Channel.cxlBytes, hmem, hcxl]
      exact ⟨hframe, hbackFrame, hpte, hcount, trivial, hcopy, hout, hremote, hptes, hframes, hbacks, trivial, htsk, hevents, trivial⟩
    · have hexec : exec (.fetchCopyDone c f inc) s = .next (s.fetchDone c f inc) := rfl
      rw [hexec, State.fetchDone_fetches hback hhbm hretry hfound hidle, State.fetches_remote htier, if_neg hinc]
    · obtain ⟨mem, d, hs, hsram, hcopy, hout, hremote⟩ := State.fetches_copies (hp := hp) hinc hclean
      have hf : m.hbmFrame = f := by simpa using List.find?_some hfound
      obtain ⟨hmoved, hcount, hmem, hcxl, htsk, hevents⟩ := (s.ch c).fetchArrived_moves hreleased hf mem (s.ch c).cxl d
      obtain ⟨⟨hframe, hbackFrame, hpte⟩, hptes, hframes, hbacks⟩ := hmoved.reads hback hhbm hpage (fun _ => rfl) fun _ => rfl
      have hexec : exec (.fetchCopyDone c f inc) s = .next (s.fetchDone c f inc) := rfl
      rw [hexec, State.fetchDone_fetches hback hhbm hretry hfound hidle, hs]
      refine ⟨_, rfl, ?_⟩
      simp only [State.ch_setCh, onlyChannel, Channel.hbmBytes, hmem, hcxl]
      exact ⟨hframe, hbackFrame, hpte, hcount, trivial, hcopy, hout, hremote, hptes, hframes, hbacks, hsram, htsk, hevents, trivial⟩
  · refine ⟨fun h => ⟨exec_lastUseSweep_walk h, exec_prefetch_off (.inl h)⟩, exec_lastUseSweep_ages, fun h => exec_prefetch_off (.inr h), ?_⟩
    intro hwalk hrun hahead hplan hnames hmax hvalid htier hlost hst hhome hfree hback hhbm hcxl
    obtain ⟨hframe, hbackFrame⟩ := Channel.startsFetch_frames (useBeat := (s.ch c).beat.number.toNat + 1) hback hhbm
    refine ⟨_, exec_prefetch_one hwalk hrun hahead hplan hnames hmax hvalid htier hlost hst hhome hfree hback hcxl, ?_⟩
    rw [State.ch_setCh]
    refine ⟨hframe, hbackFrame, ?_⟩
    rw [Channel.startsFetch_eq]
    exact ⟨rfl, rfl, rfl, rfl⟩

end Sys2Proof.Machine
end

section
/-! PROOFS. The walk of a task's page list: pins, waits and faults (R180 to R184, R189, R190). -/

namespace Sys2Proof.Machine

/-! ### What a walk may change of its channel -/

/-- A channel with another list of tasks. -/
def Channel.withTasks (ch : Channel) (l : List Task) : Channel := { ch with tsk := { ch.tsk with tasks := l } }

/-- A channel under other pages: its frames, the spills under way and the slots of key blocks are other ones. -/
def Channel.withPages (ch : Channel) (hbm back : SMap Frame) (spills : List Move) (slots : List KvSlot) : Channel :=
  { ch with sql := { ch.sql with hbm := hbm, back := back, spills := spills, slots := slots } }

/-- A channel under another list of write declarations. -/
def Channel.withWrites (ch : Channel) (l : List WriteDecl) : Channel := { ch with sql := { ch.sql with writes := l } }

/-! ### A pin (R184) -/

/-- Frame table `m` holds one pin more on frame `n` than frame table `l`, and as many as it on every other frame. -/
def pinsOneMore (l m : SMap Frame) (n : Nat) : Prop :=
  (smGet {} m n).pins = adjust (smGet {} l n).pins 1 ∧ ∀ i ≠ n, (smGet {} m i).pins = (smGet {} l i).pins

theorem adjust_one {x : U16} (h : x ≠ 0xFFFF) : adjust x 1 = x + 1 := by
  have hlt : x.toNat < 65535 := by bv_omega
  apply BitVec.eq_of_toNat_eq
  rw [adjust_succ hlt]
  bv_omega

theorem Channel.cancelSpill_eq (ch : Channel) (n : Nat) : ∃ hbm back spills, ch.cancelSpill n = ch.withPages hbm back spills ch.sql.slots ∧
    ∀ i, (smGet {} hbm i).pins = (smGet {} ch.sql.hbm i).pins := by
  unfold Channel.cancelSpill
  split
  · exact ⟨_, _, _, rfl, fun _ => rfl⟩
  · refine ⟨smMod {} ch.sql.hbm n fun f => { f with st := .active }, _, _, rfl, fun i => ?_⟩
    by_cases hi : i = n
    · rw [hi, smGet_smMod_same]
    · rw [smGet_smMod_other _ _ _ hi]

theorem Channel.pin_eq (ch : Channel) (n : Nat) : ∃ hbm back spills, ch.pin n = ch.withPages hbm back spills ch.sql.slots ∧
    pinsOneMore ch.sql.hbm hbm n := by
  obtain ⟨hbm, back, spills, hcancel, hpins⟩ := ch.cancelSpill_eq n
  refine ⟨smMod {} hbm n fun f => { f with pins := adjust f.pins 1 }, back, spills, ?_, ?_, fun i hi => ?_⟩
  · rw [Channel.pin, hcancel]
    rfl
  · rw [smGet_smMod_same, hpins]
  · rw [smGet_smMod_other _ _ _ hi, hpins]

/-- In `k` task `t` has taken one pin of frame `n`: of the rest only spills, backing frames, the slots of key blocks and `t` itself may differ. -/
def Channel.pinsFor (ch : Channel) (t : Task) (n : Nat) (k : Channel) : Prop :=
  ∃ hbm back spills slots tasks, k = (ch.withPages hbm back spills slots).withTasks tasks ∧ pinsOneMore ch.sql.hbm hbm n ∧
    ch.otherTasks t.core t.slot (ch.withTasks tasks)

/-- A descriptor takes one pin of its frame, and goes to the task's own pages or to a slot of its core. -/
theorem Channel.emitDesc_pins (ch : Channel) (t : Task) (d : PageDesc) : ch.pinsFor t d.frame.toNat (ch.emitDesc t d) := by
  obtain ⟨hbm, back, spills, hpin, hpins⟩ := ch.pin_eq d.frame.toNat
  have hslots (l : List KvSlot) : ch.pinsFor t d.frame.toNat { ch.withPages hbm back spills ch.sql.slots with
      sql := { (ch.withPages hbm back spills ch.sql.slots).sql with slots := l } } :=
    ⟨hbm, back, spills, l, ch.tsk.tasks, rfl, hpins, Channel.otherTasks_of_tasks _ _ rfl⟩
  unfold Channel.emitDesc
  dsimp only
  rw [hpin]
  refine ite_ind _ ?_ (ite_ind _ (hslots _) (hslots _))
  exact ⟨hbm, back, spills, _, _, rfl, hpins, ch.otherTasks_onTask (f := fun x => { x with pages := x.pages ++ [d] }) fun _ => ⟨rfl, rfl⟩⟩

theorem Channel.pinsFor.used_writes {ch k : Channel} {t : Task} {n : Nat} (h : ch.pinsFor t n k) (r p : Nat) :
    (k.used r p).sql.writes = ch.sql.writes := by
  obtain ⟨hbm, back, spills, slots, tasks, rfl, -⟩ := h
  rfl

/-! ### The end of a walk (R189) -/

theorem Channel.pagesReady_eq (ch : Channel) (core slot : Nat) : ∃ tasks, ch.pagesReady core slot = ch.withTasks tasks ∧
    ch.otherTasks core slot (ch.withTasks tasks) := by
  have hsame : ch.otherTasks core slot (ch.withTasks ch.tsk.tasks) := Channel.otherTasks_of_tasks _ _ rfl
  unfold Channel.pagesReady
  split
  · exact ⟨_, rfl, hsame⟩
  · split
    · exact ⟨_, rfl, ch.otherTasks_onTask fun _ => ⟨rfl, rfl⟩⟩
    · exact ⟨_, rfl, hsame⟩

/-- A task whose walk has come to an end for now, and what it waits for. -/
def Task.endsWalk (x : Task) (w : ParkCause) : Task :=
  { x with
    walked := true
    waitCause := w
    cause := if x.st = .parked ∧ (x.cause = .page ∨ x.cause = .walk) then (if w = .none then .page else w) else x.cause }

theorem Channel.walkEnds_eq (ch : Channel) (core slot : Nat) (w : ParkCause) : ∃ tasks, ch.walkEnds core slot w = ch.withTasks tasks ∧
    ch.otherTasks core slot (ch.withTasks tasks) := by
  obtain ⟨tasks, hready, hothers⟩ := (ch.onTask core slot fun x => x.endsWalk w).pagesReady_eq core slot
  exact ⟨tasks, hready, (ch.otherTasks_onTask (f := fun x => x.endsWalk w) fun _ => ⟨rfl, rfl⟩).trans hothers⟩

/-! ### One entry -/

section

variable {s : State} {c : ChanId} {t : Task} {e : PageEntry}

theorem State.walkList_one : s.walkList c t [e] = s.walkEntry c t e := by
  simp only [State.walkList]
  obtain ⟨r, w⟩ := s.walkEntry c t e
  cases w <;> rfl

/-- A page outside a LIVE region (R182). -/
theorem State.walkEntry_unknown (h : ¬ (((s.ch c).region e.region.toNat).live = true ∧
    e.page.toNat < ((s.ch c).region e.region.toNat).maxPages.toNat)) : s.walkEntry c t e = (s, .bad 0x5008) := by
  refine if_pos ?_
  by_cases hlive : ((s.ch c).region e.region.toNat).live = true
  · simpa [hlive] using fun hlt => h ⟨hlive, hlt⟩
  · simp [hlive]

variable (hlive : ((s.ch c).region e.region.toNat).live = true) (hin : e.page.toNat < ((s.ch c).region e.region.toNat).maxPages.toNat)
include hlive hin

theorem State.walkEntry_lost (hlost : (s.ch c).sql.lost.contains (e.region.toNat, e.page.toNat) = true) :
    s.walkEntry c t e = (s, .bad 0x5007) := by
  unfold State.walkEntry
  dsimp only
  rw [if_neg (by simpa [hlive] using hin), if_pos hlost]

variable (hlost : (s.ch c).sql.lost.contains (e.region.toNat, e.page.toNat) = false)
include hlost

theorem State.walkEntry_known : s.walkEntry c t e = if e.isWrite then s.walkWrite c t e else s.walkRead c t e := by
  unfold State.walkEntry
  dsimp only
  rw [if_neg (by simpa [hlive] using hin), if_neg (by simpa using hlost)]

end

/-! ### A read entry that the task does not hold (R183, R184) -/

/-- The descriptor of a page that a task reads where its PTE says it lies. -/
def Channel.readDesc (ch : Channel) (t : Task) (e : PageEntry) (p : Pool) : PageDesc :=
  let pte := ch.pte e.region.toNat e.page.toNat
  ch.mkDesc t e p pte.frame.toNat pte.tier (pte.vFmt ++ pte.kFmt) 0

/-- The descriptor of a page that a task writes in place. -/
def Channel.writeDesc (ch : Channel) (t : Task) (e : PageEntry) (p : Pool) : PageDesc :=
  let pte := ch.pte e.region.toNat e.page.toNat
  { ch.mkDesc t e p pte.frame.toNat pte.tier e.fmt 1 with slot := 0xFFFF }

section

variable (ch : Channel) (t : Task) (e : PageEntry) (p : Pool)

theorem Channel.readDesc_frame : (ch.readDesc t e p).frame = (ch.pte e.region.toNat e.page.toNat).frame := by
  simp [Channel.readDesc, Channel.mkDesc]

theorem Channel.writeDesc_frame : (ch.writeDesc t e p).frame = (ch.pte e.region.toNat e.page.toNat).frame := by
  simp [Channel.writeDesc, Channel.mkDesc]

end

section

variable {s : State} {c : ChanId} {t : Task} {e : PageEntry} (hheld : (s.ch c).holdsRead t e = false) (hjoin : (s.ch c).joinSlot t e = none)
include hheld hjoin

theorem State.walkRead_invalid (hvalid : ((s.ch c).pte e.region.toNat e.page.toNat).valid = false) : s.walkRead c t e = (s, .miss) := by
  unfold State.walkRead
  dsimp only
  rw [if_neg (by simp [hheld]), hjoin]
  exact if_pos (by simp [hvalid])

variable (hvalid : ((s.ch c).pte e.region.toNat e.page.toNat).valid = true) (hcxl : ((s.ch c).pte e.region.toNat e.page.toNat).tier ≠ 1)
  (hremote : ((s.ch c).pte e.region.toNat e.page.toNat).tier ≠ 2)
include hvalid hcxl hremote

theorem State.walkRead_full (hfull : (s.ch c).pinFull ((s.ch c).pte e.region.toNat e.page.toNat).frame.toNat = true) :
    s.walkRead c t e = (s, .late) := by
  unfold State.walkRead
  dsimp only
  rw [if_neg (by simp [hheld]), hjoin]
  dsimp only
  rw [if_neg (by simp [hvalid]), if_neg (not_or.mpr ⟨hcxl, hremote⟩), if_pos hfull]

theorem State.walkRead_pins {p : Pool} (hfull : (s.ch c).pinFull ((s.ch c).pte e.region.toNat e.page.toNat).frame.toNat = false)
    (hpool : (s.ch c).poolOf true ((s.ch c).pte e.region.toNat e.page.toNat).frame.toNat = some p) :
    s.walkRead c t e = (s.setCh c ((((s.ch c).emitDesc t ((s.ch c).readDesc t e p)).used e.region.toNat e.page.toNat).withWrites
      (s.ch c).sql.writes), .got) := by
  unfold State.walkRead
  dsimp only
  rw [if_neg (by simp [hheld]), hjoin]
  dsimp only
  rw [if_neg (by simp [hvalid]), if_neg (not_or.mpr ⟨hcxl, hremote⟩), if_neg (by simp [hfull]), hpool]
  rw [← ((s.ch c).emitDesc_pins t ((s.ch c).readDesc t e p)).used_writes e.region.toNat e.page.toNat]
  rfl

end

/-! ### A page that is written in place (R180) -/

/-- The declaration of a page that task `t` writes in its frame (R180). -/
def Channel.inPlace (ch : Channel) (t : Task) (e : PageEntry) (n : Nat) : WriteDecl where
  core := t.core
  taskSlot := t.slot
  region := e.region.toNat
  page := e.page.toNat
  frame := n
  fmt := e.fmt
  beat := ch.beat.number.toNat

theorem Channel.pinsFor.declares {ch k : Channel} {t : Task} {e : PageEntry} {n m : Nat} (h : ch.pinsFor t n k) (r p : Nat)
    (hwrites : ch.sql.writes = []) : (k.used r p).declare t e m none false = (k.used r p).withWrites [ch.inPlace t e m] := by
  obtain ⟨hbm, back, spills, slots, tasks, rfl, -⟩ := h
  have hdeclare : ((((ch.withPages hbm back spills slots).withTasks tasks).used r p).declare t e m none false) =
    (((ch.withPages hbm back spills slots).withTasks tasks).used r p).withWrites (ch.sql.writes ++ [ch.inPlace t e m]) := rfl
  rw [hdeclare, hwrites, List.nil_append]

theorem State.walkWrite_pins {s : State} {c : ChanId} {t : Task} {e : PageEntry} {p : Pool} (hwrites : (s.ch c).sql.writes = [])
    (hvalid : ((s.ch c).pte e.region.toNat e.page.toNat).valid = true) (htier : ((s.ch c).pte e.region.toNat e.page.toNat).tier = 0)
    (hfull : (s.ch c).pinFull ((s.ch c).pte e.region.toNat e.page.toNat).frame.toNat = false)
    (hpool : (s.ch c).poolOf true ((s.ch c).pte e.region.toNat e.page.toNat).frame.toNat = some p) :
    s.walkWrite c t e = (s.setCh c ((((s.ch c).emitDesc t ((s.ch c).writeDesc t e p)).used e.region.toNat e.page.toNat).withWrites
      [(s.ch c).inPlace t e ((s.ch c).pte e.region.toNat e.page.toNat).frame.toNat]), .got) := by
  have hpins := (s.ch c).emitDesc_pins t ((s.ch c).writeDesc t e p)
  unfold State.walkWrite
  dsimp only
  rw [hwrites, if_neg (by simp), if_neg (by simp), if_neg (by simp [hvalid]), if_neg (by simp [htier]), if_neg (by simp [hfull]),
    if_neg (by simp [htier]), hpool]
  exact congrArg (fun k => (s.setCh c k, Walk.got)) (hpins.declares e.region.toNat e.page.toNat hwrites)

/-! ### What a task that has pinned a page leaves -/

theorem Channel.pinsFor.walked {ch k : Channel} {t : Task} {n p : Nat} (h : ch.pinsFor t n k) (r : Nat) (l : List WriteDecl) (w : ParkCause) :
    ∃ j, ((k.used r p).withWrites l).walkEnds t.core t.slot w = j ∧ (j.hbmFrame n).pins = adjust (ch.hbmFrame n).pins 1 ∧
      (∀ i ≠ n, (j.hbmFrame i).pins = (ch.hbmFrame i).pins) ∧ j.pte r p = { ch.pte r p with lastUse := ch.beat16 } ∧ j.sql.writes = l ∧
      j.mem = ch.mem ∧ j.events = ch.events ∧ ch.otherTasks t.core t.slot j := by
  obtain ⟨hbm, back, spills, slots, tasks, rfl, ⟨hpin, hpins⟩, hothers⟩ := h
  obtain ⟨tasks', hends, hothers'⟩ := Channel.walkEnds_eq
    (((((ch.withPages hbm back spills slots).withTasks tasks).used r p).withWrites l)) t.core t.slot w
  refine ⟨_, rfl, ?_⟩
  rw [hends]
  refine ⟨hpin, hpins, smGet_smSet_same .., rfl, rfl, rfl, ?_⟩
  exact (hothers.trans (Channel.otherTasks_of_tasks (b := (((ch.withPages hbm back spills slots).withTasks tasks).used r p).withWrites l)
    _ _ rfl)).trans hothers'

/-! ### The walk -/

theorem Channel.pins_ne_of_pinFull {ch : Channel} {n : Nat} (h : ch.pinFull n = false) : (ch.hbmFrame n).pins ≠ 0xFFFF := by
  simpa [Channel.pinFull] using h

section

variable {s : State} {c : ChanId} {core : LCore} {slot : Nat} {k : Task} {e : PageEntry} (ht : (s.ch c).task? core.val slot = some k)
include ht

theorem exec_pageWalk_idle (h : k.waitPages = false ∨ (s.ch c).sql.walk = true ∨ (s.ch c).walkBehind k = true) :
    exec (.pageWalk c core slot) s = .next s := by
  change execPageWalk c core slot s = _
  simp only [execPageWalk, ht]
  exact if_pos (by simpa [or_assoc] using h)

variable (hwait : k.waitPages = true) (hwalk : (s.ch c).sql.walk = false) (hbehind : (s.ch c).walkBehind k = false)
  (hlist : (s.ch c).pageList k.desc = [e])
include hwait hwalk hbehind hlist

/-- A walk whose entry is bad faults its task. -/
theorem exec_pageWalk_bad {code : Nat} (h : s.walkEntry c k e = (s, .bad code)) :
    exec (.pageWalk c core slot) s = .next (s.kvFault c (some (core, slot)) code) := by
  obtain ⟨evs, rs, hraise⟩ := (s.ch c).raise_eq_withRaised c code
  have hraised : ((s.ch c).withRaised evs rs).task? core.val slot = some k := ht
  change execPageWalk c core slot s = _
  simp only [execPageWalk, ht, hlist, State.walkList_one, h, State.kvFault, State.onCh, hraise, State.ch_setCh, hraised]
  exact if_neg (by simp [hwait, hwalk, hbehind])

theorem exec_pageWalk_miss (h : s.walkEntry c k e = (s, .miss)) :
    exec (.pageWalk c core slot) s = .next (s.setCh c ((s.ch c).walkEnds core.val slot .page)) := by
  change execPageWalk c core slot s = _
  simp only [execPageWalk, ht, hlist, State.walkList_one, h, State.onCh]
  exact if_neg (by simp [hwait, hwalk, hbehind])

theorem exec_pageWalk_late (h : s.walkEntry c k e = (s, .late)) :
    exec (.pageWalk c core slot) s = .next (s.setCh c ((s.ch c).walkEnds core.val slot .walk)) := by
  change execPageWalk c core slot s = _
  simp only [execPageWalk, ht, hlist, State.walkList_one, h, State.onCh]
  exact if_neg (by simp [hwait, hwalk, hbehind])

theorem exec_pageWalk_got {q : Channel} (h : s.walkEntry c k e = (s.setCh c q, .got)) :
    exec (.pageWalk c core slot) s = .next (s.setCh c (q.walkEnds k.core k.slot .none)) := by
  obtain ⟨hcore, hslot⟩ := Channel.task?_place ht
  change execPageWalk c core slot s = _
  simp only [execPageWalk, ht, hlist, State.walkList_one, h, State.onCh, State.ch_setCh, State.setCh_setCh, hcore, hslot]
  exact if_neg (by simp [hwait, hwalk, hbehind])

/-- A walk that pins the frame of its page: the frame has one pin more, the page is used in this beat, and the task's walk has ended. -/
theorem exec_pageWalk_pins {d : PageDesc} {l : List WriteDecl} (hframe : d.frame = ((s.ch c).pte e.region.toNat e.page.toNat).frame)
    (hfull : (s.ch c).pinFull ((s.ch c).pte e.region.toNat e.page.toNat).frame.toNat = false)
    (h : s.walkEntry c k e = (s.setCh c ((((s.ch c).emitDesc k d).used e.region.toNat e.page.toNat).withWrites l), .got)) :
    ∃ t, exec (.pageWalk c core slot) s = .next t ∧
      ((t.ch c).hbmFrame ((s.ch c).pte e.region.toNat e.page.toNat).frame.toNat).pins =
        ((s.ch c).hbmFrame ((s.ch c).pte e.region.toNat e.page.toNat).frame.toNat).pins + 1 ∧
      (t.ch c).pte e.region.toNat e.page.toNat = { (s.ch c).pte e.region.toNat e.page.toNat with lastUse := (s.ch c).beat16 } ∧
      (t.ch c).sql.writes = l ∧ (t.ch c).mem = (s.ch c).mem ∧ (t.ch c).events = (s.ch c).events ∧
      (∀ n ≠ ((s.ch c).pte e.region.toNat e.page.toNat).frame.toNat, ((t.ch c).hbmFrame n).pins = ((s.ch c).hbmFrame n).pins) ∧
      (s.ch c).otherTasks core.val slot (t.ch c) ∧ onlyChannel c s t := by
  obtain ⟨hcore, hslot⟩ := Channel.task?_place ht
  obtain ⟨j, hj, hpin, hothers, hpte, hwrites, hmem, hevents, htasks⟩ :=
    ((s.ch c).emitDesc_pins k d).walked e.region.toNat (p := e.page.toNat) l .none
  rw [hframe] at hpin hothers
  rw [adjust_one (Channel.pins_ne_of_pinFull hfull)] at hpin
  rw [hcore, hslot] at htasks
  refine ⟨s.setCh c j, ?_, ?_⟩
  · rw [exec_pageWalk_got ht hwait hwalk hbehind hlist h, hj]
  · rw [onlyChannel, State.ch_setCh]
    exact ⟨hpin, hpte, hwrites, hmem, hevents, hothers, htasks, rfl⟩

end

/-- Settles O27: each outcome of the entry's walk is one case, and a taken pin changes only its frame's PINS, the page's LAST_USE and the task. -/
theorem pageWalkPinsOrWaits : Obligations.PageWalkPinsOrWaits := by
  unfold Obligations.PageWalkPinsOrWaits
  intro c core slot k e s
  dsimp only
  intro ht
  obtain ⟨hcore, hslot⟩ := Channel.task?_place ht
  refine ⟨exec_pageWalk_idle ht, fun hwait hwalk hbehind hlist => ⟨fun h hxfers => ?_, fun h hlost hxfers => ?_, ?_, ?_⟩⟩
  · exact faultsTask_of_kvFault (exec_pageWalk_bad ht hwait hwalk hbehind hlist (State.walkEntry_unknown h)) ht hxfers
  · exact faultsTask_of_kvFault (exec_pageWalk_bad ht hwait hwalk hbehind hlist (State.walkEntry_lost h.1 h.2 hlost)) ht hxfers
  · intro h hlost hread hheld hjoin
    have hentry : s.walkEntry c k e = s.walkRead c k e := by
      rw [State.walkEntry_known h.1 h.2 hlost, hread, if_neg Bool.false_ne_true]
    refine ⟨fun hvalid => ?_, fun hvalid hcxl hremote hfull => ?_, fun pool hvalid hcxl hremote hfull hpool hp => ?_⟩
    · exact exec_pageWalk_miss ht hwait hwalk hbehind hlist (hentry.trans (State.walkRead_invalid hheld hjoin hvalid))
    · exact exec_pageWalk_late ht hwait hwalk hbehind hlist (hentry.trans (State.walkRead_full hheld hjoin hvalid hcxl hremote hfull))
    · obtain ⟨t, hexec, hpin, hpte, -, hrest⟩ := exec_pageWalk_pins ht hwait hwalk hbehind hlist ((s.ch c).readDesc_frame k e pool) hfull
        (hentry.trans (State.walkRead_pins hheld hjoin hvalid hcxl hremote hfull hpool))
      exact ⟨t, hexec, hpin, hpte, hrest⟩
  · intro pool h hlost hwrite hwrites hvalid htier hfull hpool hp
    have hentry : s.walkEntry c k e = s.walkWrite c k e := by
      rw [State.walkEntry_known h.1 h.2 hlost, if_pos hwrite]
    obtain ⟨t, hexec, hpin, hpte, hdecl, hrest⟩ := exec_pageWalk_pins ht hwait hwalk hbehind hlist ((s.ch c).writeDesc_frame k e pool) hfull
      (hentry.trans (State.walkWrite_pins hwrites hvalid htier hfull hpool))
    exact ⟨t, _, hexec, hpin, hpte, hdecl, rfl, rfl, rfl, rfl, rfl, rfl, rfl, hrest⟩

end Sys2Proof.Machine
end

section
/-! PROOFS. The fill of a key-block slot, and the first write of a page under copy on write (R172, R180, R181, R186). -/

namespace Sys2Proof.Machine

/-! ### Writes of a page's planes into core SRAM (R172) -/

/-- The planes of a page, by offset in their slot, are written to core SRAM from `base`. -/
def Channel.putPlanes (ch : Channel) (p base : Nat) (l : List (Nat × List Byte)) : Channel :=
  l.foldl (fun x e => x.sramWrite p (base + e.1) e.2) ch

section

variable (ch : Channel) (p base : Nat) (l : List (Nat × List Byte))

theorem Channel.putPlanes_eq : ∃ m po er, ch.putPlanes p base l = { ch with mem := { ch.mem with sram := m, sramPoison := po, sramErr := er } } := by
  induction l generalizing ch with
  | nil => exact ⟨_, _, _, rfl⟩
  | cons e r ih =>
    obtain ⟨m, po, er, h⟩ := ih (ch.sramWrite p (base + e.1) e.2)
    exact ⟨m, po, er, h⟩

theorem Channel.putPlanes_outside {i : Nat} (h : ∀ e ∈ l, i < sramAt p (base + e.1) ∨ sramAt p (base + e.1) + e.2.length ≤ i) :
    smGet 0 (ch.putPlanes p base l).mem.sram i = smGet 0 ch.mem.sram i := by
  induction l generalizing ch with
  | nil => rfl
  | cons e r ih =>
    exact (ih (ch.sramWrite p (base + e.1) e.2) fun x hx => h x (List.mem_cons_of_mem _ hx)).trans
      (ch.sramWrite_outside p _ e.2 (h e List.mem_cons_self))

/-- Without poison the writes are plain stores. -/
theorem Channel.putPlanes_sram (hp : ch.mem.sramPoison = []) :
    (ch.putPlanes p base l).mem.sram = smStores ch.mem.sram (l.map fun e => (sramAt p (base + e.1), e.2)) := by
  induction l generalizing ch with
  | nil => rfl
  | cons e r ih =>
    have hclean : (ch.sramWrite p (base + e.1) e.2).mem.sramPoison = [] := by simp [Channel.sramWrite, uncovered, hp]
    have hsram : (ch.sramWrite p (base + e.1) e.2).mem.sram = smSetAll 0 ch.mem.sram (sramAt p (base + e.1)) e.2 := by
      simp [Channel.sramWrite, hp, writeUnder_clean]
    refine (ih (ch.sramWrite p (base + e.1) e.2) hclean).trans ?_
    rw [hsram]
    rfl

theorem Channel.putPlanes_reads (hp : ch.mem.sramPoison = []) (hapart : disjointStores l) :
    ∀ e ∈ l, (ch.putPlanes p base l).sramBytes p (base + e.1) e.2.length = e.2 := by
  have hplaces : (l.map fun e => (sramAt p (base + e.1), e.2)).Pairwise fun x y => x.1 + x.2.length ≤ y.1 ∨ y.1 + y.2.length ≤ x.1 := by
    refine List.pairwise_map.mpr (hapart.imp fun h => ?_)
    simp only [sramAt]
    omega
  intro e he
  rw [Channel.sramBytes, ch.putPlanes_sram p base l hp]
  exact smGetAll_smStores _ _ hplaces _ (List.mem_map_of_mem he)

end

/-! ### The fill of a slot -/

/-- A slot of `k`'s core and number is filled. -/
def KvSlot.fillsAs (k x : KvSlot) : KvSlot := if x.core = k.core ∧ x.slot = k.slot then { x with filled := true } else x

theorem KvSlot.filled_of_fillsAs {k : KvSlot} {l : List KvSlot} : ∀ x ∈ l.map k.fillsAs, x.core = k.core → x.slot = k.slot → x.filled = true := by
  intro x hx
  obtain ⟨y, -, rfl⟩ := List.mem_map.mp hx
  unfold KvSlot.fillsAs
  split
  · exact fun _ _ => rfl
  · next h => exact fun hcore hslot => absurd ⟨hcore, hslot⟩ h

theorem Channel.foldl_pagesReady (ch : Channel) (core : Nat) (l : List Nat) :
    ∃ tasks, l.foldl (fun x u => x.pagesReady core u) ch = ch.withTasks tasks := by
  induction l generalizing ch with
  | nil => exact ⟨ch.tsk.tasks, rfl⟩
  | cons u r ih =>
    obtain ⟨tasks, hready, -⟩ := ch.pagesReady_eq core u
    obtain ⟨tasks', h⟩ := ih (ch.pagesReady core u)
    exact ⟨tasks', h.trans (by rw [hready]; rfl)⟩

/-- What is written when a slot's pages are in place: the slot is filled, and the tasks that wait for nothing else are ready. -/
def Channel.slotFilled (ch : Channel) (k : KvSlot) : Channel :=
  k.users.foldl (fun x u => x.pagesReady k.core u) { ch with sql := { ch.sql with slots := ch.sql.slots.map k.fillsAs } }

section

variable {s : State} {c : ChanId} {core : LCore} {slot : Nat} {k : KvSlot}

theorem exec_slotFill_absent (h : ((s.ch c).sql.slots.find? fun x => x.core == core.val && x.slot == slot) = none) :
    exec (.slotFill c core slot) s = .next s := by
  change execSlotFill c core slot s = _
  simp only [execSlotFill, h]

variable (hfound : ((s.ch c).sql.slots.find? fun x => x.core == core.val && x.slot == slot) = some k)
include hfound

theorem exec_slotFill_filled (h : k.filled = true) : exec (.slotFill c core slot) s = .next s := by
  change execSlotFill c core slot s = _
  simp only [execSlotFill, hfound, h, if_true]

theorem exec_slotFill_fills (h : k.filled = false) : exec (.slotFill c core slot) s = .next (s.fillSlot c k) := by
  change execSlotFill c core slot s = _
  simp only [execSlotFill, hfound, h, Bool.false_eq_true, if_false]

end

section

variable {s : State} {c : ChanId} {k : KvSlot}

/-- A slot whose frames have been reused, and that no task uses any more. -/
theorem State.fillSlot_stale (hstale : (k.descs.any fun d => d.epoch != ((s.ch c).hbmFrame d.frame.toNat).epoch) = true)
    (husers : ((s.ch c).tsk.tasks.filter fun t => t.core == k.core && k.users.contains t.slot) = []) :
    s.fillSlot c k = s.setCh c ({ s.ch c with sql := { (s.ch c).sql with stale := true } }.raise c 0x5004) := by
  unfold State.fillSlot
  dsimp only
  rw [if_pos hstale, husers]
  rfl

theorem State.fillPage_clean {t : Task} {d : PageDesc} {p : Pool} {pl : Planes} (hpool : (s.ch c).pool? d.pool.toNat = some p)
    (hplanes : (s.ch c).planesOf t d.region.toNat p = some pl) (hpoison : (s.ch c).mem.hbmPoison = []) (herr : (s.ch c).mem.hbmErr = []) :
    s.fillPage c k (some t) d = (s.setCh c ((s.ch c).putPlanes ((s.ch c).pcore k.core) ((s.ch c).slotBase k.core k.slot pl)
      (pageToSlot pl (d.slot.toNat % 4) (fmtElemBits (d.fmt.toNat % 16)) (fmtElemBits (d.fmt.toNat / 16))
        ((s.ch c).hbmBytes d.frameAddr.toNat pl.pageBytes))), true) := by
  unfold State.fillPage
  simp only [hpool, Option.bind_eq_bind, Option.bind_some, hplanes, State.checkHbm_clean _ _ hpoison herr]
  rfl

/-- A slot of one page of current frames. -/
theorem State.fillSlot_one {t : Task} {d : PageDesc} {q : Channel} (hdescs : k.descs = [d])
    (hfresh : (k.descs.any fun d => d.epoch != ((s.ch c).hbmFrame d.frame.toNat).epoch) = false)
    (huser : ((s.ch c).tsk.tasks.filter fun t => t.core == k.core && k.users.contains t.slot).head? = some t)
    (hpage : s.fillPage c k (some t) d = (s.setCh c q, true)) : s.fillSlot c k = s.setCh c (q.slotFilled k) := by
  unfold State.fillSlot
  dsimp only
  rw [hfresh, huser, hdescs]
  simp only [Bool.false_eq_true, if_false, List.foldl_cons, List.foldl_nil, hpage, Bool.and_self, Bool.not_true, State.onCh, State.ch_setCh,
    State.setCh_setCh]
  rfl

end

/-! ### Copy on write (R180, R181) -/

theorem Channel.hbmWrite_noErr {ch : Channel} (a : Nat) (l : List Byte) (hp : ch.mem.hbmPoison = []) (he : ch.mem.hbmErr = []) :
    ch.hbmWrite a l = { ch with mem := { ch.mem with hbm := smSetAll 0 ch.mem.hbm a l } } := by
  simp [Channel.hbmWrite, hp, he, writeUnder_clean, uncovered]

/-- A declaration under which the task's first write to a page copies the page. -/
def Channel.copyDecl (ch : Channel) (t : Task) (region page : Nat) : Option WriteDecl :=
  ch.sql.writes.find? fun w => declOf t w && w.region == region && w.page == page && w.source.isSome && !w.copied

/-- The page has been copied under declaration `w`. -/
def WriteDecl.copiesAs (w x : WriteDecl) : WriteDecl := if x = w then { x with copied := true } else x

section

variable {s : State} {c : ChanId} {core : LCore} {slot region page : Nat} {k : Task} (ht : (s.ch c).task? core.val slot = some k)
include ht

theorem exec_cowFirstWrite_none (h : (s.ch c).copyDecl k region page = none) : exec (.cowFirstWrite c core slot region page) s = .next s := by
  unfold Channel.copyDecl at h
  change execCowFirstWrite c core slot region page s = _
  simp only [execCowFirstWrite, ht, h]

theorem exec_cowFirstWrite_copies {w : WriteDecl} {src : Nat} {sp tp : Pool} (hdecl : (s.ch c).copyDecl k region page = some w)
    (hsource : w.source = some src) (hsp : (s.ch c).poolOf true src = some sp) (htp : (s.ch c).poolOf true w.frame = some tp)
    (hpoison : (s.ch c).mem.hbmPoison = []) (herr : (s.ch c).mem.hbmErr = []) :
    exec (.cowFirstWrite c core slot region page) s = .next (s.setCh c { s.ch c with
      mem := { (s.ch c).mem with
        hbm := smSetAll 0 (s.ch c).mem.hbm (tp.frameAddr w.frame)
          ((s.ch c).hbmBytes (sp.frameAddr src) (min sp.frameKib.toNat tp.frameKib.toNat * 1024)) }
      sql := { (s.ch c).sql with writes := (s.ch c).sql.writes.map w.copiesAs, cow := satAdd (s.ch c).sql.cow 1 }
      tsk := ((s.ch c).commit (some (core, slot))).tsk }) := by
  unfold Channel.copyDecl at hdecl
  change execCowFirstWrite c core slot region page s = _
  simp only [execCowFirstWrite, ht, hdecl, hsource, Option.getD_some, hsp, htp, State.checkHbm_clean _ _ hpoison herr, Bool.not_true,
    Bool.false_eq_true, if_false, State.onCh, Channel.hbmWrite_noErr _ _ hpoison herr]
  rfl

end

/-! ### The statement -/

/-- A filled slot: its tasks and its FILLED flag are all that changes besides the written planes. -/
theorem Channel.slotFilled_eq (ch : Channel) (k : KvSlot) : ∃ tasks, ch.slotFilled k =
    { ch with sql := { ch.sql with slots := ch.sql.slots.map k.fillsAs }, tsk := { ch.tsk with tasks := tasks } } :=
  Channel.foldl_pagesReady _ k.core k.users

/-- Settles O28: a fill is a fold of SRAM writes into clean memory, and the first write under copy on write one HBM write that commits its task. -/
theorem slotFillAndCowCopyFrames : Obligations.SlotFillAndCowCopyFrames := by
  unfold Obligations.SlotFillAndCowCopyFrames
  refine ⟨fun c core slot k d s => ?_, fun c core slot region page src k s => ?_⟩ <;> dsimp only
  · refine ⟨exec_slotFill_absent, exec_slotFill_filled, fun hfound hfilled hstale husers => ?_, ?_⟩
    · rw [exec_slotFill_fills hfound hfilled, State.fillSlot_stale hstale husers]
    · intro t0 p pl hfound hfilled hdescs hfresh huser hpool hplanes hpoison herr
      have hpage := State.fillPage_clean (k := k) hpool hplanes hpoison herr
      generalize pageToSlot pl _ _ _ _ = put at hpage ⊢
      generalize (s.ch c).slotBase k.core k.slot pl = base at hpage ⊢
      obtain ⟨m, po, er, hput⟩ := (s.ch c).putPlanes_eq ((s.ch c).pcore k.core) base put
      obtain ⟨tasks, hdone⟩ := Channel.slotFilled_eq ((s.ch c).putPlanes ((s.ch c).pcore k.core) base put) k
      refine ⟨_, by rw [exec_slotFill_fills hfound hfilled, State.fillSlot_one hdescs hfresh huser hpage, hdone], ?_⟩
      rw [onlyChannel, State.ch_setCh]
      refine ⟨fun x hx => (s.ch c).putPlanes_outside _ _ _ hx, fun hclean hapart => (s.ch c).putPlanes_reads _ _ _ hclean hapart, ?_⟩
      rw [hput]
      exact ⟨KvSlot.filled_of_fillsAs, rfl, rfl, rfl, rfl, rfl⟩
  · intro ht
    refine ⟨exec_cowFirstWrite_none ht, fun w sp tp hdecl hsource hsp htp hpoison herr => ?_⟩
    have hlen : ((s.ch c).hbmBytes (sp.frameAddr src) (min sp.frameKib.toNat tp.frameKib.toNat * 1024)).length =
      min sp.frameKib.toNat tp.frameKib.toNat * 1024 := smGetAll_length ..
    refine ⟨_, exec_cowFirstWrite_copies ht hdecl hsource hsp htp hpoison herr, ?_⟩
    rw [State.ch_setCh]
    refine ⟨?_, fun x hx => ?_, rfl, rfl, rfl⟩
    · have hread := smGetAll_smSetAll 0 (s.ch c).mem.hbm (tp.frameAddr w.frame)
        ((s.ch c).hbmBytes (sp.frameAddr src) (min sp.frameKib.toNat tp.frameKib.toNat * 1024))
      rw [hlen] at hread
      exact hread
    · exact smGet_smSetAll_outside 0 _ _ _ _ (by rw [hlen]; exact hx)

end Sys2Proof.Machine
end

section
/-! PROOFS. The end of a step by its commit word or by abandonment, and writes of UPD_LRn (R205, R207, R208, R218, R238). -/

namespace Sys2Proof.Machine

/-! ### Tables written key by key -/

/-- A run over the keys below `n` that changes each in its turn changes each once, and no other. -/
theorem smGet_foldl_smMod {α : Type} [DecidableEq α] (d : α) (f : Nat → α → α) (m : SMap α) (n i : Nat) :
    smGet d ((List.range n).foldl (fun r j => smMod d r j (f j)) m) i = if i < n then f i (smGet d m i) else smGet d m i := by
  induction n with
  | zero => rfl
  | succ n ih =>
    rw [List.range_succ, List.foldl_append, List.foldl_cons, List.foldl_nil]
    rcases eq_or_ne i n with rfl | hne
    · rw [smGet_smMod_same, ih, if_neg (lt_irrefl i), if_pos (Nat.lt_succ_self i)]
    · rw [smGet_smMod_other _ _ _ hne, ih]
      exact if_congr (by omega) rfl rfl

/-! ### Events -/

/-- An event raised in a channel that another's state, beat and events stand in is recorded as in that other. -/
theorem Channel.raise_as {ch k : Channel} (c : ChanId) (code : Nat) (hstate : k.chn.state = ch.chn.state) (hbeat : k.beat = ch.beat)
    (hevents : k.events = ch.events) : k.raise c code = k.withRaised (ch.raise c code).events (ch.raise c code).beat.raised := by
  obtain ⟨hsame, hraised⟩ := Channel.raise_congr ch k c code none 0 hstate hbeat hevents
  rw [← hsame, ← hraised]
  exact k.raise_shape c code none 0

/-! ### UPD_LRn (R208, R218) -/

theorem regAt_updLr (g : Fin 64) : ∃ r, regAt (0x130100 + 8 * g.val) = some r ∧
    ∀ s c w v, r.write s c w v = s.setCh c ((s.ch c).writeLr g.val v) := by
  have hword : (0x130100 + 8 * g.val) % 8 = 0 := by omega
  have hblock : (0x130100 + 8 * g.val) / 0x10000 = 0x13 := by omega
  have hoff : (0x130100 + 8 * g.val) % 0x10000 = 0x100 + 8 * g.val := by omega
  have hgroup : (0x100 + 8 * g.val - 0x100) / 8 = g.val := by omega
  have hreg : regAt (0x130100 + 8 * g.val) = updReg (0x100 + 8 * g.val) := by
    rw [regAt, if_pos hword, hblock, hoff]
    rfl
  have hrange : 0x100 ≤ 0x100 + 8 * g.val ∧ 0x100 + 8 * g.val < 0x300 := by omega
  rw [hreg, updReg]
  iterate 7 rw [if_neg (by omega)]
  rw [if_pos hrange, hgroup]
  exact ⟨_, rfl, fun _ _ _ _ => rfl⟩

theorem exec_updLrWrite_firmware {s : State} {c : ChanId} (g : Fin 64) (v : U64) (h : fwReady s c) :
    regWrites (.updLrWrite c .firmware g v) c s (s.setCh c ((s.ch c).writeLr g.val v)) := by
  obtain ⟨r, hreg, hwrite⟩ := regAt_updLr g
  have hbox : ∀ n : Fin 64, inMailbox (0x130100 + 8 * n.val) 8 = false := by decide
  have hcode : csrCode (0x130100 + 8 * g.val) 8 = .ok := by
    rw [csrCode_aligned (by omega) (by decide) le_rfl, hreg]
    rfl
  rw [← hwrite s c .firmware v]
  exact congrArg _ (State.writeReg_firmware s c _ v r h (hbox g) hcode hreg)

/-! ### The commit word (R207, R238) -/

/-- A channel whose step has ended committed: every group has advanced, and a re-shard that waited for the end is asked for. -/
def Channel.stepEnded (ch : Channel) (step : U32) : Channel :=
  { ch with
    upd := { ch.upd with
      inStep := false, lastCommit := step, pending := none
      tState := (List.range ch.updGroups.length).foldl (fun (m : SMap U32) n => smMod 0 m n fun t => satAdd t 1) ch.upd.tState }
    gxc := { ch.gxc with
      last := step, retained := []
      requested := match ch.gxc.queued with
        | some l => some l
        | none => ch.gxc.requested } }

theorem Channel.tState_stepEnded (ch : Channel) (step : U32) (n : Nat) :
    (ch.stepEnded step).tState n = if n < ch.updGroups.length then satAdd (ch.tState n) 1 else ch.tState n :=
  smGet_foldl_smMod 0 (fun _ t => satAdd t 1) ch.upd.tState ch.updGroups.length n

section

variable {ch : Channel} {step : U32}

theorem Channel.commitStep_other (c : ChanId) (h : ch.upd.inStep = false ∨ ch.upd.sJob ≠ step) : ch.commitStep c step = ch :=
  if_pos (by simpa using h)

/-- The commit of the step in progress: the pending one, where there is one, is accepted next (R205). -/
theorem Channel.commitStep_inStep (c : ChanId) (hin : ch.upd.inStep = true) (hjob : ch.upd.sJob = step) : ch.commitStep c step =
    ch.upd.pending.elim ((ch.stepEnded step).raise c 0x600B) (((ch.stepEnded step).raise c 0x600B).acceptStep c) := by
  rw [Channel.commitStep, if_neg (by simp [hin, hjob])]
  cases ch.upd.pending <;> rfl

/-- Abandonment ends the step and a pending one, and asks for a re-shard that waited for the end (R242). -/
theorem Channel.abandonStep_eq (ch : Channel) (c : ChanId) : ∃ requested, ch.abandonStep c =
    { ch with
      upd := { ch.upd with inStep := false, pending := none }
      gxc := { ch.gxc with abandoned := true, requested := requested } }.withRaised (ch.raise c 0x600C).events (ch.raise c 0x600C).beat.raised :=
  ⟨_, Channel.raise_as (ch := ch) c 0x600C rfl rfl rfl⟩

end

/-! ### The commands -/

section

variable {s : State} {c : ChanId} {step : U32}

theorem exec_commitWordSignal (o : Origin) (s : State) :
    exec (.commitWordSignal c o step) s = .next (s.setCh c ((s.ch c).commitStep c step)) := rfl

theorem exec_abandonBroadcast_other (h : (s.ch c).upd.inStep = false ∨ (s.ch c).upd.sJob ≠ step) :
    exec (.abandonBroadcast c step) s = .next s :=
  if_neg (by simpa [imp_iff_not_or] using h)

theorem exec_abandonBroadcast_inStep (hin : (s.ch c).upd.inStep = true) (hjob : (s.ch c).upd.sJob = step) :
    exec (.abandonBroadcast c step) s = .next (s.setCh c { (s.ch c).abandonStep c with
      gxc := { ((s.ch c).abandonStep c).gxc with failCount := 0, okCount := 0 } }) :=
  if_pos (by simp [hin, hjob])

end

/-- Settles O33: the write of UPD_LRn, and the commit or abandonment of the step in progress and of another. -/
theorem stepsCommitOrAbandon : Obligations.StepsCommitOrAbandon := by
  unfold Obligations.StepsCommitOrAbandon
  intro c o g v step s
  dsimp only
  refine ⟨fun hready => ?_, fun hother => ⟨?_, exec_abandonBroadcast_other hother⟩, fun hin hjob => ?_, fun hin hjob => ?_⟩
  · refine ⟨_, exec_updLrWrite_firmware g v hready, ?_⟩
    rw [State.ch_setCh]
    exact ⟨smGet_smSet_same .., smGet_smSet_same false (s.ch c).upd.fresh g.val true,
      fun n hn => ⟨smGet_smSet_other 0 _ _ hn, smGet_smSet_other false (s.ch c).upd.fresh true hn⟩, rfl⟩
  · rw [exec_commitWordSignal, Channel.commitStep_other c hother, State.setCh_ch]
  · have hraise := Channel.raise_as (ch := s.ch c) (k := (s.ch c).stepEnded step) c 0x600B rfl rfl rfl
    refine ⟨((s.ch c).stepEnded step).raise c 0x600B, ?_, ?_⟩
    · rw [exec_commitWordSignal, Channel.commitStep_inStep c hin hjob]
      cases (s.ch c).upd.pending <;> rfl
    · rw [hraise]
      refine ⟨rfl, rfl, rfl, rfl, rfl, fun n hn => ?_, fun n hn => ?_, rfl, rfl⟩
      · exact ((s.ch c).tState_stepEnded step n).trans (if_pos hn)
      · exact ((s.ch c).tState_stepEnded step n).trans (if_neg (by omega))
  · obtain ⟨_, habandon⟩ := (s.ch c).abandonStep_eq c
    refine ⟨_, exec_abandonBroadcast_inStep hin hjob, ?_⟩
    rw [State.ch_setCh, habandon]
    exact ⟨rfl, rfl, rfl, rfl, rfl⟩

end Sys2Proof.Machine
end

section
/-! PROOFS. The commands of a ring: NOP, the key-value commands, and STEP with the acceptance of a step descriptor (R205, R206, R385, R386). -/

namespace Sys2Proof.Machine

/-! ### What a step is accepted over (R205, R237)

A RESTART first discards the look-ahead tasks; that reaches tasks and memories, and none of what follows. -/

/-- What the acceptance of a step depends on but for the beat: the update's and the exchange's state, and the loaded stream. -/
def Channel.stepPart (ch : Channel) : Upd × Gxc × Pss := (ch.upd, ch.gxc, ch.pss)

theorem State.onCh_stepPart (s : State) (c : ChanId) (f : Channel → Channel) (h : ∀ k, (f k).stepPart = k.stepPart) :
    ((s.onCh c f).ch c).stepPart = (s.ch c).stepPart := by
  rw [State.ch_onCh]
  exact h _

theorem foldl_stepPart {β : Type} (c : ChanId) (f : State → β → State) (h : ∀ s b, ((f s b).ch c).stepPart = (s.ch c).stepPart) (l : List β)
    (s : State) : ((l.foldl f s).ch c).stepPart = (s.ch c).stepPart :=
  List.foldlRecOn l f (motive := fun t => (t.ch c).stepPart = (s.ch c).stepPart) rfl fun t ht b _ => (h t b).trans ht

theorem foldl_sramWrite_stepPart {β : Type} (p : Nat) (a : β → Nat) (b : β → List Byte) (l : List β) (ch : Channel) :
    (l.foldl (fun k e => k.sramWrite p (a e) (b e)) ch).stepPart = ch.stepPart :=
  List.foldlRecOn l _ (motive := fun k : Channel => k.stepPart = ch.stepPart) rfl fun _ hk _ _ => hk

theorem Channel.raise_stepPart (ch : Channel) (c : ChanId) (code : Nat) : (ch.raise c code).stepPart = ch.stepPart := by
  rw [ch.raise_shape]
  rfl

theorem Channel.fxFlags_stepPart (ch : Channel) (c : ChanId) (ovf ufl : Bool) : (ch.fxFlags c ovf ufl).stepPart = ch.stepPart := by
  have hovf (k : Channel) (h : k.stepPart = ch.stepPart) : (if ovf && !ch.arr.fxOvf then k.raise c 0x1003 else k).stepPart = ch.stepPart :=
    ite_ind (fun k : Channel => k.stepPart = ch.stepPart) ((k.raise_stepPart c _).trans h) h
  exact ite_ind (fun k : Channel => k.stepPart = ch.stepPart) ((Channel.raise_stepPart _ c _).trans (hovf _ rfl)) (hovf _ rfl)

theorem State.scrambleAt_stepPart (s : State) (c : ChanId) (a n : Nat) : ((s.scrambleAt c a n).ch c).stepPart = (s.ch c).stepPart := by
  unfold State.scrambleAt
  dsimp only
  (repeat' split) <;> simp only [State.tookFree_ch, State.ch_onCh] <;> rfl

theorem State.scrambleSram_stepPart (s : State) (c : ChanId) (l : List (Nat × Nat)) :
    ((s.scrambleSram c l).ch c).stepPart = (s.ch c).stepPart := by
  refine foldl_stepPart c _ (fun t e => ?_) l s
  rw [State.tookFree_ch, State.onCh_stepPart]
  exact fun _ => rfl

theorem State.stopXfers_stepPart (s : State) (c : ChanId) (t : Task) : ((s.stopXfers c t).ch c).stepPart = (s.ch c).stepPart := by
  unfold State.stopXfers
  exact (foldl_stepPart c _ (fun r _ => r.scrambleAt_stepPart c _ _) _ _).trans (s.onCh_stepPart c _ fun _ => rfl)

theorem State.cutTile_stepPart (s : State) (c : ChanId) (t : Task) : ((s.cutTile c t).ch c).stepPart = (s.ch c).stepPart := by
  unfold State.cutTile
  dsimp only
  split
  · rfl
  · split
    · rfl
    · rw [State.tookFree_ch, State.ch_onCh, Channel.fxFlags_stepPart, foldl_sramWrite_stepPart]

theorem Channel.giveUp_stepPart (ch : Channel) (t : Task) : (ch.giveUp t).stepPart = ch.stepPart := by
  obtain ⟨_, _, hgive⟩ := ch.giveUp_eq t
  rw [hgive]
  rfl

theorem Channel.dropSample_stepPart (ch : Channel) (id : Option Nat) : (ch.dropSample id).stepPart = ch.stepPart := by
  obtain ⟨_, hdrop⟩ := ch.dropSample_eq id
  rw [hdrop]
  rfl

theorem State.abortTask_stepPart (s : State) (c : ChanId) (t : Task) (overruns : Nat) :
    ((s.abortTask c t overruns).ch c).stepPart = (s.ch c).stepPart := by
  unfold State.abortTask
  dsimp only
  rw [State.onCh_stepPart, foldl_stepPart c _ fun r _ => r.scrambleAt_stepPart c _ _, State.cutTile_stepPart, State.scrambleSram_stepPart,
    State.stopXfers_stepPart]
  exact fun k => (Channel.dropSample_stepPart _ t.sample).trans (k.giveUp_stepPart t)

theorem State.discardAhead_stepPart (s : State) (c : ChanId) : ((s.discardAhead c).ch c).stepPart = (s.ch c).stepPart := by
  unfold State.discardAhead
  dsimp only
  rw [State.onCh_stepPart, foldl_stepPart c _ fun r _ => r.scrambleAt_stepPart c _ _, State.scrambleSram_stepPart,
    foldl_stepPart c _ fun r _ => r.abortTask_stepPart c _ _]
  exact fun _ => rfl

/-! ### Acceptance (R205, R206, R208, R241) -/

/-- A channel that a step descriptor has just become the step in progress of, before the checks of R206, R208 and R241. -/
def Channel.begunStep (ch : Channel) (c : ChanId) (d : StepDesc) : Channel :=
  { ch with
    upd := { ch.upd with
      inStep := true, sJob := d.sJob, pending := none, schedNow := ch.upd.sched
      latched := (List.range ch.updGroups.length).foldl (fun (m : SMap U32) n => smSet 0 m n (ch.stepSize ch.upd.sched d.sJob.toNat n)) []
      actGone := if d.restart then [] else ch.upd.actGone
      tState := if d.restart then ch.restoredCounters c else ch.upd.tState
      barred := d.epoch != ch.gxc.epoch, aheadSram := [], aheadWrote := [], staged := [] }
    beat := { ch.beat with raisedStep := [] }
    gxc := { ch.gxc with
      actDeadline := ch.gxc.deadline, actCheckEn := ch.gxc.checkEn, actCheckLog2 := ch.gxc.checkLog2
      actLate := ch.gxc.late, buckets := [], lows := [], failFlag := false, flaggedStep := false
      retained := if d.restart then [] else ch.gxc.retained } }

theorem Channel.skewed_congr {ch k : Channel} (sJob : Nat) (hpss : k.pss = ch.pss) (hcounters : k.upd.tState = ch.upd.tState) :
    k.skewed sJob = ch.skewed sJob := by
  simp only [Channel.skewed, Channel.updGroups, Channel.tState, hpss, hcounters]

theorem Channel.checkSkew_even {ch : Channel} {sJob : U32} (c : ChanId) (h : ch.skewed sJob.toNat = []) : ch.checkSkew c sJob = ch := by
  rw [Channel.checkSkew, h]

theorem Channel.checkFresh_table {ch : Channel} (c : ChanId) (h : ch.upd.sched = true) : ch.checkFresh c = ch :=
  if_neg (by simp [h])

/-- Under the TABLE schedule a step of this epoch without skew is accepted without an event. -/
theorem Channel.acceptStep_even {ch : Channel} {c : ChanId} {d : StepDesc} (hskew : (ch.begunStep c d).skewed d.sJob.toNat = [])
    (hsched : ch.upd.sched = true) (hepoch : d.epoch = ch.gxc.epoch) :
    ch.acceptStep c d = { ch.begunStep c d with upd := { (ch.begunStep c d).upd with fresh := [] } } := by
  have hchecks : ((ch.begunStep c d).checkSkew c d.sJob).checkFresh c = ch.begunStep c d := by
    rw [Channel.checkSkew_even c hskew, Channel.checkFresh_table (ch := ch.begunStep c d) c hsched]
  unfold Channel.begunStep at hchecks ⊢
  unfold Channel.acceptStep
  dsimp only at hchecks ⊢
  rw [hchecks]
  exact if_pos hepoch

/-- The counters that a step begins with: those of a checkpoint after a RESTART, or those that stand. -/
theorem Channel.counters_begunStep {ch k : Channel} (c : ChanId) (d : StepDesc) (hupd : k.upd = ch.upd) :
    (k.begunStep c d).upd.tState = if d.restart then k.restoredCounters c else ch.upd.tState :=
  congrArg (fun u : Upd => if d.restart then k.restoredCounters c else u.tState) hupd

theorem Channel.skewed_begunStep {ch k : Channel} (c : ChanId) (d : StepDesc) (sJob : Nat) (hupd : k.upd = ch.upd) (hpss : k.pss = ch.pss) :
    (k.begunStep c d).skewed sJob = Channel.skewed
      { ch with upd := { ch.upd with tState := if d.restart then k.restoredCounters c else ch.upd.tState } } sJob :=
  Channel.skewed_congr (k := k.begunStep c d) sJob hpss (Channel.counters_begunStep c d hupd)

theorem Channel.stepSize_table {ch k : Channel} (sJob n : Nat) (hpss : k.pss = ch.pss) : k.stepSize true sJob n = ch.stepSize true sJob n := by
  simp only [Channel.stepSize, Channel.updGroups, hpss, if_true]

theorem Channel.latched_begunStep (ch : Channel) (c : ChanId) (d : StepDesc) {n : Nat} (h : n < ch.updGroups.length) :
    smGet 0 (ch.begunStep c d).upd.latched n = ch.stepSize ch.upd.sched d.sJob.toNat n :=
  (smGet_foldl_smMod 0 (fun j _ => ch.stepSize ch.upd.sched d.sJob.toNat j) [] ch.updGroups.length n).trans (if_pos h)

/-- What a step that is accepted latches and what it starts from, by the registers of `ch` as they stood before a RESTART made `k` of it. -/
theorem Channel.acceptStep_latches {ch k : Channel} {c : ChanId} {d : StepDesc} (hupd : k.upd = ch.upd) (hgxc : k.gxc = ch.gxc)
    (hpss : k.pss = ch.pss) (hsched : ch.upd.sched = true) (hepoch : d.epoch = ch.gxc.epoch)
    (hskew : Channel.skewed { ch with upd := { ch.upd with tState := if d.restart then k.restoredCounters c else ch.upd.tState } }
      d.sJob.toNat = []) :
    let a := k.acceptStep c d
    a.upd.inStep = true ∧ a.upd.sJob = d.sJob ∧
      (∀ n < ch.updGroups.length, smGet 0 a.upd.latched n = ch.stepSize true d.sJob.toNat n) ∧
      a.gxc.actDeadline = ch.gxc.deadline ∧ a.gxc.actCheckEn = ch.gxc.checkEn ∧ a.gxc.actLate = ch.gxc.late ∧ a.gxc.buckets = [] ∧
      a.gxc.retained = (if d.restart then [] else ch.gxc.retained) ∧
      a.upd.tState = (if d.restart then k.restoredCounters c else ch.upd.tState) ∧ a.upd.barred = false ∧
      a.upd.lastCommit = ch.upd.lastCommit ∧ a = { k with upd := a.upd, gxc := a.gxc, beat := a.beat } := by
  intro a
  have ha : a = { k.begunStep c d with upd := { (k.begunStep c d).upd with fresh := [] } } :=
    Channel.acceptStep_even ((Channel.skewed_begunStep c d _ hupd hpss).trans hskew) (by rw [hupd]; exact hsched) (by rw [hgxc]; exact hepoch)
  rw [ha]
  refine ⟨rfl, rfl, fun n hn => ?_, congrArg Gxc.deadline hgxc, congrArg Gxc.checkEn hgxc, congrArg Gxc.late hgxc, rfl,
    congrArg (fun q : Gxc => if d.restart then [] else q.retained) hgxc, Channel.counters_begunStep c d hupd,
    bne_eq_false_iff_eq.mpr (hepoch.trans (congrArg Gxc.epoch hgxc).symm), (congrArg Upd.lastCommit hupd :), rfl⟩
  have hlatched := k.latched_begunStep c d (n := n) (by rw [Channel.updGroups, hpss]; exact hn)
  rw [hupd, hsched, Channel.stepSize_table _ _ hpss] at hlatched
  exact hlatched

/-! ### The step descriptor (R205) -/

/-- The step descriptor in the body of a STEP (Table 10-5). -/
def stepDescOf (b : List Byte) : StepDesc where
  sJob := BitVec.ofNat 32 (natAt b 0 4)
  restart := natAt b 4 1 % 2 == 1
  epoch := BitVec.ofNat 16 (natAt b 6 2)

/-- The reserved bits of a STEP's body are 0. -/
def stepFormed (b : List Byte) : Bool := decide (natAt b 4 1 < 2) && isZero b 5 1 && isZero b 8 24

theorem stepFormed_iff (b : List Byte) : (stepFormed b && (stepDescOf b).sJob != 0) = true ↔
    natAt b 4 1 < 2 ∧ isZero b 5 1 = true ∧ isZero b 8 24 = true ∧ (stepDescOf b).sJob ≠ 0 := by
  simp only [stepFormed, Bool.and_eq_true, decide_eq_true_eq, bne_iff_ne, and_assoc]

/-- Where a descriptor is taken: a RESTART has discarded the look-ahead tasks (R237). -/
def State.beforeStep (s : State) (c : ChanId) (d : StepDesc) : State := if d.restart = true then s.discardAhead c else s

theorem State.beforeStep_keeps (s : State) (c : ChanId) (d : StepDesc) : ((s.beforeStep c d).ch c).upd = (s.ch c).upd ∧
    ((s.beforeStep c d).ch c).gxc = (s.ch c).gxc ∧ ((s.beforeStep c d).ch c).pss = (s.ch c).pss := by
  have hpart : ((s.beforeStep c d).ch c).stepPart = (s.ch c).stepPart :=
    ite_ind (fun t : State => (t.ch c).stepPart = (s.ch c).stepPart) (s.discardAhead_stepPart c) rfl
  simpa only [Channel.stepPart, Prod.mk.injEq] using hpart

section

variable {ch : Channel} {c : ChanId} {d : StepDesc} {wellFormed : Bool}

theorem Channel.stepDescriptor_accepts (hgood : (wellFormed && d.sJob != 0) = true) (hin : ch.upd.inStep = false)
    (hnext : d.restart = true ∨ d.sJob.toNat = ch.upd.lastCommit.toNat + 1) : ch.stepDescriptor c d wellFormed = (ch.acceptStep c d, true) := by
  unfold Channel.stepDescriptor
  dsimp only
  rw [hgood, if_pos (by simp [hin, hnext])]

theorem Channel.stepDescriptor_waits (hgood : (wellFormed && d.sJob != 0) = true) (hin : ch.upd.inStep = true) (hfree : ch.upd.pending = none)
    (hrestart : d.restart = false) (hnext : d.sJob.toNat = ch.upd.sJob.toNat + 1) :
    ch.stepDescriptor c d wellFormed = ({ ch with upd := { ch.upd with pending := some d } }, true) := by
  unfold Channel.stepDescriptor
  dsimp only
  rw [hgood, if_neg (by simp [hin]), if_pos (by simp [hin, hfree, hrestart, hnext])]

theorem Channel.stepDescriptor_malformed (h : (wellFormed && d.sJob != 0) = false) :
    ch.stepDescriptor c d wellFormed = ({ ch with upd := { ch.upd with stepBad := true } }.raiseStep c 0x6002, false) := by
  unfold Channel.stepDescriptor
  dsimp only
  rw [h, if_neg (by simp), if_neg (by simp)]

end

/-! ### Key-value commands (R386) -/

/-- The code that a key-value command completes with: 0, or that of the fault. -/
def State.kvCode (c : ChanId) (r : State × Bool) : Nat := if r.2 then 0 else (r.1.ch c).tsk.lastCode.toNat

theorem State.kvCode_fault (s : State) (c : ChanId) {code : Nat} (h : code < 2 ^ 16) : State.kvCode c (s.kvFault c none code, false) = code := by
  rw [State.kvCode, if_neg Bool.false_ne_true, State.kvFault_host, State.ch_setCh]
  exact (BitVec.toNat_ofNat code 16).trans (Nat.mod_eq_of_lt h)

section

variable (s : State) (c : ChanId) (r layer pool pages seq src dst first count : Nat)

theorem State.kvCode_kvOpen : State.kvCode c (s.kvOpen c none r layer pool pages seq) =
    if ((s.ch c).openPlace r pool pages).isSome then 0 else 0x5008 := by
  unfold State.kvOpen
  cases (s.ch c).openPlace r pool pages with
  | none => exact s.kvCode_fault c (by decide)
  | some base => rfl

theorem State.kvCode_kvRelease : State.kvCode c (s.kvRelease c none r) =
    if (s.ch c).transitPool? r = none ∧ ((s.ch c).region r).live = true then 0 else 0x5008 := by
  unfold State.kvRelease
  split
  · rfl
  · exact s.kvCode_fault c (by decide)

theorem State.kvCode_kvShare : State.kvCode c (s.kvShare c none src dst first count) =
    if (s.ch c).mayShare src dst first count then 0 else 0x5006 := by
  unfold State.kvShare
  split
  · rfl
  · exact s.kvCode_fault c (by decide)

end

section

variable {s : State} {c : ChanId} (x : RingCmd) (f : State → State × Bool)

theorem State.kvCmd_noStream (h : (s.ch c).pss.stream = none) : s.kvCmd c x f = s.setCh c ((s.ch c).finishCmd c x 0xA005) :=
  if_pos (by rw [h]; rfl)

theorem State.kvCmd_live (hstream : (s.ch c).pss.stream.isSome = true) (hrun : (s.ch c).running = true) :
    s.kvCmd c x f = (f s).1.setCh c (((f s).1.ch c).finishCmd c x (State.kvCode c (f s))) := by
  have hsome : ¬ (s.ch c).pss.stream.isNone = true := by simp [← Option.not_isSome, hstream]
  unfold State.kvCmd
  dsimp only
  rw [if_neg hsome, if_neg (by simp [hrun])]
  rfl

end

/-! ### The commands of a ring (R385) -/

theorem State.onCmd_none {s : State} {c : ChanId} {n : Nat} (op : Nat) (k : RingCmd → State) (h : (s.ch c).ringHead n = none) :
    s.onCmd c n op k = s := by
  rw [State.onCmd, h]

theorem exec_cmd_empty {s : State} {c : ChanId} {ring : Fin 8} (h : (s.ch c).ringHead ring.val = none) :
    exec (.cmdNop c ring) s = .next s ∧ exec (.cmdStep c ring) s = .next s ∧ exec (.cmdKvOpen c ring) s = .next s ∧
      exec (.cmdKvRelease c ring) s = .next s ∧ exec (.cmdKvShare c ring) s = .next s :=
  ⟨congrArg _ (State.onCmd_none _ _ h), congrArg _ (State.onCmd_none _ _ h), congrArg _ (State.onCmd_none _ _ h),
    congrArg _ (State.onCmd_none _ _ h), congrArg _ (State.onCmd_none _ _ h)⟩

section

variable {s : State} {c : ChanId} {ring : Fin 8} {x : RingCmd}

theorem State.onCmd_met {n op : Nat} (k : RingCmd → State) (hhead : (s.ch c).ringHead n = some x) (halive : (s.ch c).dead = false)
    (hop : x.entry.opcode.toNat = op) : s.onCmd c n op k = k x := by
  rw [State.onCmd, hhead]
  exact if_pos (by simp [hop, halive])

variable (hhead : (s.ch c).ringHead ring.val = some x) (halive : (s.ch c).dead = false)
include hhead halive

theorem exec_cmdNop_met (hop : x.entry.opcode.toNat = 5) : exec (.cmdNop c ring) s = .next (s.setCh c ((s.ch c).finishCmd c x 0)) :=
  congrArg _ (State.onCmd_met _ hhead halive hop)

theorem exec_cmdKvOpen_met (hop : x.entry.opcode.toNat = 2) : exec (.cmdKvOpen c ring) s = .next (s.kvCmd c x fun t =>
    t.kvOpen c none (natAt x.entry.body 0 3) (natAt x.entry.body 4 1) (natAt x.entry.body 3 1) (natAt x.entry.body 8 4)
      (natAt x.entry.body 12 4)) :=
  congrArg _ (State.onCmd_met _ hhead halive hop)

theorem exec_cmdKvRelease_met (hop : x.entry.opcode.toNat = 3) :
    exec (.cmdKvRelease c ring) s = .next (s.kvCmd c x fun t => t.kvRelease c none (natAt x.entry.body 0 3)) :=
  congrArg _ (State.onCmd_met _ hhead halive hop)

theorem exec_cmdKvShare_met (hop : x.entry.opcode.toNat = 4) : exec (.cmdKvShare c ring) s = .next (s.kvCmd c x fun t =>
    t.kvShare c none (natAt x.entry.body 0 3) (natAt x.entry.body 4 3) (natAt x.entry.body 8 4) (natAt x.entry.body 12 4)) :=
  congrArg _ (State.onCmd_met _ hhead halive hop)

/-- A STEP completes with the outcome `r` of its descriptor, after a RESTART that is accepted has discarded the look-ahead tasks. -/
theorem exec_cmdStep_met {s1 : State} {r : Channel × Bool} (hop : x.entry.opcode.toNat = 1)
    (hbefore : (if (stepDescOf x.entry.body).restart = true ∧
      ((s.ch c).stepDescriptor c (stepDescOf x.entry.body) (stepFormed x.entry.body)).2 = true then s.discardAhead c else s) = s1)
    (hr : (s1.ch c).stepDescriptor c (stepDescOf x.entry.body) (stepFormed x.entry.body) = r) :
    exec (.cmdStep c ring) s = .next (s1.setCh c (r.1.finishCmd c x (if r.2 then 0 else 0x6002))) := by
  subst hr hbefore
  exact congrArg _ (State.onCmd_met _ hhead halive hop)

theorem exec_cmdStep_accepts (hop : x.entry.opcode.toNat = 1)
    (hgood : (stepFormed x.entry.body && (stepDescOf x.entry.body).sJob != 0) = true) (hin : (s.ch c).upd.inStep = false)
    (hnext : (stepDescOf x.entry.body).restart = true ∨ (stepDescOf x.entry.body).sJob.toNat = (s.ch c).upd.lastCommit.toNat + 1) :
    exec (.cmdStep c ring) s = .next ((s.beforeStep c (stepDescOf x.entry.body)).setCh c
      ((((s.beforeStep c (stepDescOf x.entry.body)).ch c).acceptStep c (stepDescOf x.entry.body)).finishCmd c x 0)) := by
  obtain ⟨hupd, -, -⟩ := s.beforeStep_keeps c (stepDescOf x.entry.body)
  refine exec_cmdStep_met hhead halive hop ?_ (Channel.stepDescriptor_accepts hgood (by rw [hupd]; exact hin) (by rw [hupd]; exact hnext))
  rw [Channel.stepDescriptor_accepts hgood hin hnext]
  simp only [and_true]
  rfl

theorem exec_cmdStep_waits (hop : x.entry.opcode.toNat = 1)
    (hgood : (stepFormed x.entry.body && (stepDescOf x.entry.body).sJob != 0) = true) (hin : (s.ch c).upd.inStep = true)
    (hfree : (s.ch c).upd.pending = none) (hrestart : (stepDescOf x.entry.body).restart = false)
    (hnext : (stepDescOf x.entry.body).sJob.toNat = (s.ch c).upd.sJob.toNat + 1) :
    exec (.cmdStep c ring) s = .next (s.setCh c
      ({ s.ch c with upd := { (s.ch c).upd with pending := some (stepDescOf x.entry.body) } }.finishCmd c x 0)) :=
  exec_cmdStep_met hhead halive hop (if_neg (by simp [hrestart])) (Channel.stepDescriptor_waits hgood hin hfree hrestart hnext)

theorem exec_cmdStep_malformed (hop : x.entry.opcode.toNat = 1)
    (hbad : (stepFormed x.entry.body && (stepDescOf x.entry.body).sJob != 0) = false) :
    exec (.cmdStep c ring) s = .next (s.setCh c
      (({ s.ch c with upd := { (s.ch c).upd with stepBad := true } }.raiseStep c 0x6002).finishCmd c x 0x6002)) :=
  exec_cmdStep_met hhead halive hop (if_neg (by simp [Channel.stepDescriptor_malformed hbad])) (Channel.stepDescriptor_malformed hbad)

end

/-! ### The statement -/

/-- Settles O30: each command of a ring, met as the oldest under its own opcode, and the ring without a command. -/
theorem ringCommandsComplete : Obligations.RingCommandsComplete := by
  unfold Obligations.RingCommandsComplete
  intro c ring x s
  dsimp only
  refine ⟨exec_cmd_empty, fun ⟨hhead, halive⟩ => exec_cmdNop_met hhead halive,
    fun ⟨hhead, halive⟩ hstream => ⟨fun hop => ?_, fun hop => ?_, fun hop => ?_⟩,
    fun ⟨hhead, halive⟩ ⟨hstream, hrun⟩ => ⟨fun hop => ⟨_, rfl, ?_⟩, fun hop => ⟨_, rfl, ?_⟩, fun hop => ⟨_, rfl, ?_⟩⟩,
    fun ⟨hhead, halive⟩ hop hgood hin hnext hepoch hskew hsched => ?_, fun ⟨hhead, halive⟩ hop hgood hin hfree hrestart hnext => ?_,
    fun ⟨hhead, halive⟩ hop hbad => ?_⟩
  · rw [exec_cmdKvOpen_met hhead halive hop, State.kvCmd_noStream x _ hstream]
  · rw [exec_cmdKvRelease_met hhead halive hop, State.kvCmd_noStream x _ hstream]
  · rw [exec_cmdKvShare_met hhead halive hop, State.kvCmd_noStream x _ hstream]
  · rw [exec_cmdKvOpen_met hhead halive hop, State.kvCmd_live x _ hstream hrun, State.kvCode_kvOpen]
  · rw [exec_cmdKvRelease_met hhead halive hop, State.kvCmd_live x _ hstream hrun, State.kvCode_kvRelease]
  · rw [exec_cmdKvShare_met hhead halive hop, State.kvCmd_live x _ hstream hrun, State.kvCode_kvShare]
  · obtain ⟨hupd, hgxc, hpss⟩ := s.beforeStep_keeps c (stepDescOf x.entry.body)
    exact ⟨_, exec_cmdStep_accepts hhead halive hop ((stepFormed_iff _).mpr hgood) hin hnext,
      Channel.acceptStep_latches hupd hgxc hpss hsched hepoch hskew⟩
  · exact exec_cmdStep_waits hhead halive hop ((stepFormed_iff _).mpr hgood) hin hfree hrestart hnext
  · exact exec_cmdStep_malformed hhead halive hop (Bool.eq_false_iff.mpr fun hgood => hbad ((stepFormed_iff _).mp hgood))

end Sys2Proof.Machine
end

section
/-! PROOFS. The deadlines of the stages of agreeing the scales (R223, R224, R231, R235). -/

namespace Sys2Proof.Machine

/-! ### What the closure of a stage leaves -/

/-- In `k` bucket `b` is `x` and the exclusions stand at `n`; nothing else of `ch` differs outside the exchange and the records of events. -/
structure Channel.StageClosed (ch : Channel) (b : Nat) (x : Bucket) (n : U16) (k : Channel) : Prop where
  bucket : k.bucket b = x
  others : ∀ i : Nat, i ≠ b → k.bucket i = ch.bucket i
  excluded : k.gxc.excluded = n
  frame : k = { ch with gxc := k.gxc, beat := k.beat, events := k.events }

/-- Records `n` exclusions when the rising list `out` of those left out is not empty; `first` gives the contributor of one of them. -/
def Channel.excludeAll (ch : Channel) (c : ChanId) (b : Nat) (out : List Nat) (n : Nat) (first : Nat → Nat) : Channel :=
  out.getLast?.elim ch fun p => ch.exclude c b n (first p)

theorem Channel.exclude_eq (ch : Channel) (c : ChanId) (b n x : Nat) : ∃ evs rs, ch.exclude c b n x =
    { ch with gxc := { ch.gxc with
        lateSt := true, excluded := satAdd ch.gxc.excluded n, lateStep := ch.upd.sJob
        lateBucket := BitVec.ofNat 13 b, lateContrib := BitVec.ofNat 15 x } }.withRaised evs rs :=
  Channel.raise_eq_withRaised _ c 0x6006

/-- A root that has told of its exclusions counts none when it settles its own gradient: it keeps it for the next step, or drops it (R231). -/
theorem Channel.settleOwn_told (ch : Channel) (c : ChanId) (b : Nat) (bitmap : List Nat) : ∃ kept n, ch.settleOwn c b bitmap true =
    { ch with gxc := { ch.gxc with carriedBuckets := kept, carried := n } } := by
  unfold Channel.settleOwn
  split
  · exact ⟨_, _, rfl⟩
  · split
    · exact ⟨_, _, rfl⟩
    · dsimp only
      split <;> exact ⟨_, _, rfl⟩

section

variable {ch k : Channel} {b : Nat} {x : Bucket} {n : U16}

theorem Channel.StageClosed.onBucket (f : Bucket → Bucket) (h : ch.StageClosed b x n k) : ch.StageClosed b (f x) n (k.onBucket b f) where
  bucket := (smGet_smMod_same ..).trans (congrArg f h.bucket)
  others i hi := (smGet_smMod_other _ _ _ hi).trans (h.others i hi)
  excluded := h.excluded
  frame := by rw [h.frame]; rfl

/-- The closure begins with the bucket itself. -/
theorem Channel.stageClosed_onBucket (ch : Channel) (b : Nat) (f : Bucket → Bucket) :
    ch.StageClosed b (f (ch.bucket b)) ch.gxc.excluded (ch.onBucket b f) :=
  Channel.StageClosed.onBucket (k := ch) f ⟨rfl, fun _ _ => rfl, rfl, rfl⟩

theorem Channel.StageClosed.exclude (c : ChanId) (m y : Nat) (h : ch.StageClosed b x n k) :
    ch.StageClosed b x (satAdd n m) (k.exclude c b m y) := by
  obtain ⟨_, _, hshape⟩ := k.exclude_eq c b m y
  rw [hshape]
  exact ⟨h.bucket, h.others, congrArg (satAdd · m) h.excluded, by rw [h.frame]; rfl⟩

theorem Channel.StageClosed.excludeAll (c : ChanId) (out : List Nat) (m : Nat) (first : Nat → Nat) (h : ch.StageClosed b x n k) :
    ch.StageClosed b x (if out = [] then n else satAdd n m) (k.excludeAll c b out m first) := by
  unfold Channel.excludeAll
  cases hlast : out.getLast? with
  | none => rwa [if_pos (List.getLast?_eq_none_iff.mp hlast)]
  | some p =>
    rw [if_neg fun hnil => by simp [hnil] at hlast]
    exact h.exclude c m (first p)

theorem Channel.StageClosed.settleOwn (c : ChanId) (bitmap : List Nat) (h : ch.StageClosed b x n k) :
    ch.StageClosed b x n (k.settleOwn c b bitmap true) := by
  obtain ⟨_, _, hshape⟩ := k.settleOwn_told c b bitmap
  rw [hshape]
  exact ⟨h.bucket, h.others, h.excluded, by rw [h.frame]⟩

end

/-! ### The sett stage (R223) -/

/-- The positions whose pre-pass has arrived. -/
def Bucket.settIn (k : Bucket) : List Nat := (k.settArr.map (·.1)).foldl (fun l p => insertNat p l) []

/-- The sett stage is closed over the arrivals there are, with headroom `h`. -/
def Bucket.closesSett (h : Nat) (k : Bucket) : Bucket :=
  { k with
    settClosed := true, settMap := k.settIn, settMax := maxBytes (k.settArr.map (·.2))
    settExp := (maxBytes (k.settArr.map (·.2))).map (headroom h) }

/-- In a group of one sett the sett's outcome is the final one. -/
def Bucket.takesSett (inn : List Nat) (k : Bucket) : Bucket := { k with domClosed := true, domMap := inn, domExp := k.settExp }

/-- The positions that the sett stage awaits and that have not arrived. -/
def Channel.settOut (ch : Channel) (c : ChanId) (b : Nat) : List Nat := (ch.settNeed c b).filter fun p => !(ch.bucket b).settIn.contains p

/-- The closure of the sett stage of a bucket, in the steps of R223 and R231. -/
theorem Channel.closeSett_eq (ch : Channel) (c : ChanId) (b : Nat) : ∃ first : Nat → Nat,
    let k := (ch.onBucket b (Bucket.closesSett (((ch.bucketPlan b).map (·.hSett)).getD 2))).excludeAll c b (ch.settOut c b)
      (ch.settOut c b).length first
    ch.closeSett c b = if (ch.bucketGroup b).g ≤ 1 then
      (k.onBucket b (Bucket.takesSett (ch.bucket b).settIn)).settleOwn c b (ch.bucket b).settIn true else k := by
  refine ⟨fun p => ((ch.rankPos c b).map (·.1)).getD 0 * (ch.bucketGroup b).k + p, ?_⟩
  unfold Channel.closeSett Channel.excludeAll Channel.settOut Bucket.settIn
  dsimp only
  generalize List.getLast? _ = last
  cases last <;> rfl

theorem Channel.closeSett_closed (ch : Channel) (c : ChanId) (b : Nat) : ∃ x : Bucket,
    ch.StageClosed b x (if ch.settOut c b = [] then ch.gxc.excluded else satAdd ch.gxc.excluded (ch.settOut c b).length) (ch.closeSett c b) ∧
    x.settClosed = true ∧ x.settMap = (ch.bucket b).settIn ∧ x.settMax = maxBytes ((ch.bucket b).settArr.map (·.2)) ∧
    x.settExp = (maxBytes ((ch.bucket b).settArr.map (·.2))).map (headroom (((ch.bucketPlan b).map (·.hSett)).getD 2)) := by
  obtain ⟨first, hclose⟩ := ch.closeSett_eq c b
  have hsett := (ch.stageClosed_onBucket b (Bucket.closesSett (((ch.bucketPlan b).map (·.hSett)).getD 2))).excludeAll c (ch.settOut c b)
    (ch.settOut c b).length first
  rw [hclose]
  by_cases hone : (ch.bucketGroup b).g ≤ 1
  · rw [if_pos hone]
    exact ⟨_, (hsett.onBucket (Bucket.takesSett _)).settleOwn c _, rfl, rfl, rfl, rfl⟩
  · rw [if_neg hone]
    exact ⟨_, hsett, rfl, rfl, rfl, rfl⟩

/-! ### The domain stage (R224) -/

/-- The domain stage is closed over the summaries there are, of setts of `n` positions, with headroom `h`. -/
def Bucket.closesDomain (h n : Nat) (k : Bucket) : Bucket :=
  { k with
    domClosed := true, domMap := (k.domArr.flatMap fun e => e.2.1.map fun p => e.1 * n + p).foldl (fun l i => insertNat i l) []
    domExp := (maxBytes (k.domArr.map fun e => e.2.2)).map (headroom h) }

/-- The setts that the domain stage awaits and whose summary has not arrived. -/
def Channel.domOut (ch : Channel) (b : Nat) : List Nat := (ch.domNeed b).filter fun r => !((ch.bucket b).domArr.map (·.1)).contains r

/-- The closure of the domain stage of a bucket, in the steps of R224 and R231. -/
theorem Channel.closeDomain_eq (ch : Channel) (c : ChanId) (b : Nat) :
    let x := (ch.bucket b).closesDomain (((ch.bucketPlan b).map (·.hDom)).getD 2) (ch.bucketGroup b).k
    ch.closeDomain c b = ((ch.onBucket b (Bucket.closesDomain (((ch.bucketPlan b).map (·.hDom)).getD 2) (ch.bucketGroup b).k)).excludeAll c b
      (ch.domOut b) ((ch.domOut b).length * (ch.bucketGroup b).k) fun r => r * (ch.bucketGroup b).k).settleOwn c b x.domMap true := by
  unfold Channel.closeDomain Channel.excludeAll Channel.domOut
  dsimp only
  generalize List.getLast? _ = last
  cases last <;> rfl

theorem Channel.closeDomain_closed (ch : Channel) (c : ChanId) (b : Nat) :
    ch.StageClosed b ((ch.bucket b).closesDomain (((ch.bucketPlan b).map (·.hDom)).getD 2) (ch.bucketGroup b).k)
      (if ch.domOut b = [] then ch.gxc.excluded else satAdd ch.gxc.excluded ((ch.domOut b).length * (ch.bucketGroup b).k))
      (ch.closeDomain c b) := by
  rw [Channel.closeDomain_eq]
  exact ((ch.stageClosed_onBucket b _).excludeAll c _ _ _).settleOwn c _

/-! ### The deadline (R223, R235) -/

section

variable {ch : Channel} {c : ChanId} {b : Nat} {s : State}

theorem Channel.stageDue_iff (start : Option Nat) : ch.stageDue b start = true ↔
    ∃ n, start = some n ∧ ch.pairOf b = none ∧ ch.gxc.actDeadline ≠ 0 ∧ n + ch.gxc.actDeadline.toNat ≤ ch.beat.number.toNat := by
  cases start with
  | none => simp [Channel.stageDue]
  | some n => simp [Channel.stageDue, and_assoc]

/-- Outside a low-rank pair's second bucket the sett stage awaits every position. -/
theorem Channel.settNeed_unpaired (h : ch.pairOf b = none) : ch.settNeed c b = List.range (ch.bucketGroup b).k := by
  simp [Channel.settNeed, h]

/-- And the domain stage every sett. -/
theorem Channel.domNeed_unpaired (h : ch.pairOf b = none) : ch.domNeed b = List.range (ch.bucketGroup b).g := by
  simp [Channel.domNeed, h]

theorem exec_settStageDeadline_due (hopen : ((s.ch c).bucket b).settClosed = false)
    (hdue : (s.ch c).stageDue b ((s.ch c).bucket b).settBeat = true) :
    exec (.settStageDeadline c b) s = .next (s.setCh c ((s.ch c).closeSett c b)) :=
  if_pos (by simp [hopen, hdue])

theorem exec_settStageDeadline_not (h : ((s.ch c).bucket b).settClosed = true ∨ ¬ (s.ch c).stageDue b ((s.ch c).bucket b).settBeat = true) :
    exec (.settStageDeadline c b) s = .next s :=
  if_neg (by rcases h with h | h <;> simp [h])

theorem exec_domainStageDeadline_due (hopen : ((s.ch c).bucket b).domClosed = false)
    (hdue : (s.ch c).stageDue b ((s.ch c).bucket b).domBeat = true) :
    exec (.domainStageDeadline c b) s = .next (s.setCh c ((s.ch c).closeDomain c b)) :=
  if_pos (by simp [hopen, hdue])

theorem exec_domainStageDeadline_not (h : ((s.ch c).bucket b).domClosed = true ∨ ¬ (s.ch c).stageDue b ((s.ch c).bucket b).domBeat = true) :
    exec (.domainStageDeadline c b) s = .next s :=
  if_neg (by rcases h with h | h <;> simp [h])

end

/-- Settles O34: each stage closes at its deadline by the shape of its closure, and does nothing else. -/
theorem stageDeadlinesClose : Obligations.StageDeadlinesClose := by
  unfold Obligations.StageDeadlinesClose
  intro c b s
  dsimp only
  simp only [← Channel.stageDue_iff]
  refine ⟨exec_settStageDeadline_not, fun hopen hdue => ?_, exec_domainStageDeadline_not, fun hopen hdue => ?_⟩ <;>
    obtain ⟨_, _, hpair, _⟩ := (Channel.stageDue_iff _).mp hdue
  · obtain ⟨x, ⟨hbucket, hothers, hexcluded, hframe⟩, hclosed, hmap, hmax, hexp⟩ := (s.ch c).closeSett_closed c b
    refine ⟨_, exec_settStageDeadline_due hopen hdue, ?_⟩
    rw [Channel.settOut, Channel.settNeed_unpaired hpair] at hexcluded
    rw [State.ch_setCh, hbucket]
    exact ⟨hclosed, hmap, hmax, hexp, hexcluded, hothers, congrArg _ hframe⟩
  · obtain ⟨hbucket, hothers, hexcluded, hframe⟩ := (s.ch c).closeDomain_closed c b
    refine ⟨_, exec_domainStageDeadline_due hopen hdue, ?_⟩
    rw [Channel.domOut, Channel.domNeed_unpaired hpair] at hexcluded
    rw [State.ch_setCh, hbucket]
    exact ⟨rfl, rfl, rfl, hexcluded, hothers, congrArg _ hframe⟩

end Sys2Proof.Machine
end

section
/-! PROOFS. Requests for another layout, and the end of a permute (R242, R311). -/

namespace Sys2Proof.Machine

/-! ### GXC_RESHARD -/

theorem regAt_reshard : ∃ r, regAt 0x060038 = some r ∧ ∀ s c w v, r.write s c w v = s.setCh c ((s.ch c).writeReshard c v) :=
  ⟨_, rfl, fun _ _ _ _ => rfl⟩

theorem exec_reshardGo_firmware {s : State} {c : ChanId} (v : U64) (h : fwReady s c) :
    regWrites (.reshardGo c .firmware v) c s (s.setCh c ((s.ch c).writeReshard c v)) := by
  obtain ⟨r, hreg, hwrite⟩ := regAt_reshard
  have hcode : csrCode 0x060038 8 = .ok := by
    rw [csrCode_aligned (by decide) (by decide) le_rfl, hreg]
    rfl
  rw [← hwrite s c .firmware v]
  exact congrArg _ (State.writeReg_firmware s c _ v r h (by decide) hcode hreg)

/-- LAYOUT as a write of GXC_RESHARD carries it. -/
def reshardDest (v : U64) : U8 := BitVec.ofNat 8 (bits v 15 8)

/-- A write of GXC_RESHARD keeps its LAYOUT. -/
def Channel.reqLayout (ch : Channel) (l : U8) : Channel := { ch with gxc := { ch.gxc with reqLayout := l } }

section

variable {ch : Channel} {c : ChanId} {v : U64}

theorem Channel.writeReshard_ignored (h : bit v 16 = false ∨ reshardDest v = ch.gxc.layout ∨ ch.variant? (reshardDest v).toNat = none) :
    ch.writeReshard c v = ch.reqLayout (reshardDest v) := by
  rcases h with hgo | hsame
  · exact if_neg (by simp [hgo])
  · exact ite_ind (· = ch.reqLayout (reshardDest v)) (if_pos (hsame.imp_right Option.isNone_iff_eq_none.mpr)) rfl

variable (hgo : bit v 16 = true) (hother : reshardDest v ≠ ch.gxc.layout) (hknown : (ch.variant? (reshardDest v).toNat).isSome = true)
include hgo hother hknown

theorem Channel.writeReshard_go : ch.writeReshard c v =
    if ch.upd.inStep then
      { ch.reqLayout (reshardDest v) with gxc := { (ch.reqLayout (reshardDest v)).gxc with queued := some (reshardDest v) } }.raise c 0x6009
    else if ch.gxc.queued.isSome then
      { ch.reqLayout (reshardDest v) with gxc := { (ch.reqLayout (reshardDest v)).gxc with
          queued := some (reshardDest v), requested := some (reshardDest v) } }
    else { ch.reqLayout (reshardDest v) with gxc := { (ch.reqLayout (reshardDest v)).gxc with requested := some (reshardDest v) } } :=
  (if_pos hgo).trans (if_neg (not_or.mpr ⟨hother, by rwa [Option.isNone_iff_eq_none, ← ne_eq, ← Option.isSome_iff_ne_none]⟩))

end

/-! ### Reads and writes of a permute over clean HBM -/

/-- A run that leaves its state and gathers one result of each element gathers them in order. -/
theorem foldl_gathers {σ β γ : Type} {f : σ × List γ → β → σ × List γ} {s : σ} {g : β → γ} (h : ∀ (l : List γ) (b : β), f (s, l) b = (s, l ++ [g b]))
    (l : List β) (acc : List γ) : l.foldl f (s, acc) = (s, acc ++ l.map g) := by
  induction l generalizing acc with
  | nil => simp
  | cons b r ih => rw [List.foldl_cons, h, ih, List.map_cons, List.append_assoc, List.singleton_append]

/-- Writes to clean HBM, one after another, are stores. -/
theorem State.hbmWrites_clean {β : Type} {c : ChanId} (a : β → Nat) (d : β → List Byte) (l : List β) {s : State}
    (hp : (s.ch c).mem.hbmPoison = []) (he : (s.ch c).mem.hbmErr = []) :
    l.foldl (fun (t : State) e => t.onCh c fun k => k.hbmWrite (a e) (d e)) s =
      s.setCh c { s.ch c with mem := { (s.ch c).mem with hbm := smStores (s.ch c).mem.hbm (l.map fun e => (a e, d e)) } } := by
  induction l generalizing s with
  | nil => exact (s.setCh_ch c).symm
  | cons e r ih =>
    rw [List.foldl_cons, State.onCh, Channel.hbmWrite_noErr _ _ hp he, ih (by rwa [State.ch_setCh]) (by rwa [State.ch_setCh]),
      State.ch_setCh, State.setCh_setCh]
    rfl

/-! ### The moves of a plan (R242, R299) -/

/-- The role of the channel in its job. -/
def Channel.role (ch : Channel) : U16 := (ch.pss.stream.map (·.role)).getD 0

/-- The moves within this channel's role. -/
def Channel.movesOwn (ch : Channel) (l : Nat) : List PermMove := (ch.moves l).filter fun m => m.srcRole == ch.role && m.dstRole == ch.role
/-- Those from it to other roles. -/
def Channel.movesAway (ch : Channel) (l : Nat) : List PermMove := (ch.moves l).filter fun m => m.srcRole == ch.role && m.dstRole != ch.role
/-- Those from other roles to it. -/
def Channel.movesFrom (ch : Channel) (l : Nat) : List PermMove := (ch.moves l).filter fun m => m.srcRole != ch.role
/-- All that end in it. -/
def Channel.movesInto (ch : Channel) (l : Nat) : List PermMove := (ch.moves l).filter fun m => m.dstRole == ch.role

/-- The bytes of a move's source. -/
def Channel.moveBytes (ch : Channel) (m : PermMove) : List Byte := ch.hbmBytes m.src m.length

/-- What a permute writes here: the bytes of its own moves, then what other channels have sent. -/
def Channel.moveWrites (ch : Channel) (l : Nat) (incoming : List (List Byte)) : List (PermMove × List Byte) :=
  (ch.movesOwn l).map (fun m => (m, ch.moveBytes m)) ++ ((ch.movesFrom l).zip incoming).map fun e => (e.1, e.2.take e.1.length)

/-- The same as stores to HBM. -/
def Channel.moveStores (ch : Channel) (l : Nat) (incoming : List (List Byte)) : List (Nat × List Byte) :=
  (ch.moveWrites l incoming).map fun e => (e.1.dst, e.2)

theorem State.permuteMoves_clean {s : State} {c : ChanId} (l : Nat) (incoming : List (List Byte)) (hp : (s.ch c).mem.hbmPoison = [])
    (he : (s.ch c).mem.hbmErr = []) : s.permuteMoves c l incoming =
      (s.setCh c { s.ch c with mem := { (s.ch c).mem with hbm := smStores (s.ch c).mem.hbm ((s.ch c).moveStores l incoming) } }).emitAll
        (((s.ch c).movesAway l).map fun m => .permuteData c m.dstRole m.dst ((s.ch c).moveBytes m)) := by
  have hsplit (p : PermMove → Bool) :
      (((s.ch c).moves l).filter fun m => m.srcRole == (s.ch c).role).filter p = ((s.ch c).moves l).filter fun m => m.srcRole == (s.ch c).role && p m := by
    simp only [List.filter_filter, Bool.and_comm]
  unfold State.permuteMoves
  dsimp only
  rw [foldl_gathers (s := s) (g := fun m => (m, (s.ch c).moveBytes m)) (fun acc m => by simp [State.checkHbm_clean _ _ hp he, Channel.moveBytes]),
    List.nil_append, State.hbmWrites_clean (fun e : PermMove × List Byte => e.1.dst) (fun e => e.2) _ hp he, List.filter_map, List.filter_map]
  simp only [Function.comp_def, List.map_map]
  rw [← Channel.role, hsplit, hsplit]
  rfl

/-- A move that a channel makes begins or ends in its role. -/
theorem Channel.moves_touch {ch : Channel} {l : Nat} {m : PermMove} (h : m ∈ ch.moves l) : m.srcRole = ch.role ∨ m.dstRole = ch.role := by
  unfold Channel.moves at h
  split at h
  case h_1 => cases h
  case h_2 st hst =>
    have hrole : ch.role = st.role := by simp [Channel.role, hst]
    simpa [hrole] using (List.mem_filter.mp h).2

/-- What is written here is of moves that end here, and no longer than the move. -/
theorem Channel.moveWrites_into {ch : Channel} {l : Nat} {incoming : List (List Byte)} {e : PermMove × List Byte}
    (h : e ∈ ch.moveWrites l incoming) : e.1 ∈ ch.movesInto l ∧ e.2.length ≤ e.1.length := by
  rcases List.mem_append.mp h with hown | hfrom
  · obtain ⟨m, hm, rfl⟩ := List.mem_map.mp hown
    obtain ⟨hmem, hroles⟩ := List.mem_filter.mp hm
    exact ⟨List.mem_filter.mpr ⟨hmem, (Bool.and_eq_true_iff.mp hroles).2⟩, le_of_eq (smGetAll_length ..)⟩
  · obtain ⟨⟨m, d⟩, hzip, rfl⟩ := List.mem_map.mp hfrom
    obtain ⟨hmem, hsrc⟩ := List.mem_filter.mp (List.of_mem_zip hzip).1
    have hdst := (Channel.moves_touch hmem).resolve_left (by simpa using hsrc)
    exact ⟨List.mem_filter.mpr ⟨hmem, beq_iff_eq.mpr hdst⟩, List.length_take_le ..⟩

/-- The moves that end here are the channel's own and those from other roles. -/
theorem Channel.movesInto_perm (ch : Channel) (l : Nat) : (ch.movesOwn l ++ ch.movesFrom l).Perm (ch.movesInto l) := by
  have hown : ch.movesOwn l = (ch.movesInto l).filter fun m => m.srcRole == ch.role := List.filter_filter.symm
  have hfrom : ch.movesFrom l = (ch.movesInto l).filter fun m => !(m.srcRole == ch.role) := by
    unfold Channel.movesFrom Channel.movesInto
    rw [List.filter_filter]
    refine List.filter_congr fun m hm => ?_
    have htouch := Channel.moves_touch hm
    by_cases hsrc : m.srcRole = ch.role
    · simp [hsrc]
    · simp [bne, htouch.resolve_left hsrc]
  rw [hown, hfrom]
  exact List.filter_append_perm ..

/-! ### The memory after a permute -/

/-- Two moves whose destinations do not meet. -/
def PermMove.apart (a b : PermMove) : Prop := a.dst + a.length ≤ b.dst ∨ b.dst + b.length ≤ a.dst

theorem map_fst_zip_sublist {α β : Type} (l : List α) (r : List β) : ((l.zip r).map Prod.fst).Sublist l := by
  rw [List.zip_eq_zip_take_min, List.map_fst_zip (by simp)]
  exact List.take_sublist ..

theorem Channel.moveWrites_moves (ch : Channel) (l : Nat) (incoming : List (List Byte)) :
    ((ch.moveWrites l incoming).map (·.1)).Sublist (ch.movesOwn l ++ ch.movesFrom l) := by
  have hfrom := map_fst_zip_sublist (ch.movesFrom l) incoming
  simpa [Channel.moveWrites, Function.comp_def] using hfrom

theorem Channel.moveStores_apart {ch : Channel} {l : Nat} {incoming : List (List Byte)} (h : (ch.movesInto l).Pairwise PermMove.apart) :
    (ch.moveStores l incoming).Pairwise fun x y => x.1 + x.2.length ≤ y.1 ∨ y.1 + y.2.length ≤ x.1 := by
  have hmoves : ((ch.moveWrites l incoming).map (·.1)).Pairwise PermMove.apart :=
    (h.perm (ch.movesInto_perm l).symm Or.symm).sublist (ch.moveWrites_moves l incoming)
  refine List.pairwise_map.mpr ((List.pairwise_map.mp hmoves).imp_of_mem fun {x y} hx hy hxy => ?_)
  have hlenx := (Channel.moveWrites_into hx).2
  have hleny := (Channel.moveWrites_into hy).2
  exact hxy.imp (by dsimp only; omega) (by dsimp only; omega)

/-- HBM after the moves of a permute. -/
def Channel.permutedHbm (ch : Channel) (l : Nat) (incoming : List (List Byte)) : SMap Byte := smStores ch.mem.hbm (ch.moveStores l incoming)

theorem Channel.permutedHbm_outside (ch : Channel) (l : Nat) (incoming : List (List Byte)) {x : Nat}
    (h : ∀ m ∈ ch.movesInto l, x < m.dst ∨ m.dst + m.length ≤ x) : smGet 0 (ch.permutedHbm l incoming) x = smGet 0 ch.mem.hbm x := by
  refine smStores_outside _ _ _ fun e he => ?_
  obtain ⟨w, hw, rfl⟩ := List.mem_map.mp he
  obtain ⟨hinto, hlen⟩ := Channel.moveWrites_into hw
  exact (h w.1 hinto).imp_right (by dsimp only; omega)

theorem Channel.permutedHbm_own (ch : Channel) (l : Nat) (incoming : List (List Byte)) (h : (ch.movesInto l).Pairwise PermMove.apart)
    {m : PermMove} (hm : m ∈ ch.movesOwn l) : smGetAll 0 (ch.permutedHbm l incoming) m.dst m.length = ch.moveBytes m := by
  have hstore : (m.dst, ch.moveBytes m) ∈ ch.moveStores l incoming :=
    List.mem_map.mpr ⟨(m, ch.moveBytes m), List.mem_append_left _ (List.mem_map_of_mem hm), rfl⟩
  have hread := smGetAll_smStores _ ch.mem.hbm (Channel.moveStores_apart h) _ hstore
  rwa [Channel.moveBytes, Channel.hbmBytes, smGetAll_length] at hread

/-! ### The end of a permute (R242, R311) -/

/-- The channel after its moves, in layout `l` and the next epoch, before the layout's sections take effect. -/
def Channel.permuted (ch : Channel) (l : U8) (counters : List (Nat × U32)) (m : SMap Byte) : Channel :=
  { ch with
    mem := { ch.mem with hbm := m }
    gxc := { ch.gxc with permuting := none, layout := l, epoch := ch.gxc.epoch + 1, carriedBuckets := [] }
    upd := { ch.upd with tState := counters.foldl (fun (m : SMap U32) (e : Nat × U32) => smSet 0 m e.1 e.2) ch.upd.tState } }

/-- A layout of the stream takes effect. -/
def Channel.takeLayout (ch : Channel) (c : ChanId) (l : U8) : Channel :=
  (((ch.variant? l.toNat).map ch.applyLayout).getD ch).raise c 0x600A

theorem Channel.applyLayout_mem (ch : Channel) (l : LayoutData) : (ch.applyLayout l).mem = ch.mem := by
  have htransit (k : Channel) : k.openTransit.mem = k.mem := by
    obtain ⟨_, hsql⟩ : k.sqlOnly k.openTransit := foldl_sqlOnly (fun _ _ => ⟨_, rfl⟩) _ k
    rw [hsql]
  exact htransit _

theorem Channel.takeLayout_mem (ch : Channel) (c : ChanId) (l : U8) : (ch.takeLayout c l).mem = ch.mem := by
  rw [Channel.takeLayout, Channel.raise_shape]
  cases ch.variant? l.toNat with
  | none => rfl
  | some d => exact ch.applyLayout_mem d

theorem State.emitAll_onCh (s : State) (c : ChanId) (f : Channel → Channel) (l : List Out) :
    (s.emitAll l).onCh c f = (s.onCh c f).emitAll l := by
  obtain rfl | rfl := ChanId.cases c <;> rfl

section

variable {s : State} {c : ChanId} {incoming : List (List Byte)} {counters : List (Nat × U32)}

theorem exec_permuteComplete_none (h : (s.ch c).gxc.permuting = none) :
    exec (.permuteComplete { ch := c, incoming := incoming, counters := counters }) s = .next s := by
  change execPermuteComplete _ s = _
  simp only [execPermuteComplete, h]

theorem exec_permuteComplete_clean {l : U8} (h : (s.ch c).gxc.permuting = some l) (hp : (s.ch c).mem.hbmPoison = [])
    (he : (s.ch c).mem.hbmErr = []) : exec (.permuteComplete { ch := c, incoming := incoming, counters := counters }) s =
      .next ((s.setCh c (((s.ch c).permuted l counters ((s.ch c).permutedHbm l.toNat incoming)).takeLayout c l)).emitAll
        (((s.ch c).movesAway l.toNat).map fun m => .permuteData c m.dstRole m.dst ((s.ch c).moveBytes m))) := by
  change execPermuteComplete _ s = _
  simp only [execPermuteComplete, h, State.permuteMoves_clean l.toNat incoming hp he]
  rw [State.emitAll_onCh, State.onCh, State.ch_setCh, State.setCh_setCh]
  unfold Channel.takeLayout Channel.permuted Channel.permutedHbm
  dsimp only
  generalize Channel.variant? _ _ = v
  cases v <;> rfl

end

/-- Settles O35: the write of GXC_RESHARD by its cases, and the end of a permute as stores to HBM followed by the layout's sections. -/
theorem reshardAndPermute : Obligations.ReshardAndPermute := by
  unfold Obligations.ReshardAndPermute
  intro c v l incoming counters s
  dsimp only
  refine ⟨fun hready => ?_, exec_permuteComplete_none, fun hrun hp he => ⟨_, exec_permuteComplete_clean hrun hp he, ?_⟩⟩
  · have hexec := exec_reshardGo_firmware v hready
    refine ⟨fun hignored => ?_, fun hgo hother hknown hin => ?_, fun hgo hother hknown hin hfree => ?_⟩
    · rwa [Channel.writeReshard_ignored hignored] at hexec
    · rwa [Channel.writeReshard_go hgo hother hknown, if_pos hin] at hexec
    · rwa [Channel.writeReshard_go hgo hother hknown, if_neg (by simp [hin]), if_neg (by simp [hfree])] at hexec
  · rw [State.emitAll_ch, State.ch_setCh, Channel.takeLayout_mem]
    refine ⟨fun x hx => (s.ch c).permutedHbm_outside l.toNat incoming hx, fun hapart m hm => ?_, congrArg (· ++ _) (s.setCh_out c _), rfl⟩
    rw [Channel.hbmBytes, Channel.takeLayout_mem]
    exact (s.ch c).permutedHbm_own l.toNat incoming hapart hm

end Sys2Proof.Machine
end

section
/-! PROOFS. Frames of a link: what a link takes, acknowledges and sends again (R247, R248). -/

namespace Sys2Proof.Machine

/-! ### One link of a channel -/

theorem Channel.link_onLink (ch : Channel) (l : Nat) (f : Link → Link) : (ch.onLink l f).link l = f (ch.link l) := smGet_smMod_same ..

theorem Channel.link_onLink_other (ch : Channel) {l k : Nat} (f : Link → Link) (h : k ≠ l) : (ch.onLink l f).link k = ch.link k :=
  smGet_smMod_other _ _ _ h

/-- Channel `c` with other links, the module having sent `outs` and taken `n` free values. -/
def State.setLinks (s : State) (c : ChanId) (links : SMap Link) (outs : List Out) (n : Nat) : State :=
  { s.setCh c { s.ch c with wrn := { (s.ch c).wrn with links := links } } with out := s.out ++ outs, free := s.free + n }

/-- State `t` is `s` with one link of channel `c` as `k`, with `outs` sent and `n` free values taken. -/
def linkMoves (c : ChanId) (link : LinkId) (k : Link) (outs : List Out) (n : Nat) (s t : State) : Prop :=
  ∃ links, t = s.setLinks c links outs n ∧ smGet {} links link.val = k ∧ ∀ l : Nat, l ≠ link.val → smGet {} links l = (s.ch c).link l

section

variable {c : ChanId} {link : LinkId} {k : Link} {outs : List Out} {n : Nat} {s t : State} {i : Instr} {p : Option Packet} {seq ack : BitVec 12}

theorem State.setLinks_ch (links : SMap Link) :
    (s.setLinks c links outs n).ch c = { s.ch c with wrn := { (s.ch c).wrn with links := links } } := by
  obtain rfl | rfl := ChanId.cases c <;> rfl

theorem linkMoves.refl : linkMoves c link ((s.ch c).link link.val) [] 0 s s := by
  refine ⟨(s.ch c).wrn.links, ?_, rfl, fun _ _ => rfl⟩
  rw [State.setLinks, List.append_nil]
  obtain rfl | rfl := ChanId.cases c <;> rfl

theorem linkMoves.link_eq (h : linkMoves c link k outs n s t) : (t.ch c).link link.val = k := by
  obtain ⟨links, rfl, hk, -⟩ := h
  rw [State.setLinks_ch]
  exact hk

theorem linkMoves.onLink (h : linkMoves c link k outs n s t) (f : Link → Link) :
    linkMoves c link (f k) outs n s (t.onCh c fun ch => ch.onLink link.val f) := by
  obtain ⟨links, rfl, rfl, hother⟩ := h
  refine ⟨smMod {} links link.val f, ?_, smGet_smMod_same .., fun l hl => (smGet_smMod_other _ _ _ hl).trans (hother l hl)⟩
  obtain rfl | rfl := ChanId.cases c <;> rfl

theorem linkMoves.emitAll (h : linkMoves c link k outs n s t) (l : List Out) : linkMoves c link k (outs ++ l) n s (t.emitAll l) := by
  obtain ⟨links, rfl, hk, hother⟩ := h
  exact ⟨links, by simp only [State.setLinks, State.emitAll, List.append_assoc], hk, hother⟩

theorem linkMoves.emit (h : linkMoves c link k outs n s t) (o : Out) : linkMoves c link k (outs ++ [o]) n s (t.emit o) := h.emitAll [o]

theorem linkMoves.tookFree (h : linkMoves c link k outs n s t) (m : Nat) : linkMoves c link k outs (n + m) s (t.tookFree m) := by
  obtain ⟨links, rfl, hk, hother⟩ := h
  exact ⟨links, by simp only [State.setLinks, State.tookFree, Nat.add_assoc], hk, hother⟩

theorem linkMoves.out_eq (h : linkMoves c link k outs n s t) : t.out = s.out ++ outs := by
  obtain ⟨links, rfl, -⟩ := h
  rfl

theorem linkMoves.free_eq (h : linkMoves c link k outs n s t) : t.free = s.free + n := by
  obtain ⟨links, rfl, -⟩ := h
  rfl

/-- A move of one link changes nothing else but what was sent and the free values taken. -/
theorem linkMoves.onlyLink (h : linkMoves c link k outs n s t) : onlyLink c link { s with out := t.out, free := t.free } t := by
  obtain ⟨links, rfl, -, hother⟩ := h
  constructor
  · intro l hl
    rw [State.setLinks_ch]
    exact hother l hl
  · rw [State.setLinks_ch]
    obtain rfl | rfl := ChanId.cases c <;> rfl

/-! ### Commands that move one link -/

theorem linkStepSent_of_moves (hexec : exec i s = .next t) (h : linkMoves c link k outs n s t) : linkStepSent i c link k outs n s :=
  ⟨t, hexec, h.link_eq, h.out_eq, h.free_eq, h.onlyLink⟩

theorem linkStepSends_of_moves (hexec : exec i s = .next (t.sendLink c link)) (h : linkMoves c link k outs n s t) :
    linkStepSends i c link k outs n s :=
  ⟨t, hexec, h.link_eq, h.out_eq, h.free_eq, h.onlyLink⟩

theorem linkMoves.onlyLink_silent (h : linkMoves c link k [] 0 s t) : Sys2Proof.Machine.onlyLink c link s t := by
  have honly := h.onlyLink
  rwa [h.out_eq, h.free_eq, List.append_nil] at honly

theorem linkStep_of_moves (hexec : exec i s = .next t) (h : linkMoves c link k [] 0 s t) : linkStep i c link k s :=
  ⟨t, hexec, h.link_eq, h.onlyLink_silent⟩

/-! ### Acknowledgement, NAK and replay (R248) -/

/-- A link after a frame that was corrected, or could not be. -/
def Link.counted (k : Link) (corr uncorr : Nat) : Link := { k with fecCorr := satAdd k.fecCorr corr, fecUncorr := satAdd k.fecUncorr uncorr }

/-- A link after a good frame: what it acknowledges is freed, and the next packet in sequence is accepted. -/
def Link.takes (k : Link) (p : Option Packet) (seq ack : BitVec 12) : Link :=
  if p.isSome ∧ seq = k.rxSeq then { k.acked ack with rxSeq := k.rxSeq + 1 } else k.acked ack

/-- An acknowledgement leaves both sequence numbers. -/
theorem Link.acked_seqs (k : Link) (ack : BitVec 12) : (k.acked ack).txSeq = k.txSeq ∧ (k.acked ack).rxSeq = k.rxSeq := by
  unfold Link.acked
  split <;> exact ⟨rfl, rfl⟩

theorem Link.acked_unknown {k : Link} {ack : BitVec 12} (h : k.replayBuf.findIdx? (fun e => e.1 == ack) = none) : k.acked ack = k := by
  simp [Link.acked, h]

theorem Link.takes_nothing (k : Link) (seq ack : BitVec 12) : k.takes none seq ack = k.acked ack := by simp [Link.takes]

theorem Link.takes_next {k : Link} {p : Option Packet} {seq : BitVec 12} (ack : BitVec 12) (hp : p.isSome = true) (h : seq = k.rxSeq) :
    k.takes p seq ack = { k.acked ack with rxSeq := k.rxSeq + 1 } := if_pos ⟨hp, h⟩

theorem Link.takes_other {k : Link} (p : Option Packet) {seq : BitVec 12} (ack : BitVec 12) (h : seq ≠ k.rxSeq) :
    k.takes p seq ack = k.acked ack := if_neg fun ⟨_, he⟩ => h he

/-- No frame is missing before the one expected. -/
theorem Link.gapBefore_next {k : Link} {seq : BitVec 12} (h : seq = k.rxSeq) : k.gapBefore seq = false := by
  simp [Link.gapBefore, h]

theorem Link.ne_of_gapBefore {k : Link} {seq : BitVec 12} (h : k.gapBefore seq = true) : seq ≠ k.rxSeq := fun he => by
  rw [Link.gapBefore_next he] at h
  cases h

/-- A NAK as this link sends it. -/
def Link.nakOut (k : Link) (c : ChanId) (l : LinkId) : Out := .nak c l (frameTrailer [] k.txSeq (k.rxSeq - 1) true)

/-- A frame that comes after a gap leaves both sequence numbers, and so the NAK for it. -/
theorem Link.nakOut_takes {k : Link} {seq : BitVec 12} (h : k.gapBefore seq = true) {corr uncorr : Nat} :
    ((k.counted corr uncorr).takes p seq ack).nakOut c link = k.nakOut c link := by
  have hother : (k.counted corr uncorr).takes p seq ack = (k.counted corr uncorr).acked ack := Link.takes_other p ack (Link.ne_of_gapBefore h)
  obtain ⟨htx, hrx⟩ := (k.counted corr uncorr).acked_seqs ack
  rw [hother, Link.nakOut, htx, hrx]
  rfl

theorem linkMoves.sendNak (h : linkMoves c link k outs n s t) : linkMoves c link k (outs ++ [k.nakOut c link]) n s (t.sendNak c link) := by
  have hmove := h.emit (k.nakOut c link)
  rwa [← h.link_eq] at hmove ⊢

/-- A link all of whose unacknowledged frames have been sent again. -/
def Link.resent (k : Link) : Link := { k with replay := satAdd k.replay k.replayBuf.length }

theorem linkMoves.resend (h : linkMoves c link k outs n s t) :
    linkMoves c link k.resent (outs ++ k.replayBuf.map (k.frameOut c link)) n s (t.resend c link) := by
  have hmove := (h.onLink fun x => { x with replay := satAdd x.replay k.replayBuf.length }).emitAll (k.replayBuf.map (k.frameOut c link))
  unfold State.resend
  rwa [h.link_eq]

/-- A link after a NAK: the sixteenth replay in a row sends it to RETRAIN (R247). -/
def Link.replayed (k : Link) : Link :=
  { k.resent with
    st := if k.replayRuns + 1 < 16 then k.st else .retrain
    replayRuns := if k.replayRuns + 1 < 16 then k.replayRuns + 1 else 0
    retrains := if k.replayRuns + 1 < 16 then k.retrains else satAdd k.retrains 1
    attempts := if k.replayRuns + 1 < 16 then k.attempts else 0 }

theorem State.replay_nothing (h : ((s.ch c).link link.val).replayBuf = []) : s.replay c link = s := by
  simp [State.replay, h]

theorem linkMoves.replay (h : linkMoves c link k outs n s t) (hbuf : k.replayBuf ≠ []) :
    linkMoves c link k.replayed (outs ++ k.replayBuf.map (k.frameOut c link)) n s (t.replay c link) := by
  have hagain := h.resend.onLink fun x => { x with replayRuns := x.replayRuns + 1 }
  unfold State.replay
  rw [h.link_eq, if_neg (by simpa using hbuf)]
  by_cases hruns : k.replayRuns + 1 < 16
  · simp only [Link.replayed, if_pos hruns]
    exact hagain
  · simp only [Link.replayed, if_neg hruns]
    exact hagain.onLink fun x => { x with st := .retrain, retrains := satAdd x.retrains 1, attempts := 0, replayRuns := 0 }

/-! ### A frame arrives (R248) -/

variable {flags : Byte} {crc : U32} {fec : FecCounts}

theorem exec_linkFrameRx_deaf (hup : ((s.ch c).link link.val).st ≠ .up) (hauth : ((s.ch c).link link.val).st ≠ .auth) :
    exec (.linkFrameRx c link p seq ack flags crc fec) s = .next s := by
  change execLinkFrameRx c link p seq ack flags crc fec s = _
  exact if_pos ⟨hup, hauth⟩

variable (hst : ((s.ch c).link link.val).st = .up ∨ ((s.ch c).link link.val).st = .auth)
include hst

/-- A frame that is damaged is counted and answered with NAK. -/
theorem exec_linkFrameRx_bad
    (hbad : frameOk ((p.map Packet.bytes).getD []) (crc ++ flags ++ ack ++ seq) = false ∨ 0 < fec.uncorr) :
    linkStepSent (.linkFrameRx c link p seq ack flags crc fec) c link (((s.ch c).link link.val).counted fec.corr fec.uncorr)
      [((s.ch c).link link.val).nakOut c link] 0 s := by
  refine linkStepSent_of_moves ?_ (linkMoves.refl.onLink fun x => x.counted fec.corr fec.uncorr).sendNak
  change execLinkFrameRx c link p seq ack flags crc fec s = _
  unfold execLinkFrameRx
  dsimp only
  rw [if_neg (by rw [Channel.linkSt]; tauto), if_pos (by simpa using hbad)]
  rfl

/-- The state after a good frame, before anything is sent. -/
def State.takesFrame (s : State) (c : ChanId) (link : LinkId) (p : Option Packet) (seq ack : BitVec 12) (fec : FecCounts) : State :=
  (s.onCh c fun ch => ch.onLink link.val fun x => x.counted fec.corr fec.uncorr).onCh c fun ch => ch.onLink link.val fun x => x.takes p seq ack

omit hst in
theorem State.takesFrame_moves : linkMoves c link ((((s.ch c).link link.val).counted fec.corr fec.uncorr).takes p seq ack) [] 0 s
    (s.takesFrame c link p seq ack fec) :=
  (linkMoves.refl.onLink fun x => x.counted fec.corr fec.uncorr).onLink fun x => x.takes p seq ack

/-- A good frame: the link takes it, answers with NAK what is missing before it, and sends again what a NAK asks for. -/
theorem exec_linkFrameRx_good (hok : frameOk ((p.map Packet.bytes).getD []) (crc ++ flags ++ ack ++ seq) = true) (hun : fec.uncorr = 0) :
    ∃ t, exec (.linkFrameRx c link p seq ack flags crc fec) s =
        .next ((if flags.getLsbD 0 then t.replay c link else t).sendLink c link) ∧
      linkMoves c link ((((s.ch c).link link.val).counted fec.corr fec.uncorr).takes p seq ack)
        (if p.isSome && ((s.ch c).link link.val).gapBefore seq then [((s.ch c).link link.val).nakOut c link] else []) 0 s t := by
  refine ⟨if p.isSome && ((s.ch c).link link.val).gapBefore seq then (s.takesFrame c link p seq ack fec).sendNak c link
    else s.takesFrame c link p seq ack fec, ?_, ?_⟩
  · change execLinkFrameRx c link p seq ack flags crc fec s = _
    unfold execLinkFrameRx
    dsimp only
    rw [if_neg (by rw [Channel.linkSt]; tauto), if_neg (by simp [hok, hun])]
    rfl
  · split
    next hgap =>
      rw [← Link.nakOut_takes (Bool.and_eq_true_iff.mp hgap).2]
      exact State.takesFrame_moves.sendNak
    next => exact State.takesFrame_moves

end

/-- Settles O18: a frame is discarded with NAK, or taken; a NAK in it sends again what the link still keeps. -/
theorem framesInSequenceAreAccepted : Obligations.FramesInSequenceAreAccepted := by
  unfold Obligations.FramesInSequenceAreAccepted
  intro c link p seq ack flags crc corr uncorr s
  dsimp only
  refine ⟨fun hup hauth => exec_linkFrameRx_deaf hup hauth, fun hst hbad => exec_linkFrameRx_bad hst hbad, fun hst hok hun hflag => ?_,
    fun hst hok hun hflag hp hbuf => ?_, fun hup hok hun hflag hp hack hbuf => ?_⟩
  all_goals
    obtain ⟨t, hexec, hmove⟩ := exec_linkFrameRx_good (fec := { corr := corr, uncorr := uncorr }) (by tauto) hok hun
    simp only [hflag, Bool.false_eq_true, if_false, if_true] at hexec
    dsimp only at hmove
    set k := ((s.ch c).link link.val).counted corr uncorr
  · refine ⟨fun hp => ?_, fun hp hseq => ?_, fun hp hseq hgap => ?_, fun hp hgap => ?_⟩
    · subst hp
      rw [Link.takes_nothing] at hmove
      exact linkStepSends_of_moves hexec hmove
    · rw [Link.takes_next (k := k) ack hp hseq, Link.gapBefore_next hseq, Bool.and_false] at hmove
      exact linkStepSends_of_moves hexec hmove
    · rw [Link.takes_other (k := k) p ack hseq, hgap, Bool.and_false] at hmove
      exact linkStepSends_of_moves hexec hmove
    · rw [Link.takes_other (k := k) p ack (Link.ne_of_gapBefore hgap), hgap, hp] at hmove
      exact linkStepSends_of_moves hexec hmove
  · subst hp
    rw [Link.takes_nothing] at hmove
    rw [State.replay_nothing (by rw [hmove.link_eq]; exact hbuf)] at hexec
    exact linkStepSends_of_moves hexec hmove
  · subst hp
    rw [Link.takes_nothing, Link.acked_unknown (k := k) hack] at hmove
    have hagain := hmove.replay hbuf
    have hst : k.st = .up := hup
    simp only [Link.replayed, hst] at hagain
    exact linkStepSends_of_moves hexec hagain

end Sys2Proof.Machine
end

section
/-! PROOFS. The states of a link, and a link that fails (Table 12-1, R246, R247, R264, R357, R366). -/

namespace Sys2Proof.Machine

/-! ### What changes with a channel -/

section

variable {c : ChanId} {s t u : State}

theorem onlyChannelSent.trans (h : onlyChannelSent c s t) (h' : onlyChannelSent c t u) : onlyChannelSent c s u := by
  unfold onlyChannelSent at *
  rw [h', h]
  obtain rfl | rfl := ChanId.cases c <;> rfl

theorem onlyChannelSent_setCh (s : State) (c : ChanId) (k : Channel) : onlyChannelSent c s (s.setCh c k) := by
  obtain rfl | rfl := ChanId.cases c <;> rfl

theorem onlyChannelSent_emit (s : State) (c : ChanId) (o : Out) : onlyChannelSent c s (s.emit o) := by
  obtain rfl | rfl := ChanId.cases c <;> rfl

/-- Entry to JOINED is left alone outside CALIBRATE, and before the SELF entry is there (R396). -/
theorem State.tryJoin_stays (h : (s.ch c).chn.state = .calibrate → (s.ch c).cfg.selfRx = false) : s.tryJoin c = s := by
  have hmay : (s.ch c).mayJoin = false := by
    by_cases hst : (s.ch c).chn.state = .calibrate
    · simp [Channel.mayJoin, h hst]
    · simp [Channel.mayJoin, hst]
  simp [State.tryJoin, hmay]

end

/-! ### A link that fails (R264, R270, R345) -/

/-- The router, the tasks, the vector engines and the memories of `k` are those of `ch`. -/
def Channel.sameWork (ch k : Channel) : Prop := k.wrn = ch.wrn ∧ k.tsk = ch.tsk ∧ k.vec = ch.vec ∧ k.mem = ch.mem

theorem Channel.sameWork.refl (ch : Channel) : ch.sameWork ch := ⟨rfl, rfl, rfl, rfl⟩

theorem Channel.sameWork.raise {ch k : Channel} (h : ch.sameWork k) (c : ChanId) (code : Nat) : ch.sameWork (k.raise c code) := by
  obtain ⟨evs, rs, hraise⟩ := k.raise_eq_withRaised c code
  rw [hraise]
  exact h

theorem Channel.report_sameWork (ch : Channel) (c : ChanId) (code : Nat) (source : U8) (u : SuspectUnit) (second : Option Nat)
    (pair : Option (Nat × Nat)) (fill : FaultRec → FaultRec) : ch.sameWork (ch.report c code source u second pair fill) :=
  ite_ind ch.sameWork (.raise ⟨rfl, rfl, rfl, rfl⟩ c _) <| ite_ind ch.sameWork ⟨rfl, rfl, rfl, rfl⟩ <|
    ite_ind ch.sameWork ⟨rfl, rfl, rfl, rfl⟩ <| .raise ⟨rfl, rfl, rfl, rfl⟩ c _

/-- A link that leaves the states in which it carries operations. -/
def Link.leaves (k : Link) (st : LinkSt) : Link :=
  { k with
    st := st, eligible := false, queue := [], replayBuf := [], replayRuns := 0, used := [], partMsg := none, attempts := 0
    peerStratum := 0xFF, txSeq := 0, rxSeq := 0 }

/-- A channel one of whose links enters FAILED with nothing queued on it. -/
def Channel.linkFails (ch : Channel) (c : ChanId) (l : LinkId) : Channel :=
  let k := ch.onLink l.val fun x => x.leaves .failed
  ({ k with wrn := { k.wrn with linkDown := true } }.raise c 0x3001).report c 0x3001 6 (.link l.val) none none
    fun r => { r with detail := BitVec.ofNat 32 l.val }

theorem Channel.linkFails_work (ch : Channel) (c : ChanId) (l : LinkId) :
    (ch.linkFails c l).wrn = { (ch.onLink l.val fun x => x.leaves .failed).wrn with linkDown := true } ∧
      (ch.linkFails c l).tsk = ch.tsk ∧ (ch.linkFails c l).vec = ch.vec ∧ (ch.linkFails c l).mem = ch.mem := by
  set k : Channel := { ch.onLink l.val fun x => x.leaves .failed with wrn := { (ch.onLink l.val fun x => x.leaves .failed).wrn with linkDown := true } }
  obtain ⟨hwrn, htsk, hvec, hmem⟩ := Channel.sameWork.raise (.refl k) c 0x3001
  obtain ⟨hwrn', htsk', hvec', hmem'⟩ := (k.raise c 0x3001).report_sameWork c 0x3001 6 (.link l.val) none none
    fun r => { r with detail := BitVec.ofNat 32 l.val }
  exact ⟨hwrn'.trans hwrn, htsk'.trans htsk, hvec'.trans hvec, hmem'.trans hmem⟩

section

variable {c : ChanId} {link : LinkId} {s t u : State}

/-- With nothing queued there, the failure of a link changes its channel alone. -/
theorem State.linkFailed_idle (h : ((s.ch c).link link.val).queue = []) : s.linkFailed c link = s.setCh c ((s.ch c).linkFails c link) := by
  simp only [State.linkFailed, State.linkLeaves, h, State.requeue, List.foldl_nil, State.onCh_onCh]
  rfl

/-- State `t` is `s` after a link failed, for want of authentication with `auth`: the link is FAILED, not eligible and empty, and every
other link, every task, the engines and core SRAM are as before. -/
def linkFailsTo (c : ChanId) (link : LinkId) (auth : Bool) (s t : State) : Prop :=
  ((t.ch c).link link.val).st = .failed ∧ ((t.ch c).link link.val).eligible = false ∧ ((t.ch c).link link.val).queue = [] ∧
    (t.ch c).wrn.linkDown = true ∧ (t.ch c).wrn.authFail = ((s.ch c).wrn.authFail || auth) ∧ (t.ch c).wrn.reqs = (s.ch c).wrn.reqs ∧
    (t.ch c).wrn.routes = (s.ch c).wrn.routes ∧ (t.ch c).tsk = (s.ch c).tsk ∧ (t.ch c).vec = (s.ch c).vec ∧
    (t.ch c).mem.sram = (s.ch c).mem.sram ∧ (∀ l : Nat, l ≠ link.val → (t.ch c).link l = (s.ch c).link l) ∧ onlyChannelSent c s t

theorem State.linkFailed_fails (h : ((s.ch c).link link.val).queue = []) : linkFailsTo c link false s (s.linkFailed c link) := by
  rw [State.linkFailed_idle h]
  obtain ⟨hwrn, htsk, hvec, hmem⟩ := (s.ch c).linkFails_work c link
  have hlink (l : Nat) : ((s.ch c).linkFails c link).link l = ((s.ch c).onLink link.val fun x => x.leaves .failed).link l := by
    rw [Channel.link, hwrn]
    rfl
  rw [linkFailsTo, State.ch_setCh, hlink, Channel.link_onLink, hwrn, hmem, Bool.or_false]
  exact ⟨rfl, rfl, rfl, rfl, rfl, rfl, rfl, htsk, hvec, rfl, fun l hl => (hlink l).trans (Channel.link_onLink_other _ _ hl),
    onlyChannelSent_setCh ..⟩

/-- What happened to the channel before its link failed is kept, if it touched that link, WRN_AUTH_FAIL and an event alone. -/
theorem linkFailsTo.after {auth auth' a : Bool} {links : SMap Link} {evs : List EvRec} {rs : List U16} (h : linkFailsTo c link auth u t)
    (hch : u.ch c = ({ s.ch c with wrn := { (s.ch c).wrn with links := links, authFail := a } } : Channel).withRaised evs rs)
    (hauth : (a || auth) = ((s.ch c).wrn.authFail || auth')) (hother : ∀ l : Nat, l ≠ link.val → smGet {} links l = (s.ch c).link l)
    (honly : onlyChannelSent c s u) : linkFailsTo c link auth' s t := by
  obtain ⟨hst, helig, hq, hdown, hauth', hreqs, hroutes, htsk, hvec, hsram, hother', honly'⟩ := h
  rw [hch] at hauth' hreqs hroutes htsk hvec hsram hother'
  exact ⟨hst, helig, hq, hdown, hauth'.trans hauth, hreqs, hroutes, htsk, hvec, hsram, fun l hl => (hother' l hl).trans (hother l hl),
    honly.trans honly'⟩

theorem linkFailsTo.after_moves {auth : Bool} {k : Link} {outs : List Out} {n : Nat} (h : linkFailsTo c link auth u t)
    (hmove : linkMoves c link k outs n s u) : linkFailsTo c link auth s t := by
  obtain ⟨links, rfl, -, hother⟩ := hmove
  refine h.after (evs := (s.ch c).events) (rs := (s.ch c).beat.raised) (State.setLinks_ch ..) rfl hother ?_
  obtain rfl | rfl := ChanId.cases c <;> rfl

theorem State.linkUnauthenticated_fails (h : ((s.ch c).link link.val).queue = []) :
    linkFailsTo c link true s (s.linkUnauthenticated c link) := by
  obtain ⟨evs, rs, hraise⟩ := Channel.raise_eq_withRaised { s.ch c with wrn := { (s.ch c).wrn with authFail := true } } c 0x3003
  have hu := s.ch_setCh c (({ s.ch c with wrn := { (s.ch c).wrn with authFail := true } } : Channel).withRaised evs rs)
  rw [State.linkUnauthenticated, State.onCh, hraise]
  exact (State.linkFailed_fails (by rw [hu]; exact h)).after hu (Bool.or_true _).symm (fun _ _ => rfl) (onlyChannelSent_setCh ..)

end

/-! ### Training (R246) -/

section

variable {c : ChanId} {link : LinkId} {s : State}

theorem exec_linkSignalDetect_trains (hst : ((s.ch c).link link.val).st = .down) (hmay : (s.ch c).mayTrain link = true) :
    exec (.linkSignalDetect c link) s = .next (s.trainLink c link) := if_pos ⟨hst, hmay⟩

theorem exec_linkSignalDetect_void (h : ((s.ch c).link link.val).st ≠ .down ∨ (s.ch c).mayTrain link = false) :
    exec (.linkSignalDetect c link) s = .next s := if_neg fun ⟨hst, hmay⟩ => h.elim (· hst) fun h => by simp [h] at hmay

theorem State.trainLink_moves : linkMoves c link { (s.ch c).link link.val with st := .training } [.training c link (s.ch c).wrn.slot] 0 s
    (s.trainLink c link) := (linkMoves.refl.onLink fun x => { x with st := .training }).emit _

theorem exec_linkTrainingTimeout_training (hst : ((s.ch c).link link.val).st = .training) :
    linkStep (.linkTrainingTimeout c link) c link { (s.ch c).link link.val with st := .down } s :=
  linkStep_of_moves (if_pos hst) (linkMoves.refl.onLink fun x => { x with st := .down })

theorem exec_linkTrainingTimeout_other (hst : ((s.ch c).link link.val).st ≠ .training) : exec (.linkTrainingTimeout c link) s = .next s :=
  if_neg hst

variable {pm : BitVec 14} {pc : BitVec 1} {pl : BitVec 6} {sett : Nat}

/-- A link that has trained, with the peer it found. -/
def Link.trained (k : Link) (pm : BitVec 14) (pc : BitVec 1) (pl : BitVec 6) : Link :=
  { k with st := .auth, peerModule := pm, peerChannel := pc, peerLink := pl }

/-- The peer of an intra-sett link is the one that the wiring names (R246). -/
def Channel.wired (ch : Channel) (c : ChanId) (link : LinkId) (pl : BitVec 6) (sett : Nat) : Prop :=
  isIntra link.val = true → (sett, pl.toNat) = wiring (ch.settIndex c) link.val

theorem exec_linkTrainingDone_other (hst : ((s.ch c).link link.val).st ≠ .training) :
    exec (.linkTrainingDone c link pm pc pl sett) s = .next s := if_pos hst

variable (hst : ((s.ch c).link link.val).st = .training)
include hst

theorem exec_linkTrainingDone_miswired (h : ¬ (s.ch c).wired c link pl sett) : exec (.linkTrainingDone c link pm pc pl sett) s =
    .next (s.setCh c (({ s.ch c with wrn := { (s.ch c).wrn with miswire := true } }.setLinkSt link .down).raise c 0x3002)) := by
  change execLinkTrainingDone c link pm pc pl sett s = _
  unfold execLinkTrainingDone
  dsimp only
  rw [if_neg (by rw [Channel.linkSt]; simp [hst]), if_pos (by simpa [Channel.wired] using h)]
  rfl

theorem exec_linkTrainingDone_wired (h : (s.ch c).wired c link pl sett) (hrandom : (s.ch c).sec.entropyFail = false) :
    exec (.linkTrainingDone c link pm pc pl sett) s =
      .next ((s.onCh c fun ch => ch.onLink link.val fun x => x.trained pm pc pl).authHello c link) := by
  change execLinkTrainingDone c link pm pc pl sett s = _
  unfold execLinkTrainingDone
  dsimp only
  rw [if_neg (by rw [Channel.linkSt]; simp [hst]), if_neg (by simpa [Channel.wired] using h), if_neg (by simp [hrandom])]
  rfl

/-- Without random bits no authentication can begin (R357). -/
theorem exec_linkTrainingDone_noRandom (h : (s.ch c).wired c link pl sett) (hrandom : (s.ch c).sec.entropyFail = true) :
    exec (.linkTrainingDone c link pm pc pl sett) s =
      .next ((s.onCh c fun ch => ch.onLink link.val fun x => x.trained pm pc pl).linkUnauthenticated c link) := by
  change execLinkTrainingDone c link pm pc pl sett s = _
  unfold execLinkTrainingDone
  dsimp only
  rw [if_neg (by rw [Channel.linkSt]; simp [hst]), if_neg (by simpa [Channel.wired] using h), if_pos hrandom]
  rfl

end

/-! ### Authentication (R366) -/

section

variable {c : ChanId} {link : LinkId} {k : Link} {outs : List Out} {n : Nat} {s t : State}

/-- The first messages of authentication tell the certificates, the lifecycle, the debug level and the domain key. -/
theorem linkMoves.authHello (h : linkMoves c link k outs 0 s t) :
    linkMoves c link k (outs ++ [.authHello c link (BitVec.ofNat 256 (Config.drbg s.free)) (s.ch c).ser.certs.identity (s.ch c).ser.certs.chain
      (s.ch c).sec.lifecycle (s.ch c).sec.dbgLevel (s.ch c).sec.settings.domainKey]) 1 s (t.authHello c link) := by
  have hmove := (h.emit (.authHello c link (BitVec.ofNat 256 (Config.drbg t.free)) (t.ch c).ser.certs.identity (t.ch c).ser.certs.chain
    (t.ch c).sec.lifecycle (t.ch c).sec.dbgLevel (t.ch c).sec.settings.domainKey)).tookFree 1
  have hfree : t.free = s.free := h.free_eq
  obtain ⟨links, ht, -⟩ := h
  have hch : t.ch c = { s.ch c with wrn := { (s.ch c).wrn with links := links } } := by rw [ht, State.setLinks_ch]
  unfold State.authHello
  rw [hch, hfree] at hmove ⊢
  exact hmove

variable {ver inv : Bool} {lc : Lifecycle} {key : Option Key} {stratum : U8}

/-- The verdict, the keys, the lifecycle, the domain key and the closed INVASIVE level agree (R366). -/
def Channel.authAgrees (ch : Channel) (ver inv : Bool) (lc : Lifecycle) (key : Option Key) : Prop :=
  ver = true ∧ ch.sec.keys = true ∧ lc = ch.sec.lifecycle ∧ inv = false ∧ ch.sec.dbgLevel ≠ .invasive ∧ key = ch.sec.settings.domainKey

theorem Channel.authOk_iff (ch : Channel) : ch.authOk ver lc key inv = true ↔ ch.authAgrees ver inv lc key := by
  simp only [Channel.authOk, Channel.authAgrees, Bool.and_eq_true, beq_iff_eq, bne_iff_ne, Bool.not_eq_true', and_assoc]

theorem exec_linkAuth_other (hst : ((s.ch c).link link.val).st ≠ .auth) :
    exec (.linkAuth c link ver lc key inv stratum) s = .next s ∧ exec (.linkAuthTimeout c link) s = .next s := ⟨if_pos hst, if_neg hst⟩

/-- The state of a link that has come UP, before it sends. -/
def State.linkUp (s : State) (c : ChanId) (link : LinkId) (stratum : U8) : State :=
  (s.emit (.authSign c link)).onCh c fun ch => ch.onLink link.val fun x => { x with st := .up, peerStratum := stratum }

theorem State.linkUp_moves : linkMoves c link { (s.ch c).link link.val with st := .up, peerStratum := stratum } [.authSign c link] 0 s
    (s.linkUp c link stratum) := (linkMoves.refl.emit _).onLink fun x => { x with st := .up, peerStratum := stratum }

variable (hst : ((s.ch c).link link.val).st = .auth)
include hst

theorem exec_linkAuth_agrees (h : (s.ch c).authAgrees ver inv lc key) : exec (.linkAuth c link ver lc key inv stratum) s =
    .next (((s.linkUp c link stratum).sendLink c link).tryJoin c) := by
  change execLinkAuth c link ver lc key inv stratum s = _
  unfold execLinkAuth
  dsimp only
  rw [if_neg (by rw [Channel.linkSt]; simp [hst]), if_pos ((Channel.authOk_iff _).mpr h)]
  rfl

theorem exec_linkAuth_fails (h : ¬ (s.ch c).authAgrees ver inv lc key) : exec (.linkAuth c link ver lc key inv stratum) s =
    .next ((s.emit (.authSign c link)).linkUnauthenticated c link) := by
  change execLinkAuth c link ver lc key inv stratum s = _
  unfold execLinkAuth
  dsimp only
  rw [if_neg (by rw [Channel.linkSt]; simp [hst]), if_neg fun hok => h ((Channel.authOk_iff _).mp hok)]

theorem exec_linkAuthTimeout_auth : exec (.linkAuthTimeout c link) s = .next (s.linkUnauthenticated c link) := if_pos hst

omit hst in
/-- A link on which nothing is queued sends nothing. -/
theorem linkMoves.sendLink_idle (h : linkMoves c link k outs n s t) (hq : k.queue = []) : linkMoves c link k outs n s (t.sendLink c link) := by
  have hsame : { k with queue := [] } = k := by rw [← hq]
  have hmove := (h.onLink fun _ => { k with queue := [] }).emitAll []
  unfold State.sendLink
  simp only [h.link_eq, hq, drainQueue, List.map_nil]
  rw [List.append_nil] at hmove
  rw [hsame] at hmove ⊢
  exact hmove

omit hst in
theorem linkMoves.tryJoin_stays (h : linkMoves c link k outs n s t) (hjoin : (s.ch c).chn.state = .calibrate → (s.ch c).cfg.selfRx = false) :
    t.tryJoin c = t := by
  obtain ⟨links, rfl, -⟩ := h
  exact State.tryJoin_stays (by rw [State.setLinks_ch]; exact hjoin)

end

/-! ### Retraining (R247) -/

section

variable {c : ChanId} {link : LinkId} {s : State}

theorem exec_linkLossOfLock_up (hst : ((s.ch c).link link.val).st = .up) : linkStep (.linkLossOfLock c link) c link
    { (s.ch c).link link.val with st := .retrain, retrains := satAdd ((s.ch c).link link.val).retrains 1, attempts := 0, replayRuns := 0 } s :=
  linkStep_of_moves (if_pos hst) (linkMoves.refl.onLink fun x =>
    { x with st := .retrain, retrains := satAdd x.retrains 1, attempts := 0, replayRuns := 0 })

theorem exec_linkLossOfLock_other (hst : ((s.ch c).link link.val).st ≠ .up) : exec (.linkLossOfLock c link) s = .next s := if_neg hst

theorem exec_linkRetrain_other (hst : ((s.ch c).link link.val).st ≠ .retrain) :
    exec (.linkRetrainDone c link) s = .next s ∧ exec (.linkRetrainFail c link) s = .next s := ⟨if_neg hst, if_pos hst⟩

variable (hst : ((s.ch c).link link.val).st = .retrain)
include hst

/-- A link that comes back has lost no frame (R248). -/
theorem exec_linkRetrainDone_retrain : linkStepSends (.linkRetrainDone c link) c link
    { (s.ch c).link link.val with
      st := .up, attempts := 0, replay := satAdd ((s.ch c).link link.val).replay ((s.ch c).link link.val).replayBuf.length }
    (((s.ch c).link link.val).replayBuf.map (((s.ch c).link link.val).frameOut c link)) 0 s :=
  linkStepSends_of_moves (if_pos hst) (linkMoves.refl.onLink fun x => { x with st := .up, attempts := 0 }).resend

theorem exec_linkRetrainFail_third (h : 3 ≤ ((s.ch c).link link.val).attempts + 1) :
    exec (.linkRetrainFail c link) s = .next (s.linkFailed c link) := by
  change execLinkRetrainFail c link s = _
  rw [execLinkRetrainFail, if_neg (by rw [Channel.linkSt]; simp [hst]), if_neg (by omega)]

theorem exec_linkRetrainFail_again (h : ((s.ch c).link link.val).attempts + 1 < 3) : linkStep (.linkRetrainFail c link) c link
    { (s.ch c).link link.val with attempts := ((s.ch c).link link.val).attempts + 1 } s := by
  refine linkStep_of_moves ?_ (linkMoves.refl.onLink fun x => { x with attempts := x.attempts + 1 })
  change execLinkRetrainFail c link s = _
  rw [execLinkRetrainFail, if_neg (by rw [Channel.linkSt]; simp [hst]), if_pos h]

end

/-- Settles O17: each transition as a move of its link alone, each failure as one operation over an empty queue. -/
theorem linksFollowTheirTable : Obligations.LinksFollowTheirTable := by
  unfold Obligations.LinksFollowTheirTable
  refine ⟨?_, ?_⟩ <;> intro c link pm pc pl sett ver inv lc key stratum s <;> dsimp only
  · refine ⟨fun hst hmay => linkStepSent_of_moves (exec_linkSignalDetect_trains hst hmay) State.trainLink_moves, exec_linkSignalDetect_void,
      exec_linkTrainingTimeout_training, fun hst => ⟨exec_linkTrainingTimeout_other hst, exec_linkTrainingDone_other hst⟩,
      exec_linkTrainingDone_miswired, fun hst hwired hrandom => ?_, fun hst hagrees => ?_, fun hst hagrees hq hjoin => ?_, exec_linkAuth_fails,
      exec_linkAuthTimeout_auth, exec_linkAuth_other, exec_linkLossOfLock_up, exec_linkLossOfLock_other, exec_linkRetrain_other,
      exec_linkRetrainFail_third, exec_linkRetrainDone_retrain, exec_linkRetrainFail_again⟩
    · exact linkStepSent_of_moves (exec_linkTrainingDone_wired hst hwired hrandom) (linkMoves.refl.onLink fun x => x.trained pm pc pl).authHello
    · have hmove := State.linkUp_moves (s := s) (c := c) (link := link) (stratum := stratum)
      have honly := hmove.onlyLink
      rw [hmove.free_eq] at honly
      exact ⟨_, exec_linkAuth_agrees hst hagrees, hmove.link_eq, hmove.out_eq, hmove.free_eq, honly⟩
    · have hmove := (State.linkUp_moves (s := s) (c := c) (link := link) (stratum := stratum)).sendLink_idle hq
      have hexec := exec_linkAuth_agrees (stratum := stratum) hst hagrees
      rw [hmove.tryJoin_stays hjoin] at hexec
      exact linkStepSent_of_moves hexec hmove
  · intro hq
    refine ⟨fun hst hwired hrandom => ?_, fun hst hwrong => ?_, fun hst => ?_, fun hst hthird => ?_⟩
    · have hmove := (linkMoves.refl (s := s) (c := c) (link := link)).onLink fun x => x.trained pm pc pl
      exact ⟨_, exec_linkTrainingDone_noRandom hst hwired hrandom, (State.linkUnauthenticated_fails (by rw [hmove.link_eq]; exact hq)).after_moves hmove⟩
    · have hmove := (linkMoves.refl (s := s) (c := c) (link := link)).emit (.authSign c link)
      refine ⟨_, exec_linkAuth_fails hst ?_, (State.linkUnauthenticated_fails (s := s.emit _) hq).after_moves hmove⟩
      rintro ⟨hver, hkeys, hlc, hinv, hdbg, hkey⟩
      simp [hver, hkeys, hlc, hinv, hdbg, hkey] at hwrong
    · exact ⟨_, exec_linkAuthTimeout_auth hst, State.linkUnauthenticated_fails hq⟩
    · exact ⟨_, exec_linkRetrainFail_third hst hthird, State.linkFailed_fails hq⟩

end Sys2Proof.Machine
end

section
/-! PROOFS. The router: a packet that a link brings is handed over, moves on, or ends (R247, R252, R253, R256, R260 to R262). -/

namespace Sys2Proof.Machine

/-! ### A packet that has crossed a link -/

/-- A packet as the router takes it: a response with its checks made. -/
def Packet.taken (p : Packet) : Packet := if p.isResponse then p.checkedRsp else p

theorem Packet.taken_request {p : Packet} (h : p.isResponse = false) : p.taken = p := if_neg (by simp [h])

theorem Packet.taken_response {p : Packet} (h : p.isResponse = true) : p.taken = p.checkedRsp := if_pos h

/-- The checks of a response leave its operation and its source. -/
theorem Packet.checkedRsp_keeps (p : Packet) : p.checkedRsp.op = p.op ∧ p.checkedRsp.srcModule = p.srcModule ∧
    p.checkedRsp.srcChannel = p.srcChannel ∧ p.checkedRsp.addr = p.addr :=
  ite_ind (fun q : Packet => q.op = p.op ∧ q.srcModule = p.srcModule ∧ q.srcChannel = p.srcChannel ∧ q.addr = p.addr)
    ⟨rfl, rfl, rfl, rfl⟩ ⟨rfl, rfl, rfl, rfl⟩

theorem Packet.taken_keeps (p : Packet) : p.taken.isResponse = p.isResponse ∧ p.taken.isMgmt = p.isMgmt ∧ p.taken.dest = p.dest := by
  obtain ⟨hop, hmod, hchan, haddr⟩ := p.checkedRsp_keeps
  refine ite_ind (fun q : Packet => q.isResponse = p.isResponse ∧ q.isMgmt = p.isMgmt ∧ q.dest = p.dest) ⟨?_, ?_, ?_⟩ ⟨rfl, rfl, rfl⟩
  · rw [Packet.isResponse, hop, Packet.isResponse]
  · rw [Packet.isMgmt, hop, Packet.isMgmt]
  · rw [Packet.dest, Packet.isResponse, hop, hmod, hchan, haddr]
    rfl

theorem Packet.crossed_keeps (p : Packet) (l : LinkId) : (p.crossed l).isResponse = p.isResponse ∧ (p.crossed l).isMgmt = p.isMgmt :=
  ite_ind (fun q : Packet => q.isResponse = p.isResponse ∧ q.isMgmt = p.isMgmt) ⟨rfl, rfl⟩ ⟨rfl, rfl⟩

/-- No packet is both a response and a management message. -/
theorem Packet.isResponse_of_isMgmt {p : Packet} (h : p.isMgmt = true) : p.isResponse = false := by
  have hop : 0xC0 ≤ p.op.toNat ∧ p.op.toNat ≤ 0xC3 := by simpa [Packet.isMgmt] using h
  have hne (v : U8) (hv : v.toNat < 0xC0) : (p.op == v) = false := beq_eq_false_iff_ne.mpr fun he => by rw [he] at hop; omega
  simp [Packet.isResponse, hne]

/-! ### Moving on (R260 to R262) -/

section

variable {s : State} {c : ChanId} {p : Packet}

theorem State.forward_departed (h : (s.ch c).routeState p.dest.1 p.dest.2 = 2) : s.forward c p = s.answer c p .gone [] := by
  simp [State.forward, State.forwardOn, h]

theorem State.forward_absent (h : (s.ch c).routeState p.dest.1 p.dest.2 = 0) (hmgmt : p.isMgmt = false) :
    s.forward c p = (if p.isResponse then s else s.setCh c (s.ch c).refusedOne).answer c p .addrErr [] := by
  simp [State.forward, State.forwardOn, h, hmgmt, State.onCh]

section

variable (h2 : (s.ch c).routeState p.dest.1 p.dest.2 ≠ 2) (h0 : (s.ch c).routeState p.dest.1 p.dest.2 ≠ 0)
include h2 h0

theorem State.forward_unreachable (hout : (s.ch c).outLink p = none) : s.forward c p = s.answer c p .gone [] := by
  simp [State.forward, State.forwardOn, hout]

theorem State.forward_leaves {k : LinkId} (hout : (s.ch c).outLink p = some k) (hrule : breaksClassRule p k = false) :
    s.forward c p = s.enqueue c k p := by
  simp [State.forward, State.forwardOn, hout, hrule]

theorem State.forward_breach {k : LinkId} (hout : (s.ch c).outLink p = some k) (hrule : breaksClassRule p k = true) :
    s.forward c p = (s.setCh c ((s.ch c).routeErr c)).answer c p .routeErr [] := by
  simp [State.forward, State.forwardOn, hout, hrule, State.onCh]

end

/-! ### What the router does with a packet -/

variable {l : LinkId}

/-- The packet is for this channel. -/
def Channel.owns (ch : Channel) (c : ChanId) (p : Packet) : Prop := p.dest = (ch.chn.moduleId.toNat, c.val)

theorem State.routePacket_mgmt (o : Origin) (hm : p.isMgmt = true) :
    ((s.ch c).owns c p ∨ p.mgmtBad = true → s.routePacket c o p = s) ∧
    (¬ (s.ch c).owns c p → p.mgmtBad = false → s.routePacket c o p = s.forward c p) := by
  unfold Channel.owns
  constructor
  · intro h
    rw [State.routePacket]
    simp only [hm, if_true]
    exact if_pos (by simpa using h)
  · intro hown hbad
    rw [State.routePacket]
    simp only [hm, if_true]
    exact if_neg (by simp [hown, hbad])

/-- A malformed request ends with the lowest code that applies (R256). -/
theorem State.routePacket_malformed (hm : p.isMgmt = false) (hr : p.isResponse = false) (hb : p.opBad = true) :
    ((s.ch c).owns c p → (s.ch c).pss.withdrawn = true → s.routePacket c (.warren l) p = s.respondTo c (.warren l) p .gone []) ∧
    ((s.ch c).owns c p → (s.ch c).pss.withdrawn = false → s.routePacket c (.warren l) p = s.respondTo c (.warren l) p .opErr []) ∧
    (¬ (s.ch c).owns c p → (s.ch c).transitCode p = none → s.routePacket c (.warren l) p = s.respondTo c (.warren l) p .opErr []) ∧
    (¬ (s.ch c).owns c p → (s.ch c).transitCode p ≠ none → s.routePacket c (.warren l) p = s.forward c p) := by
  unfold Channel.owns
  have hroute : s.routePacket c (.warren l) p = (if (p.dest == ((s.ch c).chn.moduleId.toNat, c.val)) && (s.ch c).pss.withdrawn then
      s.respondTo c (.warren l) p .gone [] else if !(p.dest == ((s.ch c).chn.moduleId.toNat, c.val)) && ((s.ch c).transitCode p).isSome then
      s.forward c p else s.respondTo c (.warren l) p .opErr []) := by
    simp [State.routePacket, hm, hr, hb, Origin.remote]
  refine ⟨fun hown hw => ?_, fun hown hw => ?_, fun hown hc => ?_, fun hown hc => ?_⟩ <;> rw [hroute]
  · simp [hown, hw]
  · simp [hown, hw]
  · simp [hown, hc]
  · simp [hown, Option.isSome_iff_ne_none.mpr hc]

/-- A response, or a request that is well formed, is handed over here and moves on elsewhere. -/
theorem State.routePacket_sound (o : Origin) (hm : p.isMgmt = false) (h : p.isResponse = true ∨ p.opBad = false) :
    ((s.ch c).owns c p → s.routePacket c o p = s.emit (.deliver c p.taken)) ∧
    (¬ (s.ch c).owns c p → s.routePacket c o p = s.forward c p.taken) := by
  unfold Channel.owns
  cases hr : p.isResponse
  · have hb : p.opBad = false := by simpa [hr] using h
    rw [Packet.taken_request hr]
    exact ⟨fun hown => by simp [State.routePacket, hm, hr, hb, hown], fun hown => by simp [State.routePacket, hm, hr, hb, hown]⟩
  · rw [Packet.taken_response hr]
    exact ⟨fun hown => by simp [State.routePacket, hm, hr, hown], fun hown => by simp [State.routePacket, hm, hr, hown]⟩

/-! ### The command -/

theorem exec_packetRoute_down (hst : (s.ch c).linkSt l ≠ .up) : exec (.packetRoute c (some l) p) s = .next s := by
  change execPacketRoute c (some l) p s = _
  exact if_pos hst

theorem exec_packetRoute_early (hst : (s.ch c).linkSt l = .up) (hj : (s.ch c).joined = false) (hr : p.isResponse = false)
    (hm : p.isMgmt = false) : exec (.packetRoute c (some l) p) s = .next (s.refuseEarly c (.warren l) p) := by
  change execPacketRoute c (some l) p s = _
  simp [execPacketRoute, hst, hj, hr, hm]

theorem exec_packetRoute_joined (hst : (s.ch c).linkSt l = .up) (hj : (s.ch c).joined = true) :
    exec (.packetRoute c (some l) p) s = .next (s.routePacket c (.warren l) (p.crossed l)) := by
  change execPacketRoute c (some l) p s = _
  simp [execPacketRoute, hst, hj]

end

/-- Settles O16: the router's answer by the kind of the packet, its form, and its way. -/
theorem packetRouteMovesOrEnds : Obligations.PacketRouteMovesOrEnds := by
  unfold Obligations.PacketRouteMovesOrEnds
  intro c l p s
  extract_lets ch x q st own goes
  obtain ⟨hxr, hxm⟩ := p.crossed_keeps l
  obtain ⟨hqr, hqm, hqd⟩ := x.taken_keeps
  change q.isResponse = x.isResponse at hqr
  change q.isMgmt = x.isMgmt at hqm
  change q.dest = x.dest at hqd
  have hown : own ↔ ch.owns c x := by rw [show own = (q.dest = _) from rfl, hqd]; rfl
  refine ⟨exec_packetRoute_down, exec_packetRoute_early, fun hst hj => ?_, fun hi => if_pos hi, fun hi => if_neg (by simp [hi])⟩
  have hroute {t : State} (h : s.routePacket c (.warren l) x = t) : goes t := h ▸ exec_packetRoute_joined hst hj
  refine ⟨fun hm => ?_, fun hm => ?_, fun hm hr hb => ?_, fun hm hsound => ?_⟩ <;> rw [← hxm] at hm <;> rw [hown]
  · have hq : q = x := Packet.taken_request (Packet.isResponse_of_isMgmt hm)
    rw [hq]
    exact fun h => hroute ((State.routePacket_mgmt _ hm).1 h)
  · have hq : q = x := Packet.taken_request (Packet.isResponse_of_isMgmt hm)
    rw [hq]
    exact fun h hbad => hroute ((State.routePacket_mgmt _ hm).2 h hbad)
  · rw [hqr] at hr
    have hq : q = x := Packet.taken_request hr
    rw [hq] at hb ⊢
    obtain ⟨hgone, herr, hend, hmove⟩ := State.routePacket_malformed (s := s) (c := c) (l := l) hm hr hb
    exact ⟨fun h hw => hroute (hgone h hw), fun h hw => hroute (herr h hw), fun h hc => hroute (hend h hc), fun h hc => hroute (hmove h hc)⟩
  · have hsound' : x.isResponse = true ∨ x.opBad = false := by
      cases hr : x.isResponse with
      | true => exact .inl rfl
      | false =>
        have hq : q = x := Packet.taken_request hr
        rw [hq, hr] at hsound
        exact hsound
    obtain ⟨hhere, haway⟩ := State.routePacket_sound (s := s) (c := c) (.warren l) hm hsound'
    change ¬ ch.owns c x → s.routePacket c (.warren l) x = s.forward c q at haway
    rw [← hqm] at hm
    refine ⟨fun h => hroute (hhere h), fun h h2 => hroute ((haway h).trans (State.forward_departed h2)),
      fun h h0 => hroute ((haway h).trans (State.forward_absent h0 hm)),
      fun h h2 h0 hout => hroute ((haway h).trans (State.forward_unreachable h2 h0 hout)), fun k h h2 h0 hout => ⟨fun hrule => ?_, fun hrule => ?_⟩⟩
    · exact hroute ((haway h).trans (State.forward_leaves h2 h0 hout hrule))
    · exact hroute ((haway h).trans (State.forward_breach h2 h0 hout hrule))

end Sys2Proof.Machine
end

section
/-! PROOFS. GET and PUT at their target (R254, R256, R274). -/

namespace Sys2Proof.Machine

section

variable {s : State} {c : ChanId} {p : Packet}

/-- A GET touches the bytes that its OPERAND counts (R254). -/
theorem Packet.span_get (h : p.op.toNat = 1) : p.span = p.operand.toNat := if_pos (BitVec.eq_of_toNat_eq h)

theorem State.readPlace_hbm_clean (off n : Nat) (hp : (s.ch c).mem.hbmPoison = []) (he : (s.ch c).mem.hbmErr = []) :
    s.readPlace c (.hbm off) n = (s, .ok, (s.ch c).hbmBytes off n) := by
  simp [State.readPlace, State.checkHbm_clean off n hp he]

theorem State.readPlace_sram_clean (slot off n : Nat) (hp : (s.ch c).mem.sramPoison = []) (he : (s.ch c).mem.sramErr = []) :
    s.readPlace c (.sram slot off) n = (s, .ok, (s.ch c).sramBytes ((s.ch c).pcore slot) off n) := by
  simp [State.readPlace, State.checkSram_clean _ _ _ hp he]

variable {o : Origin} {pl : Place} (ho : o.sendsOps = true) (hh : (s.ch c).hears o = true) (hj : o.remote = true → (s.ch c).joined = true)
  (hown : (s.ch c).isOwn c p.addr.toNat = true) (hreach : (s.ch c).reach o p = (.ok, pl)) (hpl : ∀ off, pl ≠ .csr off)
include ho hh hj hown hreach hpl

/-- A GET of a memory reads it at the target. -/
theorem exec_get_memory (hop : p.op.toNat = 1) : exec (.get c o p) s =
    let r := s.readPlace c pl p.operand.toNat
    .next (r.1.respondTo c o p r.2.1 r.2.2) := by
  change execGet c o p s = _
  rw [execGet, Packet.asOp_self hop, State.atTarget_ok ho hh hj hown hreach, Packet.span_get hop]
  cases pl with
  | csr off => exact absurd rfl (hpl off)
  | _ => rfl

/-- A PUT to a memory writes it, unless it covers poison in part. -/
theorem exec_put_memory (hop : p.op.toNat = 2) : exec (.put c o p) s = .next
    (if (s.ch c).partlyPoisoned pl p.payload.length then s.respondTo c o p .memErr []
      else (s.writePlace c pl p.payload).1.respondTo c o p (s.writePlace c pl p.payload).2 []) := by
  change execPut c o p s = _
  rw [execPut, Packet.asOp_self hop, State.atTarget_ok ho hh hj hown hreach]
  cases pl with
  | csr off => exact absurd rfl (hpl off)
  | _ =>
    dsimp only
    split <;> rfl

end

/-- Settles O14: a GET is a checked read, a PUT a write of its range, or nothing where it covers poison in part. -/
theorem getReadsPutWrites : Obligations.GetReadsPutWrites := by
  unfold Obligations.GetReadsPutWrites
  intro c o p s
  dsimp only
  intro ho hh hj hown
  refine ⟨fun off hop hreach hp he => ?_, fun slot off hop hreach hp he => ?_, fun off hop hreach hp => ?_, fun slot off hop hreach hp => ?_,
    fun off line hop hreach hline htouch hcover => ?_⟩
  · rw [exec_get_memory ho hh hj hown hreach (by simp) hop, State.readPlace_hbm_clean _ _ hp he]
  · rw [exec_get_memory ho hh hj hown hreach (by simp) hop, State.readPlace_sram_clean _ _ _ hp he]
  · have hwhole : (s.ch c).partlyPoisoned (.hbm off) p.payload.length = false := by simp [Channel.partlyPoisoned, hp]
    refine ⟨s.setCh c ((s.ch c).hbmWrite off p.payload), ?_, ?_⟩
    · rw [exec_put_memory ho hh hj hown hreach (by simp) hop, hwhole]
      rfl
    · rw [State.ch_setCh]
      refine ⟨(s.ch c).hbmBytes_hbmWrite off p.payload hp, fun x hx => (s.ch c).hbmWrite_outside off p.payload hx, ?_⟩
      simp only [Channel.hbmWrite, hp, uncovered, List.filter_nil]
  · have hwhole : (s.ch c).partlyPoisoned (.sram slot off) p.payload.length = false := by simp [Channel.partlyPoisoned, hp]
    refine ⟨s.setCh c ((s.ch c).sramWrite ((s.ch c).pcore slot) off p.payload), ?_, ?_⟩
    · rw [exec_put_memory ho hh hj hown hreach (by simp) hop, hwhole]
      rfl
    · rw [State.ch_setCh]
      refine ⟨(s.ch c).sramBytes_sramWrite _ off p.payload hp, fun x hx => (s.ch c).sramWrite_outside _ off p.payload hx, ?_⟩
      simp only [Channel.sramWrite, hp, uncovered, List.filter_nil]
  · have hpart : (s.ch c).partlyPoisoned (.hbm off) p.payload.length = true :=
      List.any_eq_true.mpr ⟨_, hline, by simp [htouch, hcover]⟩
    rw [exec_put_memory ho hh hj hown hreach (by simp) hop, hpart]
    rfl

end Sys2Proof.Machine
end

section
/-! PROOFS. Management messages: their fragments, and adoption (R247, R265, R267). -/

namespace Sys2Proof.Machine

/-! ### Fragments (R265) -/

/-- A link hears a fragment in UP, and in AUTH one of mutual authentication (R247). -/
def Link.hearsFrag (k : Link) (f : MgmtFrag) : Prop := k.st = .up ∨ (k.st = .auth ∧ f.op = 0xC3)

/-- A link with what it has of a message, or nothing once that is complete. -/
def Link.assembles (k : Link) (m : MgmtPartial) : Link := { k with partMsg := if m.total ≤ m.got.length then none else some m }

theorem Link.assembles_some {k : Link} {m : MgmtPartial} (h : m.got.length < m.total) : k.assembles m = { k with partMsg := some m } := by
  rw [Link.assembles, if_neg (by omega)]

theorem Link.assembles_none {k : Link} {m : MgmtPartial} (h : m.total ≤ m.got.length) : k.assembles m = { k with partMsg := none } := by
  rw [Link.assembles, if_pos h]

/-- A message that a fragment begins. -/
def MgmtFrag.start (f : MgmtFrag) : MgmtPartial := { op := f.op, tag := f.tag, seq := f.seq, total := f.total, got := mergeBytes [] f.offset f.bytes }

/-- A message with a further fragment. -/
def MgmtPartial.extend (m : MgmtPartial) (f : MgmtFrag) : MgmtPartial := { m with seq := f.seq, got := mergeBytes m.got f.offset f.bytes }

section

variable {c : ChanId} {link : LinkId} {f : MgmtFrag} {m : MgmtPartial} {s : State}

theorem Channel.linkSt_of_hearsFrag {ch : Channel} (h : (ch.link link.val).hearsFrag f) :
    ¬ (ch.linkSt link ≠ .up ∧ ¬ (ch.linkSt link = .auth ∧ f.op = 0xC3)) := fun hn => (not_or.mpr hn) h

theorem exec_mgmtFragmentRx_unheard (h : ¬ ((s.ch c).link link.val).hearsFrag f) : exec (.mgmtFragmentRx c link f) s = .next s := by
  change execMgmtFragmentRx c link f s = _
  exact if_pos (not_or.mp h)

section

variable (hears : ((s.ch c).link link.val).hearsFrag f)
include hears

theorem exec_mgmtFragmentRx_bad (hbad : f.bad = true) : exec (.mgmtFragmentRx c link f) s = .next (s.setCh c ((s.ch c).mgmtBad c)) := by
  change execMgmtFragmentRx c link f s = _
  unfold execMgmtFragmentRx
  dsimp only
  rw [if_neg (Channel.linkSt_of_hearsFrag hears), if_pos hbad]
  rfl

variable (hbad : f.bad = false)
include hbad

theorem exec_mgmtFragmentRx_first (hpart : ((s.ch c).link link.val).partMsg = none) : exec (.mgmtFragmentRx c link f) s =
    .next (s.onCh c fun k => k.onLink link.val fun x => x.assembles f.start) := by
  change execMgmtFragmentRx c link f s = _
  unfold execMgmtFragmentRx
  dsimp only
  rw [if_neg (Channel.linkSt_of_hearsFrag hears), if_neg (by simp [hbad]), hpart]
  rfl

theorem exec_mgmtFragmentRx_next (hpart : ((s.ch c).link link.val).partMsg = some m) (htag : m.tag = f.tag) (hseq : m.follows f.seq = true) :
    exec (.mgmtFragmentRx c link f) s = .next (s.onCh c fun k => k.onLink link.val fun x => x.assembles (m.extend f)) := by
  change execMgmtFragmentRx c link f s = _
  unfold execMgmtFragmentRx
  dsimp only
  have hsame : (m.tag == f.tag && m.follows f.seq) = true := by simp [htag, hseq]
  rw [if_neg (Channel.linkSt_of_hearsFrag hears), if_neg (by simp [hbad]), hpart]
  simp only [Option.any_some, hsame]
  rfl

/-- A fragment with another TAG discards the message before it. -/
theorem exec_mgmtFragmentRx_other (hpart : ((s.ch c).link link.val).partMsg = some m) (htag : m.tag ≠ f.tag) :
    exec (.mgmtFragmentRx c link f) s = .next (s.onCh c fun k => (k.mgmtBad c).onLink link.val fun x => x.assembles f.start) := by
  change execMgmtFragmentRx c link f s = _
  unfold execMgmtFragmentRx
  dsimp only
  have hsame : (m.tag == f.tag && m.follows f.seq) = false := by simp [htag]
  rw [if_neg (Channel.linkSt_of_hearsFrag hears), if_neg (by simp [hbad]), hpart]
  simp only [Option.any_some, hsame]
  rfl

end

theorem exec_mgmtPartialTimeout_none (h : ((s.ch c).link link.val).partMsg = none) : exec (.mgmtPartialTimeout c link) s = .next s :=
  if_neg (by simp [h])

theorem exec_mgmtPartialTimeout_some (h : ((s.ch c).link link.val).partMsg.isSome = true) : exec (.mgmtPartialTimeout c link) s =
    .next (s.setCh c (((s.ch c).onLink link.val fun x => { x with partMsg := none }).mgmtBad c)) := if_pos h

/-- A command that makes its link assemble a message moves that link alone. -/
theorem linkStep_of_assembles {i : Instr} {k : Link} (hexec : exec i s = .next (s.onCh c fun k => k.onLink link.val fun x => x.assembles m))
    (hk : ((s.ch c).link link.val).assembles m = k) : linkStep i c link k s :=
  hk ▸ linkStep_of_moves hexec (linkMoves.refl.onLink fun x => x.assembles m)

end

/-! ### Signed messages (R266, R267) -/

/-- A message is signed by the domain key. -/
def Channel.signedBy (ch : Channel) (signer : Option Key) : Prop := signer.isSome = true ∧ signer = ch.sec.settings.domainKey

theorem Channel.unsigned_iff (ch : Channel) (signer : Option Key) :
    (signer.isNone || signer != ch.sec.settings.domainKey) = true ↔ ¬ ch.signedBy signer := by
  cases signer <;> simp [Channel.signedBy]

theorem Channel.signed_iff (ch : Channel) (signer : Option Key) :
    (signer.isNone || signer != ch.sec.settings.domainKey) = false ↔ ch.signedBy signer := by
  rw [← Bool.not_eq_true, ch.unsigned_iff, not_not]

/-! ### ADOPT (R267) -/

section

variable {c : ChanId} {m : AdoptMsg} {s : State}

theorem exec_adopt_down (h : (s.ch c).calibrated = false) : exec (.adopt c m) s = .next s := by
  change execAdopt c m s = _
  exact if_pos (by simp [h])

theorem exec_adopt_refused {code : Nat} (hcal : (s.ch c).calibrated = true) (hres : (s.ch c).adoptResult m = code) (hne : code ≠ 0) :
    exec (.adopt c m) s =
      .next ((s.setCh c ((s.ch c).mgmtBad c)).mgmtAnswer c 0xC2 m.link m.srcModule m.srcChannel code m.newInc.toNat) := by
  change execAdopt c m s = _
  unfold execAdopt
  dsimp only
  rw [if_neg (by simp [hcal]), hres, if_pos hne]
  rfl

/-- A spare with the identity of the failed module, and what MR5 then records. -/
def Channel.adopted (ch : Channel) (m : AdoptMsg) (record : Nat) : Channel :=
  { ch with
    chn := { ch.chn with moduleId := m.failedId }
    wrn := { ch.wrn with incarnation := m.newInc }
    sec := ch.sec.extend 5 (BitVec.ofNat 512 record) }

theorem exec_adopt_adopts (hcal : (s.ch c).calibrated = true) (hres : (s.ch c).adoptResult m = 0) : exec (.adopt c m) s =
    .next (((s.setCh c (((s.ch c).adopted m s.freeVal).raise c 0x3008)).tookFree 1).mgmtAnswer c 0xC2 m.link m.srcModule m.srcChannel 0
      m.newInc.toNat) := by
  change execAdopt c m s = _
  unfold execAdopt
  dsimp only
  rw [if_neg (by simp [hcal]), hres, if_neg (by simp)]
  rfl

variable {ch : Channel}

theorem Channel.adoptResult_format (hf : m.formatOk = false) : ch.adoptResult m = 4 := if_pos (by simp [hf])

section

variable (hf : m.formatOk = true)
include hf

theorem Channel.adoptResult_unsigned (hs : ¬ ch.signedBy m.signer) : ch.adoptResult m = 1 := by
  simp [Channel.adoptResult, hf, (ch.unsigned_iff _).mpr hs]

variable (hs : ch.signedBy m.signer)
include hs

theorem Channel.adoptResult_incarnation (hi : m.newInc ≠ (ch.route m.failedId.toNat).inc + 1) : ch.adoptResult m = 2 := by
  rw [Channel.adoptResult, if_neg (by simp [hf]), if_neg (by simp [(ch.signed_iff _).mpr hs]), if_pos (bne_iff_ne.mpr hi)]

variable (hi : m.newInc = (ch.route m.failedId.toNat).inc + 1)
include hi

theorem Channel.adoptResult_spare (h : m.standbyId ≠ ch.chn.moduleId ∨ ch.chn.state ≠ .joined) : ch.adoptResult m = 3 := by
  have hspare : (m.standbyId != ch.chn.moduleId || ch.chn.state != .joined) = true := by simpa using h
  simp [Channel.adoptResult, hf, (ch.signed_iff _).mpr hs, hi, hspare]

theorem Channel.adoptResult_ok (hid : m.standbyId = ch.chn.moduleId) (hst : ch.chn.state = .joined) : ch.adoptResult m = 0 := by
  simp [Channel.adoptResult, hf, (ch.signed_iff _).mpr hs, hi, hid, hst]

end

/-- What an adoption leaves: the identity, the incarnation, MR5 and one event are new. -/
theorem Channel.adopted_raise (ch : Channel) (c : ChanId) (m : AdoptMsg) (record : Nat) : let k := (ch.adopted m record).raise c 0x3008
    k.chn.moduleId = m.failedId ∧ k.wrn.incarnation = m.newInc ∧ k.events = (ch.raise c 0x3008).events ∧
      (∀ r : Nat, r ≠ 5 → smGet 0 k.sec.mr r = smGet 0 ch.sec.mr r) ∧ k.mem = ch.mem ∧ k.tsk = ch.tsk := by
  obtain ⟨hevents, -⟩ := Channel.raise_congr ch (ch.adopted m record) c 0x3008 none 0 rfl rfl rfl
  obtain ⟨evs, rs, hraise⟩ := (ch.adopted m record).raise_eq_withRaised c 0x3008
  intro k
  refine ⟨?_, ?_, hevents, fun r hr => ?_, ?_, ?_⟩ <;> rw [show k = _ from hraise]
  · rfl
  · rfl
  · exact smGet_smMod_other (0 : U512) ch.sec.mr (fun x => extendMr x (BitVec.ofNat 512 record)) hr
  · rfl
  · rfl

end

/-- Settles O19: a fragment begins, extends or discards a message of its link; an ADOPT is answered with the first check that fails, or adopts. -/
theorem mgmtMessagesAndAdoption : Obligations.MgmtMessagesAndAdoption := by
  unfold Obligations.MgmtMessagesAndAdoption
  refine ⟨fun c link f s => ?_, fun c m s => ?_⟩ <;> dsimp only
  · refine ⟨exec_mgmtFragmentRx_unheard, exec_mgmtFragmentRx_bad, fun hears hbad hpart => ?_, fun m hears hbad hpart => ?_,
      exec_mgmtPartialTimeout_none, exec_mgmtPartialTimeout_some⟩
    · have hexec := exec_mgmtFragmentRx_first hears hbad hpart
      refine ⟨fun hlen => linkStep_of_assembles hexec (Link.assembles_some hlen),
        fun hlen => linkStep_of_assembles hexec ((Link.assembles_none hlen).trans ?_)⟩
      rw [← hpart]
    · refine ⟨fun htag hseq => ?_, fun htag hlen => ?_⟩
      · have hexec := exec_mgmtFragmentRx_next hears hbad hpart htag hseq
        exact ⟨fun hlen => linkStep_of_assembles hexec (Link.assembles_some hlen),
          fun hlen => linkStep_of_assembles hexec (Link.assembles_none hlen)⟩
      · rw [exec_mgmtFragmentRx_other hears hbad hpart htag]
        have hsome (x : Link) : x.assembles f.start = { x with partMsg := some f.start } := Link.assembles_some hlen
        simp only [hsome]
        rfl
  · refine ⟨exec_adopt_down, fun hcal => ⟨fun hf => ?_, fun hf hs => ?_, fun hf hs hi => ?_, fun hf hs hi hspare => ?_, fun hf hs hi hid hst => ?_⟩⟩
    · exact exec_adopt_refused hcal (Channel.adoptResult_format hf) (by decide)
    · exact exec_adopt_refused hcal (Channel.adoptResult_unsigned hf hs) (by decide)
    · exact exec_adopt_refused hcal (Channel.adoptResult_incarnation hf hs hi) (by decide)
    · exact exec_adopt_refused hcal (Channel.adoptResult_spare hf hs hi hspare) (by decide)
    · obtain ⟨hid', hinc, hevents, hmr, hmem, htsk⟩ := (s.ch c).adopted_raise c m s.freeVal
      refine ⟨_, exec_adopt_adopts hcal (Channel.adoptResult_ok hf hs hi hid hst), ?_⟩
      rw [onlyChannelFree, State.tookFree_ch, State.ch_setCh, State.tookFree_free, State.setCh_free]
      refine ⟨hid', hinc, hevents, hmr, hmem, htsk, rfl, ?_⟩
      obtain rfl | rfl := ChanId.cases c <;> rfl

end Sys2Proof.Machine
end

section
/-! PROOFS. Domain time: requests, responses and announcements (R35, R265). -/

namespace Sys2Proof.Machine

/-! ### The time of an accepted message (R35) -/

section

variable {ch : Channel} {c : ChanId} {m : TimeMsg}

theorem Channel.adoptPeriod_same {p : U16} (h : p.toNat = ch.beat.periodUs.toNat) : ch.adoptPeriod c p = ch := if_pos h

/-- A channel with the time root's values, before its counter follows. -/
def Channel.timed (ch : Channel) (m : TimeMsg) (stratum : U8) : Channel :=
  { ch with
    wrn := { ch.wrn with tgen := m.tgen, utcSec := m.utcSec, utcAt := m.utcAt, stratum := stratum }
    cfg := { ch.cfg with timeRx := true } }

/-- A step of the time keeps the links, the memories, the tasks and the events. -/
theorem Channel.timed_stepTime (ch : Channel) (m : TimeMsg) (stratum : U8) (t : U64) :
    ((ch.timed m stratum).stepTime t).wrn = { ch.wrn with tgen := m.tgen, utcSec := m.utcSec, utcAt := m.utcAt, stratum := stratum } ∧
      ((ch.timed m stratum).stepTime t).cfg.timeRx = true ∧ ((ch.timed m stratum).stepTime t).beat.time = t ∧
      ((ch.timed m stratum).stepTime t).mem = ch.mem ∧ ((ch.timed m stratum).stepTime t).tsk = ch.tsk ∧
      ((ch.timed m stratum).stepTime t).events = ch.events := ⟨rfl, rfl, rfl, rfl, rfl, rfl⟩

/-- The first accepted message of a channel that is not RUNNING, and one of a new generation, step its timestamp. -/
theorem Channel.takeTime_steps {stratum : U8} {d : Int} {t : U64} (hperiod : m.periodUs.toNat = ch.beat.periodUs.toNat)
    (hst : ch.chn.state = .joined) (hfirst : ch.cfg.timeRx = false ∨ ch.wrn.tgen.toNat < m.tgen.toNat) :
    ch.takeTime c m stratum d t = (ch.timed m stratum).stepTime t := by
  have hsteps : (!ch.running && (!ch.cfg.timeRx || decide (ch.wrn.tgen.toNat < m.tgen.toNat))) = true := by
    simpa [Channel.running, hst] using hfirst
  unfold Channel.takeTime
  rw [Channel.adoptPeriod_same hperiod]
  exact if_pos hsteps

end

section

variable {c : ChanId} {link : LinkId} {m : TimeMsg} {s : State}

/-! ### Requests (R265) -/

theorem exec_timeRequestTimer_rests (h : (s.ch c).wrn.isRoot = true ∨ (s.ch c).clocked = false) :
    exec (.timeRequestTimer c) s = .next s := by
  change execTimeRequestTimer c s = _
  exact if_pos (h.imp_right fun h => by simp [h])

theorem exec_timeRequestTimer_asks (hroot : (s.ch c).wrn.isRoot = false) (hclock : (s.ch c).clocked = true)
    (href : (s.ch c).timeRef = some link) :
    exec (.timeRequestTimer c) s = .next (s.sendTime c link 0 { (s.ch c).timeMsg with t1 := (s.ch c).beat.time }) := by
  change execTimeRequestTimer c s = _
  simp [execTimeRequestTimer, hroot, hclock, href]

/-- A channel that knows the stratum of its peer. -/
def State.told (s : State) (c : ChanId) (link : LinkId) (stratum : U8) : State :=
  s.onCh c fun ch => ch.onLink link.val fun x => { x with peerStratum := stratum }

theorem State.told_moves (stratum : U8) :
    linkMoves c link { (s.ch c).link link.val with peerStratum := stratum } [] 0 s (s.told c link stratum) :=
  linkMoves.refl.onLink fun x => { x with peerStratum := stratum }

theorem exec_timeMessages_down (t4 : U64) (hst : ((s.ch c).link link.val).st ≠ .up) :
    exec (.timeRequest c link m) s = .next s ∧ exec (.timeResponse c link m t4) s = .next s := ⟨if_pos hst, if_pos hst⟩

variable (hst : ((s.ch c).link link.val).st = .up)
include hst

theorem exec_timeRequest_up : exec (.timeRequest c link m) s = .next (if (s.ch c).wrn.stratum = 0xFF then s.told c link m.stratum else
    (s.told c link m.stratum).sendTime c link 1 { (s.ch c).timeMsg with t1 := m.t1, t2 := (s.ch c).beat.time, t3 := (s.ch c).beat.time }) := by
  change execTimeRequest c link m s = _
  unfold execTimeRequest
  dsimp only
  rw [if_neg (by rw [Channel.linkSt]; simp [hst])]
  exact (apply_ite Host.Outcome.next _ _ _).symm

/-! ### Responses (R265) -/

variable {t4 : U64}

/-- What a channel takes over from its reference, one stratum below it. -/
def Channel.follows (ch : Channel) (c : ChanId) (m : TimeMsg) (t4 : U64) : Channel :=
  ch.takeTime c m (if m.stratum.toNat + 1 ≤ 0xFE then m.stratum + 1 else 0xFE) (timeOffset m t4)
    (BitVec.ofInt 64 ((ch.beat.time.toNat : Int) + timeOffset m t4))

theorem exec_timeResponse_tells (h : (s.ch c).wrn.isRoot = true ∨
    ((s.ch c).onLink link.val fun x => { x with peerStratum := m.stratum }).timeRef ≠ some link) :
    exec (.timeResponse c link m t4) s = .next (s.told c link m.stratum) := by
  change execTimeResponse c link m t4 s = _
  unfold execTimeResponse
  dsimp only
  rw [if_neg (by rw [Channel.linkSt]; simp [hst]), State.ch_onCh, if_pos h]
  rfl

theorem exec_timeResponse_follows (hroot : (s.ch c).wrn.isRoot = false)
    (href : ((s.ch c).onLink link.val fun x => { x with peerStratum := m.stratum }).timeRef = some link) :
    exec (.timeResponse c link m t4) s = .next (((s.told c link m.stratum).onCh c fun k => k.follows c m t4).tryJoin c) := by
  change execTimeResponse c link m t4 s = _
  unfold execTimeResponse
  dsimp only
  rw [if_neg (by rw [Channel.linkSt]; simp [hst]), State.ch_onCh, if_neg (by simp [hroot, href])]
  rfl

end

/-! ### Announcements (R265) -/

section

variable {c : ChanId} {m : TimeMsg} {signer : Option Key} {s : State}

theorem exec_timeAnnounce_down (h : (s.ch c).calibrated = false) : exec (.timeAnnounce c m signer) s = .next s := by
  change execTimeAnnounce c m signer s = _
  exact if_pos (by simp [h])

theorem Channel.unsigned_iff_prop (ch : Channel) (signer : Option Key) :
    (signer.isNone = true ∨ signer ≠ ch.sec.settings.domainKey) ↔ ¬ ch.signedBy signer := by
  rw [← ch.unsigned_iff, Bool.or_eq_true, bne_iff_ne]

theorem exec_timeAnnounce_refused (hcal : (s.ch c).calibrated = true)
    (h : ¬ (s.ch c).signedBy signer ∨ m.tgen.toNat ≤ (s.ch c).wrn.tgen.toNat) :
    exec (.timeAnnounce c m signer) s = .next (s.setCh c ((s.ch c).mgmtBad c)) := by
  change execTimeAnnounce c m signer s = _
  unfold execTimeAnnounce
  dsimp only
  rw [← Channel.unsigned_iff_prop, or_assoc] at h
  rw [if_neg (by simp [hcal]), if_pos h]
  rfl

/-- A channel that has become the time root. -/
def Channel.leads (ch : Channel) (c : ChanId) (m : TimeMsg) : Channel :=
  let k := ch.takeTime c m 0 ((m.t3.toNat : Int) - ch.beat.time.toNat) m.t3
  { k with wrn := { k.wrn with isRoot := true } }

theorem exec_timeAnnounce_leads (hcal : (s.ch c).calibrated = true) (hs : (s.ch c).signedBy signer)
    (hgen : (s.ch c).wrn.tgen.toNat < m.tgen.toNat) :
    exec (.timeAnnounce c m signer) s = .next ((s.onCh c fun k => k.leads c m).tryJoin c) := by
  change execTimeAnnounce c m signer s = _
  unfold execTimeAnnounce
  dsimp only
  have hok : ¬ (signer.isNone = true ∨ signer ≠ (s.ch c).sec.settings.domainKey ∨ m.tgen.toNat ≤ (s.ch c).wrn.tgen.toNat) := by
    rw [← or_assoc, Channel.unsigned_iff_prop]
    simp [hs, hgen]
  rw [if_neg (by simp [hcal]), if_neg hok]
  rfl

theorem Channel.calibrated_of_joined {ch : Channel} (h : ch.chn.state = .joined) : ch.calibrated = true := by
  simp [Channel.calibrated, h]

end

/-- Settles O21: requests and responses as moves of their link; the first message of the reference, and an announcement, as a step of the time. -/
theorem timeMessages : Obligations.TimeMessages := by
  unfold Obligations.TimeMessages
  intro c link m t4 signer s
  dsimp only
  have htold := State.told_moves (s := s) (c := c) (link := link) m.stratum
  refine ⟨exec_timeRequestTimer_rests, exec_timeRequestTimer_asks, exec_timeMessages_down t4, fun hst hun => ?_, fun hst hsync => ?_,
    fun hst h => linkStep_of_moves (exec_timeResponse_tells hst h) htold, fun hst hroot href hbelow hjoined hfirst hperiod => ?_,
    exec_timeAnnounce_down, exec_timeAnnounce_refused, fun hjoined hs hgen hperiod => ?_⟩
  · have hexec := exec_timeRequest_up (m := m) hst
    rw [if_pos hun] at hexec
    exact linkStep_of_moves hexec htold
  · have hexec := exec_timeRequest_up (m := m) hst
    rw [if_neg hsync] at hexec
    exact ⟨_, hexec, htold.link_eq, htold.onlyLink_silent⟩
  · set ch := (s.ch c).onLink link.val fun x => { x with peerStratum := m.stratum }
    have hfollows : ch.follows c m t4 = _ := Channel.takeTime_steps hperiod hjoined (.inl hfirst)
    obtain ⟨hwrn, hrx, htime, hmem, htsk, hevents⟩ := ch.timed_stepTime m (m.stratum + 1)
      (BitVec.ofInt 64 ((ch.beat.time.toNat : Int) + timeOffset m t4))
    have hlink := congrArg Link.peerStratum ((s.ch c).link_onLink link.val fun x => { x with peerStratum := m.stratum })
    have hexec := exec_timeResponse_follows (t4 := t4) hst hroot href
    rw [State.told, State.onCh_onCh, State.onCh, hfollows, State.tryJoin_stays] at hexec
    · refine ⟨_, hexec, ?_⟩
      rw [onlyChannel, State.ch_setCh, if_pos (by omega), Channel.link, hwrn]
      exact ⟨rfl, rfl, rfl, rfl, hrx, htime, hlink, hmem, htsk, hevents, rfl⟩
    · rw [State.ch_setCh]
      exact fun h => absurd (hjoined.symm.trans h) (by decide)
  · obtain ⟨hwrn, -, htime, hmem, htsk, hevents⟩ := (s.ch c).timed_stepTime m 0 m.t3
    have hleads : (s.ch c).leads c m = _ := congrArg (fun k : Channel => { k with wrn := { k.wrn with isRoot := true } })
      (Channel.takeTime_steps hperiod hjoined (.inr hgen))
    have hexec := exec_timeAnnounce_leads (Channel.calibrated_of_joined hjoined) hs hgen
    rw [State.onCh, hleads, State.tryJoin_stays] at hexec
    · refine ⟨_, hexec, ?_⟩
      rw [onlyChannel, State.ch_setCh, hwrn]
      exact ⟨rfl, rfl, rfl, htime, rfl, hmem, htsk, hevents, rfl⟩
    · rw [State.ch_setCh]
      exact fun h => absurd (hjoined.symm.trans h) (by decide)

end Sys2Proof.Machine
end

section
/-! PROOFS. Route updates: the first check that fails, and entries that are replaced all at once (R261, R263, R265, R266). -/

namespace Sys2Proof.Machine

/-! ### Tables -/

theorem smGet_map_values {α : Type} (d : α) {g : α → α} (hg : g d = d) (m : SMap α) (k : Nat) :
    smGet d (m.map fun e => (e.1, g e.2)) k = g (smGet d m k) := by
  induction m with
  | nil => exact hg.symm
  | cons e r ih =>
    obtain ⟨j, v⟩ := e
    simp only [List.map_cons, smGet, ih]
    split <;> rfl

theorem mem_smIns {α : Type} {k : Nat} {v : α} {m : SMap α} {e : Nat × α} (h : e ∈ smIns k v m) : e = (k, v) ∨ e ∈ m := by
  induction m with
  | nil => simpa [smIns] using h
  | cons x r ih =>
    unfold smIns at h
    split at h
    · simpa using h
    · split at h
      · exact (List.mem_cons.mp h).imp_right (List.mem_cons_of_mem x)
      · rcases List.mem_cons.mp h with rfl | h
        · exact .inr List.mem_cons_self
        · exact (ih h).imp_right (List.mem_cons_of_mem x)

theorem mem_smDel {α : Type} {k : Nat} {m : SMap α} {e : Nat × α} (h : e ∈ smDel k m) : e ∈ m := by
  induction m with
  | nil => exact h
  | cons x r ih =>
    unfold smDel at h
    split at h
    · exact List.mem_cons_of_mem x (ih h)
    · rcases List.mem_cons.mp h with rfl | h
      · exact List.mem_cons_self
      · exact List.mem_cons_of_mem x (ih h)

/-- A write of one key lists nothing else that is new. -/
theorem mem_smMod {α : Type} [DecidableEq α] {d : α} {m : SMap α} {k : Nat} {f : α → α} {e : Nat × α} (h : e ∈ smMod d m k f) :
    e = (k, f (smGet d m k)) ∨ e ∈ m := by
  unfold smMod smSet at h
  split at h
  · exact .inr (mem_smDel h)
  · exact mem_smIns h

/-! ### Sending on links (R248, R261) -/

/-- A link carries operations in UP and in RETRAIN. -/
def Link.carries (k : Link) : Bool := k.st == .up || k.st == .retrain

/-- The links that carry operations are the eligible ones. -/
def Channel.eligibleNow (ch : Channel) : Prop := ∀ e ∈ ch.wrn.links, e.2.eligible = e.2.carries

theorem drainQueue_keeps (q : List Packet) : ∀ (k : Link) (stuck : List Nat),
    (drainQueue k stuck q).1.st = k.st ∧ (drainQueue k stuck q).1.eligible = k.eligible := by
  induction q with
  | nil => exact fun k stuck => ⟨rfl, rfl⟩
  | cons p r ih =>
    intro k stuck
    unfold drainQueue
    split
    · exact ih (k.sendFrame p) stuck
    · exact ih k (p.lane :: stuck)

/-- From `s` to `t` channel `c` has served its links: nothing else differs but what was sent, and which links are eligible stays. -/
def servesLinks (c : ChanId) (s t : State) : Prop :=
  (∃ links outs, t = s.setLinks c links outs 0) ∧ ((s.ch c).eligibleNow → (t.ch c).eligibleNow)

section

variable {c : ChanId} {s t u : State} {p : Packet}

theorem servesLinks.refl (c : ChanId) (s : State) : servesLinks c s s := by
  refine ⟨⟨(s.ch c).wrn.links, [], ?_⟩, id⟩
  rw [State.setLinks, List.append_nil]
  obtain rfl | rfl := ChanId.cases c <;> rfl

theorem servesLinks.trans (h : servesLinks c s t) (h' : servesLinks c t u) : servesLinks c s u := by
  obtain ⟨⟨links, outs, rfl⟩, hs⟩ := h
  obtain ⟨⟨links', outs', rfl⟩, ht⟩ := h'
  refine ⟨⟨links', outs ++ outs', ?_⟩, ht ∘ hs⟩
  unfold State.setLinks
  rw [← List.append_assoc]
  obtain rfl | rfl := ChanId.cases c <;> rfl

theorem servesLinks.ch_eq (h : servesLinks c s t) : ∃ links, t.ch c = { s.ch c with wrn := { (s.ch c).wrn with links := links } } := by
  obtain ⟨⟨links, outs, rfl⟩, -⟩ := h
  exact ⟨links, State.setLinks_ch links⟩

theorem servesLinks.onlyChannelSent (h : servesLinks c s t) : onlyChannelSent c s t := by
  obtain ⟨⟨links, outs, rfl⟩, -⟩ := h
  obtain rfl | rfl := ChanId.cases c <;> rfl

/-- A change of one link that carries operations, which leaves its state and its eligibility. -/
theorem servesLinks_onLink {l : LinkId} {f : Link → Link} (outs : List Out) (hk : ((s.ch c).link l.val).eligible = ((s.ch c).link l.val).carries)
    (hf : (f ((s.ch c).link l.val)).st = ((s.ch c).link l.val).st ∧ (f ((s.ch c).link l.val)).eligible = ((s.ch c).link l.val).eligible) :
    servesLinks c s ((s.onCh c fun ch => ch.onLink l.val f).emitAll outs) := by
  refine ⟨⟨smMod {} (s.ch c).wrn.links l.val f, outs, ?_⟩, fun hs e he => ?_⟩
  · obtain rfl | rfl := ChanId.cases c <;> rfl
  · rw [State.emitAll_ch, State.ch_onCh] at he
    obtain rfl | he := mem_smMod he
    · obtain ⟨hst, helig⟩ := hf
      change (f ((s.ch c).link l.val)).eligible = (f ((s.ch c).link l.val)).carries
      rw [helig, hk, Link.carries, Link.carries, hst]
    · exact hs e he

theorem State.sendLink_serves {l : LinkId} (hk : ((s.ch c).link l.val).eligible = ((s.ch c).link l.val).carries) :
    servesLinks c s (s.sendLink c l) := servesLinks_onLink _ hk (drainQueue_keeps _ _ _)

theorem State.enqueue_serves {l : LinkId} (hk : ((s.ch c).link l.val).eligible = ((s.ch c).link l.val).carries) :
    servesLinks c s (s.enqueue c l p) := by
  have hput := servesLinks_onLink (f := fun k => { k with queue := k.queue ++ [p] }) [] hk ⟨rfl, rfl⟩
  rw [show ∀ t : State, t.emitAll [] = t from fun t => by rw [State.emitAll, List.append_nil]] at hput
  refine hput.trans (State.sendLink_serves ?_)
  rw [State.ch_onCh, Channel.link_onLink]
  exact hk

theorem Channel.outLink_eligible {ch : Channel} {l : LinkId} (hr : p.isResponse = false) (h : ch.outLink p = some l) :
    (ch.link l.val).isEligible = true := by
  unfold Channel.outLink at h
  simp only [hr, Bool.false_eq_true, if_false] at h
  have hmem : l ∈ ch.candidates p.dest.1 p.dest.2 := List.mem_of_getElem? h
  have hcand := (List.mem_filter.mp hmem).2
  exact (Bool.and_eq_true_iff.mp hcand).2

/-- A fresh management message: none that has left an intra-sett link, or changed its buffer class, in breach of R262. -/
def Packet.freshMgmt (p : Packet) : Prop := p.isMgmt = true ∧ p.buf = 0 ∧ p.lastIntra = false

/-- A fresh management message leaves on its link or ends without a trace. -/
theorem State.forward_mgmt (h : p.freshMgmt) : servesLinks c s (s.forward c p) := by
  obtain ⟨hm, hbuf, hlast⟩ := h
  have hanswer (t : State) (code : CompCode) : t.answer c p code [] = t := by simp [State.answer, hm]
  have hrule (l : LinkId) : breaksClassRule p l = false := by simp [breaksClassRule, hbuf, hlast]
  unfold State.forward State.forwardOn
  simp only [hanswer, hm, Bool.or_true, if_true]
  split
  · exact .refl c s
  · exact .refl c s
  · split
    · exact .refl c s
    · rename_i l hout
      rw [if_neg (by simp [hrule])]
      have helig := Channel.outLink_eligible (Packet.isResponse_of_isMgmt hm) hout
      obtain ⟨hl, hst⟩ := Bool.and_eq_true_iff.mp helig
      exact State.enqueue_serves (hl.trans hst.symm)

/-! ### Answers to management messages (R266) -/

theorem Channel.mgmtPackets_fresh {ch : Channel} {op : U8} {m : BitVec 14} {cc : BitVec 1} {bytes : List Byte}
    (hop : 0xC0 ≤ op.toNat ∧ op.toNat ≤ 0xC3) (h : p ∈ ch.mgmtPackets c op m cc bytes) : p.freshMgmt := by
  obtain ⟨e, -, rfl⟩ := List.mem_map.mp h
  exact ⟨by simpa [Packet.isMgmt] using hop, rfl, rfl⟩

/-- The channel that has numbered the packets of a management message. -/
def Channel.numbers (ch : Channel) (seqs : SMap U16) : Channel := { ch with wrn := { ch.wrn with nextTag := ch.wrn.nextTag + 1, seqs := seqs } }

/-- A management message along the route table: its number, and the links. -/
theorem State.sendMgmt_serves {op : U8} (m : BitVec 14) (cc : BitVec 1) (bytes : List Byte) (hop : 0xC0 ≤ op.toNat ∧ op.toNat ≤ 0xC3) :
    ∃ seqs, servesLinks c (s.setCh c ((s.ch c).numbers seqs)) (s.sendMgmt c none op m cc bytes) := by
  refine ⟨smMod 0 (s.ch c).wrn.seqs (flowKey mgmtAgent m.toNat cc.toNat 0) fun q => q + BitVec.ofNat 16 ((s.ch c).mgmtPackets c op m cc bytes).length, ?_⟩
  unfold State.sendMgmt
  exact List.foldlRecOn _ _ (.refl c _) fun t ht p hp => ht.trans (State.forward_mgmt (Channel.mgmtPackets_fresh hop hp))

theorem State.mgmtAnswer_serves {op : U8} (link : LinkId) (m : BitVec 14) (cc : BitVec 1) (code gen : Nat) (hj : (s.ch c).joined = true)
    (hop : 0xC0 ≤ op.toNat ∧ op.toNat ≤ 0xC3) :
    ∃ seqs, servesLinks c (s.setCh c ((s.ch c).numbers seqs)) (s.mgmtAnswer c op link m cc code gen) := by
  unfold State.mgmtAnswer
  rw [if_pos hj]
  exact State.sendMgmt_serves m cc _ hop

end

/-! ### The checks of a ROUTE_UPDATE (R266) -/

section

variable {c : ChanId} {m : RouteUpdateMsg} {s : State} {ch : Channel}

theorem exec_routeUpdate_down (h : (s.ch c).calibrated = false) : exec (.routeUpdate c m) s = .next s := by
  change execRouteUpdate c m s = _
  exact if_pos (by simp [h])

theorem exec_routeUpdate_refused {code : Nat} (hcal : (s.ch c).calibrated = true) (hres : (s.ch c).routeResult c m = code) (hne : code ≠ 0) :
    exec (.routeUpdate c m) s =
      .next ((s.setCh c ((s.ch c).mgmtBad c)).mgmtAnswer c 0xC1 m.link m.srcModule m.srcChannel code m.gen.toNat) := by
  change execRouteUpdate c m s = _
  unfold execRouteUpdate
  dsimp only
  rw [if_neg (by simp [hcal]), hres, if_pos hne]
  rfl

theorem Channel.routeResult_format (hf : m.formatOk = false) : ch.routeResult c m = 4 := if_pos (by simp [hf])

section

variable (hf : m.formatOk = true)
include hf

theorem Channel.routeResult_unsigned (hs : ¬ ch.signedBy m.signer) : ch.routeResult c m = 1 := by
  simp [Channel.routeResult, hf, (ch.unsigned_iff _).mpr hs]

variable (hs : ch.signedBy m.signer)
include hs

theorem Channel.routeResult_old (hg : m.gen.toNat ≤ ch.wrn.gen.toNat) : ch.routeResult c m = 2 := by
  simp [Channel.routeResult, hf, (ch.signed_iff _).mpr hs, hg]

variable (hg : ch.wrn.gen.toNat < m.gen.toNat)
include hg

theorem Channel.routeResult_self (hj : ch.joined = true) (h : ∃ e ∈ selfStates m.entries, e ≠ (ch.chn.moduleId.toNat, c.val)) :
    ch.routeResult c m = 3 := by
  have hself : ((selfStates m.entries).any fun e => e != (ch.chn.moduleId.toNat, c.val)) = true := by
    simpa only [List.any_eq_true, bne_iff_ne] using h
  simp [Channel.routeResult, hf, (ch.signed_iff _).mpr hs, Nat.not_le.mpr hg, hj, hself]

theorem Channel.routeResult_ok (hself : selfStates m.entries = []) : ch.routeResult c m = 0 := by
  simp [Channel.routeResult, hf, (ch.signed_iff _).mpr hs, Nat.not_le.mpr hg, hself]

end

/-! ### New routes (R263) -/

/-- A table with entries replaced in their order. -/
def smPut {α : Type} [DecidableEq α] (d : α) (t : SMap α) (l : List (BitVec 14 × α)) : SMap α := l.foldl (fun t e => smSet d t e.1.toNat e.2) t

theorem smGet_smPut_other {α : Type} [DecidableEq α] (d : α) (l : List (BitVec 14 × α)) {i : Nat} (h : ∀ e ∈ l, e.1.toNat ≠ i) (t : SMap α) :
    smGet d (smPut d t l) i = smGet d t i :=
  List.foldlRecOn (motive := fun t' => smGet d t' i = smGet d t i) l _ rfl fun _ ht e he =>
    (smGet_smSet_other d _ _ (h e he).symm).trans ht

theorem smGet_smPut_mem {α : Type} [DecidableEq α] (d : α) {l : List (BitVec 14 × α)} (hn : (l.map (·.1)).Nodup) (t : SMap α) :
    ∀ e ∈ l, smGet d (smPut d t l) e.1.toNat = e.2 := by
  induction l generalizing t with
  | nil => simp
  | cons x r ih =>
    rw [List.map_cons, List.nodup_cons] at hn
    obtain ⟨hx, hr⟩ := hn
    intro e he
    rcases List.mem_cons.mp he with rfl | he
    · refine (smGet_smPut_other d r (fun y hy heq => hx ?_) _).trans (smGet_smSet_same d t _ _)
      rw [← BitVec.eq_of_toNat_eq heq]
      exact List.mem_map_of_mem hy
    · exact ih hr _ e he

theorem Channel.applyRoutes_link (ch : Channel) (c : ChanId) (m : RouteUpdateMsg) (l : Nat) :
    (ch.applyRoutes c m).link l = { ch.link l with eligible := (ch.link l).carries } :=
  smGet_map_values ({} : Link) (g := fun k : Link => { k with eligible := k.carries }) rfl ch.wrn.links l

theorem Channel.applyRoutes_eligibleNow (ch : Channel) (c : ChanId) (m : RouteUpdateMsg) : (ch.applyRoutes c m).eligibleNow := by
  intro e he
  obtain ⟨x, -, rfl⟩ := List.mem_map.mp he
  rfl

/-! ### Where nothing waits (R257, R263) -/

theorem State.purgeQueues_idle (h : ∀ l : Nat, ((s.ch c).link l).queue = []) : s.purgeQueues c = s :=
  List.foldl_fixed' (fun l => if_neg (by simp [h l.val])) _

theorem State.departHeld_idle (h : (s.ch c).wrn.reqs = []) : s.departHeld c = s := by simp [State.departHeld, h]

theorem State.retryTasks_idle (h : (s.ch c).tsk.tasks = []) : s.retryTasks c = s := by simp [State.retryTasks, h]

theorem State.retryXfers_idle (h : (s.ch c).dma.xfers = []) : s.retryXfers c = s := by simp [State.retryXfers, h]

/-- An update that passes its checks where nothing waits: the new routes, and the answer. -/
theorem exec_routeUpdate_applies (hj : (s.ch c).joined = true) (hres : (s.ch c).routeResult c m = 0) (hreqs : (s.ch c).wrn.reqs = [])
    (hx : (s.ch c).dma.xfers = []) (ht : (s.ch c).tsk.tasks = []) (hq : ∀ l : Nat, ((s.ch c).link l).queue = []) :
    ∃ seqs t, exec (.routeUpdate c m) s = .next t ∧ servesLinks c (s.setCh c (((s.ch c).applyRoutes c m).numbers seqs)) t := by
  obtain ⟨hcal, hst⟩ := Bool.and_eq_true_iff.mp hj
  set u := s.onCh c fun k => k.applyRoutes c m
  have hu : u.ch c = (s.ch c).applyRoutes c m := s.ch_onCh c _
  obtain ⟨seqs, hserves⟩ := State.mgmtAnswer_serves (s := u) (c := c) (op := 0xC1) m.link m.srcModule m.srcChannel 0 m.gen.toNat
    (by rw [hu]; exact hj) (by decide)
  obtain ⟨links, hch⟩ := hserves.ch_eq
  rw [hu] at hserves
  refine ⟨seqs, _, ?_, by rwa [show u = s.setCh c _ from rfl, State.setCh_setCh] at hserves⟩
  have hidle : (((u.purgeQueues c).departHeld c).retryTasks c).retryXfers c = u := by
    rw [State.purgeQueues_idle fun l => ?_, State.departHeld_idle, State.retryTasks_idle, State.retryXfers_idle]
    all_goals rw [hu]
    · exact hx
    · exact ht
    · exact hreqs
    · rw [Channel.applyRoutes_link]
      exact hq l
  change execRouteUpdate c m s = _
  unfold execRouteUpdate
  dsimp only
  rw [if_neg (by simp [hcal]), hres, if_neg (by simp)]
  change Host.Outcome.next (State.tryJoin (State.mgmtAnswer ((((u.purgeQueues c).departHeld c).retryTasks c).retryXfers c) c 0xC1 m.link m.srcModule
    m.srcChannel 0 m.gen.toNat) c) = _
  rw [hidle, State.tryJoin_stays]
  · rfl
  · rw [hch, State.ch_setCh, hu]
    exact fun h => absurd h (bne_iff_ne.mp hst)

end

/-- Settles O20: the checks in their order; an update that passes replaces its entries, and its answer leaves by a link that is eligible. -/
theorem routeUpdateAppliesOrRefuses : Obligations.RouteUpdateAppliesOrRefuses := by
  unfold Obligations.RouteUpdateAppliesOrRefuses
  intro c m s
  dsimp only
  refine ⟨exec_routeUpdate_down, fun hcal => ⟨fun hf => ?_, fun hf hs => ?_, fun hf hs hg => ?_, fun hf hs hg hj hself => ?_,
    fun hf hs hg hj hself hreqs hx ht hq => ?_⟩⟩
  · exact exec_routeUpdate_refused hcal (Channel.routeResult_format hf) (by decide)
  · exact exec_routeUpdate_refused hcal (Channel.routeResult_unsigned hf hs) (by decide)
  · exact exec_routeUpdate_refused hcal (Channel.routeResult_old hf hs hg) (by decide)
  · exact exec_routeUpdate_refused hcal (Channel.routeResult_self hf hs hg hj hself) (by decide)
  · obtain ⟨seqs, t, hexec, hserves⟩ := exec_routeUpdate_applies hj (Channel.routeResult_ok (c := c) hf hs hg hself) hreqs hx ht hq
    obtain ⟨links, hch⟩ := hserves.ch_eq
    have helig := hserves.2
    rw [State.ch_setCh] at hch helig
    have hroute (i : Nat) : (t.ch c).route i = ((s.ch c).applyRoutes c m).route i := by
      rw [hch]
      rfl
    refine ⟨t, hexec, ?_, fun i hi => ?_, fun hn e he => ?_, helig ((s.ch c).applyRoutes_eligibleNow c m), ?_, ?_, ?_, ?_,
      (onlyChannelSent_setCh ..).trans hserves.onlyChannelSent⟩
    · rw [hch]
      rfl
    · exact (hroute i).trans (smGet_smPut_other ({} : RouteEntry) m.entries hi (s.ch c).wrn.routes)
    · exact (hroute _).trans (smGet_smPut_mem ({} : RouteEntry) hn (s.ch c).wrn.routes e he)
    all_goals
      rw [hch]
      rfl

end Sys2Proof.Machine
end

section
/-! PROOFS. The end of a request at its source (R256 to R258, R269). -/

namespace Sys2Proof.Machine

/-! ### A request and its end -/

/-- A request of no bucket, which forwards no page (R191, R232). -/
def Request.plain (r : Request) : Prop := r.op.bucket = none ∧ r.op.forward = none ∧ r.pinned = none

/-- A channel without a request. -/
def Channel.ends (ch : Channel) (r : Request) : Channel := { ch with wrn := { ch.wrn with reqs := ch.wrn.reqs.filter fun q => q.tag != r.tag } }

theorem Channel.req?_spec {ch : Channel} {tag : U32} {r : Request} (h : ch.req? tag = some r) : r ∈ ch.wrn.reqs ∧ r.tag = tag :=
  ⟨List.mem_of_find?_eq_some h, by simpa using List.find?_some h⟩

/-- The end of a request leaves fewer of them. -/
theorem Channel.ends_length {ch : Channel} {tag : U32} {r : Request} (h : ch.req? tag = some r) :
    (ch.ends r).wrn.reqs.length < ch.wrn.reqs.length :=
  List.length_filter_lt_length_iff_exists.mpr ⟨r, (Channel.req?_spec h).1, by simp⟩

theorem Channel.forwarded_plain (ch : Channel) {r : Request} (h : r.plain) (ok : Bool) : ch.forwarded r ok = ch := by
  obtain ⟨-, hforward, hpinned⟩ := h
  simp [Channel.forwarded, Channel.unpin, hforward, hpinned]

theorem Channel.pinForward_plain (ch : Channel) {op : RemOp} (h : op.forward = none) : ch.pinForward op = ch := by
  simp [Channel.pinForward, Channel.forwardFrame, h]

section

variable {c : ChanId} {r : Request} {code : CompCode} {payload : List Byte} {s : State}

/-- The code of a request whose task has ended is counted. -/
theorem State.endReq_orphan (h : r.plain) (ho : r.owner = .orphan) :
    s.endReq c r code payload = s.setCh c ((s.ch c).countCode c code) := by
  obtain ⟨hbucket, -⟩ := id h
  simp only [State.endReq, State.bucketGone, Channel.forwarded_plain _ h, hbucket, ho]
  rfl

/-- A task with the bytes of a response (R48). -/
def Task.answered (t : Task) (payload : List Byte) : Task := { t with answer := payload, answerCode := 0 }

theorem State.endReq_answers {core slot : Nat} (h : r.plain) (ho : r.owner = .task core slot) (hblocks : r.op.kind.blocks = true) :
    s.endReq c r .ok payload = (s.setCh c ((s.ch c).onTask core slot fun t => t.answered payload)).resume c core slot := by
  obtain ⟨hbucket, -⟩ := id h
  simp only [State.endReq, State.bucketGone, Channel.forwarded_plain _ h, hbucket, ho, hblocks, Channel.countCode, State.onCh, State.setCh_ch]
  rfl

/-! ### Room for a request that waits (R269) -/

theorem State.completeReq_noneWaits (hw : (s.ch c).wrn.waiting = []) :
    s.completeReq c r code payload = (s.setCh c ((s.ch c).ends r)).endReq c r code payload := by
  have hissue : (s.setCh c ((s.ch c).ends r)).issueWaiting c = s.setCh c ((s.ch c).ends r) := by
    have hends : ((s.ch c).ends r).wrn.waiting = [] := hw
    simp only [State.issueWaiting, State.ch_setCh, hends]
  change (if ((s.setCh c ((s.ch c).ends r)).ch c).issueFull then s.setCh c ((s.ch c).ends r)
    else (s.setCh c ((s.ch c).ends r)).issueWaiting c).endReq c r code payload = _
  rw [hissue, ite_self]

/-- The router of a channel after an operation of its own has left (R253). -/
def Channel.issued (ch : Channel) (owner : ReqOwner) (agent : Nat) (op : RemOp) (dmaOff : Nat) : Wrn :=
  let key := flowKey agent (gaModule op.addr.toNat) (gaChannel op.addr.toNat) op.cls.toNat
  { ch.wrn with
    reqs := ch.wrn.reqs ++ [{ tag := ch.wrn.nextTag, owner := owner, agent := BitVec.ofNat 8 agent
                              module := BitVec.ofNat 14 (gaModule op.addr.toNat), channel := BitVec.ofNat 1 (gaChannel op.addr.toNat), op := op
                              timeoutUs := ch.rspTimeoutUs, lostAfterMs := ch.lostAfterMs, dmaOff := dmaOff }]
    nextTag := ch.wrn.nextTag + 1
    seqs := smMod 0 ch.wrn.seqs key fun q => q + 1
    psels := smSet 0 ch.wrn.psels key 0 }

theorem State.issueNow_own {owner : ReqOwner} {agent : Nat} {op : RemOp} {dmaOff : Nat} (h : (s.ch c).isOwn c op.addr.toNat = true) :
    s.issueNow c owner agent op dmaOff =
      ((s.setCh c { s.ch c with wrn := (s.ch c).issued owner agent op dmaOff }).emit (.nocRequest c ((s.ch c).mkRequest c agent 0 op)), none) := by
  simp only [State.issueNow, h, Bool.not_true, Bool.false_and, Bool.false_eq_true, if_false, if_true]
  rfl

/-- The channel that has issued its oldest waiting operation. -/
def Channel.issuesNext (ch : Channel) (w : Request) (rest : List Request) : Channel :=
  { ch with wrn := { ch.issued w.owner w.agent.toNat w.op w.dmaOff with waiting := rest } }

theorem State.issueWaiting_own {w : Request} {rest : List Request} (hw : (s.ch c).wrn.waiting = w :: rest) (hplain : w.plain)
    (hown : (s.ch c).isOwn c w.op.addr.toNat = true) : s.issueWaiting c =
      (s.setCh c ((s.ch c).issuesNext w rest)).emit (.nocRequest c ((s.ch c).mkRequest c w.agent.toNat 0 w.op)) := by
  obtain ⟨-, hforward, -⟩ := hplain
  set u := s.onCh c fun ch => { ch with wrn := { ch.wrn with waiting := rest } }
  have hu : u.ch c = { s.ch c with wrn := { (s.ch c).wrn with waiting := rest } } := s.ch_onCh c _
  have hnow := State.issueNow_own (s := u) (c := c) (owner := w.owner) (agent := w.agent.toNat) (op := w.op) (dmaOff := w.dmaOff)
    (by rw [hu]; exact hown)
  simp only [State.issueWaiting, hw]
  change (match (u.issueNow c w.owner w.agent.toNat w.op w.dmaOff).2 with
    | none => (u.issueNow c w.owner w.agent.toNat w.op w.dmaOff).1.onCh c fun ch => ch.pinForward w.op
    | some code => (u.issueNow c w.owner w.agent.toNat w.op w.dmaOff).1.endReq c w code []) = _
  rw [hnow]
  simp only [Channel.pinForward_plain _ hforward, State.onCh, State.setCh_ch, hu]
  obtain rfl | rfl := ChanId.cases c <;> rfl

/-! ### A task goes on (R48) -/

/-- A task that waits for nothing more. -/
def Task.goesOn (t : Task) : Task := { t with st := .ready, cause := .none, fenceMask := 0, held := none }

theorem Channel.waitsFor_nothing {ch : Channel} {t : Task} (hretry : t.retry = []) (hx : ch.dma.xfers = []) (hops : ch.opsOf t.core t.slot = [])
    (hheld : t.held = none) : ch.waitsFor t = .none := by
  simp [Channel.waitsFor, hretry, hx, hops, hheld]

theorem State.resume_goesOn {core slot : Nat} {t : Task} (ht : (s.ch c).task? core slot = some t) (hst : t.st = .parked)
    (hcause : t.cause = .response) (hend : t.programEnded = false) (hheld : t.held = none) (hwaits : (s.ch c).waitsFor t = .none) :
    s.resume c core slot = s.setCh c ((s.ch c).onTask core slot Task.goesOn) := by
  simp only [State.resume, ht, hst, hcause, hwaits, hend, hheld]
  simp
  rfl

/-- No operation of a task is left when the one it waited for has ended. -/
theorem Channel.opsOf_ends {ch : Channel} {core slot : Nat} (hw : ch.wrn.waiting = [])
    (hlast : ∀ q ∈ ch.wrn.reqs, q.owner = .task core slot → q.tag = r.tag) : (ch.ends r).opsOf core slot = [] := by
  refine List.filter_eq_nil_iff.mpr fun q hq => ?_
  have hreq : q ∈ (ch.ends r).wrn.reqs := by simpa [Channel.ends, hw] using hq
  obtain ⟨hq, htag⟩ := List.mem_filter.mp hreq
  intro howner
  exact (bne_iff_ne.mp htag) (hlast q hq (beq_iff_eq.mp howner))

/-! ### The commands -/

variable {p : Packet} {tag : U32}

theorem exec_remoteResponse_late (hp : p.isResponse = true) (hr : (s.ch c).req? p.tag = none)
    (hlost : (s.ch c).wrn.lostTags.contains p.tag = true) : exec (.remoteResponse c p) s = .next (s.setCh c { s.ch c with wrn := { (s.ch c).wrn with
      lateRsp := satAdd (s.ch c).wrn.lateRsp 1, lostTags := (s.ch c).wrn.lostTags.filter (· != p.tag) } }) := by
  change execRemoteResponse c p s = _
  simp only [execRemoteResponse, hp, hr, hlost]
  rfl

theorem exec_remoteResponse_completes (hp : p.isResponse = true) (hr : (s.ch c).req? p.tag = some r) :
    exec (.remoteResponse c p) s = .next (s.completeReq c r (compOf p.status.toNat) p.payload) := by
  change execRemoteResponse c p s = _
  simp only [execRemoteResponse, hp, hr]
  rfl

theorem exec_rspTimeoutExpiry_holds (hr : (s.ch c).req? tag = some r)
    (hst : (s.ch c).routeState r.module.toNat r.channel.toNat ≠ 2) :
    exec (.rspTimeoutExpiry c tag) s = .next (s.setCh c { s.ch c with wrn := { (s.ch c).wrn with
      reqs := (s.ch c).wrn.reqs.map fun q => if q.tag = tag then { q with held := true } else q } }) := by
  change execRspTimeoutExpiry c tag s = _
  simp only [execRspTimeoutExpiry, hr, if_neg hst]
  rfl

theorem exec_rspTimeoutExpiry_gone (hr : (s.ch c).req? tag = some r)
    (hst : (s.ch c).routeState r.module.toNat r.channel.toNat = 2) :
    exec (.rspTimeoutExpiry c tag) s = .next (s.completeReq c r .gone []) := by
  change execRspTimeoutExpiry c tag s = _
  simp only [execRspTimeoutExpiry, hr, if_pos hst]

theorem exec_lostAfterExpiry_lost (hr : (s.ch c).req? tag = some r) (hheld : r.held = true)
    (hst : (s.ch c).routeState r.module.toNat r.channel.toNat = 1) : exec (.lostAfterExpiry c tag) s =
      .next ((s.setCh c { s.ch c with wrn := { (s.ch c).wrn with lostTags := (s.ch c).wrn.lostTags ++ [tag] } }).completeReq c r .lost []) := by
  change execLostAfterExpiry c tag s = _
  simp only [execLostAfterExpiry, hr, hheld, hst]
  rfl

theorem exec_lostAfterExpiry_void (hr : (s.ch c).req? tag = some r) (hheld : r.held = false) :
    exec (.lostAfterExpiry c tag) s = .next s := by
  change execLostAfterExpiry c tag s = _
  simp only [execLostAfterExpiry, hr, hheld]
  rfl

/-- The end of a request, with room for the one that waits: that one leaves (R269). -/
theorem State.completeReq_issuesNext {w : Request} {rest : List Request} (hr : (s.ch c).req? tag = some r) (hplain : r.plain)
    (ho : r.owner = .orphan) (hw : (s.ch c).wrn.waiting = w :: rest) (hwplain : w.plain) (hown : (s.ch c).isOwn c w.op.addr.toNat = true)
    (hlen : (s.ch c).wrn.reqs.length ≤ 16384) : s.completeReq c r .gone [] =
      (s.setCh c ((((s.ch c).ends r).issuesNext w rest).countCode c .gone)).emit
        (.nocRequest c ((s.ch c).mkRequest c w.agent.toNat 0 w.op)) := by
  set u := s.setCh c ((s.ch c).ends r)
  have hu : u.ch c = (s.ch c).ends r := s.ch_setCh c _
  have hroom : (u.ch c).issueFull = false := by
    have hless := Channel.ends_length hr
    rw [hu, Channel.issueFull, decide_eq_false_iff_not]
    omega
  have hnext : u.issueWaiting c = _ := State.issueWaiting_own (by rw [hu]; exact hw) hwplain (by rw [hu]; exact hown)
  change (if (u.ch c).issueFull then u else u.issueWaiting c).endReq c r .gone [] = _
  rw [if_neg (by simp [hroom]), hnext, State.endReq_orphan hplain ho, hu]
  obtain rfl | rfl := ChanId.cases c <;> rfl

/-- A task that waited for the response it got goes on. -/
theorem State.resume_answered {d : Channel} {core slot : Nat} {k : Task} (ht : d.task? core slot = some (k.answered payload))
    (hst : k.st = .parked) (hcause : k.cause = .response) (hend : k.programEnded = false) (hheld : k.held = none) (hretry : k.retry = [])
    (hx : d.dma.xfers = []) (hops : d.opsOf k.core k.slot = []) :
    (s.setCh c d).resume c core slot = s.setCh c (d.onTask core slot Task.goesOn) := by
  have hwaits : d.waitsFor (k.answered payload) = .none := Channel.waitsFor_nothing hretry hx hops hheld
  have hch : (s.setCh c d).ch c = d := s.ch_setCh c d
  have hgo := State.resume_goesOn (s := s.setCh c d) (c := c) (t := k.answered payload) (by rw [hch]; exact ht) hst hcause hend hheld
    (by rw [hch]; exact hwaits)
  rw [hgo, hch, State.setCh_setCh]

/-- With OK, the task that waited for this response alone goes on with its bytes. -/
theorem State.completeReq_answers {core slot : Nat} {k : Task} (hplain : r.plain) (ho : r.owner = .task core slot)
    (hblocks : r.op.kind.blocks = true) (hw : (s.ch c).wrn.waiting = []) (ht : (s.ch c).task? core slot = some k) (hst : k.st = .parked)
    (hcause : k.cause = .response) (hend : k.programEnded = false) (hheld : k.held = none) (hretry : k.retry = [])
    (hx : (s.ch c).dma.xfers = []) (hlast : ∀ q ∈ (s.ch c).wrn.reqs, q.owner = .task core slot → q.tag = r.tag) :
    s.completeReq c r .ok payload =
      s.setCh c ((((s.ch c).ends r).onTask core slot fun t => t.answered payload).onTask core slot Task.goesOn) := by
  obtain ⟨hcore, hslot⟩ := Channel.task?_place ht
  have htask : (((s.ch c).ends r).onTask core slot fun t => t.answered payload).task? core slot = some (k.answered payload) :=
    Channel.task?_onTask_same (ch := (s.ch c).ends r) ht fun _ => ⟨rfl, rfl⟩
  have hops : (((s.ch c).ends r).onTask core slot fun t => t.answered payload).opsOf k.core k.slot = [] := by
    rw [hcore, hslot]
    exact Channel.opsOf_ends hw hlast
  rw [State.completeReq_noneWaits hw, State.endReq_answers hplain ho hblocks, State.ch_setCh, State.setCh_setCh]
  exact State.resume_answered htask hst hcause hend hheld hretry hx hops

/-! ### What the commands do at the source (R256 to R258, R269) -/

/-- A response with OK reaches the task that waited for it alone. -/
theorem exec_remoteResponse_answers {core slot : Nat} {k : Task} (hp : p.isResponse = true) (hr : (s.ch c).req? p.tag = some r)
    (hok : p.status = 0) (ho : r.owner = .task core slot) (hblocks : r.op.kind.blocks = true) (hplain : r.plain)
    (hw : (s.ch c).wrn.waiting = []) (ht : (s.ch c).task? core slot = some k) (hst : k.st = .parked) (hcause : k.cause = .response)
    (hend : k.programEnded = false) (hheld : k.held = none) (hretry : k.retry = []) (hx : (s.ch c).dma.xfers = [])
    (hlast : ∀ q ∈ (s.ch c).wrn.reqs, q.owner = .task core slot → q.tag = r.tag) :
    exec (.remoteResponse c p) s = .next (s.setCh c
      ((((s.ch c).ends r).onTask core slot fun t => t.answered p.payload).onTask core slot Task.goesOn)) := by
  have hexec := exec_remoteResponse_completes hp hr
  rwa [hok, show compOf (0 : U8).toNat = .ok from rfl,
    State.completeReq_answers hplain ho hblocks hw ht hst hcause hend hheld hretry hx hlast] at hexec

/-- The answered task of a channel, and the others (R48). -/
theorem Channel.onTask_answered_goesOn {ch : Channel} {core slot : Nat} {k : Task} (ht : ch.task? core slot = some k) :
    (((ch.ends r).onTask core slot fun t => t.answered payload).onTask core slot Task.goesOn).task? core slot = some (k.answered payload).goesOn ∧
    ch.otherTasks core slot (((ch.ends r).onTask core slot fun t => t.answered payload).onTask core slot Task.goesOn) := by
  have htask : (ch.ends r).task? core slot = some k := ht
  have hplace : ∀ t : Task, (t.answered payload).core = t.core ∧ (t.answered payload).slot = t.slot := fun _ => ⟨rfl, rfl⟩
  have hgo : ∀ t : Task, t.goesOn.core = t.core ∧ t.goesOn.slot = t.slot := fun _ => ⟨rfl, rfl⟩
  exact ⟨Channel.task?_onTask_same (Channel.task?_onTask_same htask hplace) hgo,
    ((Channel.otherTasks_of_tasks core slot rfl).trans ((ch.ends r).otherTasks_onTask hplace)).trans (Channel.otherTasks_onTask _ hgo)⟩

/-- A request toward a departed channel whose time is up counts as GONE. -/
theorem exec_rspTimeoutExpiry_orphanGone (hr : (s.ch c).req? tag = some r)
    (hst : (s.ch c).routeState r.module.toNat r.channel.toNat = 2) (ho : r.owner = .orphan) (hplain : r.plain)
    (hw : (s.ch c).wrn.waiting = []) : exec (.rspTimeoutExpiry c tag) s = .next (s.setCh c (((s.ch c).ends r).countCode c .gone)) := by
  rw [exec_rspTimeoutExpiry_gone hr hst, State.completeReq_noneWaits hw, State.endReq_orphan hplain ho, State.ch_setCh, State.setCh_setCh]

/-- What the channel that issues its oldest waiting operation keeps when a code is counted. -/
theorem Channel.countGone_issuesNext (ch : Channel) (w : Request) (rest : List Request) :
    ((ch.issuesNext w rest).countCode c .gone).wrn.waiting = rest ∧
    ((ch.issuesNext w rest).countCode c .gone).wrn.goneCnt = satAdd ch.wrn.goneCnt 1 ∧
    (∃ q : Request, ((ch.issuesNext w rest).countCode c .gone).wrn.reqs = ch.wrn.reqs ++ [q] ∧ q.op = w.op ∧ q.owner = w.owner ∧
      q.tag = ch.wrn.nextTag) ∧
    ((ch.issuesNext w rest).countCode c .gone).mem = ch.mem ∧ ((ch.issuesNext w rest).countCode c .gone).tsk = ch.tsk :=
  ⟨rfl, rfl, ⟨_, rfl, rfl, rfl, rfl⟩, rfl, rfl⟩

/-- A held request whose time is up toward a LIVE channel is LOST. -/
theorem exec_lostAfterExpiry_orphanLost (hr : (s.ch c).req? tag = some r) (hheld : r.held = true)
    (hst : (s.ch c).routeState r.module.toNat r.channel.toNat = 1) (ho : r.owner = .orphan) (hplain : r.plain)
    (hw : (s.ch c).wrn.waiting = []) : exec (.lostAfterExpiry c tag) s = .next (s.setCh c
      ((({ s.ch c with wrn := { (s.ch c).wrn with lostTags := (s.ch c).wrn.lostTags ++ [tag] } } : Channel).ends r).countCode c .lost)) := by
  rw [exec_lostAfterExpiry_lost hr hheld hst, State.completeReq_noneWaits (by rw [State.ch_setCh]; exact hw), State.endReq_orphan hplain ho]
  simp only [State.ch_setCh, State.setCh_setCh]

end

/-- Settles O12: a request ends with its code at whoever issued it, and the operation that waited for its room leaves. -/
theorem requestsEndAtTheirSource : Obligations.RequestsEndAtTheirSource := by
  unfold Obligations.RequestsEndAtTheirSource
  intro c p tag r s
  dsimp only
  refine ⟨exec_remoteResponse_late, fun core slot k hp hr hok ho hblocks hplain hw ht hst hcause hend hheld hretry hx hlast => ?_,
    exec_rspTimeoutExpiry_holds, fun hr hst ho hplain hw => exec_rspTimeoutExpiry_orphanGone hr hst ho hplain hw,
    fun w rest hr hst ho hplain hw hwplain hown hlen => ?_,
    fun hr hheld hst ho hplain hw => exec_lostAfterExpiry_orphanLost hr hheld hst ho hplain hw, exec_lostAfterExpiry_void⟩
  · refine ⟨_, exec_remoteResponse_answers hp hr hok ho hblocks hplain hw ht hst hcause hend hheld hretry hx hlast, ?_⟩
    obtain ⟨htask, hothers⟩ := Channel.onTask_answered_goesOn (r := r) (payload := p.payload) ht
    rw [onlyChannel, State.ch_setCh]
    exact ⟨htask, rfl, rfl, rfl, rfl, hothers, rfl⟩
  · have hexec := exec_rspTimeoutExpiry_gone hr hst
    rw [State.completeReq_issuesNext hr hplain ho hw hwplain hown hlen] at hexec
    refine ⟨_, hexec, ?_⟩
    obtain ⟨hwaiting, hcnt, hreqs, hmem, htsk⟩ := Channel.countGone_issuesNext (c := c) ((s.ch c).ends r) w rest
    rw [State.emit_ch, State.ch_setCh, State.emit_out, State.setCh_out]
    exact ⟨rfl, hwaiting, hcnt, hreqs, hmem, htsk, (onlyChannelSent_setCh ..).trans (onlyChannelSent_emit ..)⟩

end Sys2Proof.Machine
end

section
/-! PROOFS. BLKT and PAGELIST of the control complex within clean HBM, and the descriptors that fail (R287 to R289, Table 13-3). -/

namespace Sys2Proof.Machine

/-! ### Failure of a descriptor of the control complex -/

section

variable {s : State} {c : ChanId} {d : DmaDesc} {i : Instr}

/-- A run that has found a cause changes the engine's records alone. -/
theorem State.startDma_fails {cause : Nat} {r : DmaRun} {walked : Option WalkedList} (hrun : s.dmaRun c 0 d = (r, walked)) (hs : r.s = s)
    (hcause : r.cause = cause) (hne : cause ≠ 0) : s.startDma c .control d = s.setCh c ((s.ch c).dmaRecord c .control d.op cause) := by
  have hnone : (s.ch c).dmaOwnerTask .control = none := rfl
  subst hcause
  simp only [State.startDma, hnone, Option.map_none, Option.getD_none, hrun]
  rw [if_pos hne, hs]
  rfl

/-- A run that holds writes and sends nothing leaves a transfer with these writes. -/
theorem dmaStarts_of_writes {srcs : List (Nat × Nat)} {w : List (U64 × List Byte)} {n : Nat} {walked : Option WalkedList}
    (hexec : exec i s = .next (s.startDma c .control d))
    (hrun : s.dmaRun c 0 d = ({ s := s, writes := w, bytes := n, srcs := srcs }, walked)) : dmaStarts i c d srcs w n walked s := by
  have hnone : (s.ch c).dmaOwnerTask .control = none := rfl
  refine hexec.trans ?_
  simp only [State.startDma, hnone, Option.map_none, Option.getD_none, hrun]
  rw [if_neg (by simp), if_neg (by simp)]
  simp only [State.onCh, State.tookFree, State.setCh_free]
  rfl

end

/-- The descriptor passes the checks of Table 13-3 that need no data. -/
def DmaDesc.passes (d : DmaDesc) : Prop := d.badRsvd = false ∧ d.badSize = false ∧ d.badAlign = false

/-! ### BLKT (R287) -/

/-- The bytes of one row of a plane that lies in HBM. -/
def Channel.rowBytes (ch : Channel) (c : ChanId) (e : Nat × Nat) : List Byte := ch.hbmRead ((ch.hbmPlace c e.1 e.2).getD 0) e.2

/-- Every row of a plane lies in HBM. -/
def Channel.rowsInHbm (ch : Channel) (c : ChanId) (l : List (Nat × Nat)) : Prop := ∀ e ∈ l, (ch.hbmPlace c e.1 e.2).isSome = true

/-- Every row of a plane lies in HBM, below the Badger area. -/
def Channel.rowsWritable (ch : Channel) (c : ChanId) (l : List (Nat × Nat)) : Prop :=
  ∀ e ∈ l, ∃ o, ch.hbmPlace c e.1 e.2 = some o ∧ o + e.2 ≤ badgerArea

section

variable {ch : Channel} {c : ChanId} {l : List (Nat × Nat)}

theorem Channel.rowsWritable.inHbm (h : ch.rowsWritable c l) : ch.rowsInHbm c l := fun e he => by
  obtain ⟨o, ho, -⟩ := h e he
  simp [ho]

theorem Channel.rowsInHbm.notFar (h : ch.rowsInHbm c l) : (l.any fun e => !ch.isLocal c e.1) = false := by
  refine List.any_eq_false.mpr fun e he => ?_
  obtain ⟨o, ho⟩ := Option.isSome_iff_exists.mp (h e he)
  simp [Channel.isLocal_of_hbmPlace ho]

theorem Channel.rowsInHbm.notBad (h : ch.rowsInHbm c l) : (l.any fun e => ch.badLocal c false e.1 e.2) = false := by
  refine List.any_eq_false.mpr fun e he => ?_
  obtain ⟨o, ho⟩ := Option.isSome_iff_exists.mp (h e he)
  simp [Channel.badLocal_read ho]

theorem Channel.rowsWritable.notBad (h : ch.rowsWritable c l) : (l.any fun e => ch.badLocal c true e.1 e.2) = false := by
  refine List.any_eq_false.mpr fun e he => ?_
  obtain ⟨o, ho, hbelow⟩ := h e he
  simp [Channel.badLocal_write ho hbelow]

end

/-- Reading rows that lie in clean HBM gathers their bytes and notes their ranges. -/
theorem DmaRun.readRows_hbm {c : ChanId} {l : List (Nat × Nat)} {r : DmaRun} (acc : List (List Byte)) (hcause : r.cause = 0) (hcode : r.code = .ok)
    (hp : (r.s.ch c).mem.hbmPoison = []) (he : (r.s.ch c).mem.hbmErr = []) (hl : (r.s.ch c).rowsInHbm c l) :
    l.foldl (DmaRun.readRow c) (r, acc) = ({ r with srcs := r.srcs ++ l }, acc ++ l.map ((r.s.ch c).rowBytes c)) := by
  induction l generalizing r acc with
  | nil => simp
  | cons e l ih =>
    obtain ⟨o, ho⟩ := Option.isSome_iff_exists.mp (hl e List.mem_cons_self)
    have hrow : DmaRun.readRow c (r, acc) e = ({ r with srcs := r.srcs ++ [e] }, acc ++ [(r.s.ch c).rowBytes c e]) := by
      simp [DmaRun.readRow, hcause, hcode, DmaRun.read_hbm hp he ho, Channel.rowBytes, ho]
    rw [List.foldl_cons, hrow, ih (r := { r with srcs := r.srcs ++ [e] }) _ hcause hcode hp he fun x hx => hl x (List.mem_cons_of_mem _ hx)]
    simp

/-- What a BLKT tile that has been read leaves of its run: cause 0x07 when a sub-square is mixed, and otherwise the writes of its planes. -/
def DmaRun.moves (r : DmaRun) (n : Nat) (dsts dscs : List (Nat × Nat)) (m : Option (List (List Byte) × List (List Byte))) : DmaRun :=
  match m with
  | none => { r with cause := 7 }
  | some m => { r with
      bytes := n
      writes := (dsts.zip m.1).map (fun e => (BitVec.ofNat 64 e.1.1, e.2)) ++ (dscs.zip m.2).map fun e => (BitVec.ofNat 64 e.1.1, e.2) }

section

variable {s : State} {c : ChanId} {d : DmaDesc}

/-- The rows of a tile's four planes: elements and scales at the source, elements and scales at the destination. -/
def DmaDesc.tileSrcs (d : DmaDesc) : List (Nat × Nat) := blktRows d.src d.srcPitch (blockBytes d.esize.toNat) (2 * blockBytes d.esize.toNat)
def DmaDesc.tileScales (d : DmaDesc) : List (Nat × Nat) := blktRows d.aux d.srcPitch 1 2
def DmaDesc.tileDsts (d : DmaDesc) : List (Nat × Nat) := blktRows d.dst d.dstPitch (blockBytes d.esize.toNat) (2 * blockBytes d.esize.toNat)
def DmaDesc.tileDstScales (d : DmaDesc) : List (Nat × Nat) := blktRows d.aux2 d.dstPitch 1 2

/-- What the tile's planes come to, moved. -/
def Channel.tileMoved (ch : Channel) (c : ChanId) (d : DmaDesc) : Option (List (List Byte) × List (List Byte)) :=
  blktMove d.esize.toNat (d.tileSrcs.map (ch.rowBytes c)) (d.tileScales.map (ch.rowBytes c))

/-- Bytes that a tile moves. -/
def DmaDesc.tileBytes (d : DmaDesc) : Nat := 64 * (2 * blockBytes d.esize.toNat + 2)

theorem DmaRun.blkt_hbm (cls : BitVec 3) (hp : (s.ch c).mem.hbmPoison = []) (he : (s.ch c).mem.hbmErr = [])
    (hsrcs : (s.ch c).rowsInHbm c d.tileSrcs) (hscs : (s.ch c).rowsInHbm c d.tileScales)
    (hdsts : (s.ch c).rowsWritable c d.tileDsts) (hdscs : (s.ch c).rowsWritable c d.tileDstScales) :
    ({ s := s } : DmaRun).blkt c cls d =
      ({ s := s, srcs := d.tileSrcs ++ d.tileScales } : DmaRun).moves d.tileBytes d.tileDsts d.tileDstScales
        ((s.ch c).tileMoved c d) := by
  have hreads : d.tileSrcs.foldl (DmaRun.readRow c) ({ s := s }, []) = ({ s := s, srcs := d.tileSrcs }, d.tileSrcs.map ((s.ch c).rowBytes c)) :=
    DmaRun.readRows_hbm [] rfl rfl hp he hsrcs
  have hreadScales : d.tileScales.foldl (DmaRun.readRow c) ({ s := s, srcs := d.tileSrcs }, []) =
      ({ s := s, srcs := d.tileSrcs ++ d.tileScales }, d.tileScales.map ((s.ch c).rowBytes c)) :=
    DmaRun.readRows_hbm [] rfl rfl hp he hscs
  have hinside : ((d.tileScales.any fun e => !(s.ch c).isLocal c e.1) ||
      ((d.tileSrcs.any fun e => !(s.ch c).isLocal c e.1) && (d.tileDsts.any fun e => !(s.ch c).isLocal c e.1)) ||
      (d.tileSrcs.any fun e => (s.ch c).badLocal c false e.1 e.2) || (d.tileScales.any fun e => (s.ch c).badLocal c false e.1 e.2) ||
      (d.tileDsts.any fun e => (s.ch c).badLocal c true e.1 e.2) || (d.tileDstScales.any fun e => (s.ch c).badLocal c true e.1 e.2)) = false := by
    simp only [hscs.notFar, hsrcs.notFar, hsrcs.notBad, hscs.notBad, hdsts.notBad, hdscs.notBad, Bool.false_and, Bool.or_false]
  have hnear : ((d.tileSrcs.any fun e => !(s.ch c).isLocal c e.1) || (d.tileDsts.any fun e => !(s.ch c).isLocal c e.1) ||
      (d.tileDstScales.any fun e => !(s.ch c).isLocal c e.1)) = false := by
    simp only [hsrcs.notFar, hdsts.inHbm.notFar, hdscs.inHbm.notFar, Bool.or_false]
  unfold DmaRun.blkt
  dsimp only
  rw [show blktRows d.src _ _ _ = d.tileSrcs from rfl, show blktRows d.aux _ _ _ = d.tileScales from rfl,
    show blktRows d.dst _ _ _ = d.tileDsts from rfl, show blktRows d.aux2 _ _ _ = d.tileDstScales from rfl,
    if_neg (Bool.eq_false_iff.mp hinside), if_neg (Bool.eq_false_iff.mp hnear), hreads]
  dsimp only
  rw [hreadScales, if_neg (by simp)]
  rfl

theorem State.dmaRun_blkt (cls : BitVec 3) (hd : d.passes) (hop : d.op = 6) (hown : (s.ch c).isOwn c d.src.toNat = true) :
    s.dmaRun c cls d = (({ s := s } : DmaRun).blkt c cls d, none) := by
  obtain ⟨hrsvd, hsize, halign⟩ := hd
  simp [State.dmaRun, hop, hrsvd, hsize, halign, hown]

/-! ### PAGELIST (R288) -/

theorem State.dmaRun_notWalking (cls : BitVec 3) (hd : d.passes) (hop : d.op = 7) (hwalk : (s.ch c).sql.walk = false) :
    s.dmaRun c cls d = ({ s := s, cause := 5 }, none) := by
  obtain ⟨hrsvd, hsize, halign⟩ := hd
  simp [State.dmaRun, hop, hrsvd, hsize, halign, hwalk]

/-- A PAGELIST whose header and list lie in clean HBM holds the writes of the frames that its list names. -/
theorem State.dmaRun_pagelist {ho lo n : Nat} {q : List Part3 × WalkedList} (cls : BitVec 3) (hd : d.passes) (hop : d.op = 7)
    (hwalk : (s.ch c).sql.walk = true) (hp : (s.ch c).mem.hbmPoison = []) (he : (s.ch c).mem.hbmErr = [])
    (hhdr : (s.ch c).hbmPlace c d.aux.toNat 16 = some ho) (hn : n = field ((s.ch c).hbmRead ho 16) 4 4) (hne : n ≠ 0)
    (hlist : (s.ch c).hbmPlace c (d.aux.toNat + 16) (4 * n) = some lo)
    (hq : (s.ch c).pagelistParts c d ((s.ch c).hbmRead ho 16) ((s.ch c).hbmRead lo (4 * n)) = some q) (hl : ∀ p ∈ q.1, (s.ch c).hbmPart c p) :
    s.dmaRun c cls d = (({ s := s } : DmaRun).holds c q.1, some q.2) := by
  obtain ⟨hrsvd, hsize, halign⟩ := hd
  subst hn
  have hreadHdr := DmaRun.read_hbm (r := { s := s }) (c := c) hp he hhdr
  have hreadList := DmaRun.read_hbm (r := { s := s }) (c := c) hp he hlist
  have hparts := DmaRun.parts_hbm (r := { s := s }) (c := c) cls rfl rfl hp he hl
  simp [State.dmaRun, hop, hrsvd, hsize, halign, hwalk, Channel.isLocal_of_hbmPlace hhdr, hreadHdr, hne, hreadList, hq,
    Channel.partsCause_hbm hl, hparts]

end

/-- Settles O37: a tile's planes are read whole before its rows are written; a list's frames move as parts; what fails is recorded. -/
theorem blktAndPagelist : Obligations.BlktAndPagelist := by
  unfold Obligations.BlktAndPagelist
  intro c d s
  dsimp only
  refine ⟨fun ⟨hp, he, hroom, hd⟩ hop hown hin hout => ?_, fun ⟨_, _, hroom, hd⟩ hop hwalk => ?_,
    fun ho lo n q ⟨hp, he, hroom, hd⟩ hop hwalk hhdr hn hne hlist hq hl => ?_⟩
  · have hstart : exec (.dmaBlkt c d none) s = .next (s.startDma c .control d) :=
      congrArg Host.Outcome.next (State.dmaCommand_control (congrArg BitVec.toNat hop) hroom)
    have hrun := State.dmaRun_blkt 0 hd hop hown
    rw [DmaRun.blkt_hbm 0 hp he (fun e h => hin e (List.mem_append_left _ h)) (fun e h => hin e (List.mem_append_right _ h))
      (fun e h => hout e (List.mem_append_left _ h)) (fun e h => hout e (List.mem_append_right _ h))] at hrun
    refine ⟨fun hmixed => ?_, fun m hm => ?_⟩
    · rw [show (s.ch c).tileMoved c d = none from hmixed] at hrun
      exact hstart.trans (congrArg Host.Outcome.next (State.startDma_fails hrun rfl rfl (by decide)))
    · rw [show (s.ch c).tileMoved c d = some m from hm] at hrun
      exact dmaStarts_of_writes hstart hrun
  · exact (congrArg Host.Outcome.next (State.dmaCommand_control (congrArg BitVec.toNat hop) hroom)).trans <|
      congrArg Host.Outcome.next (State.startDma_fails (State.dmaRun_notWalking 0 hd hop hwalk) rfl rfl (by decide))
  · exact dmaStarts_of_holds (congrArg Host.Outcome.next (State.dmaCommand_control (congrArg BitVec.toNat hop) hroom))
      (State.dmaRun_pagelist 0 hd hop hwalk hp he hhdr hn hne hlist hq hl)

end Sys2Proof.Machine
end

section
/-! PROOFS. Descriptors of the control complex that are refused, and transfers that end with their CXL port (R278, R289, Table 13-3). -/

namespace Sys2Proof.Machine

/-! ### A descriptor that fails its first checks (Table 13-3) -/

/-- The lowest cause that a descriptor has by itself; 0 when it has none. -/
def DmaDesc.firstCause (d : DmaDesc) : Nat :=
  if d.op = 0 ∨ 7 < d.op.toNat then 1 else if d.badRsvd then 2 else if d.badSize then 3 else if d.badAlign then 4 else 0

theorem DmaDesc.firstCause_known {d : DmaDesc} (h1 : 1 ≤ d.op.toNat) (h7 : d.op.toNat ≤ 7) :
    d.firstCause = if d.badRsvd then 2 else if d.badSize then 3 else if d.badAlign then 4 else 0 := by
  refine if_neg ?_
  rintro (h | h)
  · rw [h] at h1
    exact absurd h1 (by decide)
  · omega

theorem State.dmaRun_firstCause (s : State) (c : ChanId) (cls : BitVec 3) {d : DmaDesc} (h : d.firstCause ≠ 0) :
    s.dmaRun c cls d = ({ s := s, cause := d.firstCause }, none) := by
  by_cases hop : d.op = 0 ∨ 7 < d.op.toNat
  · rw [show d.firstCause = 1 from if_pos hop]
    exact if_pos hop
  by_cases hrsvd : d.badRsvd = true
  · rw [show d.firstCause = 2 from (if_neg hop).trans (if_pos hrsvd)]
    exact (if_neg hop).trans (if_pos hrsvd)
  by_cases hsize : d.badSize = true
  · rw [show d.firstCause = 3 from (if_neg hop).trans <| (if_neg hrsvd).trans (if_pos hsize)]
    exact (if_neg hop).trans <| (if_neg hrsvd).trans (if_pos hsize)
  by_cases halign : d.badAlign = true
  · rw [show d.firstCause = 4 from (if_neg hop).trans <| (if_neg hrsvd).trans <| (if_neg hsize).trans (if_pos halign)]
    exact (if_neg hop).trans <| (if_neg hrsvd).trans <| (if_neg hsize).trans (if_pos halign)
  · exact absurd ((if_neg hop).trans <| (if_neg hrsvd).trans <| (if_neg hsize).trans (if_neg halign)) h

section

variable {s : State} {c : ChanId} {d : DmaDesc} {op : Nat} {i : Instr}

/-- A command is one of those that start a descriptor of the control complex with operation `op`. -/
def startsControl (c : ChanId) (d : DmaDesc) (op : Nat) (i : Instr) : Prop := ∀ s, exec i s = .next (s.dmaCommand c op d none)

/-- What holds of every command that starts a descriptor with operation `op` holds of that of Table 13-2. -/
theorem dmaCommands_all {f : Instr → Prop} (h : 1 ≤ op → op ≤ 7 → ∀ i, startsControl c d op i → f i) :
    (op = 1 → f (.dmaCopy c d none)) ∧ (op = 2 → f (.dmaGather c d none)) ∧ (op = 3 → f (.dmaScatter c d none)) ∧
      (op = 4 → f (.dmaStride2d c d none)) ∧ (op = 5 → f (.dmaTranspose c d none)) ∧ (op = 6 → f (.dmaBlkt c d none)) ∧
      (op = 7 → f (.dmaPagelist c d none)) := by
  refine ⟨?_, ?_, ?_, ?_, ?_, ?_, ?_⟩ <;>
    · rintro rfl
      exact h (by decide) (by decide) _ fun _ => rfl

theorem startsControl.noRoom (hi : startsControl c d op i) (h : ¬ (s.ch c).dma.xfers.length < 32) : exec i s = .next s := by
  have hmay : (s.ch c).dmaMayStart d none = none := if_pos (Nat.not_lt.mp h)
  rw [hi, State.dmaCommand, hmay, ite_self]

theorem startsControl.otherOp (hi : startsControl c d op i) (hop : d.op.toNat ≠ op) (h1 : 1 ≤ d.op.toNat) (h7 : d.op.toNat ≤ 7) :
    exec i s = .next s := by
  rw [hi, State.dmaCommand, if_pos ⟨hop, h1, h7⟩]

/-- The engine after the failure of a descriptor of the control complex. -/
def Dma.failed (x : Dma) (op : U8) (cause : Nat) : Dma :=
  { x with
    faults := satAdd x.faults 1
    blktMixCnt := if cause = 7 then satAdd x.blktMixCnt 1 else x.blktMixCnt
    blktMix := x.blktMix || cause == 7
    memUe := x.memUe || cause == 8
    fault := x.fault || cause != 8
    errCause := BitVec.ofNat 8 cause, errOp := op, errCtrl := true, errCore := 0, errSeq := 0 }

theorem Channel.dmaRecord_control (ch : Channel) (c : ChanId) (op : U8) {cause : Nat} (h : cause ≠ 8) : ch.dmaRecord c .control op cause =
    ({ ch with dma := ch.dma.failed op cause } : Channel).withRaised (ch.raise c 0x2006).events (ch.raise c 0x2006).beat.raised :=
  (if_neg h).trans (Channel.raise_as (ch := ch) (k := { ch with dma := ch.dma.failed op cause }) c 0x2006 rfl rfl rfl)

/-- The command is recorded with cause `cause`, and starts and moves nothing. -/
def failsWith (c : ChanId) (d : DmaDesc) (cause : Nat) (s : State) (i : Instr) : Prop :=
  ∃ t, exec i s = .next t ∧ (t.ch c).dma.errCause = BitVec.ofNat 8 cause ∧ (t.ch c).dma.errOp = d.op ∧ (t.ch c).dma.errCtrl = true ∧
    (t.ch c).dma.faults = satAdd (s.ch c).dma.faults 1 ∧ (t.ch c).dma.fault = true ∧ (t.ch c).dma.xfers = (s.ch c).dma.xfers ∧
    (t.ch c).events = ((s.ch c).raise c 0x2006).events ∧
    t = s.setCh c { s.ch c with dma := (t.ch c).dma, beat := (t.ch c).beat, events := (t.ch c).events }

/-- A descriptor with a cause of its own fails with it under each command that takes it up. -/
theorem startsControl.fails {cause : Nat} (hi : startsControl c d op i) (hroom : (s.ch c).dma.xfers.length < 32)
    (hop : d.op.toNat = op ∨ d.op = 0 ∨ 7 < d.op.toNat) (hcause : d.firstCause = cause) (hne : cause ≠ 0) (h8 : cause ≠ 8) :
    failsWith c d cause s i := by
  have hmay : (s.ch c).dmaMayStart d none = some .control := if_neg (Nat.not_le.mpr hroom)
  have htaken : ¬ (d.op.toNat ≠ op ∧ 1 ≤ d.op.toNat ∧ d.op.toNat ≤ 7) := by
    rintro ⟨hother, h1, h7⟩
    rcases hop with h | h | h
    · exact hother h
    · rw [h] at h1
      exact absurd h1 (by decide)
    · omega
  have hexec : exec i s = .next (s.startDma c .control d) := by rw [hi, State.dmaCommand, if_neg htaken, hmay]
  rw [State.startDma_fails (State.dmaRun_firstCause s c 0 (hcause ▸ hne)) rfl hcause hne, Channel.dmaRecord_control _ c d.op h8] at hexec
  refine ⟨_, hexec, ?_⟩
  rw [State.ch_setCh]
  have hfault : ((s.ch c).dma.fault || cause != 8) = true := by simp [h8]
  exact ⟨rfl, rfl, rfl, rfl, hfault, rfl, rfl, rfl⟩

end

/-! ### Reports and port counters (R345) -/

/-- A channel with other records of its Badger: the ring, the incidents, the last fault and what it raised. -/
def Channel.withReport (ch : Channel) (y : Serial) (b : Bdg) (code : U16) (events : List EvRec) (raised : List U16) : Channel :=
  { ch with
    ser := y, bdg := b, chn := { ch.chn with lastFault := code }, events := events, beat := { ch.beat with raised := raised } }

/-- A report changes the Badger's records, and nothing else. -/
theorem Channel.report_eq_withReport (ch : Channel) (c : ChanId) (code : Nat) (source : U8) (u : SuspectUnit) (second : Option Nat)
    (pair : Option (Nat × Nat)) (fill : FaultRec → FaultRec) :
    ∃ y b f evs rs, ch.report c code source u second pair fill = ch.withReport y b f evs rs := by
  refine ite_ind (fun k => ∃ y b f evs rs, k = ch.withReport y b f evs rs) ?_ <|
    ite_ind (fun k => ∃ y b f evs rs, k = ch.withReport y b f evs rs) ⟨_, _, _, _, _, rfl⟩ <|
    ite_ind (fun k => ∃ y b f evs rs, k = ch.withReport y b f evs rs) ⟨_, _, _, _, _, rfl⟩ ?_
  all_goals
    rw [Channel.raise_shape]
    exact ⟨_, _, _, _, _, rfl⟩

theorem Channel.cxlFailed_eq_withReport (ch : Channel) (c : ChanId) (p : Fin 2) :
    ∃ y b f evs rs, ch.cxlFailed c p = ch.withReport y b f evs rs := by
  obtain ⟨evs, rs, hraise⟩ := ch.raise_eq_withRaised c 0x2004
  obtain ⟨y, b, f, evs', rs', hreport⟩ := (ch.withRaised evs rs).report_eq_withReport c 0x2004 7 (.cxlPort p.val) none none id
  exact ⟨y, b, f, evs', rs', by rw [Channel.cxlFailed, hraise, hreport]; rfl⟩

/-- A channel whose CXL ports are other ones. -/
def Channel.withPorts (ch : Channel) (p0 p1 : CxlPort) : Channel := { ch with cxl := { ch.cxl with port0 := p0, port1 := p1 } }

theorem Channel.onCxlPort_eq_withPorts (ch : Channel) (p : Fin 2) (f : CxlPort → CxlPort) : ∃ p0 p1, ch.onCxlPort p f = ch.withPorts p0 p1 := by
  unfold Channel.onCxlPort
  split <;> exact ⟨_, _, rfl⟩

@[simp] theorem Channel.cxlPort_onCxlPort_same (ch : Channel) (p : Fin 2) (f : CxlPort → CxlPort) :
    (ch.onCxlPort p f).cxlPort p = f (ch.cxlPort p) := by
  unfold Channel.onCxlPort Channel.cxlPort
  split <;> rfl

theorem Channel.cxlPort_onCxlPort_other (ch : Channel) {p q : Fin 2} (f : CxlPort → CxlPort) (h : q ≠ p) :
    (ch.onCxlPort p f).cxlPort q = ch.cxlPort q := by
  unfold Channel.onCxlPort Channel.cxlPort
  by_cases hp : p = 0
  · have hq : q ≠ 0 := fun hq => h (hq.trans hp.symm)
    rw [if_pos hp, if_neg hq, if_neg hq]
  · have hq : q = 0 := (ChanId.cases q).resolve_right fun hq => h (hq.trans ((ChanId.cases p).resolve_left hp).symm)
    rw [if_neg hp, if_pos hq, if_pos hq]

/-! ### Timeouts (R278) -/

section

variable {s : State} {c : ChanId} {port : Fin 2} {id : Nat} {x : Xfer}

/-- A transfer without return copies loses no activations. -/
theorem State.loseActs_noReturn {d : DmaDesc} (h : (s.ch c).returnCopies c d = []) : s.loseActs c d = s := by
  have hkept : s.onCh c (fun ch => { ch with upd := { ch.upd with
      actPending := ch.upd.actPending.filter fun e => !([] : List (Nat × Nat × Nat)).contains e
      actGone := ch.upd.actGone ++ ([] : List (Nat × Nat × Nat)).filter fun e => !ch.upd.actGone.contains e } }) = s := by
    simp only [State.onCh, List.contains_nil, Bool.not_false, List.filter_true, List.filter_nil, List.append_nil]
    exact s.setCh_ch c
  have hreads (k : Channel) (t : Task) : k.readsAny c t [] = false := by simp [Channel.readsAny]
  simp only [State.loseActs, h, hkept, hreads, Bool.and_false, List.filter_false, List.foldl_nil]

/-- The channel of a transfer that a timeout at a port ends. -/
def Channel.timesOut (ch : Channel) (c : ChanId) (port : Fin 2) : Channel :=
  (ch.onCxlPort port fun p => { p with timeout := satAdd p.timeout 1 }).cxlFailed c port

/-- A timeout counts at its port and is reported; memory, tasks, transfers and the other port stay. -/
theorem Channel.timesOut_keeps (ch : Channel) (c : ChanId) (port : Fin 2) (d : DmaDesc) :
    (((ch.timesOut c port).cxlPort port).timeout = satAdd (ch.cxlPort port).timeout 1 ∧
      ∀ q : Fin 2, q ≠ port → (ch.timesOut c port).cxlPort q = ch.cxlPort q) ∧
    ((ch.timesOut c port).mem = ch.mem ∧ (ch.timesOut c port).cxl.mem = ch.cxl.mem ∧ (ch.timesOut c port).tsk = ch.tsk ∧
      (ch.timesOut c port).dma = ch.dma) ∧ (ch.timesOut c port).returnCopies c d = ch.returnCopies c d := by
  obtain ⟨y, b, f, evs, rs, hreport⟩ := (ch.onCxlPort port fun p => { p with timeout := satAdd p.timeout 1 }).cxlFailed_eq_withReport c port
  obtain ⟨p0, p1, hports⟩ := ch.onCxlPort_eq_withPorts port fun p => { p with timeout := satAdd p.timeout 1 }
  refine ⟨⟨?_, fun q hq => ?_⟩, ?_, ?_⟩
  · rw [Channel.timesOut, hreport]
    exact congrArg CxlPort.timeout (ch.cxlPort_onCxlPort_same port _)
  · rw [Channel.timesOut, hreport]
    exact ch.cxlPort_onCxlPort_other _ hq
  · rw [Channel.timesOut, hreport, hports]
    exact ⟨rfl, rfl, rfl, rfl⟩
  · rw [Channel.timesOut, hreport, hports]
    rfl

/-- A transfer of the control complex that is not a return copy ends with the timeout, and nothing more. -/
theorem State.xferFails_control (howner : x.owner = .control) (hreturn : (s.ch c).returnCopies c x.desc = []) :
    s.xferFails c port x true = (s.setCh c ((s.ch c).timesOut c port)).onCh c fun k =>
      { k with dma := { k.dma with xfers := k.dma.xfers.filter fun y => y.id != x.id } } := by
  have hnoReturn : (s.setCh c ((s.ch c).timesOut c port)).loseActs c x.desc = s.setCh c ((s.ch c).timesOut c port) := by
    refine State.loseActs_noReturn ?_
    obtain ⟨-, -, hcopies⟩ := (s.ch c).timesOut_keeps c port x.desc
    rw [State.ch_setCh, hcopies, hreturn]
  have hcode (r : State) : r.dmaCode c x.id x.owner .memErr =
      r.onCh c fun k => { k with dma := { k.dma with xfers := k.dma.xfers.filter fun y => y.id != x.id } } := by rw [howner]; rfl
  have hfails : s.xferFails c port x true = (if (s.ch c).xferOnPort c false port x then
      (s.setCh c ((s.ch c).timesOut c port)).loseActs c x.desc else s.setCh c ((s.ch c).timesOut c port)).dmaCode c x.id x.owner .memErr := rfl
  rw [hfails, hnoReturn, ite_self, hcode]

theorem State.cxlTimeout_unknown (write : Bool) (h : ((s.ch c).dma.xfers.find? fun y => y.id == id) = none) :
    s.cxlTimeout c write port id = s := by simp only [State.cxlTimeout, h]

theorem State.cxlTimeout_elsewhere {write : Bool} (h : ((s.ch c).dma.xfers.find? fun y => y.id == id) = some x)
    (hport : (s.ch c).xferOnPort c write port x = false) : s.cxlTimeout c write port id = s := by
  simp only [State.cxlTimeout, h, hport, Bool.false_eq_true, if_false]

/-- A timeout of transfer `x` counts at its port and ends the transfer; memory, tasks and the other port stay. -/
def timeoutEnds (c : ChanId) (port : Fin 2) (x : Xfer) (s : State) (i : Instr) : Prop :=
  ∃ t, exec i s = .next t ∧ ((t.ch c).cxlPort port).timeout = satAdd ((s.ch c).cxlPort port).timeout 1 ∧
    (t.ch c).dma.xfers = ((s.ch c).dma.xfers.filter fun y => y.id != x.id) ∧ (t.ch c).mem.sram = (s.ch c).mem.sram ∧
    (t.ch c).cxl.mem = (s.ch c).cxl.mem ∧ (t.ch c).tsk = (s.ch c).tsk ∧
    (∀ q : Fin 2, q ≠ port → (t.ch c).cxlPort q = (s.ch c).cxlPort q) ∧
    onlyChannelFree c s t

theorem timeoutEnds_of_cxlTimeout {i : Instr} {write : Bool} (hexec : exec i s = .next (s.cxlTimeout c write port id))
    (h : ((s.ch c).dma.xfers.find? fun y => y.id == id) = some x) (howner : x.owner = .control)
    (hreturn : (s.ch c).returnCopies c x.desc = []) (hport : (s.ch c).xferOnPort c write port x = true) : timeoutEnds c port x s i := by
  simp only [State.cxlTimeout, h, hport, if_true, State.xferFails_control howner hreturn, State.onCh, State.ch_setCh, State.setCh_setCh] at hexec
  obtain ⟨⟨hcount, hother⟩, ⟨hmem, hcxl, htsk, hdma⟩, -⟩ := (s.ch c).timesOut_keeps c port x.desc
  refine ⟨_, hexec, ?_⟩
  rw [onlyChannelFree, State.ch_setCh, State.setCh_free, ← hmem, ← hcxl, ← htsk, ← hdma]
  refine ⟨hcount, rfl, rfl, rfl, rfl, hother, ?_⟩
  obtain rfl | rfl := ChanId.cases c <;> rfl

/-! ### A port that leaves UP (R278) -/

theorem exec_cxlPortLeavesUp_down {failed : Bool} (h : ((s.ch c).cxlPort port).isUp = false) :
    exec (.cxlPortLeavesUp c port failed) s = .next s := by
  change Host.Outcome.next (s.cxlPortDown c port _) = _
  rw [State.cxlPortDown, h]
  rfl

/-- A port that leaves UP with no transfer in the engine shows its state and raises CXL_PORT_DOWN. -/
theorem exec_cxlPortLeavesUp_idle {failed : Bool} (hup : ((s.ch c).cxlPort port).isUp = true) (hidle : (s.ch c).dma.xfers = []) :
    exec (.cxlPortLeavesUp c port failed) s =
      .next (s.setCh c (((s.ch c).onCxlPort port fun p => { p with st := if failed then 3 else 0 }).raise c 0x2005)) := by
  obtain ⟨p0, p1, hports⟩ := (s.ch c).onCxlPort_eq_withPorts port fun p => { p with st := if failed then 3 else 0 }
  obtain ⟨evs, rs, hraise⟩ := ((s.ch c).withPorts p0 p1).raise_eq_withRaised c 0x2005
  have hnone : (((s.ch c).withPorts p0 p1).withRaised evs rs).dma.xfers = [] := hidle
  change Host.Outcome.next (s.cxlPortDown c port _) = _
  simp only [State.cxlPortDown, hup, Bool.not_true, Bool.false_eq_true, if_false, State.ch_onCh, hports, hraise, hnone,
    List.filter_nil, List.foldl_nil]
  rw [State.onCh, hports, hraise]

end

/-- Settles O38: a descriptor's first cause stops its run before any data; a timeout ends the transfer that it names. -/
theorem transfersAreRefusedAndFail : Obligations.TransfersAreRefusedAndFail := by
  unfold Obligations.TransfersAreRefusedAndFail
  refine ⟨fun c d op s => ?_, fun c port id failed x s => ?_⟩
  · dsimp only
    refine ⟨fun hfull => dmaCommands_all (f := fun i => exec i s = .next s) fun _ _ i hi => hi.noRoom hfull,
      fun hop h1 h7 => dmaCommands_all (f := fun i => exec i s = .next s) fun _ _ i hi => hi.otherOp hop h1 h7,
      fun hroom hop => dmaCommands_all (f := failsWith c d 1 s) fun _ _ i hi =>
        hi.fails hroom (.inr hop) (if_pos hop) (by decide) (by decide), fun hroom hop => ?_⟩
    have hknown (h1 : 1 ≤ op) (h7 : op ≤ 7) := DmaDesc.firstCause_known (hop ▸ h1) (hop ▸ h7)
    refine ⟨fun hrsvd => dmaCommands_all (f := failsWith c d 2 s) fun h1 h7 i hi => ?_,
      fun hrsvd hsize => dmaCommands_all (f := failsWith c d 3 s) fun h1 h7 i hi => ?_,
      fun hrsvd hsize halign => dmaCommands_all (f := failsWith c d 4 s) fun h1 h7 i hi => ?_⟩
    · exact hi.fails hroom (.inl hop) (by simp [hknown h1 h7, hrsvd]) (by decide) (by decide)
    · exact hi.fails hroom (.inl hop) (by simp [hknown h1 h7, hrsvd, hsize]) (by decide) (by decide)
    · exact hi.fails hroom (.inl hop) (by simp [hknown h1 h7, hrsvd, hsize, halign]) (by decide) (by decide)
  · dsimp only
    refine ⟨exec_cxlPortLeavesUp_down, exec_cxlPortLeavesUp_idle,
      fun hnone => ⟨congrArg Host.Outcome.next (State.cxlTimeout_unknown false hnone),
        congrArg Host.Outcome.next (State.cxlTimeout_unknown true hnone)⟩,
      fun hfound howner hreturn => ⟨timeoutEnds_of_cxlTimeout rfl hfound howner hreturn,
        timeoutEnds_of_cxlTimeout rfl hfound howner hreturn,
        fun hport => congrArg Host.Outcome.next (State.cxlTimeout_elsewhere hfound hport),
        fun hport => congrArg Host.Outcome.next (State.cxlTimeout_elsewhere hfound hport)⟩⟩

end Sys2Proof.Machine
end

section
/-! PROOFS. Scrub of HBM and of core SRAM over lines and words without earlier errors (R273, R275, R282). -/

namespace Sys2Proof.Machine

/-! ### A table that gathers one error -/

theorem smDel_smMod_nil (k : Nat) (f : Nat → Nat) : smDel k (smMod 0 ([] : SMap Nat) k f) = [] := by
  unfold smMod smSet
  split
  · rfl
  · simp [smIns, smDel]

/-! ### Reads with check symbols (R273, R282) -/

section

variable {s : State} {c : ChanId} {n : Nat}

theorem State.readLine_good (src : UeSource) (hp : smGet false (s.ch c).mem.hbmPoison n = false) (he : smGet 0 (s.ch c).mem.hbmErr n = 0) :
    s.readLine c src n = (s, true) := by
  simp [State.readLine, hp, he]

theorem State.readLine_single (src : UeSource) (hp : smGet false (s.ch c).mem.hbmPoison n = false) (he : smGet 0 (s.ch c).mem.hbmErr n = 1) :
    s.readLine c src n = (s.onCh c fun k => k.hbmCorrected c (n * 64), true) := by
  simp [State.readLine, hp, he]

theorem State.readWord_good (src : UeSource) (hp : smGet false (s.ch c).mem.sramPoison n = false) (he : smGet 0 (s.ch c).mem.sramErr n = 0) :
    s.readWord c src n = (s, true) := by
  simp [State.readWord, hp, he]

theorem State.readWord_single (src : UeSource) (hp : smGet false (s.ch c).mem.sramPoison n = false) (he : smGet 0 (s.ch c).mem.sramErr n = 1) :
    s.readWord c src n = (s.onCh c fun k => k.sramCorrected n, true) := by
  simp [State.readWord, hp, he]

end

/-- A channel whose memory has counted corrections of HBM, and holds these bad symbols. -/
def Channel.withCorrections (ch : Channel) (n : U32) (hours : SMap (Nat × Nat × Bool)) (storm : Bool) (err : SMap Nat) : Channel :=
  { ch with mem := { ch.mem with ce := n, ceHour := hours, ceStorm := storm, hbmErr := err } }

/-- A correction counts, mends its line, and may report a storm. -/
theorem Channel.hbmCorrected_eq (ch : Channel) (c : ChanId) (off : Nat) : ∃ hours storm y b f evs rs, ch.hbmCorrected c off =
    (ch.withCorrections (satAdd ch.mem.ce 1) hours storm (smDel (off / 64) ch.mem.hbmErr)).withReport y b f evs rs := by
  refine ite_ind (fun k => ∃ hours storm y b f evs rs, k =
    (ch.withCorrections (satAdd ch.mem.ce 1) hours storm (smDel (off / 64) ch.mem.hbmErr)).withReport y b f evs rs) ?_
    ⟨_, ch.mem.ceStorm, ch.ser, ch.bdg, ch.chn.lastFault, ch.events, ch.beat.raised, rfl⟩
  obtain ⟨y, b, f, evs, rs, hreport⟩ := Channel.report_eq_withReport _ c 0x2002 4 (.pchan (pseudoChannel off)) none none _
  rw [hreport, Channel.raise_shape]
  exact ⟨_, true, y, b, f, evs, rs, rfl⟩

/-! ### HBM (R275) -/

/-- The scrub's place and passes after a line. -/
def Mem.afterLine (m : Mem) (line : Nat) : Mem :=
  { m with
    pos := BitVec.ofNat 38 (if hbmSize ≤ (line + 1) * 64 then 0 else (line + 1) * 64)
    passes := if hbmSize ≤ (line + 1) * 64 then satAdd m.passes 1 else m.passes }

/-- A channel whose HBM scrub goes on behind a line. -/
def Channel.afterLine (ch : Channel) (line : Nat) : Channel := { ch with mem := ch.mem.afterLine line }

/-- A channel one of whose lines has gathered bad symbols. -/
def Channel.gathersHbm (ch : Channel) (line bad : Nat) : Channel :=
  { ch with mem := { ch.mem with hbmErr := smMod 0 ch.mem.hbmErr line fun n => n + bad } }

section

variable {s : State} {c : ChanId}

theorem exec_hbmPatrolScrubStep_notReady (bad : Nat) (h : (s.ch c).cfg.hbmReady = false) : exec (.hbmPatrolScrubStep c bad) s = .next s :=
  if_pos (by simp [h])

/-- A step reads the line that it has come to, and goes on. -/
theorem exec_hbmPatrolScrubStep_reads (bad : Nat) (h : (s.ch c).cfg.hbmReady = true) : exec (.hbmPatrolScrubStep c bad) s =
    .next ((((s.setCh c ((s.ch c).gathersHbm ((s.ch c).mem.pos.toNat / 64) bad)).readLine c .hbmScrub ((s.ch c).mem.pos.toNat / 64)).1).onCh c
      fun k => k.afterLine ((s.ch c).mem.pos.toNat / 64)) := by
  refine (if_neg (by simp [h])).trans ?_
  simp only [decide_eq_true_eq]
  rfl

theorem exec_scrubDeadline_notReady (h : (s.ch c).cfg.hbmReady = false) : exec (.scrubDeadline c) s = .next s := if_pos (by simp [h])

theorem exec_scrubDeadline_late (h : (s.ch c).cfg.hbmReady = true) :
    exec (.scrubDeadline c) s = .next (s.setCh c ({ s.ch c with mem := { (s.ch c).mem with scrubLate := true } }.raise c 0x2003)) :=
  if_neg (by simp [h])

/-- A step over a good line. -/
theorem exec_hbmPatrolScrubStep_good (hready : (s.ch c).cfg.hbmReady = true) (he : (s.ch c).mem.hbmErr = [])
    (hp : smGet false (s.ch c).mem.hbmPoison ((s.ch c).mem.pos.toNat / 64) = false) : exec (.hbmPatrolScrubStep c 0) s =
      .next (s.setCh c ((s.ch c).afterLine ((s.ch c).mem.pos.toNat / 64))) := by
  set line := (s.ch c).mem.pos.toNat / 64
  have hsame : (s.ch c).gathersHbm line 0 = s.ch c := by
    have herr : smMod 0 (s.ch c).mem.hbmErr line (fun n => n + 0) = (s.ch c).mem.hbmErr := by rw [he]; rfl
    rw [Channel.gathersHbm, herr]
  rw [exec_hbmPatrolScrubStep_reads 0 hready, hsame, State.setCh_ch, State.readLine_good .hbmScrub hp (by rw [he]; rfl)]
  rfl

/-- A step over a line that has gathered one bad symbol corrects and counts it. -/
theorem exec_hbmPatrolScrubStep_single (hready : (s.ch c).cfg.hbmReady = true) (he : (s.ch c).mem.hbmErr = [])
    (hp : smGet false (s.ch c).mem.hbmPoison ((s.ch c).mem.pos.toNat / 64) = false) : ∃ hours storm y b f evs rs,
      exec (.hbmPatrolScrubStep c 1) s = .next (s.setCh c
        ((((s.ch c).withCorrections (satAdd (s.ch c).mem.ce 1) hours storm []).withReport y b f evs rs).afterLine
          ((s.ch c).mem.pos.toNat / 64))) := by
  set line := (s.ch c).mem.pos.toNat / 64
  obtain ⟨hours, storm, y, b, f, evs, rs, hcorrected⟩ := ((s.ch c).gathersHbm line 1).hbmCorrected_eq c (line * 64)
  have hone : smGet 0 ((s.ch c).gathersHbm line 1).mem.hbmErr line = 1 := by
    rw [Channel.gathersHbm, smGet_smMod_same, he]
    rfl
  have hmended : smDel (line * 64 / 64) ((s.ch c).gathersHbm line 1).mem.hbmErr = [] := by
    rw [Nat.mul_div_cancel _ (by decide), Channel.gathersHbm, he]
    exact smDel_smMod_nil line (· + 1)
  rw [hmended] at hcorrected
  refine ⟨hours, storm, y, b, f, evs, rs, ?_⟩
  rw [exec_hbmPatrolScrubStep_reads 1 hready, State.readLine_single .hbmScrub (by rw [State.ch_setCh]; exact hp) (by rw [State.ch_setCh]; exact hone),
    State.onCh_onCh, State.onCh, State.ch_setCh, State.setCh_setCh, hcorrected]
  rfl

/-! ### Core SRAM (R282) -/

/-- A channel one of whose SRAM words has gathered bad bits. -/
def Channel.gathersSram (ch : Channel) (word bad : Nat) : Channel :=
  { ch with mem := { ch.mem with sramErr := smMod 0 ch.mem.sramErr word fun n => n + bad } }

/-- The scrub of core p has come to its next word. -/
def Mem.afterWord (m : Mem) (p i : Nat) : Mem := { m with sramPos := smSet 0 m.sramPos p ((i + 1) % 2 ^ 19) }

variable {p : Nat}

/-- The SRAM of core p is scrubbed: the core and the channel have power, and the channel is past its boot. -/
def Channel.scrubsCore (ch : Channel) (p : Nat) : Prop :=
  p < 136 ∧ (ch.domainOf p).st ≠ .off ∧ ch.domain.st ≠ .off ∧ ch.calibrated = true

theorem Channel.scrubsCore_iff (ch : Channel) (p : Nat) : ch.scrubsCore p ↔
    ¬ (136 ≤ p ∨ ((ch.domainOf p).st == .off || ch.domain.st == .off) = true ∨ (!ch.calibrated) = true) := by
  simp [Channel.scrubsCore, and_assoc]

theorem exec_sramScrubStep_off (bad : Nat) (h : ¬ (s.ch c).scrubsCore p) : exec (.sramScrubStep c p bad) s = .next s :=
  if_pos (not_not.mp (mt ((s.ch c).scrubsCore_iff p).mpr h))

theorem exec_sramScrubStep_reads (bad : Nat) (h : (s.ch c).scrubsCore p) : exec (.sramScrubStep c p bad) s =
    .next ((((s.setCh c ((s.ch c).gathersSram (p * 2 ^ 19 + smGet 0 (s.ch c).mem.sramPos p) bad)).readWord c .sramScrub
      (p * 2 ^ 19 + smGet 0 (s.ch c).mem.sramPos p)).1).onCh c fun k => { k with mem := k.mem.afterWord p (smGet 0 (s.ch c).mem.sramPos p) }) :=
  if_neg (((s.ch c).scrubsCore_iff p).mp h)

theorem exec_sramScrubStep_good (hon : (s.ch c).scrubsCore p) (he : (s.ch c).mem.sramErr = [])
    (hp : smGet false (s.ch c).mem.sramPoison (p * 2 ^ 19 + smGet 0 (s.ch c).mem.sramPos p) = false) : exec (.sramScrubStep c p 0) s =
      .next (s.setCh c { s.ch c with mem := (s.ch c).mem.afterWord p (smGet 0 (s.ch c).mem.sramPos p) }) := by
  have hreads := exec_sramScrubStep_reads 0 hon
  generalize p * 2 ^ 19 + smGet 0 (s.ch c).mem.sramPos p = word at hp hreads
  have hsame : (s.ch c).gathersSram word 0 = s.ch c := by
    have herr : smMod 0 (s.ch c).mem.sramErr word (fun n => n + 0) = (s.ch c).mem.sramErr := by rw [he]; rfl
    rw [Channel.gathersSram, herr]
  rw [hreads, hsame, State.setCh_ch, State.readWord_good .sramScrub hp (by rw [he]; rfl)]
  rfl

theorem exec_sramScrubStep_single (hon : (s.ch c).scrubsCore p) (he : (s.ch c).mem.sramErr = [])
    (hp : smGet false (s.ch c).mem.sramPoison (p * 2 ^ 19 + smGet 0 (s.ch c).mem.sramPos p) = false) : exec (.sramScrubStep c p 1) s =
      .next (s.setCh c { s.ch c with mem :=
        { (s.ch c).mem.afterWord p (smGet 0 (s.ch c).mem.sramPos p) with sramCe := satAdd (s.ch c).mem.sramCe 1 } }) := by
  have hreads := exec_sramScrubStep_reads 1 hon
  generalize p * 2 ^ 19 + smGet 0 (s.ch c).mem.sramPos p = word at hp hreads
  have hone : smGet 0 ((s.ch c).gathersSram word 1).mem.sramErr word = 1 := by
    rw [Channel.gathersSram, smGet_smMod_same, he]
    rfl
  have hmended : smDel word ((s.ch c).gathersSram word 1).mem.sramErr = (s.ch c).mem.sramErr := by
    rw [Channel.gathersSram, he]
    exact smDel_smMod_nil word (· + 1)
  rw [hreads, State.readWord_single .sramScrub (by rw [State.ch_setCh]; exact hp) (by rw [State.ch_setCh]; exact hone),
    State.onCh_onCh, State.onCh, State.ch_setCh, State.setCh_setCh, Channel.sramCorrected, hmended]
  rfl

end

/-- Settles O40: a step reads its line or word, which corrects one bad symbol or bit, and goes on to the next. -/
theorem scrubStepsAdvance : Obligations.ScrubStepsAdvance := by
  unfold Obligations.ScrubStepsAdvance
  intro c p s
  dsimp only
  refine ⟨fun hready => ⟨exec_hbmPatrolScrubStep_notReady 0 hready, exec_scrubDeadline_notReady hready⟩,
    fun hready he hp => ⟨exec_hbmPatrolScrubStep_good hready he hp, ?_⟩, exec_sramScrubStep_off 0,
    fun hon he hp => ⟨⟨_, exec_sramScrubStep_good hon he hp, ?_⟩, ⟨_, exec_sramScrubStep_single hon he hp, ?_⟩⟩,
    exec_scrubDeadline_late⟩
  · obtain ⟨hours, storm, y, b, f, evs, rs, hexec⟩ := exec_hbmPatrolScrubStep_single hready he hp
    refine ⟨_, hexec, ?_⟩
    rw [onlyChannelFree, State.ch_setCh, State.setCh_free]
    refine ⟨rfl, rfl, rfl, rfl, rfl, rfl, rfl, rfl, ?_⟩
    obtain rfl | rfl := ChanId.cases c <;> rfl
  · rw [State.ch_setCh]
    exact ⟨smGet_smSet_same .., rfl⟩
  · rw [State.ch_setCh]
    exact ⟨smGet_smSet_same .., rfl⟩

end Sys2Proof.Machine
end

section
/-! PROOFS. What a channel learns in CALIBRATE: HBM, the CXL map, the scan store and the history ring (R277, R339, R395, R403). -/

namespace Sys2Proof.Machine

section

variable {s : State} {c : ChanId} {a b : CxlTrain}

/-! ### HBM and the CXL map (R277, R395) -/

/-- A channel whose HBM has been trained reads as zeros. -/
def Channel.hbmTrained (ch : Channel) : Channel :=
  { ch with mem := { ch.mem with hbm := [], hbmPoison := [], hbmErr := [] }, cfg := { ch.cfg with hbmReady := true } }

/-- A channel whose CXL ports have been trained holds their map. -/
def Channel.cxlTrained (ch : Channel) (p0 p1 : CxlPort) : Channel :=
  { ch with
    cxl := { ch.cxl with
      port0 := p0, port1 := p1, ilvGib := BitVec.ofNat 16 (cxlMap p0 p1).1, linGib := BitVec.ofNat 16 (cxlMap p0 p1).2.1
      linPort := (cxlMap p0 p1).2.2 }
    cfg := { ch.cfg with cxlDone := true } }

theorem exec_hbmTrainDone_void (h : (s.ch c).chn.state ≠ .calibrate ∨ (s.ch c).cfg.hbmReady = true) : exec (.hbmTrainDone c) s = .next s :=
  if_pos h

theorem exec_hbmTrainDone_trains (hst : (s.ch c).chn.state = .calibrate) (hself : (s.ch c).cfg.selfRx = false)
    (h : (s.ch c).cfg.hbmReady = false) : exec (.hbmTrainDone c) s = .next (s.setCh c (s.ch c).hbmTrained) := by
  have hstays : (s.setCh c (s.ch c).hbmTrained).tryJoin c = s.setCh c (s.ch c).hbmTrained :=
    State.tryJoin_stays fun _ => by rw [State.ch_setCh]; exact hself
  exact (if_neg (by simp [hst, h])).trans (congrArg Host.Outcome.next hstays)

theorem exec_cxlTrainDone_void (h : (s.ch c).chn.state ≠ .calibrate ∨ (s.ch c).cfg.cxlDone = true) :
    exec (.cxlTrainDone c a b) s = .next s := if_pos h

theorem exec_cxlTrainDone_maps (hst : (s.ch c).chn.state = .calibrate) (hself : (s.ch c).cfg.selfRx = false)
    (h : (s.ch c).cfg.cxlDone = false) : exec (.cxlTrainDone c a b) s =
      .next (s.setCh c ((s.ch c).cxlTrained (a.port ((s.ch c).cxl.portEn.getLsbD 0)) (b.port ((s.ch c).cxl.portEn.getLsbD 1)))) := by
  set k := (s.ch c).cxlTrained (a.port ((s.ch c).cxl.portEn.getLsbD 0)) (b.port ((s.ch c).cxl.portEn.getLsbD 1))
  have hstays : (s.setCh c k).tryJoin c = s.setCh c k := State.tryJoin_stays fun _ => by rw [State.ch_setCh]; exact hself
  exact (if_neg (by simp [hst, h])).trans (congrArg Host.Outcome.next hstays)

/-! ### The scan store (R339) -/

/-- A channel that has copied the scan store. -/
def Channel.storeTaken (ch : Channel) : Channel :=
  { ch with cfg := { ch.cfg with storeCopied := true }, owl := { ch.owl with storeRev := ch.ser.storeRev } }

theorem exec_scanStoreCheck_void (h : (s.ch c).cfg.hbmReady = false ∨ (s.ch c).cfg.storeCopied = true) : exec (.scanStoreCheck c) s = .next s :=
  if_pos (by simpa using h)

theorem exec_scanStoreCheck_takes (hready : (s.ch c).cfg.hbmReady = true) (hcopied : (s.ch c).cfg.storeCopied = false) :
    exec (.scanStoreCheck c) s = .next (s.setCh c (if (s.ch c).ser.storeOk = true then
      { (s.ch c).storeTaken with owl := { (s.ch c).storeTaken.owl with storeOk := true } }
      else { (s.ch c).storeTaken with owl := { (s.ch c).storeTaken.owl with storeBad := true } }.raise c 0x700E)) :=
  if_neg (by simp [hready, hcopied])

end

/-! ### The history ring (R350, R403) -/

/-- Nothing differs from `ch` but the Badger's state. -/
def Channel.bdgOnly (ch k : Channel) : Prop := ∃ b, k = { ch with bdg := b }

theorem Channel.bdgOnly.trans {x y z : Channel} (h : x.bdgOnly y) (h' : y.bdgOnly z) : x.bdgOnly z := by
  obtain ⟨_, rfl⟩ := h
  obtain ⟨b, rfl⟩ := h'
  exact ⟨b, rfl⟩

theorem Channel.foldl_bdgOnly {β : Type} {f : Channel → β → Channel} (h : ∀ (k : Channel) (b : β), k.bdgOnly (f k b)) (l : List β)
    (ch : Channel) :
    ch.bdgOnly (l.foldl f ch) :=
  List.foldlRecOn l f (motive := ch.bdgOnly) ⟨ch.bdg, rfl⟩ fun k hk b _ => hk.trans (h k b)

theorem Channel.onHealth_bdgOnly (ch : Channel) (p : Nat) (f : CoreHealth → CoreHealth) : ch.bdgOnly (ch.onHealth p f) := ⟨_, rfl⟩

/-- A change of one core that leaves whether it is permanent leaves it of every core. -/
theorem Channel.permanent_onHealth (ch : Channel) (p q : Nat) {f : CoreHealth → CoreHealth} (hf : ∀ h, (f h).permanent = h.permanent) :
    ((ch.onHealth q f).health p).permanent = (ch.health p).permanent := by
  rcases eq_or_ne p q with rfl | hne
  · rw [Channel.health, Channel.onHealth, smGet_smMod_same, hf]
    rfl
  · rw [Channel.health, Channel.onHealth, smGet_smMod_other _ _ _ hne]
    rfl

/-- Core q counts one more transient, at the time of a record. -/
def Channel.addTransient (r : FaultRec) (ch : Channel) (q : Nat) : Channel :=
  ch.onHealth q fun h => { h with transients := h.transients ++ [r.time] }

theorem Channel.permanent_addTransient (r : FaultRec) (ch : Channel) (p q : Nat) :
    ((ch.addTransient r q).health p).permanent = (ch.health p).permanent := ch.permanent_onHealth p q fun _ => rfl

theorem Channel.permanent_addTransients (r : FaultRec) (p : Nat) (l : List Nat) (ch : Channel) :
    ((l.foldl (Channel.addTransient r) ch).health p).permanent = (ch.health p).permanent :=
  List.foldlRecOn l (Channel.addTransient r) (motive := fun k : Channel => (k.health p).permanent = (ch.health p).permanent) rfl
    fun k hk q _ => (k.permanent_addTransient r p q).trans hk

/-- What a record adds to the history of the core that it names. -/
def Channel.recallCore (ch : Channel) (r : FaultRec) (q : Nat) : Channel :=
  if r.cls = 2 then ch.onHealth q fun h => { h with permanent := true }
  else if r.cls = 1 then ch.addTransient r q
  else if r.cls = 3 then
    ([q, r.partners.toNat % 256, r.partners.toNat / 256 % 256].filter fun q => decide (q < 136)).foldl (Channel.addTransient r) ch
  else ch

theorem Channel.recall_core (ch : Channel) {r : FaultRec} {q : Nat} (h : r.suspect = .core q) : ch.recall r = ch.recallCore r q := by
  unfold Channel.recall
  rw [h]
  rfl

/-- A record of another unit changes the history of units alone. -/
theorem Channel.recall_unit (ch : Channel) {r : FaultRec} (h : ∀ q, r.suspect ≠ .core q) :
    ∃ l, ch.recall r = { ch with bdg := { ch.bdg with unitHist := l } } := by
  have hunit : ch.recall r = if r.cls = 0 then { ch with bdg := { ch.bdg with unitHist := ch.bdg.unitHist ++ [(r.suspect, r.time)] } } else ch := by
    unfold Channel.recall
    cases hs : r.suspect
    case core q => exact absurd hs (h q)
    all_goals rfl
  rw [hunit]
  exact ite_ind (fun k : Channel => ∃ l, k = { ch with bdg := { ch.bdg with unitHist := l } }) ⟨_, rfl⟩ ⟨ch.bdg.unitHist, rfl⟩

theorem Channel.recall_bdgOnly (ch : Channel) (r : FaultRec) : ch.bdgOnly (ch.recall r) := by
  by_cases hcore : ∃ q, r.suspect = .core q
  · obtain ⟨q, hq⟩ := hcore
    rw [Channel.recall_core ch hq]
    exact ite_ind ch.bdgOnly (ch.onHealth_bdgOnly q _) <| ite_ind ch.bdgOnly (ch.onHealth_bdgOnly q _) <|
      ite_ind ch.bdgOnly (Channel.foldl_bdgOnly (fun k p => k.onHealth_bdgOnly p _) _ ch) ⟨ch.bdg, rfl⟩
  · obtain ⟨l, hl⟩ := ch.recall_unit (not_exists.mp hcore)
    exact ⟨_, hl⟩

/-- A record makes a core permanent exactly when it names the core with class 2. -/
theorem Channel.permanent_recall (ch : Channel) (r : FaultRec) (p : Nat) :
    ((ch.recall r).health p).permanent = ((ch.health p).permanent || (r.suspect == .core p && r.cls == 2)) := by
  by_cases hcore : ∃ q, r.suspect = .core q
  · obtain ⟨q, hq⟩ := hcore
    rw [Channel.recall_core ch hq, hq]
    by_cases hcls : r.cls = 2
    · rw [Channel.recallCore, if_pos hcls]
      rcases eq_or_ne p q with rfl | hne
      · rw [Channel.health, Channel.onHealth, smGet_smMod_same]
        simp [hcls]
      · rw [Channel.health, Channel.onHealth, smGet_smMod_other _ _ _ hne]
        simp [Channel.health, hne.symm]
    · have hkeeps : ((ch.recallCore r q).health p).permanent = (ch.health p).permanent := by
        rw [Channel.recallCore, if_neg hcls]
        exact ite_ind (fun k : Channel => (k.health p).permanent = (ch.health p).permanent) (ch.permanent_addTransient r p q) <|
          ite_ind (fun k : Channel => (k.health p).permanent = (ch.health p).permanent) (Channel.permanent_addTransients r p _ ch) rfl
      rw [hkeeps, beq_eq_false_iff_ne.mpr hcls, Bool.and_false, Bool.or_false]
  · obtain ⟨l, hl⟩ := ch.recall_unit (not_exists.mp hcore)
    have hother : r.suspect ≠ .core p := fun h => hcore ⟨p, h⟩
    rw [hl]
    simp [Channel.health, hother]

theorem Channel.permanent_recalls (l : List FaultRec) (p : Nat) (ch : Channel) : ((l.foldl Channel.recall ch).health p).permanent =
    ((ch.health p).permanent || l.any fun r => r.suspect == .core p && r.cls == 2) := by
  induction l generalizing ch with
  | nil => simp
  | cons r l ih => rw [List.foldl_cons, ih, Channel.permanent_recall, List.any_cons, Bool.or_assoc]

/-- A core of which the history holds nothing. -/
def CoreHealth.forgotten (x : CoreHealth) : CoreHealth := { x with permanent := false, transients := [] }

/-- The Badger's history before the ring is read. -/
def Channel.cleanHistory (ch : Channel) : Channel :=
  (List.range 136).foldl (fun (h : Channel) p => h.onHealth p CoreHealth.forgotten)
    { ch with bdg := { ch.bdg with unitHist := [] } }

theorem Channel.cleanHistory_bdgOnly (ch : Channel) : ch.bdgOnly ch.cleanHistory :=
  (show ch.bdgOnly { ch with bdg := { ch.bdg with unitHist := [] } } from ⟨_, rfl⟩).trans
    (Channel.foldl_bdgOnly (fun k p => k.onHealth_bdgOnly p _) _ _)

theorem Channel.permanent_cleanHistory (ch : Channel) {p : Nat} (hp : p < 136) : (ch.cleanHistory.health p).permanent = false := by
  have hcores : ch.cleanHistory.bdg.cores = (List.range 136).foldl (fun m p => smMod {} m p CoreHealth.forgotten) ch.bdg.cores :=
    (List.foldl_hom (fun k : Channel => k.bdg.cores) fun _ _ => rfl).symm
  have hforgotten := smGet_foldl_smMod {} (fun _ => CoreHealth.forgotten) ch.bdg.cores 136 p
  rw [Channel.health, hcores, hforgotten, if_pos hp]
  rfl

/-- A channel whose Badger names its most recent record. -/
def Channel.withLast (ch : Channel) (r : Option FaultRec) : Channel :=
  match r with
  | some r => { ch with bdg := { ch.bdg with lastRec := r, hasRec := true } }
  | none => ch

theorem Channel.withLast_bdgOnly (ch : Channel) (r : Option FaultRec) : ch.bdgOnly (ch.withLast r) := by
  cases r with
  | none => exact ⟨ch.bdg, rfl⟩
  | some r => exact ⟨_, rfl⟩

theorem Channel.health_withLast (ch : Channel) (r : Option FaultRec) (p : Nat) : (ch.withLast r).health p = ch.health p := by
  cases r <;> rfl

/-- A channel whose Badger has read its ring. -/
def Channel.readsRing (ch : Channel) : Channel := (ch.ser.history.foldl Channel.recall ch.cleanHistory).withLast ch.ser.history.getLast?

theorem Channel.readsRing_bdgOnly (ch : Channel) : ch.bdgOnly ch.readsRing :=
  (ch.cleanHistory_bdgOnly.trans (Channel.foldl_bdgOnly Channel.recall_bdgOnly _ _)).trans (Channel.withLast_bdgOnly _ _)

theorem Channel.permanent_readsRing (ch : Channel) {p : Nat} (hp : p < 136) :
    (ch.readsRing.health p).permanent = ch.ser.history.any fun r => r.suspect == .core p && r.cls == 2 := by
  rw [Channel.readsRing, Channel.health_withLast, Channel.permanent_recalls, ch.permanent_cleanHistory hp, Bool.false_or]

section

variable {s : State} {c : ChanId}

theorem exec_historyRingLoad_elsewhere (h : (s.ch c).chn.state ≠ .calibrate) : exec (.historyRingLoad c) s = .next s := if_pos h

theorem exec_historyRingLoad_erases (hst : (s.ch c).chn.state = .calibrate) (h : (s.ch c).ser.ringBad = true) :
    exec (.historyRingLoad c) s = .next (s.setCh c ({ s.ch c with
      ser := { (s.ch c).ser with ring := [], ringHead := 0, ringBad := false }, cfg := { (s.ch c).cfg with histBad := true } }.raise c 0x2007)) :=
  (if_neg (not_not_intro hst)).trans (if_pos h)

theorem exec_historyRingLoad_reads (hst : (s.ch c).chn.state = .calibrate) (h : (s.ch c).ser.ringBad = false) :
    exec (.historyRingLoad c) s = .next (s.setCh c (s.ch c).readsRing) := by
  refine (if_neg (not_not_intro hst)).trans ((if_neg (Bool.eq_false_iff.mp h)).trans ?_)
  unfold Channel.readsRing
  dsimp only [State.onCh]
  cases (s.ch c).ser.history.getLast? <;> rfl

end

/-- Settles O41: each command learns its part once; the ring's records mark the permanent cores one after another. -/
theorem calibrationSteps : Obligations.CalibrationSteps := by
  unfold Obligations.CalibrationSteps
  intro c a b s
  dsimp only
  refine ⟨fun hst => ⟨exec_hbmTrainDone_void (.inl hst), exec_cxlTrainDone_void (.inl hst), exec_historyRingLoad_elsewhere hst⟩,
    fun hst hself => ⟨exec_hbmTrainDone_trains hst hself, fun h => exec_hbmTrainDone_void (.inr h),
      exec_cxlTrainDone_maps hst hself, fun h => exec_cxlTrainDone_void (.inr h)⟩,
    exec_scanStoreCheck_void, fun hready hcopied => ⟨fun hok => ?_, fun hbad => ?_⟩, exec_historyRingLoad_erases,
    fun hst h => ⟨_, exec_historyRingLoad_reads hst h, ?_⟩⟩
  · rw [exec_scanStoreCheck_takes hready hcopied, if_pos hok]
    rfl
  · rw [exec_scanStoreCheck_takes hready hcopied, if_neg (Bool.eq_false_iff.mp hbad)]
    rfl
  · obtain ⟨g, hg⟩ := (s.ch c).readsRing_bdgOnly
    rw [State.ch_setCh]
    refine ⟨fun r hr => ?_, fun p hp => (s.ch c).permanent_readsRing hp, ?_⟩
    · rw [Channel.readsRing, hr]
      exact ⟨rfl, rfl⟩
    · rw [hg]

end Sys2Proof.Machine
end

section
/-! PROOFS. LOAD, START and UNLOAD of a stream, and the end of its verification (R302, R303, R305, R306, R309, R310). -/

namespace Sys2Proof.Machine

/-! ### A write of PSS_CTRL (R302, R309, R310) -/

theorem regAt_pssCtrl : ∃ r, regAt 0x0B0000 = some r ∧ ∀ s c w v, r.write s c w v = s.setCh c ((s.ch c).writePssCtrl c v) :=
  ⟨_, rfl, fun _ _ _ _ => rfl⟩

/-- PSS.LOAD, PSS.START and PSS.UNLOAD are writes of PSS_CTRL. -/
theorem regWrites_pssCtrl {i : Instr} {s : State} {c : ChanId} (v : U64) (hi : exec i s = .next (s.writeReg (unitOf c) .firmware 0x0B0000 v))
    (h : fwReady s c) : regWrites i c s (s.setCh c ((s.ch c).writePssCtrl c v)) := by
  obtain ⟨r, hreg, hwrite⟩ := regAt_pssCtrl
  have hcode : csrCode 0x0B0000 8 = .ok := by
    rw [csrCode_aligned (by decide) (by decide) le_rfl, hreg]
    rfl
  rw [regWrites, hi, State.writeReg_firmware s c _ v r h (by decide) hcode hreg, hwrite]

section

variable {s : State} {c : ChanId}

theorem exec_pssLoad_firmware (h : fwReady s c) : regWrites (.pssLoad c .firmware) c s (s.setCh c (s.ch c).loadStream) := regWrites_pssCtrl 1 rfl h

theorem exec_pssStart_firmware (h : fwReady s c) : regWrites (.pssStart c .firmware) c s (s.setCh c ((s.ch c).startStream c)) := regWrites_pssCtrl 2 rfl h

theorem exec_pssUnload_firmware (h : fwReady s c) : regWrites (.pssUnload c .firmware) c s (s.setCh c (s.ch c).requestUnload) := regWrites_pssCtrl 4 rfl h

theorem State.setCh_requestUnload (s : State) (c : ChanId) : s.setCh c (s.ch c).requestUnload =
    if (s.ch c).chn.state = .loaded ∨ (s.ch c).chn.state = .running then
      s.setCh c { s.ch c with pss := { (s.ch c).pss with unloadReq := true } } else s := by
  unfold Channel.requestUnload
  split
  · rfl
  · exact s.setCh_ch c

end

section

variable {ch : Channel} {c : ChanId}

/-- LOAD in JOINED, LOADED or RUNNING while no stream is being verified begins verification under the settings of the moment. -/
theorem Channel.loadStream_begins (hst : ch.chn.state = .joined ∨ ch.chn.state = .loaded ∨ ch.chn.state = .running)
    (hph : ch.pss.phase ≠ .verifying) : ch.loadStream = { ch with pss := { ch.pss with
      swapPending := false, pendingStream := none, loadSettings := ch.sec.settings, verifyFrom := ch.pss.phase, phase := .verifying
      code := 2, section_ := 0xFFF, detail := 0 } } :=
  if_neg (by simpa [or_iff_not_imp_left, hph] using hst)

/-- Any other LOAD shows STATE. -/
theorem Channel.loadStream_refused (h : ¬ (ch.chn.state = .joined ∨ ch.chn.state = .loaded ∨ ch.chn.state = .running) ∨ ch.pss.phase = .verifying) :
    ch.loadStream = { ch with pss := { ch.pss with code := 3, section_ := 0xFFF, detail := 0 } } :=
  if_pos (by simpa [not_or, and_assoc] using h)

/-- Beat at whose boundary beats begin after a START: the one asked for, or two beats on. -/
def Channel.firstBeat (ch : Channel) : Nat := max ch.pss.startBeat.toNat (ch.beat.number.toNat + 2)

/-- A channel whose beats begin at the boundary of a beat. -/
def Channel.startsAt (ch : Channel) (n : Nat) : Channel := { ch with beat := { ch.beat with startAt := some n } }

theorem Channel.startStream_elsewhere (h : ch.chn.state ≠ .loaded) : ch.startStream c = ch := if_pos h

theorem Channel.startStream_onTime (h : ch.chn.state = .loaded) (hfirst : ch.firstBeat = ch.pss.startBeat.toNat) :
    ch.startStream c = ch.startsAt ch.firstBeat :=
  (if_neg (not_not_intro h)).trans (if_neg hfirst.not_gt)

theorem Channel.startStream_late (h : ch.chn.state = .loaded) (hfirst : ch.pss.startBeat.toNat < ch.firstBeat) :
    ch.startStream c = ({ ch.startsAt ch.firstBeat with pss := { ch.pss with startLate := true } } : Channel).raise c 0x400C :=
  (if_neg (not_not_intro h)).trans (if_pos hfirst)

/-- The boundary set for the start has no part in what is raised. -/
theorem Channel.raise_startsAt_events (ch : Channel) (c : ChanId) (code n : Nat) (p : Pss) :
    (({ ch.startsAt n with pss := p } : Channel).raise c code).events = (ch.raise c code).events := by
  simp only [Channel.raise, apply_ite Channel.events]
  rfl

end

/-! ### A stream leaves (R303, R310) -/

section

variable {ch : Channel} {c : ChanId} {e : LoadFail}

theorem Channel.releaseAll_sqlOnly (ch : Channel) : ch.sqlOnly ch.releaseAll := foldl_sqlOnly Channel.releaseRegion_sqlOnly _ ch

theorem Channel.setPhase_eq (ch : Channel) (p : Phase) : ∃ phase verifyFrom, (ch.pss.phase ≠ .verifying → phase = p) ∧
    ch.setPhase p = { ch with pss := { ch.pss with phase := phase, verifyFrom := verifyFrom } } := by
  unfold Channel.setPhase
  split
  · exact ⟨ch.pss.phase, p, absurd ‹_›, rfl⟩
  · exact ⟨p, ch.pss.verifyFrom, fun _ => rfl, rfl⟩

/-- The channel has no stream, its windows are closed, and it is JOINED; what its status shows, its memory, its tasks and its events stay. -/
def Channel.streamGone (ch k : Channel) : Prop :=
  k.pss.stream = none ∧ k.pss.winOpen = false ∧ k.chn = { ch.chn with state := .joined } ∧
    (ch.pss.phase ≠ .verifying → k.pss.phase = .empty) ∧ k.pss.code = ch.pss.code ∧ k.pss.section_ = ch.pss.section_ ∧
    k.pss.detail = ch.pss.detail ∧ k.events = ch.events ∧ k.sec = ch.sec ∧ k.mem = ch.mem ∧ k.tsk.tasks = ch.tsk.tasks

theorem Channel.closeStream_streamGone (ch : Channel) : ch.streamGone ch.closeStream := by
  obtain ⟨q, hrelease⟩ := ch.releaseAll_sqlOnly
  obtain ⟨phase, verifyFrom, hphase, hset⟩ := ({ ch with sql := q } : Channel).setPhase_eq .empty
  rw [Channel.closeStream, hrelease, hset]
  exact ⟨rfl, rfl, rfl, hphase, rfl, rfl, rfl, rfl, rfl, rfl, rfl⟩

/-! ### A load is refused (R303) -/

/-- A channel that shows why its load failed, in the phase in which LOAD was written. -/
def Channel.showsFailure (ch : Channel) (e : LoadFail) : Channel :=
  { ch with pss := { ch.pss with
    phase := ch.pss.verifyFrom, code := BitVec.ofNat 8 e.1, section_ := BitVec.ofNat 12 e.2.1, detail := BitVec.ofNat 32 e.2.2 } }

/-- The same channel once it has raised STREAM_REJECTED. -/
def Channel.rejected (ch : Channel) (c : ChanId) (e : LoadFail) : Channel :=
  (ch.showsFailure e).withRaised (ch.raise c 0x4009).events (ch.raise c 0x4009).beat.raised

theorem Channel.refuseLoad_eq (ch : Channel) (c : ChanId) (e : LoadFail) : ch.refuseLoad c e =
    if ch.running || ch.chn.state == .leaving then ch.rejected c e else (ch.rejected c e).closeStream :=
  congrArg (fun k : Channel => if k.running || k.chn.state == .leaving then k else k.closeStream)
    (Channel.raise_as (ch := ch) (k := ch.showsFailure e) c 0x4009 rfl rfl rfl)

theorem Channel.refuseLoad_running (h : ch.running = true) : ch.refuseLoad c e = ch.rejected c e :=
  (ch.refuseLoad_eq c e).trans (if_pos (by rw [h, Bool.true_or]))

theorem Channel.refuseLoad_leaving (h : ch.chn.state = .leaving) : ch.refuseLoad c e = ch.rejected c e :=
  (ch.refuseLoad_eq c e).trans (if_pos (by simp [h]))

theorem Channel.refuseLoad_closes (hrun : ch.running = false) (hleave : ch.chn.state ≠ .leaving) :
    ch.refuseLoad c e = (ch.rejected c e).closeStream :=
  (ch.refuseLoad_eq c e).trans (if_neg (by simp [hrun, hleave]))

/-- What a refusal leaves of channel `c`, which was `k` when verification ended: its status, STREAM_REJECTED, and a running stream or none. -/
def loadRefused (c : ChanId) (e : LoadFail) (r t : State) (k : Channel) : Prop :=
  (t.ch c).pss.code = BitVec.ofNat 8 e.1 ∧ (t.ch c).pss.section_ = BitVec.ofNat 12 e.2.1 ∧
    (t.ch c).pss.detail = BitVec.ofNat 32 e.2.2 ∧ (t.ch c).events = (k.raise c 0x4009).events ∧ (t.ch c).sec = k.sec ∧
    (t.ch c).mem = k.mem ∧ (t.ch c).tsk.tasks = k.tsk.tasks ∧ onlyChannel c r t ∧
    (k.running = true → (t.ch c).pss.stream = k.pss.stream ∧ (t.ch c).chn = k.chn ∧ (t.ch c).pss.phase = k.pss.verifyFrom) ∧
    (k.running = false → k.chn.state ≠ .leaving → (t.ch c).pss.stream = none ∧ (t.ch c).pss.winOpen = false ∧
      (t.ch c).chn = { k.chn with state := .joined } ∧ (k.pss.verifyFrom ≠ .verifying → (t.ch c).pss.phase = .empty))

theorem loadRefused_refuseLoad (c : ChanId) (e : LoadFail) (r : State) (k : Channel) : loadRefused c e r (r.setCh c (k.refuseLoad c e)) k := by
  unfold loadRefused onlyChannel
  rw [State.ch_setCh]
  by_cases hrun : k.running = true
  · rw [Channel.refuseLoad_running hrun]
    exact ⟨rfl, rfl, rfl, rfl, rfl, rfl, rfl, rfl, fun _ => ⟨rfl, rfl, rfl⟩, fun h => absurd hrun (Bool.eq_false_iff.mp h)⟩
  by_cases hleave : k.chn.state = .leaving
  · rw [Channel.refuseLoad_leaving hleave]
    exact ⟨rfl, rfl, rfl, rfl, rfl, rfl, rfl, rfl, fun h => absurd h hrun, fun _ h => absurd hleave h⟩
  · rw [Channel.refuseLoad_closes (Bool.eq_false_iff.mpr hrun) hleave]
    obtain ⟨hstream, hwin, hchn, hphase, hcode, hsection, hdetail, hevents, hsec, hmem, htasks⟩ := (k.rejected c e).closeStream_streamGone
    exact ⟨hcode, hsection, hdetail, hevents, hsec, hmem, htasks, rfl, fun h => absurd h hrun, fun _ _ => ⟨hstream, hwin, hchn, hphase⟩⟩

end

/-! ### A stream is applied (R305, R307) -/

/-- The parts of a channel that the plan's binding, counters, layout and duplicate areas leave when a stream is applied. -/
structure LoadPart where
  chn : Chn
  sec : Sec
  hbm : SMap Byte
  tasks : List Task
  offers : List Offer
  stream : Option Stream
  phase : Phase
  code : U8
  swapPending : Bool

def Channel.loadPart (ch : Channel) : LoadPart where
  chn := ch.chn
  sec := ch.sec
  hbm := ch.mem.hbm
  tasks := ch.tsk.tasks
  offers := ch.tsk.offers
  stream := ch.pss.stream
  phase := ch.pss.phase
  code := ch.pss.code
  swapPending := ch.pss.swapPending

theorem Channel.raise_loadPart (ch : Channel) (c : ChanId) (code : Nat) : (ch.raise c code).loadPart = ch.loadPart := by
  obtain ⟨_, _, hraise⟩ := ch.raise_eq_withRaised c code
  rw [hraise]
  rfl

theorem Channel.bindAll_loadPart (ch : Channel) : ch.bindAll.loadPart = ch.loadPart :=
  List.foldlRecOn (motive := fun k : Channel => k.showDegraded.loadPart = ch.loadPart) _ _ rfl fun _ hk _ _ => hk

theorem Channel.clearCounters_loadPart (ch : Channel) : ch.clearCounters.loadPart = ch.loadPart :=
  List.foldlRecOn (motive := fun k : Channel => k.loadPart = ch.loadPart) _ _ rfl fun _ hk _ _ => hk

theorem Channel.openTransit_sqlOnly (ch : Channel) : ch.sqlOnly ch.openTransit := foldl_sqlOnly (fun _ _ => ⟨_, rfl⟩) _ ch

theorem Channel.applyLayout_loadPart (ch : Channel) (l : LayoutData) : (ch.applyLayout l).loadPart = ch.loadPart := by
  unfold Channel.applyLayout
  dsimp only
  obtain ⟨_, htransit⟩ := Channel.openTransit_sqlOnly _
  rw [htransit]
  rfl

theorem Channel.checkDup_loadPart (ch : Channel) (c : ChanId) : (ch.checkDup c).loadPart = ch.loadPart :=
  ite_ind (fun k : Channel => k.loadPart = ch.loadPart) (Channel.raise_loadPart _ c _) rfl

/-- An applied stream: the channel is LOADED with it, holds no task and no offer, shows OK, and keeps HBM and its keys. -/
theorem Channel.applyStream_loadPart (ch : Channel) (c : ChanId) (st : Stream) : (ch.applyStream c st).loadPart =
    { chn := { ch.chn with state := .loaded }, sec := ch.sec, hbm := ch.mem.hbm, tasks := [], offers := []
      stream := some st, phase := .loaded, code := 1, swapPending := false } := by
  unfold Channel.applyStream
  dsimp only
  rw [Channel.raise_loadPart, Channel.checkDup_loadPart]
  split
  · rw [Channel.applyLayout_loadPart, Channel.clearCounters_loadPart, Channel.bindAll_loadPart]
    rfl
  · rw [Channel.clearCounters_loadPart, Channel.bindAll_loadPart]
    rfl

section

variable {ch : Channel} {c : ChanId} {st : Stream}

theorem Channel.acceptLoad_running (h : ch.running = true) : ch.acceptLoad c st =
    { ch with pss := { ch.pss with phase := ch.pss.verifyFrom, pendingStream := some st, swapPending := true } } := if_pos h

theorem Channel.acceptLoad_loadPart (h : ch.running = false) : (ch.acceptLoad c st).loadPart =
    { chn := { ch.chn with state := .loaded }, sec := ch.sec, hbm := ch.mem.hbm, tasks := [], offers := []
      stream := some st, phase := .loaded, code := 1, swapPending := false } := by
  have happly : ch.acceptLoad c st = { ch with pss := { ch.pss with phase := ch.pss.verifyFrom } }.applyStream c st :=
    if_neg (Bool.eq_false_iff.mp h)
  rw [happly, Channel.applyStream_loadPart]

end

/-! ### The end of verification (R302, R303) -/

/-- A channel that has measured a stream into MR4. -/
def Channel.measured (ch : Channel) (f : List Byte) : Channel := { ch with sec := ch.sec.extend 4 (hdrDigest f) }

section

variable {s r : State} {c : ChanId} {signer : Option Key} {e : LoadFail} {f : List Byte} {st : Stream}

theorem exec_streamVerifyDone_idle (h : (s.ch c).pss.phase ≠ .verifying) : exec (.streamVerifyDone c signer) s = .next s := if_pos h

theorem exec_streamVerifyDone_unread (h : (s.ch c).pss.phase = .verifying) (hread : s.readStream c = (r, .inl e)) :
    exec (.streamVerifyDone c signer) s = .next (r.setCh c ((r.ch c).refuseLoad c e)) := by
  refine (if_neg (not_not_intro h)).trans ?_
  rw [hread]
  rfl

/-- What becomes of a measured channel by what its stream's content comes to. -/
def Channel.endsVerify (ch : Channel) (c : ChanId) : LoadFail ⊕ Stream → Channel
  | .inl e => ch.refuseLoad c e
  | .inr st => ch.acceptLoad c st

theorem exec_streamVerifyDone_read (h : (s.ch c).pss.phase = .verifying) (hread : s.readStream c = (r, .inr f)) :
    exec (.streamVerifyDone c signer) s =
      .next (r.setCh c (((r.ch c).measured f).endsVerify c (((r.ch c).measured f).verifyContent c f signer))) := by
  refine (if_neg (not_not_intro h)).trans ?_
  rw [hread]
  rfl

theorem exec_streamVerifyDone_fails (h : (s.ch c).pss.phase = .verifying) (hread : s.readStream c = (r, .inr f))
    (hfail : ((r.ch c).measured f).verifyContent c f signer = .inl e) :
    exec (.streamVerifyDone c signer) s = .next (r.setCh c (((r.ch c).measured f).refuseLoad c e)) := by
  rw [exec_streamVerifyDone_read h hread, hfail, Channel.endsVerify]

theorem exec_streamVerifyDone_passes (h : (s.ch c).pss.phase = .verifying) (hread : s.readStream c = (r, .inr f))
    (hpass : ((r.ch c).measured f).verifyContent c f signer = .inr st) :
    exec (.streamVerifyDone c signer) s = .next (r.setCh c (((r.ch c).measured f).acceptLoad c st)) := by
  rw [exec_streamVerifyDone_read h hread, hpass, Channel.endsVerify]

theorem State.readStream_beyond (h : hbmSize < (s.ch c).pss.src.toNat + (s.ch c).pss.len.toNat) :
    s.readStream c = (s, .inl (7, 0xFFF, 0)) := if_pos h

/-- The bytes that LOAD names (R302). -/
def Channel.streamBytes (ch : Channel) : List Byte := ch.hbmBytes ch.pss.src.toNat ch.pss.len.toNat

/-- Over clean HBM a stream with a good header reads whole, and its digest decides. -/
theorem State.readStream_clean (hsize : (s.ch c).pss.src.toNat + (s.ch c).pss.len.toNat ≤ hbmSize) (hp : (s.ch c).mem.hbmPoison = [])
    (he : (s.ch c).mem.hbmErr = []) (hhead : headerFail c (s.ch c).pss.len.toNat ((s.ch c).hbmBytes (s.ch c).pss.src.toNat 256) = none) :
    s.readStream c = (s, if fileDigest (s.ch c).streamBytes = hdrDigest (s.ch c).streamBytes then .inr (s.ch c).streamBytes
      else .inl (8, 0xFFF, 0x20)) := by
  simp only [State.readStream, State.checkHbm_clean _ _ hp he, hhead, if_neg hsize.not_gt, Bool.not_true, Bool.false_eq_true, if_false]
  exact (apply_ite (Prod.mk s) _ _ _).symm

end

/-- Settles O48: PSS_CTRL by its bits; verification ends by what the read and the content come to, and by whether beats run. -/
theorem streamsLoadStartAndUnload : Obligations.StreamsLoadStartAndUnload := by
  unfold Obligations.StreamsLoadStartAndUnload
  intro c signer e f st r s
  dsimp only
  refine ⟨fun hready hst hph => ?_, fun hready hbad => ?_, fun hready hst => ?_, fun hready hst => ?_, fun hready => ?_,
    exec_streamVerifyDone_idle, fun hph hread => ⟨_, exec_streamVerifyDone_unread hph hread, loadRefused_refuseLoad c e r _⟩,
    fun hph hread hfail => ⟨_, exec_streamVerifyDone_fails hph hread hfail, loadRefused_refuseLoad c e r _⟩, fun hph hread hpass hrun => ?_,
    fun hph hread hpass hrun => ?_, State.readStream_beyond, State.readStream_clean⟩
  · rw [← Channel.loadStream_begins hst hph]
    exact exec_pssLoad_firmware hready
  · rw [← Channel.loadStream_refused hbad]
    exact exec_pssLoad_firmware hready
  · have hwrite := exec_pssStart_firmware hready
    rwa [Channel.startStream_elsewhere hst, State.setCh_ch] at hwrite
  · refine ⟨_, exec_pssStart_firmware hready, ?_⟩
    rw [State.ch_setCh]
    rcases (le_max_left _ _ : (s.ch c).pss.startBeat.toNat ≤ (s.ch c).firstBeat).eq_or_lt with hfirst | hfirst
    · rw [Channel.startStream_onTime hst hfirst.symm]
      exact ⟨rfl, fun _ => rfl, fun h => absurd hfirst h.ne⟩
    · rw [Channel.startStream_late hst hfirst]
      obtain ⟨evs, rs, hraise⟩ := Channel.raise_eq_withRaised
        { (s.ch c).startsAt (s.ch c).firstBeat with pss := { (s.ch c).pss with startLate := true } } c 0x400C
      have hevents := (s.ch c).raise_startsAt_events c 0x400C (s.ch c).firstBeat { (s.ch c).pss with startLate := true }
      rw [hraise] at hevents ⊢
      exact ⟨rfl, fun h => absurd h hfirst.ne', fun _ => ⟨hevents, rfl⟩⟩
  · rw [← State.setCh_requestUnload]
    exact exec_pssUnload_firmware hready
  · rw [exec_streamVerifyDone_passes hph hread hpass, Channel.acceptLoad_running (ch := (r.ch c).measured f) hrun]
    rfl
  · refine ⟨_, exec_streamVerifyDone_passes hph hread hpass, ?_⟩
    obtain ⟨hchn, hsec, hhbm, htasks, hoffers, hstream, hphase, hcode, hswap⟩ :=
      LoadPart.mk.inj (Channel.acceptLoad_loadPart (ch := (r.ch c).measured f) (c := c) (st := st) hrun)
    rw [onlyChannel, State.ch_setCh]
    exact ⟨congrArg Chn.state hchn, hstream, hphase, hcode, hswap, htasks, hoffers, hsec, hhbm, rfl⟩

end Sys2Proof.Machine
end

section
/-! PROOFS. The supply through every step: it delivers power with PWR_EN, without a lockout and with its converter only (R404, R412, R413, R418). -/

namespace Sys2Proof.Machine

theorem Supply.safe_iff (x : Supply) :
    x.safe = true ↔ (x.outputOn = true → x.pwrEn = true ∧ x.lockout = false ∧ x.converterOk = true) := by
  cases h : x.outputOn <;> simp [Supply.safe, h, and_assoc]

/-- A supply whose switches stand as in a safe one is safe. -/
theorem Supply.safe_of_sameSwitches {x y : Supply} (h : x.sameSwitches y) (hx : x.safe = true) : y.safe = true := by
  obtain ⟨hout, hen, hlock, hconv⟩ := h
  rw [← hx, Supply.safe, Supply.safe, hout, hen, hlock, hconv]

/-- PWR_EN that rises endangers nothing. -/
theorem Supply.safe_pwrEn {x : Supply} (h : x.safe = true) : ({ x with pwrEn := true } : Supply).safe = true :=
  (Supply.safe_iff _).mpr fun hon => ⟨rfl, ((Supply.safe_iff x).mp h hon).2⟩

theorem Supply.safe_of_off {x : Supply} (h : ¬ x.outputOn = true) : x.safe = true := (Supply.safe_iff x).mpr fun hon => absurd hon h

theorem State.powerOff_safe (s : State) (event : Option Nat) : (s.powerOff event).sup.safe = true := by
  rw [State.powerOff_sup]
  exact Supply.safe_of_off Bool.false_ne_true

/-- A ramp of an enabled supply without a lockout ends safe: it clears a converter fault. -/
theorem State.powerOn_safe {s : State} (hen : s.sup.pwrEn = true) (hlock : s.sup.lockout = false) : s.powerOn.sup.safe = true := by
  rw [State.powerOn_sup]
  exact (Supply.safe_iff _).mpr fun _ => ⟨hen, hlock, rfl⟩

/-- The state keeps its supply safe. -/
def State.suppliesSafely (s : State) : Prop := s.sup.safe = true

/-- What endangers a supply that is on turns it off. -/
theorem exec_powerCommands_safe {s : State} (hs : s.suppliesSafely) :
    ∀ i ∈ powerCommands, leadsTo State.suppliesSafely (exec i s) := by
  simp only [powerCommands, List.forall_mem_cons, List.not_mem_nil, false_implies, implies_true, and_true]
  refine ⟨?powerUp, ?pwrEnFall, ?inputOvervoltage, ?inputOvercurrent, ?holdupExpiry, ?autoRestart, ?converterFault⟩
  case powerUp =>
    by_cases hheld : s.sup.outputOn = true ∨ s.sup.inRange = false ∨ s.sup.lockout = true
    · rw [exec_powerUp_held hheld]
      exact leadsTo_next (Supply.safe_pwrEn hs)
    · obtain ⟨hoff, hin, hlock⟩ : ¬ s.sup.outputOn = true ∧ s.sup.inRange = true ∧ s.sup.lockout = false := by simpa using hheld
      rw [exec_powerUp_ramps hoff hin hlock]
      exact leadsTo_next (State.powerOn_safe rfl hlock)
  case pwrEnFall =>
    rw [exec_pwrEnFall]
    refine leadsTo_next ?_
    split
    · exact State.powerOff_safe ..
    next hoff => exact Supply.safe_of_off hoff
  case inputOvervoltage =>
    by_cases hon : s.sup.outputOn = true
    · rw [exec_inputOvervoltage_on hon]
      exact leadsTo_next (State.powerOff_safe ..)
    · rw [exec_inputOvervoltage_off hon]
      exact leadsTo_next (Supply.safe_of_off hon)
  case inputOvercurrent =>
    by_cases hon : s.sup.outputOn = true
    · rw [exec_inputOvercurrent_on hon]
      exact leadsTo_next (State.powerOff_safe ..)
    · rw [exec_inputOvercurrent_off hon]
      exact leadsTo_next hs
  case holdupExpiry => exact leadsTo_ite (leadsTo_next (State.powerOff_safe ..)) (leadsTo_next hs)
  case autoRestart =>
    by_cases hrestarts : s.sup.restarts
    · rw [exec_autoRestart_ramps hrestarts]
      obtain ⟨-, -, hen, hlock, -⟩ := hrestarts
      exact leadsTo_next (State.powerOn_safe hen hlock)
    · rw [exec_autoRestart_void hrestarts]
      exact leadsTo_next hs
  case converterFault =>
    rw [exec_converterFault]
    refine leadsTo_next ?_
    split
    · exact State.powerOff_safe ..
    next hoff => exact Supply.safe_of_off hoff

/-- Every other command leaves the switches as they stand. -/
theorem exec_safe (i : Instr) {s : State} (hs : s.suppliesSafely) : leadsTo State.suppliesSafely (exec i s) := by
  by_cases hpower : i ∈ powerCommands
  · exact exec_powerCommands_safe hs i hpower
  · intro t hexec
    obtain ⟨-, hswitches⟩ := commandsLeaveQueueAndSupply i s t hexec
    exact Supply.safe_of_sameSwitches (hswitches hpower) hs

/-- Settles O59: an empty queue lets a clock pass, and the command at the front leads to a safe supply. -/
theorem stepsKeepSupplySafe : Obligations.StepsKeepSupplySafe := by
  unfold Obligations.StepsKeepSupplySafe
  intro s t hs hstep
  cases hq : s.pending with
  | nil =>
    rw [step_nil hq] at hstep
    exact leadsTo_next (P := State.suppliesSafely) (u := s.tick) hs t hstep
  | cons i l =>
    rw [step_cons hq] at hstep
    exact exec_safe i (s := { s with pending := l }) hs t hstep

end Sys2Proof.Machine
end

section
/-! PROOFS. The ledger: reconciliation, lending, its registers, and the record of K (R315, R320 to R324, R398). -/

namespace Sys2Proof.Machine

/-! ### Registers by name -/

/-- A command that is a write of one register by running firmware does what the register's own write does. -/
theorem regWrites_of_regAt {i : Instr} {s : State} {c : ChanId} {off : Nat} {v : U64} {r : Reg}
    (hi : exec i s = .next (s.writeReg (unitOf c) .firmware off v)) (hr : regAt off = some r) (ha : off % 8 = 0)
    (hm : inMailbox off 8 = false) (h : fwReady s c) : regWrites i c s (r.write s c .firmware v) := by
  rw [regWrites, hi, State.writeReg_firmware s c off v r h hm (by simp [csrCode_aligned ha, hr]) hr]

/-- LEDG_LIMIT: without beats the limit is granted at once. -/
theorem regAt_ledgLimit : ∃ r, regAt 0x0C0008 = some r ∧
    ∀ s c w v, r.write s c w v = (s.setCh c ((s.ch c).writeLimit v)).grantNow c :=
  ⟨_, rfl, fun _ _ _ _ => rfl⟩

theorem regAt_ledgCtrl : ∃ r, regAt 0x0C0000 = some r ∧ ∀ s c w v, r.write s c w v = s.setCh c ((s.ch c).writeLedgCtrl v) :=
  ⟨_, rfl, fun _ _ _ _ => rfl⟩

/-! ### Reconciliation (R320 to R323) -/

/-- A channel with another ledger. -/
def Channel.withLedg (ch : Channel) (l : Ledg) : Channel := { ch with ledg := l }

/-- The ledger is no part of what an event reports. -/
theorem Channel.withLedg_raise_events (ch : Channel) (l : Ledg) (c : ChanId) (code : Nat) :
    ((ch.withLedg l).raise c code).events = (ch.raise c code).events :=
  (Channel.raise_congr ch (ch.withLedg l) c code none 0 rfl rfl rfl).1

/-- The channel after the reconciliation of a beat whose meter reading is bad. -/
def Channel.meterSkipped (ch : Channel) (c : ChanId) : Channel :=
  (ch.withLedg { ch.ledg with meterBadSt := true, meterBad := satAdd ch.ledg.meterBad 1 }).raise c 0x9002

theorem exec_reconcile_bad {valid : Bool} {s0 s1 sp : Nat} (c : ChanId) (eIn loss : Nat) (s : State) (h : valid = false ∨ s0 + s1 + sp = 0) :
    exec (.reconcile c valid eIn loss s0 s1 sp) s = .next (s.setCh c ((s.ch c).meterSkipped c)) := by
  have hbad : (!valid || s0 + s1 + sp == 0) = true := by simpa using h
  exact congrArg (fun k => Host.Outcome.next (s.setCh c k)) (if_pos hbad)

theorem Channel.meterSkipped_eq (ch : Channel) (c : ChanId) : ch.meterSkipped c =
    (ch.withLedg { ch.ledg with meterBadSt := true, meterBad := satAdd ch.ledg.meterBad 1 }).withRaised
      (ch.raise c 0x9002).events (ch.raise c 0x9002).beat.raised :=
  Channel.raise_as c 0x9002 rfl rfl rfl

/-- Settles O42: a skipped beat touches the meter's counts and raises its event. -/
theorem badMeterSkipsReconciliation : Obligations.BadMeterSkipsReconciliation := by
  unfold Obligations.BadMeterSkipsReconciliation
  intro c valid eIn loss s0 s1 sp s
  dsimp only
  intro h
  refine ⟨_, exec_reconcile_bad c eIn loss s h, ?_⟩
  rw [State.ch_setCh, Channel.meterSkipped_eq]
  exact ⟨rfl, rfl, rfl, rfl, fun _ => rfl, rfl, rfl, rfl⟩

/-- Where `p` holds, the ledger changes and an event is raised. -/
def Channel.ledgMarks (ch : Channel) (c : ChanId) (code : Nat) (p : Prop) [Decidable p] (f : Ledg → Ledg) : Channel :=
  if p then (ch.withLedg (f ch.ledg)).raise c code else ch

theorem Channel.ledgMarks_eq (ch : Channel) (c : ChanId) (code : Nat) (p : Prop) [Decidable p] (f : Ledg → Ledg) : ∃ evs rs,
    ch.ledgMarks c code p f = (ch.withLedg (if p then f ch.ledg else ch.ledg)).withRaised evs rs ∧
      (p → evs = (ch.raise c code).events) ∧ (¬ p → evs = ch.events ∧ rs = ch.beat.raised) := by
  by_cases hp : p
  · exact ⟨_, _, by rw [Channel.ledgMarks, if_pos hp, if_pos hp]; exact Channel.raise_as (ch := ch) c code rfl rfl rfl, fun _ => rfl,
      fun h => absurd hp h⟩
  · exact ⟨ch.events, ch.beat.raised, by rw [Channel.ledgMarks, if_neg hp, if_neg hp]; rfl, fun h => absurd h hp, fun _ => ⟨rfl, rfl⟩⟩

section

variable (l : Ledg) (measured : Nat)

/-- The accounts of the beat before `b`, by its meter reading. -/
def Ledg.metered (b : Nat) : Ledg :=
  { l with
    measured := BitVec.ofNat 32 measured, charged := BitVec.ofNat 32 (l.lastCharged + l.lastBg), reconBeat := BitVec.ofNat 16 (b - 1)
    debts := if 0 < measured - l.lastLimit then l.debts ++ [(b + 1, measured - l.lastLimit)] else l.debts
    overdraw := if 0 < measured - l.lastLimit then satAdd l.overdraw 1 else l.overdraw }

/-- The beat drew more than 2 % beyond its limit (R321). -/
abbrev Ledg.overdrew : Prop := l.lastLimit * 2 < (measured - l.lastLimit) * 100

def Ledg.marksOverdraw : Ledg := { l with overdrawSt := true }

/-- K is refined by the beat (R322). -/
def Ledg.refines : Bool :=
  ctrlRefine l.ctrlNow && decide (0 < l.lastCharged + l.lastBg) && decide (l.lastAdmissible ≤ 2 * l.lastCharged)

/-- K as the beat refines it. -/
def Ledg.nextK : Nat := refineK l.k.toNat measured (l.lastCharged + l.lastBg)

/-- A K stands at one of its bounds. -/
def kClamped (n : Nat) : Bool := n == 0xC000 || n == 0x18000

theorem kClamped_iff (n : Nat) : kClamped n = true ↔ n = 0xC000 ∨ n = 0x18000 := by simp [kClamped]

def Ledg.marksLimit : Ledg := { l with kLimit := true }

end

/-- The channel that waits with a refined K for its beat. -/
def Channel.waitsK (k : Channel) (c : ChanId) (b n : Nat) : Channel :=
  (k.withLedg { k.ledg with kWait := k.ledg.kWait ++ [(b + 1, n)] }).ledgMarks c 0x9003 (n = 0xC000 ∨ n = 0x18000) Ledg.marksLimit

theorem Channel.waitsK_eq (k : Channel) (c : ChanId) (b n : Nat) : ∃ evs rs,
    k.waitsK c b n = (k.withLedg { k.ledg with
      kWait := k.ledg.kWait ++ [(b + 1, n)], kLimit := k.ledg.kLimit || kClamped n }).withRaised evs rs ∧
    (kClamped n = true → evs = (k.raise c 0x9003).events) ∧ (kClamped n = false → evs = k.events) := by
  obtain ⟨evs, rs, heq, hbound, hfree⟩ :=
    (k.withLedg { k.ledg with kWait := k.ledg.kWait ++ [(b + 1, n)] }).ledgMarks_eq c 0x9003 (n = 0xC000 ∨ n = 0x18000) Ledg.marksLimit
  rw [← kClamped_iff] at hbound hfree
  refine ⟨evs, rs, heq.trans ?_, fun h => (hbound h).trans (k.withLedg_raise_events _ c _), fun h => (hfree (Bool.eq_false_iff.mp h)).1⟩
  rw [if_congr (kClamped_iff n).symm rfl rfl]
  cases kClamped n
  · rw [if_neg Bool.false_ne_true, Bool.or_false]
    rfl
  · rw [if_pos rfl, Bool.or_true]
    rfl

/-- The channel with the accounts of a metered beat. -/
def Channel.accounts (ch : Channel) (c : ChanId) (measured : Nat) : Channel :=
  (ch.withLedg (ch.ledg.metered measured ch.beat.number.toNat)).ledgMarks c 0x9001 (ch.ledg.overdrew measured) Ledg.marksOverdraw

/-- The channel after the reconciliation of a metered beat. -/
def Channel.reconciled (ch : Channel) (c : ChanId) (measured : Nat) : Channel :=
  let k := ch.accounts c measured
  if ch.ledg.refines then
    k.waitsK c ch.beat.number.toNat (refineK k.ledg.k.toNat measured (ch.ledg.lastCharged + ch.ledg.lastBg))
  else k

/-- Energy of the beat on the rail of channel `c`, with its share of the loss. -/
def railEnergy (c : ChanId) (eIn loss s0 s1 sp : Nat) : Nat := (eIn - loss) * (if c = 0 then s0 else s1) / (s0 + s1 + sp)

theorem exec_reconcile_metered {s0 s1 sp : Nat} (c : ChanId) (eIn loss : Nat) (s : State) (h : 0 < s0 + s1 + sp) :
    exec (.reconcile c true eIn loss s0 s1 sp) s = .next (s.setCh c ((s.ch c).reconciled c (railEnergy c eIn loss s0 s1 sp))) := by
  have hgood : ¬ (!true || s0 + s1 + sp == 0) = true := by simpa using h.ne'
  exact congrArg (fun k => Host.Outcome.next (s.setCh c k)) (if_neg hgood)

theorem Channel.accounts_eq (ch : Channel) (c : ChanId) (measured : Nat) : ∃ evs rs, ch.accounts c measured =
    (ch.withLedg { ch.ledg.metered measured ch.beat.number.toNat with
      overdrawSt := ch.ledg.overdrawSt || decide (ch.ledg.overdrew measured) }).withRaised evs rs ∧
    (ch.ledg.overdrew measured → evs = (ch.raise c 0x9001).events) ∧
    (¬ ch.ledg.overdrew measured → evs = ch.events ∧ rs = ch.beat.raised) := by
  obtain ⟨evs, rs, heq, hhard, hsoft⟩ := (ch.withLedg (ch.ledg.metered measured ch.beat.number.toNat)).ledgMarks_eq c 0x9001
    (ch.ledg.overdrew measured) Ledg.marksOverdraw
  refine ⟨evs, rs, heq.trans ?_, fun h => (hhard h).trans (ch.withLedg_raise_events _ c _), hsoft⟩
  by_cases h : ch.ledg.overdrew measured
  · rw [if_pos h, decide_eq_true h, Bool.or_true]
    rfl
  · rw [if_neg h, decide_eq_false h, Bool.or_false]
    rfl

/-- What a metered beat leaves: its accounts, the K that waits, and the marks of a hard overdraw and of a bound of K. -/
theorem Channel.reconciled_eq (ch : Channel) (c : ChanId) (measured : Nat) :
    let l := ch.ledg
    let b := ch.beat.number.toNat
    let clamped : Bool := l.refines && kClamped (l.nextK measured)
    ∃ evs rs, ch.reconciled c measured = (ch.withLedg { l.metered measured b with
        overdrawSt := l.overdrawSt || decide (l.overdrew measured)
        kWait := if l.refines then l.kWait ++ [(b + 1, l.nextK measured)] else l.kWait
        kLimit := l.kLimit || clamped }).withRaised evs rs ∧
      (¬ l.overdrew measured → clamped = false → evs = ch.events) ∧
      (l.overdrew measured → clamped = false → evs = (ch.raise c 0x9001).events) ∧
      (¬ l.overdrew measured → clamped = true → evs = (ch.raise c 0x9003).events) := by
  intro l b clamped
  obtain ⟨evs, rs, haccounts, hhard, hsoft⟩ := ch.accounts_eq c measured
  cases hrefine : l.refines with
  | false =>
    have hclamped : clamped = false := by simp [clamped, hrefine]
    rw [hclamped]
    refine ⟨evs, rs, ?_, fun h _ => (hsoft h).1, fun h _ => hhard h, fun _ h => nomatch h⟩
    rw [Bool.or_false]
    exact (if_neg (Bool.eq_false_iff.mp hrefine)).trans haccounts
  | true =>
    have hclamped : clamped = kClamped (l.nextK measured) := by simp [clamped, hrefine]
    have hwaits : ch.reconciled c measured = (ch.accounts c measured).waitsK c b (l.nextK measured) := by
      refine (if_pos hrefine).trans ?_
      rw [haccounts]
      rfl
    obtain ⟨evs', rs', heq, hbound, hfree⟩ := (ch.accounts c measured).waitsK_eq c b (l.nextK measured)
    rw [haccounts] at heq hbound hfree hwaits
    rw [hclamped]
    refine ⟨evs', rs', hwaits.trans heq, fun h hc => ?_, fun h hc => ?_, fun h hc => ?_⟩
    · exact (hfree hc).trans (hsoft h).1
    · exact (hfree hc).trans (hhard h)
    · obtain ⟨rfl, rfl⟩ := hsoft h
      exact (hbound hc).trans (ch.withLedg_raise_events _ c _)

/-! ### Lending (R324) -/

section

variable {s : State} {c : ChanId} {arrived : Bool}

/-- The sibling's answer reaches the lender. -/
def State.reachesSibling (s : State) (c : ChanId) (arrived : Bool) : Bool :=
  arrived && (s.ch (sibling c)).on && (s.ch (sibling c)).chn.state != .reset

theorem Channel.on_iff (ch : Channel) : ch.on = true ↔ ch.domain.st = .active ∨ ch.domain.st = .idle := by simp [Channel.on]

theorem State.reachesSibling_iff : s.reachesSibling c arrived = true ↔
    arrived = true ∧ ((s.ch (sibling c)).domain.st = .active ∨ (s.ch (sibling c)).domain.st = .idle) ∧
      (s.ch (sibling c)).chn.state ≠ .reset := by
  simp [State.reachesSibling, Channel.on_iff, and_assoc]

theorem exec_loanOffer_nothing (h : (s.ch c).offer = 0) : exec (.loanOffer c arrived) s = .next s := if_pos (.inl h)

theorem exec_loanOffer_smaller (hr : s.reachesSibling c arrived = true) (h : (s.ch c).offer ≤ (s.ch (sibling c)).offer) :
    exec (.loanOffer c arrived) s = .next s :=
  if_pos (.inr ((if_pos hr).trans (Nat.sub_eq_zero_of_le h)))

theorem exec_loanOffer_unanswered (hr : ¬ s.reachesSibling c arrived = true) (h : 0 < (s.ch c).offer) :
    exec (.loanOffer c arrived) s = .next (s.setCh c ((s.ch c).withLedg { (s.ch c).ledg with offered := (s.ch c).offer })) := by
  have hnet : (if s.reachesSibling c arrived then (s.ch c).offer - (s.ch (sibling c)).offer else (s.ch c).offer) = (s.ch c).offer := if_neg hr
  have hsilent : (!s.reachesSibling c arrived) = true := by rw [Bool.eq_false_iff.mpr hr, Bool.not_false]
  refine (if_neg ?_).trans ((if_pos hsilent).trans ?_)
  · exact not_or.mpr ⟨h.ne', hnet.trans_ne h.ne'⟩
  · exact congrArg (fun n => Host.Outcome.next (s.setCh c ((s.ch c).withLedg { (s.ch c).ledg with offered := n }))) hnet

/-- Channel `c` lends `x` nJ of the next beat to its sibling. -/
def State.lends (s : State) (c : ChanId) (x : Nat) : State :=
  (s.onCh c fun k => k.withLedg { k.ledg with nextLoanOut := k.ledg.nextLoanOut + x }).onCh (sibling c) fun k =>
    k.withLedg { k.ledg with nextLoanIn := k.ledg.nextLoanIn + x }

theorem State.lends_eq (s : State) (c : ChanId) (x : Nat) : s.lends c x = (s.setCh c ((s.ch c).withLedg
    { (s.ch c).ledg with nextLoanOut := (s.ch c).ledg.nextLoanOut + x })).setCh (sibling c) ((s.ch (sibling c)).withLedg
      { (s.ch (sibling c)).ledg with nextLoanIn := (s.ch (sibling c)).ledg.nextLoanIn + x }) := by
  rw [State.lends, State.onCh, State.ch_onCh_other _ _ (sibling_ne c)]
  rfl

theorem exec_loanOffer_lends (hr : s.reachesSibling c arrived = true) (h : (s.ch (sibling c)).offer < (s.ch c).offer) :
    exec (.loanOffer c arrived) s = .next (s.lends c (s.accepts (sibling c) ((s.ch c).offer - (s.ch (sibling c)).offer))) := by
  have hnet : (if s.reachesSibling c arrived then (s.ch c).offer - (s.ch (sibling c)).offer else (s.ch c).offer) =
    (s.ch c).offer - (s.ch (sibling c)).offer := if_pos hr
  have hheard : ¬ (!s.reachesSibling c arrived) = true := by rw [hr]; decide
  refine (if_neg ?_).trans ((if_neg hheard).trans ?_)
  · exact not_or.mpr ⟨by omega, hnet.trans_ne (by omega)⟩
  · exact congrArg (fun n => Host.Outcome.next (s.lends c (s.accepts (sibling c) n))) hnet

/-! ### The registers (R315, R332) -/

theorem Channel.writeLimit_running {ch : Channel} (v : U64) (h : ch.running = true) : ch.writeLimit v = ch.withLedg { ch.ledg with
    limitW := BitVec.ofNat 10 (bits v 9 0)
    limitWait := ch.ledg.limitWait ++ [{ beat := ch.ledgDue, value := BitVec.ofNat 64 (BitVec.ofNat 10 (bits v 9 0)).toNat }] } := by
  simp only [Channel.writeLimit, h, if_true]
  rfl

theorem Channel.writeLimit_still {ch : Channel} (v : U64) (h : ch.running = false) : ch.writeLimit v = ch.withLedg { ch.ledg with
    limitW := BitVec.ofNat 10 (bits v 9 0), limitWait := [], limitNow := (BitVec.ofNat 10 (bits v 9 0)).toNat } := by
  simp only [Channel.writeLimit, h, Bool.false_eq_true, if_false]
  rfl

/-- The fields of a written LEDG_CTRL as it shows them. -/
def Ledg.showsCtrl (l : Ledg) (v : U64) : Ledg :=
  { l with
    lendMaxW := BitVec.ofNat 8 (bits v 31 24), reservePct := BitVec.ofNat 4 (bits v 19 16)
    refineEn := bit v 2, borrowEn := bit v 1, lendEn := bit v 0 }

theorem Channel.writeLedgCtrl_running {ch : Channel} (v : U64) (h : ch.running = true) : ch.writeLedgCtrl v =
    ch.withLedg { ch.ledg.showsCtrl (v &&& 0xFF0F0007) with
      ctrlWait := ch.ledg.ctrlWait ++ [{ beat := ch.ledgDue, value := v &&& 0xFF0F0007 }] } := by
  simp only [Channel.writeLedgCtrl, h, if_true]
  rfl

theorem Channel.writeLedgCtrl_still {ch : Channel} (v : U64) (h : ch.running = false) : ch.writeLedgCtrl v =
    ch.withLedg { ch.ledg.showsCtrl (v &&& 0xFF0F0007) with ctrlWait := [], ctrlNow := v &&& 0xFF0F0007 } := by
  simp only [Channel.writeLedgCtrl, h, Bool.false_eq_true, if_false]
  rfl

/-- A limit without writes that wait is the one in effect. -/
theorem Channel.limitAt_settled {ch : Channel} (b : Nat) (hwait : ch.ledg.limitWait = []) (hnow : ch.ledg.limitNow < 2 ^ 64) :
    ch.limitAt b = max 200 (min 650 ch.ledg.limitNow) := by
  rw [Channel.limitAt, hwait, dueValue, List.foldl_nil, BitVec.toNat_ofNat, Nat.mod_eq_of_lt hnow, clampNat]

theorem regWrites_ledgLimit_running {v : U64} (h : fwReady s c) (hrun : (s.ch c).running = true) :
    regWrites (.ledgLimitWrite c .firmware v) c s (s.setCh c ((s.ch c).writeLimit v)) := by
  obtain ⟨r, hreg, hwrite⟩ := regAt_ledgLimit
  have hstill : (s.setCh c ((s.ch c).writeLimit v)).grantNow c = s.setCh c ((s.ch c).writeLimit v) :=
    if_pos (by rw [State.ch_setCh, Channel.writeLimit_running v hrun]; exact hrun)
  rw [← hstill, ← hwrite s c .firmware]
  exact regWrites_of_regAt rfl hreg (by decide) (by decide) h

theorem regWrites_ledgLimit_still {v : U64} (h : fwReady s c) (hrun : (s.ch c).running = false) :
    let w : BitVec 10 := BitVec.ofNat 10 (bits v 9 0)
    regWrites (.ledgLimitWrite c .firmware v) c s (s.setCh c ((s.ch c).withLedg { (s.ch c).ledg with
      limitW := w, limitWait := [], limitNow := w.toNat
      grantedW := BitVec.ofNat 10 (grantLimit (max 200 (min 650 w.toNat)) (s.ch (sibling c)).ledg.grantedW.toNat (s.ch c).thermalCap
        (s.ch (sibling c)).on) })) := by
  intro w
  obtain ⟨r, hreg, hwrite⟩ := regAt_ledgLimit
  have hgrant : (s.setCh c ((s.ch c).writeLimit v)).grantNow c = s.setCh c ((s.ch c).withLedg { (s.ch c).ledg with
      limitW := w, limitWait := [], limitNow := w.toNat
      grantedW := BitVec.ofNat 10 (grantLimit (max 200 (min 650 w.toNat)) (s.ch (sibling c)).ledg.grantedW.toNat (s.ch c).thermalCap
        (s.ch (sibling c)).on) }) := by
    rw [Channel.writeLimit_still v hrun]
    refine (if_neg ?_).trans ?_
    · rw [State.ch_setCh]
      exact Bool.eq_false_iff.mp hrun
    · rw [State.ch_setCh_other _ _ (sibling_ne c), State.onCh, State.ch_setCh, State.setCh_setCh,
        Channel.limitAt_settled 0 rfl (lt_trans w.isLt (by decide))]
      rfl
  rw [← hgrant, ← hwrite s c .firmware]
  exact regWrites_of_regAt rfl hreg (by decide) (by decide) h

theorem regWrites_ledgCtrl {v : U64} (h : fwReady s c) :
    regWrites (.ledgCtrlWrite c .firmware v) c s (s.setCh c ((s.ch c).writeLedgCtrl v)) := by
  obtain ⟨r, hreg, hwrite⟩ := regAt_ledgCtrl
  rw [← hwrite s c .firmware]
  exact regWrites_of_regAt rfl hreg (by decide) (by decide) h

/-! ### The record of K (R322, R398) -/

/-- K as the record in effect stores it. -/
def Channel.storedK (ch : Channel) : Nat := ((ch.ser.calSlot.bind (·.k))).getD 0x10000

/-- The record that follows the one in effect, with the K of now. -/
def Channel.nextCalSlot (ch : Channel) (digest : Nat) : CalSlot :=
  { valid := true, seq := (ch.ser.calSlot.map fun (e : CalSlot) => e.seq + 1).getD 1, units := (ch.ser.calSlot.map (·.units)).getD []
    other := (ch.ser.calSlot.map (·.other)).getD [], k := some ch.ledg.k.toNat, digest := BitVec.ofNat 512 digest }

theorem exec_calKWriteback_void (h : (s.ch c).calibrated = false ∨ kDiffers (s.ch c).ledg.k.toNat (s.ch c).storedK = false) :
    exec (.calKWriteback c) s = .next s :=
  if_pos (h.imp (Bool.not_eq_true' _).mpr (Bool.not_eq_true' _).mpr)

theorem exec_calKWriteback_writes (hcal : (s.ch c).calibrated = true) (hk : kDiffers (s.ch c).ledg.k.toNat (s.ch c).storedK = true) :
    exec (.calKWriteback c) s = .next ((s.setCh c { s.ch c with
      ser := if (s.ch c).ser.calSlot = some (s.ch c).ser.calA then { (s.ch c).ser with calB := (s.ch c).nextCalSlot s.freeVal }
        else { (s.ch c).ser with calA := (s.ch c).nextCalSlot s.freeVal } }).tookFree 1) := by
  refine (if_neg (not_or.mpr ⟨Bool.eq_false_iff.mp (congrArg not hcal), Bool.eq_false_iff.mp (congrArg not hk)⟩)).trans ?_
  have htoA (l : Option CalSlot) (x : CalSlot) : ((l.isSome && l != some x) = true ∨ l.isNone = true) ↔ ¬ l = some x := by
    cases l <;> simp
  have hseq : (match (s.ch c).ser.calSlot with | some x => x.seq + 1 | none => 1) =
      ((s.ch c).ser.calSlot.map fun (e : CalSlot) => e.seq + 1).getD 1 := by
    cases (s.ch c).ser.calSlot <;> rfl
  dsimp only
  rw [State.onCh, if_congr (htoA _ _) rfl rfl, ite_not]
  unfold Channel.nextCalSlot
  rw [← hseq] <;> rfl

end

/-- Settles O43: reconciliation by its marks, an offer by whether the sibling hears it, a register by whether beats run, and the record by its
slot in effect. -/
theorem ledgerReconcilesLendsAndLimits : Obligations.LedgerReconcilesLendsAndLimits := by
  unfold Obligations.LedgerReconcilesLendsAndLimits
  intro c eIn loss s0 s1 sp arrived v s
  dsimp only
  refine ⟨fun h => ?_, exec_loanOffer_nothing, fun hr h => exec_loanOffer_smaller (State.reachesSibling_iff.mpr hr) h,
    fun hr h => exec_loanOffer_unanswered (mt State.reachesSibling_iff.mp hr) h, fun hr h => ?_, fun h hrun => ?_, fun h hrun => ?_,
    fun h hrun => ?_, fun h hrun => ?_, fun h => ?_, fun hcal hmoved hcur => ?_, fun hcal hmoved hcur => ?_⟩
  · obtain ⟨evs, rs, heq, hkept, hhard, hclamped⟩ := (s.ch c).reconciled_eq c (railEnergy c eIn loss s0 s1 sp)
    refine ⟨_, exec_reconcile_metered c eIn loss s h, ?_⟩
    rw [State.ch_setCh, heq]
    refine ⟨rfl, ?_, ?_, ?_, rfl⟩
    · exact fun h hc => hkept (of_decide_eq_false h) hc
    · exact fun h hc => hhard (of_decide_eq_true h) hc
    · exact fun h hc => hclamped (of_decide_eq_false h) hc
  · rw [exec_loanOffer_lends (State.reachesSibling_iff.mpr hr) h, State.lends_eq]
    rfl
  · have hlimit := regWrites_ledgLimit_running (v := v) h hrun
    rwa [Channel.writeLimit_running v hrun] at hlimit
  · have hlimit := regWrites_ledgLimit_still (v := v) h hrun
    dsimp only at hlimit
    rw [grantLimit, if_congr (Channel.on_iff _) rfl rfl] at hlimit
    exact hlimit
  · have hctrl := regWrites_ledgCtrl (v := v) h
    rwa [Channel.writeLedgCtrl_running v hrun] at hctrl
  · have hctrl := regWrites_ledgCtrl (v := v) h
    rwa [Channel.writeLedgCtrl_still v hrun] at hctrl
  · exact exec_calKWriteback_void (h.imp_right decide_eq_false)
  · rw [exec_calKWriteback_writes hcal (decide_eq_true hmoved), if_pos hcur, State.tookFree, State.setCh_free]
    rfl
  · rw [exec_calKWriteback_writes hcal (decide_eq_true hmoved), if_neg hcur, State.tookFree, State.setCh_free]
    rfl

end Sys2Proof.Machine
end

section
/-! PROOFS. Requests through PWR_REQ: what refuses one, and what that leaves unchanged (R327, R328). -/

namespace Sys2Proof.Machine

/-! ### A word of PWR_REQ -/

/-- A word of PWR_REQ that names a domain, with ON and OFF. -/
def pwrReqWord (n : Nat) (on off : Bool) : U64 := BitVec.ofNat 64 (n + (if on then 2 ^ 8 else 0) + (if off then 2 ^ 9 else 0))

theorem pwrReqWord_toNat {n : Nat} (on off : Bool) (hn : n < 256) :
    (pwrReqWord n on off).toNat = n + (if on then 2 ^ 8 else 0) + (if off then 2 ^ 9 else 0) := by
  rw [pwrReqWord, BitVec.toNat_ofNat]
  apply Nat.mod_eq_of_lt
  split <;> split <;> omega

theorem pwrReqWord_fields {n : Nat} (on off : Bool) (hn : n < 256) :
    bit (pwrReqWord n on off) 8 = on ∧ bit (pwrReqWord n on off) 9 = off ∧ bits (pwrReqWord n on off) 7 0 = n := by
  unfold bit bits
  rw [pwrReqWord_toNat on off hn]
  cases on <;> cases off <;> simp <;> omega

theorem pwrReqWord_on {n : Nat} (hn : n < 256) : BitVec.ofNat 64 (2 ^ 8 + n % 256) = pwrReqWord n true false := by
  rw [pwrReqWord, Nat.mod_eq_of_lt hn, if_pos rfl, if_neg Bool.false_ne_true, Nat.add_zero, Nat.add_comm]

theorem pwrReqWord_off {n : Nat} (hn : n < 256) : BitVec.ofNat 64 (2 ^ 9 + n % 256) = pwrReqWord n false true := by
  rw [pwrReqWord, Nat.mod_eq_of_lt hn, if_pos rfl, if_neg Bool.false_ne_true, Nat.add_zero, Nat.add_comm]

theorem regAt_pwrReq : ∃ r, regAt 0x120008 = some r ∧ ∀ s c w v, r.write s c w v = s.setCh c ((s.ch c).writePwrReq c v) :=
  ⟨_, rfl, fun _ _ _ _ => rfl⟩

section

variable {s : State} {c : ChanId} {n : Nat}

/-- A word of PWR_REQ written by firmware as any register is. -/
theorem regWrites_pwrReq_csrWrite (v : U64) (h : fwReady s c) :
    regWrites (.csrWrite (unitOf c) .firmware 0x120008 8 v) c s (s.setCh c ((s.ch c).writePwrReq c v)) := by
  obtain ⟨r, hreg, hwrite⟩ := regAt_pwrReq
  rw [← hwrite s c .firmware]
  exact exec_csrWrite_firmware s c v h (by decide) (by simp [csrCode_aligned, hreg]) hreg

theorem regWrites_pwrReqOn (hn : n < 256) (h : fwReady s c) :
    regWrites (.pwrReqOn c .firmware n) c s (s.setCh c ((s.ch c).writePwrReq c (pwrReqWord n true false))) := by
  obtain ⟨r, hreg, hwrite⟩ := regAt_pwrReq
  rw [← hwrite s c .firmware, ← pwrReqWord_on hn]
  exact regWrites_of_regAt rfl hreg (by decide) (by decide) h

theorem regWrites_pwrReqOff (hn : n < 256) (h : fwReady s c) :
    regWrites (.pwrReqOff c .firmware n) c s (s.setCh c ((s.ch c).writePwrReq c (pwrReqWord n false true))) := by
  obtain ⟨r, hreg, hwrite⟩ := regAt_pwrReq
  rw [← hwrite s c .firmware, ← pwrReqWord_off hn]
  exact regWrites_of_regAt rfl hreg (by decide) (by decide) h

end

/-! ### The cause of a refusal (R328) -/

section

variable {ch : Channel} {on off : Bool} {n : Nat}

/-- The request switches off a core that is bound. -/
def Channel.asksBoundOff (ch : Channel) (off : Bool) (n : Nat) : Prop := off = true ∧ n < 136 ∧ (ch.lcoreOf n).isSome = true

theorem Channel.pwrCause_bound (h : ch.asksBoundOff off n) : ch.pwrCause on off n = some 1 := by
  obtain ⟨hoff, hn, hbound⟩ := h
  exact if_pos (by simp [hoff, hn, hbound])

theorem Channel.pwrCause_unbound (h : ¬ ch.asksBoundOff off n) : ch.pwrCause on off n =
    if n = 0xFF then some 2 else if !isDomain n then some 3 else if on && off then some 4 else none :=
  if_neg (by simpa [Channel.asksBoundOff, and_assoc] using h)

theorem isDomain_iff : isDomain n = true ↔ n < 136 ∨ n = 0x90 ∨ n = 0x91 ∨ (0xA0 ≤ n ∧ n < 0xA8) := by
  simp [isDomain, or_assoc]

/-- A refused request counts, shows its cause, and raises PWR_REFUSED. -/
theorem Channel.writePwrReq_refused {cause : Nat} (c : ChanId) (hn : n < 256) (hasks : on = true ∨ off = true)
    (h : ch.pwrCause on off n = some cause) : ch.writePwrReq c (pwrReqWord n on off) =
      ({ ch with pwr := { ch.pwr with refused := satAdd ch.pwr.refused 1, lastRefuse := BitVec.ofNat 8 cause } } : Channel).withRaised
        (ch.raise c 0x9005).events (ch.raise c 0x9005).beat.raised := by
  obtain ⟨hon, hoff, hd⟩ := pwrReqWord_fields on off hn
  have hsome : ¬ (!on && !off) = true := by cases on <;> cases off <;> simp at hasks ⊢
  simp only [Channel.writePwrReq, hon, hoff, hd, if_neg hsome, h]
  exact Channel.raise_as c 0x9005 rfl rfl rfl

theorem Channel.writePwrReq_accepted (c : ChanId) (hn : n < 256) (hasks : on = true ∨ off = true)
    (h : ch.pwrCause on off n = none) : ch.writePwrReq c (pwrReqWord n on off) =
      ch.onDomain n (if on then Domain.askOn else Domain.askOff) := by
  obtain ⟨hon, hoff, hd⟩ := pwrReqWord_fields on off hn
  have hsome : ¬ (!on && !off) = true := by cases on <;> cases off <;> simp at hasks ⊢
  simp only [Channel.writePwrReq, hon, hoff, hd, if_neg hsome, h]

end

/-! ### The obligation -/

/-- Command `i` is refused as a request of PWR_REQ for a cause, and changes no domain. -/
def pwrRefuses (c : ChanId) (s : State) (i : Instr) (cause : Nat) : Prop :=
  let ch := s.ch c
  ∃ t, regWrites i c s t ∧ (t.ch c).pwr = { ch.pwr with refused := satAdd ch.pwr.refused 1, lastRefuse := BitVec.ofNat 8 cause } ∧
    (t.ch c).events = (ch.raise c 0x9005).events ∧ (∀ m : Nat, (t.ch c).domainOf m = ch.domainOf m) ∧ (t.ch c).domain = ch.domain ∧
    t = s.setCh c { ch with pwr := (t.ch c).pwr, events := (t.ch c).events, beat := { ch.beat with raised := (t.ch c).beat.raised } }

section

variable {s : State} {c : ChanId} {on off : Bool} {n cause : Nat}

theorem pwrRefuses_of_writes {i : Instr} (hn : n < 256) (hasks : on = true ∨ off = true) (h : (s.ch c).pwrCause on off n = some cause)
    (hwrites : regWrites i c s (s.setCh c ((s.ch c).writePwrReq c (pwrReqWord n on off)))) : pwrRefuses c s i cause := by
  rw [Channel.writePwrReq_refused c hn hasks h] at hwrites
  refine ⟨_, hwrites, ?_⟩
  rw [State.ch_setCh]
  exact ⟨rfl, rfl, fun _ => rfl, rfl, rfl⟩

/-- Whichever command writes the word, the request is refused for its cause. -/
theorem pwrReq_refused (hready : fwReady s c) (hn : n < 256) (hasks : on = true ∨ off = true)
    (h : (s.ch c).pwrCause on off n = some cause) :
    pwrRefuses c s (.csrWrite (unitOf c) .firmware 0x120008 8 (pwrReqWord n on off)) cause ∧
      (on = true → off = false → pwrRefuses c s (.pwrReqOn c .firmware n) cause) ∧
      (off = true → on = false → pwrRefuses c s (.pwrReqOff c .firmware n) cause) := by
  refine ⟨pwrRefuses_of_writes hn hasks h (regWrites_pwrReq_csrWrite _ hready), ?_, ?_⟩
  · rintro rfl rfl
    exact pwrRefuses_of_writes hn hasks h (regWrites_pwrReqOn hn hready)
  · rintro rfl rfl
    exact pwrRefuses_of_writes hn hasks h (regWrites_pwrReqOff hn hready)

end

/-- Settles O44: the causes in their order, each refused by whichever command writes the word. -/
theorem powerRequestsAreRefused : Obligations.PowerRequestsAreRefused := by
  unfold Obligations.PowerRequestsAreRefused
  intro c on off d s
  dsimp only
  intro hready hasks
  have hn := d.isLt
  refine ⟨fun hb => ?_, fun hb hff => ?_, fun hb hff hundef => ?_, fun hb hff hdef hboth => ?_⟩
  · exact pwrReq_refused hready hn hasks (Channel.pwrCause_bound hb)
  all_goals
    refine pwrReq_refused hready hn hasks ((Channel.pwrCause_unbound hb).trans ?_)
  · exact if_pos hff
  · exact (if_neg hff).trans (if_pos (by simpa using mt isDomain_iff.mp hundef))
  · obtain ⟨rfl, rfl⟩ := hboth
    exact (if_neg hff).trans ((if_neg (by simpa using isDomain_iff.mpr (not_not.mp hdef))).trans (if_pos rfl))

end Sys2Proof.Machine
end

section
/-! PROOFS. The domains of cores, CXL ports and link groups: requests, drains, wakes and an idle port (R326 to R329, Table 15-4). -/

namespace Sys2Proof.Machine

/-! ### One domain of a channel -/

@[simp] theorem Channel.domainOf_onDomain_same (ch : Channel) (d : Nat) (f : Domain → Domain) :
    (ch.onDomain d f).domainOf d = f (ch.domainOf d) := smGet_smMod_same ..

theorem Channel.domainOf_onDomain_other (ch : Channel) {d m : Nat} (f : Domain → Domain) (h : m ≠ d) :
    (ch.onDomain d f).domainOf m = ch.domainOf m := smGet_smMod_other _ _ _ h

/-- In `t` domain `d` of channel `c` is `y`, and every other one is as in `s`. -/
def domainMoves (c : ChanId) (d : Nat) (y : Domain) (s t : State) : Prop :=
  (t.ch c).domainOf d = y ∧ ∀ m : Nat, m ≠ d → (t.ch c).domainOf m = (s.ch c).domainOf m

/-- What a change of the channel that keeps its domains and then moves one comes to. -/
theorem domainMoves_onDomain {c : ChanId} {s : State} (d : Nat) (f : Domain → Domain) {k : Channel}
    (hk : k.pwr.domains = (s.ch c).pwr.domains) : domainMoves c d (f ((s.ch c).domainOf d)) s (s.setCh c (k.onDomain d f)) := by
  have hall (m : Nat) : k.domainOf m = (s.ch c).domainOf m := by rw [Channel.domainOf, hk]; rfl
  rw [domainMoves, State.ch_setCh, Channel.domainOf_onDomain_same, hall]
  exact ⟨rfl, fun m hm => (k.domainOf_onDomain_other f hm).trans (hall m)⟩

/-- The domains that a request names (Table 15-3). -/
def namesDomain (d : Nat) : Prop := d < 136 ∨ (d = 0x90 ∨ d = 0x91) ∨ (0xA0 ≤ d ∧ d < 0xA8)

section

variable {d : Nat} (h : namesDomain d)
include h

theorem isDomain_of_names : isDomain d = true := by
  rw [isDomain_iff]
  unfold namesDomain at h
  omega

theorem namesDomain_lt : d < 256 := by
  unfold namesDomain at h
  omega

theorem namesDomain_ne : d ≠ 0xFF := by
  unfold namesDomain at h
  omega

end

section

variable {s : State} {c : ChanId} {d : Nat}

/-! ### Requests that are accepted (R327) -/

theorem Channel.pwrCause_on {ch : Channel} (h : namesDomain d) : ch.pwrCause true false d = none := by
  rw [Channel.pwrCause_unbound fun hb => Bool.false_ne_true hb.1, if_neg (namesDomain_ne h), if_neg (by simp [isDomain_of_names h])]
  rfl

theorem Channel.pwrCause_off {ch : Channel} (h : namesDomain d) (hfree : d < 136 → ch.lcoreOf d = none) :
    ch.pwrCause false true d = none := by
  rw [Channel.pwrCause_unbound, if_neg (namesDomain_ne h), if_neg (by simp [isDomain_of_names h])]
  · rfl
  · rintro ⟨-, hcore, hbound⟩
    rw [hfree hcore] at hbound
    exact Bool.false_ne_true hbound

/-- An accepted request moves its domain. -/
theorem regWrites_pwrReqOn_accepted (hready : fwReady s c) (h : namesDomain d) :
    regWrites (.pwrReqOn c .firmware d) c s (s.setCh c ((s.ch c).onDomain d Domain.askOn)) := by
  have hon := regWrites_pwrReqOn (namesDomain_lt h) hready
  rwa [Channel.writePwrReq_accepted c (namesDomain_lt h) (.inl rfl) (Channel.pwrCause_on h)] at hon

theorem regWrites_pwrReqOff_accepted (hready : fwReady s c) (h : namesDomain d) (hfree : d < 136 → (s.ch c).lcoreOf d = none) :
    regWrites (.pwrReqOff c .firmware d) c s (s.setCh c ((s.ch c).onDomain d Domain.askOff)) := by
  have hoff := regWrites_pwrReqOff (namesDomain_lt h) hready
  rwa [Channel.writePwrReq_accepted c (namesDomain_lt h) (.inr rfl) (Channel.pwrCause_off h hfree)] at hoff

/-! ### Drains (R327, R329) -/

/-- A drain of a core waits for the Owl claim on it. -/
theorem Channel.drained_iff {ch : Channel} (h : d ≠ 0xFF) :
    ch.drained d = true ↔ (ch.domainOf d).st = .draining ∧ ¬ (d < 136 ∧ ch.owl.active = true ∧ ch.owl.pcore.toNat = d) := by
  rw [Channel.drained, if_neg h]
  simp [Channel.claimed, imp_iff_not_or]

/-- A domain whose drain is complete. -/
def Domain.drainEnds (x : Domain) : Domain := { st := if x.wakePending then .waking else .off }

theorem exec_domainDrainDone_void (hd : d ≠ 0xFF)
    (h : ¬ ((s.ch c).domainOf d).st = .draining ∨ (d < 136 ∧ (s.ch c).owl.active = true ∧ (s.ch c).owl.pcore.toNat = d)) :
    exec (.domainDrainDone c d) s = .next s := by
  refine if_pos ?_
  rw [Bool.not_eq_true', Bool.eq_false_iff, Ne, Channel.drained_iff hd]
  tauto

theorem exec_domainDrainDone_drained (hd : d ≠ 0xFF) (h : (s.ch c).drained d = true) :
    exec (.domainDrainDone c d) s = .next ((s.domainLost c d).onCh c fun k => k.onDomain d Domain.drainEnds) :=
  (if_neg (by rw [h]; decide)).trans (if_neg hd)

/-- A core loses nothing outside its SRAM, which is cleared when it wakes. -/
theorem State.domainLost_core (h : d < 136) : s.domainLost c d = s := by
  rw [State.domainLost, if_neg (by omega), if_neg (by omega), if_neg (by omega)]

/-- Port of a port's domain. -/
def domainPort (d : Nat) : Fin 2 := if d = 0x91 then 1 else 0

theorem State.domainLost_port (h : d = 0x90 ∨ d = 0x91) : s.domainLost c d = s.cxlPortDown c (domainPort d) 0 := by
  obtain rfl | rfl := h <;> rfl

theorem State.domainLost_group (h : 0xA0 ≤ d ∧ d < 0xA8) :
    s.domainLost c d = (groupLinks d).foldl (fun (r : State) l => r.linkLeaves c l .down) s := by
  rw [State.domainLost, if_neg (by omega), if_neg (by omega), if_pos h]

/-! #### A port -/

/-- The channel of whose ports one has left UP with its domain. -/
def Channel.portLeaves (ch : Channel) (c : ChanId) (p : Fin 2) : Channel :=
  if (ch.cxlPort p).isUp then (ch.onCxlPort p fun x => { x with st := 0 }).raise c 0x2005 else ch

/-- Without transfers a port leaves UP alone. -/
theorem State.cxlPortDown_idle {p : Fin 2} (h : (s.ch c).dma.xfers = []) :
    s.cxlPortDown c p 0 = s.setCh c ((s.ch c).portLeaves c p) := by
  unfold Channel.portLeaves
  cases hup : ((s.ch c).cxlPort p).isUp with
  | true => exact Host.Outcome.next.inj (exec_cxlPortLeavesUp_idle (failed := false) hup h)
  | false =>
    rw [if_neg Bool.false_ne_true, State.setCh_ch]
    exact Host.Outcome.next.inj (exec_cxlPortLeavesUp_down (failed := false) hup)

/-- A port that leaves UP changes its state and raises CXL_PORT_DOWN; no byte and no domain changes. -/
theorem Channel.portLeaves_keeps (ch : Channel) (c : ChanId) (p : Fin 2) : let k := ch.portLeaves c p
    k.cxlPort p = { ch.cxlPort p with st := if (ch.cxlPort p).isUp then 0 else (ch.cxlPort p).st } ∧
      (∀ q : Fin 2, q ≠ p → k.cxlPort q = ch.cxlPort q) ∧
      k.events = (if (ch.cxlPort p).isUp then (ch.raise c 0x2005).events else ch.events) ∧ ch.sameBytes k ∧ k.pwr = ch.pwr := by
  dsimp only
  unfold Channel.portLeaves
  cases hup : (ch.cxlPort p).isUp with
  | false => exact ⟨rfl, fun _ _ => rfl, rfl, ⟨rfl, rfl, rfl⟩, rfl⟩
  | true =>
    obtain ⟨p0, p1, hports⟩ := ch.onCxlPort_eq_withPorts p fun x => { x with st := 0 }
    have hsame := ch.cxlPort_onCxlPort_same p fun x => { x with st := 0 }
    have hother (q : Fin 2) := ch.cxlPort_onCxlPort_other (p := p) (q := q) fun x => { x with st := 0 }
    have hraise := Channel.raise_as (ch := ch) (k := ch.withPorts p0 p1) c 0x2005 rfl rfl rfl
    rw [hports] at hsame hother
    simp only [if_true, hports, hraise]
    exact ⟨hsame, hother, rfl, ⟨rfl, rfl, rfl⟩, rfl⟩

/-! #### The links of a group -/

/-- A link that has left for DOWN. -/
def Link.down (k : Link) : Link :=
  { k with
    st := .down, eligible := false, queue := [], replayBuf := [], replayRuns := 0, used := [], partMsg := none, attempts := 0
    peerStratum := 0xFF, txSeq := 0, rxSeq := 0 }

theorem State.linkLeaves_idle {l : LinkId} (h : ((s.ch c).link l.val).queue = []) :
    s.linkLeaves c l .down = s.setCh c ((s.ch c).onLink l.val Link.down) := by
  rw [State.linkLeaves, h]
  rfl

/-- A channel with other links. -/
def Channel.withLinks (ch : Channel) (links : SMap Link) : Channel := { ch with wrn := { ch.wrn with links := links } }

/-- Links without packets that leave one after another are DOWN, and nothing else has changed. -/
theorem State.linksLeave_idle (ls : List LinkId) (h : ∀ l ∈ ls, ((s.ch c).link l.val).queue = []) : ∃ links,
    ls.foldl (fun (r : State) l => r.linkLeaves c l .down) s = s.setCh c ((s.ch c).withLinks links) ∧
      (∀ l ∈ ls, (smGet {} links l.val).st = .down) ∧ ∀ l : LinkId, l ∉ ls → smGet {} links l.val = (s.ch c).link l.val := by
  induction ls generalizing s with
  | nil => exact ⟨(s.ch c).wrn.links, (s.setCh_ch c).symm, fun l hl => absurd hl List.not_mem_nil, fun _ _ => rfl⟩
  | cons a ls ih =>
    have hdown (l : LinkId) : ((s.ch c).onLink a.val Link.down).link l.val =
        if l = a then ((s.ch c).link l.val).down else (s.ch c).link l.val := by
      split
      next heq => rw [heq]; exact smGet_smMod_same ..
      next hne => exact smGet_smMod_other _ _ _ fun hval => hne (Fin.ext hval)
    obtain ⟨links, hfold, hdowns, hkept⟩ := ih (s := s.setCh c ((s.ch c).onLink a.val Link.down)) fun l hl => by
      rw [State.ch_setCh, hdown]
      split
      · rfl
      · exact h l (List.mem_cons_of_mem _ hl)
    rw [State.ch_setCh] at hfold hkept
    refine ⟨links, ?_, fun l hl => ?_, fun l hl => ?_⟩
    · rw [List.foldl_cons, State.linkLeaves_idle (h a List.mem_cons_self), hfold, State.setCh_setCh]
      rfl
    · by_cases hmem : l ∈ ls
      · exact hdowns l hmem
      · rw [hkept l hmem, hdown, if_pos ((List.mem_cons.mp hl).resolve_right hmem)]
        rfl
    · obtain ⟨hne, hmem⟩ := not_or.mp (mt List.mem_cons.mpr hl)
      rw [hkept l hmem, hdown, if_neg hne]

theorem mem_groupLinks {l : LinkId} : l ∈ groupLinks d ↔ 0xA0 + l.val / 6 = d := by simp [groupLinks, groupDomain]

/-! ### Wakes (R329) -/

/-- A domain that has been woken. -/
def Domain.wakes (x : Domain) : Domain := { st := if x.offPending then .draining else .active }

theorem exec_domainWake_void (hd : d ≠ 0xFF) (h : ((s.ch c).domainOf d).st ≠ .waking) :
    exec (.domainWakeDone c d) s = .next s ∧ exec (.domainWakeFail c d) s = .next s :=
  ⟨(if_neg hd).trans (if_pos h), (if_neg hd).trans (if_pos h)⟩

theorem exec_domainWakeDone_wakes (hd : d ≠ 0xFF) (h : ((s.ch c).domainOf d).st = .waking) :
    exec (.domainWakeDone c d) s = .next (s.setCh c (((s.ch c).wakeEffects d).onDomain d Domain.wakes)) :=
  (if_neg hd).trans (if_neg (not_not_intro h))

/-- A port comes back as it was before; memory and domains stay. -/
theorem Channel.portBack_keeps (ch : Channel) (p : Fin 2) : let k := ch.portBack p
    ((ch.cxlPort p).capGib ≠ 0 → k.cxlPort p = { ch.cxlPort p with st := 2 }) ∧ k.mem = ch.mem ∧ k.cxl.mem = ch.cxl.mem ∧ k.pwr = ch.pwr := by
  have hsame := ch.cxlPort_onCxlPort_same p fun k => if k.capGib = 0 then k else { k with st := 2 }
  obtain ⟨p0, p1, hports⟩ := ch.onCxlPort_eq_withPorts p fun k => if k.capGib = 0 then k else { k with st := 2 }
  dsimp only
  unfold Channel.portBack
  refine ⟨fun hcap => hsame.trans (if_neg hcap), ?_⟩
  rw [hports]
  exact ⟨rfl, rfl, rfl⟩

theorem Channel.wakeEffects_port (ch : Channel) (h : d = 0x90 ∨ d = 0x91) : ch.wakeEffects d = ch.portBack (domainPort d) := by
  obtain rfl | rfl := h <;> rfl

/-- The SRAM of a core that wakes is zero, and that of every other core is as it was. -/
theorem Channel.clearSram_sram (ch : Channel) (p i : Nat) : smGet 0 (ch.clearSram p).mem.sram i =
    if sramAt p 0 ≤ i ∧ i < sramAt p 0 + 2 ^ 22 then 0 else smGet 0 ch.mem.sram i := by
  split
  next h => exact smGet_smClear_inside _ _ _ _ h.1 h.2
  next h => exact smGet_smClear_outside _ _ _ _ (by omega)

/-- What a wake restores: a core its SRAM as zeros, a port that the map holds its state; no other byte changes. -/
theorem Channel.wakeEffects_keeps (ch : Channel) (d : Nat) : let k := ch.wakeEffects d
    (∀ i : Nat, smGet 0 k.mem.sram i =
      if d < 136 ∧ sramAt d 0 ≤ i ∧ i < sramAt d 0 + 2 ^ 22 then 0 else smGet 0 ch.mem.sram i) ∧
    ((d = 0x90 ∨ d = 0x91) → (ch.cxlPort (domainPort d)).capGib ≠ 0 →
      k.cxlPort (domainPort d) = { ch.cxlPort (domainPort d) with st := 2 }) ∧
    (¬ (d = 0x90 ∨ d = 0x91) → k.cxl = ch.cxl) ∧ k.mem.hbm = ch.mem.hbm ∧ k.cxl.mem = ch.cxl.mem ∧ k.pwr = ch.pwr := by
  dsimp only
  by_cases hcore : d < 136
  · rw [Channel.wakeEffects, if_pos hcore]
    refine ⟨fun i => ?_, fun hport => by omega, fun _ => rfl, rfl, rfl, rfl⟩
    rw [Channel.clearSram_sram]
    exact if_congr (by simp [hcore]) rfl rfl
  · have hkept {k : Channel} (hmem : k.mem = ch.mem) (i : Nat) : smGet 0 k.mem.sram i =
        if d < 136 ∧ sramAt d 0 ≤ i ∧ i < sramAt d 0 + 2 ^ 22 then 0 else smGet 0 ch.mem.sram i := by
      rw [hmem, if_neg fun h => hcore h.1]
    by_cases hport : d = 0x90 ∨ d = 0x91
    · obtain ⟨hback, hmem, hcxl, hpwr⟩ := ch.portBack_keeps (domainPort d)
      rw [Channel.wakeEffects_port ch hport]
      exact ⟨hkept hmem, fun _ => hback, fun h => absurd hport h, congrArg Mem.hbm hmem, hcxl, hpwr⟩
    · have hstays : ch.wakeEffects d = ch := by
        rw [Channel.wakeEffects, if_neg hcore, if_neg fun h => hport (.inl h), if_neg fun h => hport (.inr h)]
      rw [hstays]
      exact ⟨hkept rfl, fun h => absurd h hport, fun _ => rfl, rfl, rfl, rfl⟩

/-- The channel one of whose domains did not wake (R329). -/
def Channel.wakeFails (ch : Channel) (c : ChanId) (d : Nat) : Channel :=
  let k := ({ ch with pwr := { ch.pwr with wakeFail := satAdd ch.pwr.wakeFail 1 } }.onDomain d fun _ => { st := .off }).raise c 0x9006
  if d = 0x90 ∨ d = 0x91 then k.raise c 0x2005 else k

theorem exec_domainWakeFail_fails (hd : d ≠ 0xFF) (h : ((s.ch c).domainOf d).st = .waking) :
    exec (.domainWakeFail c d) s = .next (s.setCh c ((s.ch c).wakeFails c d)) :=
  (if_neg hd).trans (if_neg (not_not_intro h))

/-- A wake that fails changes the power block and raises its events. -/
theorem Channel.wakeFails_eq (ch : Channel) (c : ChanId) (d : Nat) : ∃ evs rs, ch.wakeFails c d =
    ({ ch with pwr := { ch.pwr with wakeFail := satAdd ch.pwr.wakeFail 1 } }.onDomain d fun _ => { st := .off }).withRaised evs rs ∧
    (¬ (d = 0x90 ∨ d = 0x91) → evs = (ch.raise c 0x9006).events) ∧
    ((d = 0x90 ∨ d = 0x91) → evs = ((ch.raise c 0x9006).raise c 0x2005).events) := by
  have hraise := Channel.raise_as (ch := ch)
    (k := { ch with pwr := { ch.pwr with wakeFail := satAdd ch.pwr.wakeFail 1 } }.onDomain d fun _ => { st := .off }) c 0x9006 rfl rfl rfl
  by_cases hport : d = 0x90 ∨ d = 0x91
  · refine ⟨((ch.raise c 0x9006).raise c 0x2005).events, ((ch.raise c 0x9006).raise c 0x2005).beat.raised, ?_, fun h => absurd hport h,
      fun _ => rfl⟩
    rw [Channel.wakeFails, if_pos hport, hraise]
    refine (Channel.raise_as (ch := ch.raise c 0x9006) c 0x2005 ?_ ?_ ?_).trans rfl
    all_goals
      rw [Channel.raise_shape]
      rfl
  · exact ⟨_, _, (if_neg hport).trans hraise, fun _ => rfl, fun h => absurd h hport⟩

/-! ### An idle port (R329) -/

/-- A domain that idles. -/
def Domain.idles (x : Domain) : Domain := if x.st = .active then { x with st := .idle } else x

theorem exec_cxlIdleTimeout_up {q : Fin 2} (h : ((s.ch c).cxlPort q).isUp = true) :
    exec (.cxlIdleTimeout c q) s = .next (s.setCh c ((s.ch c).onDomain (portDomain q.val) Domain.idles)) :=
  congrArg (fun k => Host.Outcome.next (s.setCh c k)) (if_pos h)

theorem exec_cxlIdleTimeout_down {q : Fin 2} (h : ((s.ch c).cxlPort q).isUp = false) : exec (.cxlIdleTimeout c q) s = .next s :=
  (congrArg (fun k => Host.Outcome.next (s.setCh c k)) (if_neg (Bool.eq_false_iff.mp h))).trans (by rw [State.setCh_ch])

end

/-- Settles O45: a domain moves with its request, its drain, its wake or its port's idle time, each on what the channel keeps or loses then. -/
theorem domainsFollowTheirTable : Obligations.DomainsFollowTheirTable := by
  unfold Obligations.DomainsFollowTheirTable
  intro c d s
  dsimp only
  refine ⟨fun hready hd => ?_, fun hready hd hfree => ?_, fun hcore hst hclaim => ?_, fun hd h => ?_, fun hport hst hidle => ?_,
    fun hgroup hst hqueues => ?_, fun hd hst => exec_domainWake_void (namesDomain_ne hd) hst, fun hd hst => ?_, fun hd hst => ?_,
    fun q hq => ?_⟩
  · obtain ⟨hmoved, hothers⟩ := domainMoves_onDomain (s := s) (c := c) d Domain.askOn rfl
    refine ⟨_, regWrites_pwrReqOn_accepted hready hd, hmoved.trans ?_, hothers, by rw [State.ch_setCh]; rfl⟩
    unfold Domain.askOn
    cases ((s.ch c).domainOf d).st <;> rfl
  · obtain ⟨hmoved, hothers⟩ := domainMoves_onDomain (s := s) (c := c) d Domain.askOff rfl
    refine ⟨_, regWrites_pwrReqOff_accepted hready hd hfree, hmoved.trans ?_, hothers, by rw [State.ch_setCh]; rfl⟩
    unfold Domain.askOff
    cases ((s.ch c).domainOf d).st <;> rfl
  · have hne : d ≠ 0xFF := by omega
    have hdrain := exec_domainDrainDone_drained (s := s) (c := c) hne ((Channel.drained_iff hne).mpr ⟨hst, fun h => hclaim h.2⟩)
    rw [State.domainLost_core hcore] at hdrain
    obtain ⟨hmoved, hothers⟩ := domainMoves_onDomain (s := s) (c := c) d Domain.drainEnds rfl
    exact ⟨_, hdrain, hmoved, hothers, by rw [State.onCh, State.ch_setCh]; rfl⟩
  · exact exec_domainDrainDone_void (namesDomain_ne hd) h
  · have hne : d ≠ 0xFF := by omega
    have hdrain := exec_domainDrainDone_drained (s := s) (c := c) hne ((Channel.drained_iff hne).mpr ⟨hst, fun h => by omega⟩)
    rw [State.domainLost_port hport, State.cxlPortDown_idle hidle, State.onCh, State.ch_setCh, State.setCh_setCh] at hdrain
    obtain ⟨hsame, hother, hevents, hbytes, hpwr⟩ := (s.ch c).portLeaves_keeps c (domainPort d)
    obtain ⟨hmoved, hothers⟩ := domainMoves_onDomain (s := s) (c := c) d Domain.drainEnds (congrArg Pwr.domains hpwr)
    refine ⟨_, hdrain, hmoved, hothers, ?_⟩
    rw [onlyChannel, State.ch_setCh]
    exact ⟨hsame, hother, hevents, hbytes, rfl⟩
  · have hne : d ≠ 0xFF := by omega
    have hdrain := exec_domainDrainDone_drained (s := s) (c := c) hne ((Channel.drained_iff hne).mpr ⟨hst, fun h => by omega⟩)
    obtain ⟨links, hfold, hdown, hkept⟩ := s.linksLeave_idle (c := c) (groupLinks d) fun l hl => hqueues l (mem_groupLinks.mp hl)
    rw [State.domainLost_group hgroup, hfold, State.onCh, State.ch_setCh, State.setCh_setCh] at hdrain
    obtain ⟨hmoved, hothers⟩ := domainMoves_onDomain (s := s) (c := c) (k := (s.ch c).withLinks links) d Domain.drainEnds rfl
    refine ⟨_, hdrain, hmoved, hothers, ?_⟩
    rw [State.ch_setCh]
    exact ⟨fun l hl => hdown l (mem_groupLinks.mpr hl), fun l hl => hkept l (mt mem_groupLinks.mp hl), rfl⟩
  · obtain ⟨hsram, hport, hcxl, hhbm, hcxlMem, hpwr⟩ := (s.ch c).wakeEffects_keeps d
    obtain ⟨hmoved, hothers⟩ := domainMoves_onDomain (s := s) (c := c) d Domain.wakes (congrArg Pwr.domains hpwr)
    refine ⟨_, exec_domainWakeDone_wakes (namesDomain_ne hd) hst, hmoved, hothers, ?_⟩
    rw [onlyChannel, State.ch_setCh]
    exact ⟨hsram, hport, hcxl, hhbm, hcxlMem, rfl⟩
  · obtain ⟨evs, rs, heq, hcore, hport⟩ := (s.ch c).wakeFails_eq c d
    have hfails := exec_domainWakeFail_fails (namesDomain_ne hd) hst
    rw [heq] at hfails
    obtain ⟨hmoved, hothers⟩ := domainMoves_onDomain (s := s) (c := c)
      (k := { s.ch c with pwr := { (s.ch c).pwr with wakeFail := satAdd (s.ch c).pwr.wakeFail 1 } }) d (fun _ => { st := .off }) rfl
    simp only [State.ch_setCh] at hmoved hothers
    refine ⟨_, hfails, ?_⟩
    rw [State.ch_setCh]
    exact ⟨hmoved, hothers, rfl, hcore, hport, rfl⟩
  · obtain rfl := hq
    cases hup : ((s.ch c).cxlPort q).isUp with
    | true =>
      obtain ⟨hmoved, hothers⟩ := domainMoves_onDomain (s := s) (c := c) (portDomain q.val) Domain.idles rfl
      refine ⟨_, exec_cxlIdleTimeout_up hup, hothers, hmoved.trans ?_, by rw [State.ch_setCh]; rfl⟩
      exact if_congr (by simp [portDomain]) rfl rfl
    | false =>
      exact ⟨s, exec_cxlIdleTimeout_down hup, fun _ _ => rfl, (if_neg fun h => Bool.false_ne_true h.1).symm, (s.setCh_ch c).symm⟩

end Sys2Proof.Machine
end

section
/-! PROOFS. The channel domain: its requests, its drain, its loss, its wake and its reset (R327, R329, R389, R393, R394, R417). -/

namespace Sys2Proof.Machine

/-! ### A channel that is lost or reset -/

section

variable (s : State) (c : ChanId)

@[simp] theorem State.lost_ch (k : Channel) : (s.lost c k).ch c = k := s.ch_setCh c k

theorem State.lost_ch_other {d : ChanId} (k : Channel) (h : d ≠ c) : (s.lost c k).ch d = s.ch d := s.ch_setCh_other k h

theorem State.lost_sup (k : Channel) : (s.lost c k).sup = s.sup := s.setCh_sup c k

/-- What the port die records of a lost channel does not depend on what the channel becomes. -/
theorem State.lost_ptd (k l : Channel) : (s.lost c k).ptd = (s.lost c l).ptd := rfl

/-- A session that ends unbinds its QP; the channel loses mailboxes and the session. -/
theorem State.endSession_setChPtd : ∃ m x, s.endSession c = s.setChPtd c ((s.ch c).withBoxes m x)
    (if (s.ch c).sec.session.stage = 0 then s.ptd
      else s.ptd.onQp (s.ch c).sec.session.qp fun q => { q with bound := false }) := by
  unfold State.endSession
  dsimp only
  split
  · refine ⟨(s.ch c).mbx, (s.ch c).sec.session, ?_⟩
    obtain rfl | rfl := ChanId.cases c <;> rfl
  · refine ⟨{ (s.ch c).mbx with boxes := smDel 8 (smDel 9 (s.ch c).mbx.boxes) }, {}, ?_⟩
    rw [State.onCh_ptd]
    rfl

theorem State.dropMailboxes_setChPtd : s.dropMailboxes c = s.setChPtd c ((s.ch c).withBoxes {} (s.ch c).sec.session)
    ((s.ch c).mbx.lostWork.foldl (fun (q : Ptd) e => q.abort c e.1 e.2) s.ptd) := by
  unfold State.dropMailboxes
  dsimp only
  rw [State.onCh_ptd]
  rfl

theorem State.setChPtd_ch (k : Channel) (p : Ptd) : (s.setChPtd c k p).ch c = k := s.ch_setCh c k

theorem State.setChPtd_setChPtd (k l : Channel) (p q : Ptd) : (s.setChPtd c k p).setChPtd c l q = s.setChPtd c l q := by
  obtain rfl | rfl := ChanId.cases c <;> rfl

theorem State.setChPtd_onCh (k : Channel) (p : Ptd) (f : Channel → Channel) : (s.setChPtd c k p).onCh c f = s.setChPtd c (f k) p := by
  obtain rfl | rfl := ChanId.cases c <;> rfl

/-- A channel without its mailboxes and its session becomes what it would be made of with them: it is lost. -/
theorem State.dropMailboxes_endSession_onCh (f : Channel → Channel) (hf : ∀ k m x, f (Channel.withBoxes k m x) = f k) :
    ((s.dropMailboxes c).endSession c).onCh c f = s.lost c (f (s.ch c)) := by
  obtain ⟨m, x, hend⟩ := (s.dropMailboxes c).endSession_setChPtd c
  rw [hend, State.setChPtd_onCh, hf, s.dropMailboxes_setChPtd c, State.setChPtd_setChPtd, State.setChPtd_ch, hf]
  rfl

/-- OFF: everything held in the channel is lost (R329). -/
theorem State.channelOff_lost : s.channelOff c = s.lost c ((s.ch c).unpowered s.ptd) :=
  s.dropMailboxes_endSession_onCh c (fun k => k.unpowered s.ptd) fun _ _ _ => rfl

/-- The channel after a reset, with the event that the end of a debug session raises. -/
def Channel.afterReset (ch : Channel) (c : ChanId) (p : Ptd) : Channel :=
  if ch.sec.dbgLevel != .closed then (ch.fresh p ch.resetState).raise c 0x8005 else ch.fresh p ch.resetState

theorem State.resetChannel_lost : s.resetChannel c = s.lost c ((s.ch c).afterReset c s.ptd) := by
  have hfresh := s.dropMailboxes_endSession_onCh c (fun k => k.fresh s.ptd k.resetState) fun _ _ _ => rfl
  have hreset : s.resetChannel c = if (s.ch c).sec.dbgLevel != .closed then
      (s.lost c ((s.ch c).fresh s.ptd (s.ch c).resetState)).onCh c fun k => k.raise c 0x8005
    else s.lost c ((s.ch c).fresh s.ptd (s.ch c).resetState) := by
    rw [← hfresh]
    rfl
  rw [hreset, Channel.afterReset]
  split
  · obtain rfl | rfl := ChanId.cases c <;> rfl
  · rfl

theorem Channel.afterReset_isReset (ch : Channel) (p : Ptd) : ch.isReset (ch.afterReset c p) c p ch.resetState := by
  unfold Channel.isReset Channel.afterReset
  by_cases hclosed : ch.sec.dbgLevel = .closed
  · rw [if_neg (by simp [hclosed])]
    exact ⟨rfl, (if_pos hclosed).symm⟩
  · rw [if_pos (by simpa using hclosed)]
    exact ⟨Channel.raise_shape .., (if_neg hclosed).symm⟩

end

/-! ### The drain of a channel (R327, R358, R372) -/

section

variable {s : State} {c : ChanId}

/-- A channel whose debug session, if one is open, has ended. -/
def Channel.closesDebug (ch : Channel) (c : ChanId) : Channel :=
  if ch.sec.dbgLevel = .closed then ch else { ch with sec := ch.sec.close }.raise c 0x8005

theorem Channel.closesDebug_eq (ch : Channel) (c : ChanId) : ∃ y evs rs,
    ch.closesDebug c = ({ ch with sec := y } : Channel).withRaised evs rs ∧ y.dbgLevel = .closed := by
  unfold Channel.closesDebug
  split
  next hclosed => exact ⟨ch.sec, ch.events, ch.beat.raised, rfl, hclosed⟩
  next => exact ⟨_, _, _, Channel.raise_as (ch := ch) c 0x8005 rfl rfl rfl, rfl⟩

/-- A channel that verifies no stream any more. -/
def Channel.stopsVerifying (ch : Channel) : Channel :=
  if ch.pss.phase = .verifying then
    { ch with pss := { ch.pss with phase := if ch.pss.stream.isSome then ch.pss.verifyFrom else .empty } }
  else ch

/-- A channel whose stream, if there is one, is to unload, and whose windows are withdrawn otherwise. -/
def Channel.stopsStream (ch : Channel) : Channel :=
  if ch.pss.stream.isNone then { ch with pss := { ch.pss with withdrawn := true } } else ch.requestUnload

theorem Channel.stopsVerifying_eq (ch : Channel) : ∃ p, ch.stopsVerifying = { ch with pss := p } ∧ p.stream = ch.pss.stream ∧
    (ch.pss.verifyFrom ≠ .verifying → p.phase ≠ .verifying) := by
  unfold Channel.stopsVerifying
  split
  · refine ⟨_, rfl, rfl, fun hfrom => ?_⟩
    dsimp only
    split
    · exact hfrom
    · decide
  next hphase => exact ⟨ch.pss, rfl, rfl, fun _ => hphase⟩

theorem Channel.stopsStream_eq (ch : Channel) : ∃ p, ch.stopsStream = { ch with pss := p } ∧ p.stream = ch.pss.stream ∧
    p.phase = ch.pss.phase ∧ (ch.pss.stream = none → p.withdrawn = true) ∧
    (ch.pss.stream.isSome = true → (ch.chn.state = .loaded ∨ ch.chn.state = .running) → p.unloadReq = true) := by
  unfold Channel.stopsStream
  cases hstream : ch.pss.stream with
  | none => exact ⟨_, if_pos rfl, hstream, rfl, fun _ => rfl, fun h => nomatch h⟩
  | some st =>
    by_cases hbeats : ch.chn.state = .loaded ∨ ch.chn.state = .running
    · exact ⟨{ ch.pss with unloadReq := true }, (if_neg Bool.false_ne_true).trans (if_pos hbeats), hstream, rfl, nofun, fun _ _ => rfl⟩
    · exact ⟨ch.pss, (if_neg Bool.false_ne_true).trans (if_neg hbeats), hstream, rfl, nofun, fun _ h => absurd h hbeats⟩

/-- What a channel at entry to DRAINING keeps and loses. -/
def Channel.enterDraining (ch : Channel) (c : ChanId) : Channel :=
  let k := ({ ch with domain := { st := .draining } } : Channel).closesDebug c
  ({ k with sec := { k.sec.zeroise with nonce := none, reqLevel := none } } : Channel).stopsVerifying.stopsStream

theorem State.channelDrain_setChPtd (s : State) (c : ChanId) : ∃ m x, s.channelDrain c =
    s.setChPtd c (((s.ch c).withBoxes m x).enterDraining c) (if (s.ch c).sec.session.stage = 0 then s.ptd
      else s.ptd.onQp (s.ch c).sec.session.qp fun q => { q with bound := false }) := by
  obtain ⟨m, x, hend⟩ := s.endSession_setChPtd c
  refine ⟨m, x, ?_⟩
  rw [State.channelDrain, hend, State.setChPtd_onCh]
  rfl

theorem Channel.enterDraining_drains (ch : Channel) (c : ChanId) (m : Mbx) (x : Session) :
    ch.drains ((ch.withBoxes m x).enterDraining c) := by
  obtain ⟨y, evs, rs, hdebug, hclosed⟩ := ({ ch.withBoxes m x with domain := { st := .draining } } : Channel).closesDebug_eq c
  set k : Channel := { ({ ({ ch.withBoxes m x with domain := { st := .draining } } : Channel) with sec := y } : Channel).withRaised evs rs with
    sec := { y.zeroise with nonce := none, reqLevel := none } }
  obtain ⟨p, hverify, hstream, hphase⟩ := k.stopsVerifying_eq
  obtain ⟨p', hstops, hstream', hphase', hwithdrawn, hunload⟩ := ({ k with pss := p } : Channel).stopsStream_eq
  have henter : (ch.withBoxes m x).enterDraining c = { k with pss := p' } := by
    unfold Channel.enterDraining
    rw [hdebug]
    exact (congrArg Channel.stopsStream hverify).trans hstops
  rw [henter]
  refine ⟨rfl, rfl, rfl, hclosed, rfl, rfl, hstream'.trans hstream, fun h => hwithdrawn (hstream.trans h), fun h hst => ?_, fun h => ?_,
    rfl, rfl, rfl, rfl, rfl, rfl⟩
  · exact hunload ((congrArg Option.isSome hstream).trans h) hst
  · exact hphase'.trans_ne (hphase h)

/-- The drain leaves the sibling, the supply and the records of the port die. -/
theorem State.channelDrain_drains (s : State) (c : ChanId) : let t := s.channelDrain c
    (s.ch c).drains (t.ch c) ∧ t.ch (sibling c) = s.ch (sibling c) ∧ t.sup = s.sup ∧ t.out = s.out ∧ t.ptd.events = s.ptd.events := by
  obtain ⟨m, x, hdrain⟩ := s.channelDrain_setChPtd c
  dsimp only
  rw [hdrain, State.setChPtd_ch]
  refine ⟨Channel.enterDraining_drains .., s.ch_setCh_other _ (sibling_ne c), s.setCh_sup c _, s.setCh_out c _, ?_⟩
  exact ite_ind (fun p : Ptd => p.events = s.ptd.events) rfl rfl

/-! ### PTD_CHPWR (R327, R393, R417) -/

/-- A QP of the port die that a host's access comes over. -/
def State.ptdHost (s : State) (qp : Nat) (q : Qp) : Prop :=
  s.ptd.hostUp = true ∧ s.ptd.qp? qp = some q ∧ q.error = false ∧ q.target = 2

/-- A host's write of PTD_CHPWR is acknowledged whatever it asks for. -/
theorem State.writeReg_chpwr {qp : Nat} {q : Qp} (h : s.ptdHost qp q) (v : U64) :
    s.writeReg 2 (.host qp) 0x010 v = (s.writeChpwr v).emit (.rdmaAck qp) := by
  obtain ⟨hup, hqp, herr, htarget⟩ := h
  have hreads : ¬ (s.ptdRead 0x010).isNone = true := Bool.false_ne_true
  have hput : s.ptdPut 0x010 (leBytes 8 v.toNat) = (s.writeChpwr v, .ok, []) := by
    rw [State.ptdPut, leBytes_length, if_neg (by decide), if_neg hreads, ofNat_leNat_leBytes]
    rfl
  have hrun (w : Writer) : regRun 2 (.host qp) 0x010 8 (some (leBytes 8 v.toNat)) s w = (s.writeChpwr v, .ok, []) := hput
  have hisland : islandChan 2 = none := rfl
  have hnone : targetChan q.target = none := by rw [htarget]; rfl
  have hdo : s.writeReg 2 (.host qp) 0x010 v =
      s.hostDo qp true 0x010 8 (some (leBytes 8 v.toNat)) (regRun 2 (.host qp) 0x010 8 (some (leBytes 8 v.toNat))) := by
    unfold State.writeReg State.regDo
    simp only [hisland, hqp]
    exact if_pos htarget
  rw [hdo, State.hostDo]
  simp [hup, hqp, herr, hnone, hrun, State.hostAnswer]

theorem State.writeChpwr_on (s : State) (c : ChanId) : s.writeChpwr (BitVec.ofNat 64 (1 + c.val * 2 ^ 8)) = s.chpwrOn c := by
  obtain rfl | rfl := ChanId.cases c <;> rfl

theorem State.writeChpwr_off (s : State) (c : ChanId) : s.writeChpwr (BitVec.ofNat 64 (2 + c.val * 2 ^ 8)) = s.chpwrOff c := by
  obtain rfl | rfl := ChanId.cases c <;> rfl

/-- Command `i` is acknowledged to the QP, and the state becomes `t`. -/
def ptdAcked (i : Instr) (qp : Nat) (s t : State) : Prop := exec i s = .next (t.emit (.rdmaAck qp))

/-- The channel whose trip lock is open once its 10 s have passed. -/
def Channel.unlocked (ch : Channel) (expired : Bool) : Channel := { ch with tripLock := if expired then false else ch.tripLock }

theorem ptdAcked_chpwrOn {qp : Nat} {q : Qp} (h : s.ptdHost qp q) (expired : Bool) :
    ptdAcked (.ptdChpwrOn (.host qp) c expired) qp s ((s.setCh c ((s.ch c).unlocked expired)).chpwrOn c) := by
  have hhost : (s.setCh c ((s.ch c).unlocked expired)).ptdHost qp q := by rwa [State.ptdHost, State.setCh_ptd]
  have hopen : (if expired then s.onCh c fun k => { k with tripLock := false } else s) = s.setCh c ((s.ch c).unlocked expired) := by
    cases expired
    · exact (s.setCh_ch c).symm
    · rfl
  rw [ptdAcked, ← State.writeChpwr_on, ← State.writeReg_chpwr hhost, ← hopen]
  rfl

theorem ptdAcked_chpwrOff {qp : Nat} {q : Qp} (h : s.ptdHost qp q) :
    ptdAcked (.ptdChpwrOff (.host qp) c) qp s (s.chpwrOff c) := by
  rw [ptdAcked, ← State.writeChpwr_off, ← State.writeReg_chpwr h]
  rfl

theorem State.chpwrOn_locked (h : (s.ch c).tripLock = true) : s.chpwrOn c = s.accessNak := if_pos h

theorem State.chpwrOn_off (h : (s.ch c).tripLock = false) (hoff : (s.ch c).domain.st = .off) : s.chpwrOn c = s.channelWake c := by
  rw [State.chpwrOn, h, hoff]
  rfl

theorem State.chpwrOn_on (h : (s.ch c).tripLock = false) (hon : (s.ch c).domain.st ≠ .off) :
    s.chpwrOn c = s.setCh c { s.ch c with domain := (s.ch c).domain.askOn } := by
  rw [State.chpwrOn, h]
  cases hst : (s.ch c).domain.st
  case off => exact absurd hst hon
  all_goals rfl

theorem State.chpwrOff_on (h : (s.ch c).domain.st = .active ∨ (s.ch c).domain.st = .idle) : s.chpwrOff c = s.channelDrain c := by
  rw [State.chpwrOff]
  rcases h with h | h <;> rw [h]

theorem State.chpwrOff_other (h : (s.ch c).domain.st ≠ .active) (h' : (s.ch c).domain.st ≠ .idle) :
    s.chpwrOff c = s.setCh c { s.ch c with domain := (s.ch c).domain.askOff } := by
  rw [State.chpwrOff]
  cases hst : (s.ch c).domain.st
  case active => exact absurd hst h
  case idle => exact absurd hst h'
  all_goals rfl

theorem Domain.askOn_eq {x : Domain} (h : x.st ≠ .off) : x.askOn =
    { x with wakePending := if x.st = .draining then true else x.wakePending, offPending := if x.st = .waking then false else x.offPending } := by
  obtain ⟨st, _, _⟩ := x
  cases st
  case off => exact absurd rfl h
  all_goals rfl

theorem Domain.askOff_eq {x : Domain} (h : x.st ≠ .active) (h' : x.st ≠ .idle) : x.askOff =
    { x with offPending := if x.st = .waking then true else x.offPending, wakePending := if x.st = .draining then false else x.wakePending } := by
  obtain ⟨st, _, _⟩ := x
  cases st
  case active => exact absurd rfl h
  case idle => exact absurd rfl h'
  all_goals rfl

/-! ### Drain, wake and reset (R327, R329, R394) -/

/-- The stream has left a channel that drains. -/
def Channel.drainedOut (ch : Channel) : Prop := ch.domain.st = .draining ∧ ch.pss.stream = none ∧ ch.pss.stopping = false

theorem Channel.drained_channel (ch : Channel) : ch.drained 0xFF = true ↔ ch.drainedOut := by
  simp [Channel.drained, Channel.drainedOut]
  tauto

theorem exec_channelDrainDone_void (h : ¬ (s.ch c).drainedOut) : exec (.domainDrainDone c 0xFF) s = .next s :=
  if_pos (by rw [Bool.not_eq_true', Bool.eq_false_iff, Ne, Channel.drained_channel]; exact h)

theorem exec_channelDrainDone_drained (h : (s.ch c).drainedOut) : exec (.domainDrainDone c 0xFF) s =
    .next (if (s.ch c).domain.wakePending then (s.lost c ((s.ch c).unpowered s.ptd)).channelWake c
      else s.lost c ((s.ch c).unpowered s.ptd)) := by
  rw [← State.channelOff_lost]
  exact (if_neg (by rw [(Channel.drained_channel _).mpr h]; decide)).trans (if_pos rfl)

theorem State.channelWake_lost (s : State) (c : ChanId) : s.channelWake c =
    s.lost c (({ s.ch c with domain := { st := .waking } } : Channel).afterReset c s.ptd) := by
  rw [State.channelWake, State.resetChannel_lost, State.ch_onCh, State.onCh_ptd]
  obtain rfl | rfl := ChanId.cases c <;> rfl

theorem Mbx.lostWork_empty : ({} : Mbx).lostWork = [] := by decide

theorem Channel.afterReset_keeps (ch : Channel) (c : ChanId) (p : Ptd) : (ch.afterReset c p).domain = ch.domain ∧
    (ch.afterReset c p).chn.state = ch.resetState ∧ (ch.afterReset c p).mem = { hbm := ch.mem.hbm } ∧ (ch.afterReset c p).pss = {} := by
  obtain ⟨hreset, -⟩ := ch.afterReset_isReset c p
  rw [hreset]
  exact ⟨rfl, rfl, rfl, rfl⟩

/-- A channel without power that wakes at once has lost its memory and its stream; the port die records nothing more. -/
theorem State.lost_unpowered_wake (s : State) (c : ChanId) : let t := (s.lost c ((s.ch c).unpowered s.ptd)).channelWake c
    t.ch (sibling c) = s.ch (sibling c) ∧ (t.ch c).domain = { st := .waking } ∧ (t.ch c).chn.state = (s.ch c).resetState ∧
      (t.ch c).mem = {} ∧ (t.ch c).pss = {} ∧ t.ptd.events = (s.lost c (s.ch c)).ptd.events := by
  set u := s.lost c ((s.ch c).unpowered s.ptd) with hu
  have huch : u.ch c = (s.ch c).unpowered s.ptd := State.lost_ch ..
  obtain ⟨hdomain, hstate, hmem, hpss⟩ := ({ u.ch c with domain := { st := .waking } } : Channel).afterReset_keeps c u.ptd
  have hptd : (u.channelWake c).ptd = u.ptd := by
    rw [State.channelWake_lost, State.lost, huch]
    have hwork : ((s.ch c).unpowered s.ptd).mbx.lostWork = [] := Mbx.lostWork_empty
    dsimp only
    rw [hwork]
    rfl
  dsimp only
  rw [hptd, State.channelWake_lost, State.lost_ch_other _ _ _ (sibling_ne c), State.lost_ch, hdomain, hstate, hmem, hpss, huch]
  exact ⟨s.lost_ch_other c _ (sibling_ne c), rfl, rfl, rfl, rfl, rfl⟩

theorem State.channelAwake_other (h : (s.ch c).domain.st ≠ .waking) : s.channelAwake c = s := if_pos h

theorem State.channelAwake_wakes (h : (s.ch c).domain.st = .waking) : s.channelAwake c =
    if (s.ch c).domain.offPending then (s.setCh c { s.ch c with domain := { st := .active } }).channelDrain c
    else s.setCh c { s.ch c with domain := { st := .active } } := if_neg (not_not_intro h)

theorem exec_channelWakeDone (s : State) (c : ChanId) : exec (.domainWakeDone c 0xFF) s =
    if (s.ch c).chn.state = .reset ∨ (s.ch c).chn.state = .boot then .next s else .next (s.channelAwake c) := rfl

theorem exec_channelWakeFail (s : State) (c : ChanId) : exec (.domainWakeFail c 0xFF) s =
    if (s.ch c).domain.st ≠ .waking then .next s
    else .next { s.channelOff c with ptd := (s.channelOff c).ptd.raise 0x9006 } := rfl

theorem exec_channelWakeFail_fails (h : (s.ch c).domain.st = .waking) : exec (.domainWakeFail c 0xFF) s =
    .next { s.lost c ((s.ch c).unpowered s.ptd) with ptd := (s.lost c (s.ch c)).ptd.raise 0x9006 } := by
  rw [State.lost_ptd s c (s.ch c) ((s.ch c).unpowered s.ptd), ← State.channelOff_lost, exec_channelWakeFail, if_neg (not_not_intro h)]

end

/-- Settles O46: PTD_CHPWR by the lock and the domain's state; a lost channel and a reset one each by what they leave. -/
theorem channelPowerAndReset : Obligations.ChannelPowerAndReset := by
  unfold Obligations.ChannelPowerAndReset
  intro c qp q expired s
  dsimp only
  have hunlocked (h : ¬ ((s.ch c).tripLock = true ∧ expired = false)) : ((s.ch c).unlocked expired).tripLock = false := by
    cases expired with
    | true => rfl
    | false => exact Bool.eq_false_iff.mpr fun hlock => h ⟨hlock, rfl⟩
  have hlostUnlocked (k : Channel) : (s.setCh c ((s.ch c).unlocked expired)).lost c k = s.lost c k := by
    obtain rfl | rfl := ChanId.cases c <;> rfl
  refine ⟨fun hhost hlocked => ?_, fun hhost hopen hoff => ?_, fun hhost hopen hon => ?_, fun hhost hon => ?_, fun hhost hna hni => ?_,
    exec_channelDrainDone_void, fun hgone hwake => ?_, fun hgone hwake => ?_, fun h => ?_, fun hst hr hb hoff => ?_,
    fun hst hr hb hoff => ?_, fun h => if_pos h, exec_channelWakeFail_fails, fun hoff => if_pos hoff, fun hon => ?_⟩
  · obtain ⟨hlock, rfl⟩ := hlocked
    have hack := ptdAcked_chpwrOn (c := c) hhost false
    rw [show (s.ch c).unlocked false = s.ch c from rfl, State.setCh_ch, State.chpwrOn_locked hlock] at hack
    exact hack
  · have hack := ptdAcked_chpwrOn (c := c) hhost expired
    rw [State.chpwrOn_off (by rw [State.ch_setCh]; exact hunlocked hopen) (by rw [State.ch_setCh]; exact hoff), State.channelWake_lost,
      State.ch_setCh, State.setCh_ptd, hlostUnlocked] at hack
    refine ⟨_, hack, ?_⟩
    rw [State.lost_ch]
    exact ⟨rfl, Channel.afterReset_isReset ..⟩
  · have hack := ptdAcked_chpwrOn (c := c) hhost expired
    rw [State.chpwrOn_on (by rw [State.ch_setCh]; exact hunlocked hopen) (by rw [State.ch_setCh]; exact hon), State.ch_setCh,
      State.setCh_setCh, Domain.askOn_eq (x := ((s.ch c).unlocked expired).domain) hon] at hack
    exact hack
  · have hack := ptdAcked_chpwrOff (c := c) hhost
    rw [State.chpwrOff_on hon] at hack
    exact ⟨_, hack, s.channelDrain_drains c⟩
  · have hack := ptdAcked_chpwrOff (c := c) hhost
    rw [State.chpwrOff_other hna hni, Domain.askOff_eq hna hni] at hack
    exact hack
  · rw [exec_channelDrainDone_drained hgone, if_neg (Bool.eq_false_iff.mp hwake)]
  · exact ⟨_, (exec_channelDrainDone_drained hgone).trans (congrArg Host.Outcome.next (if_pos hwake)), s.lost_unpowered_wake c⟩
  · rw [exec_channelWakeDone]
    split
    · rfl
    next hbooted => rw [State.channelAwake_other (h.resolve_right hbooted)]
  · rw [exec_channelWakeDone, if_neg (not_or.mpr ⟨hr, hb⟩), State.channelAwake_wakes hst, if_neg (Bool.eq_false_iff.mp hoff)]
  · have hdrains := (s.setCh c { s.ch c with domain := { st := .active } }).channelDrain_drains c
    obtain ⟨hdrains, hsib, hsup, -⟩ := hdrains
    rw [State.ch_setCh] at hdrains
    rw [exec_channelWakeDone, if_neg (not_or.mpr ⟨hr, hb⟩), State.channelAwake_wakes hst, if_pos hoff]
    exact ⟨_, rfl, hdrains, hsib.trans (s.ch_setCh_other _ (sibling_ne c)), hsup.trans (s.setCh_sup c _)⟩
  · exact ⟨_, if_neg hon, by rw [State.resetChannel_lost, State.lost_ch], by
      rw [State.resetChannel_lost, State.lost_ch]; exact Channel.afterReset_isReset ..⟩

end Sys2Proof.Machine
end

section
/-! PROOFS. The copy of a sampled tile's operands, and the offer of its duplicate (R338). -/

namespace Sys2Proof.Machine

theorem freeBytes_length (i n : Nat) : (freeBytes i n).length = n := by simp [freeBytes]

section

variable {ch : Channel} {id : Nat} {x : Sample}

/-- A change of one sample that keeps its number is what reads of it find. -/
theorem Channel.sample?_onSample {f : Sample → Sample} (hf : ∀ y, (f y).id = y.id) (h : ch.sample? id = some x) :
    (ch.onSample id f).sample? id = some (f x) := by
  have hid : x.id = id := by simpa using List.find?_some h
  have hpred : ((fun y : Sample => y.id == id) ∘ fun y : Sample => if y.id = id then f y else y) = fun y : Sample => y.id == id := by
    funext y
    simp only [Function.comp]
    split
    · rw [hf]
    · rfl
  have hfind : ch.bdg.samples.find? (fun y : Sample => y.id == id) = some x := h
  refine (List.find?_map ..).trans ?_
  rw [hpred, hfind, Option.map_some, if_pos hid]

end

/-- The channel whose sample's duplicate is offered from the next beat on. -/
def Channel.offersDuplicate (ch : Channel) (id : Nat) (x : Sample) : Channel :=
  let k := ch.onSample id fun y => { y with phase := 2 }
  { k with tsk := { k.tsk with offers := k.tsk.offers ++ [x.offer x.partner (k.beat.number.toNat + 1) k.bdg.dupPatience.toNat false] } }

theorem exec_sampleCopyDone_copied {c : ChanId} {id : Nat} {x : Sample} {s : State} (h : (s.ch c).sample? id = some x) (hp : x.phase = 1) :
    exec (.sampleCopyDone c id) s = .next ((s.fillArea c x.partner x.tile x.desc).onCh c fun k => k.offersDuplicate id x) := by
  have hcopy : exec (.sampleCopyDone c id) s = match (s.ch c).sample? id with
    | none => .next s
    | some x => if x.phase ≠ 1 then .next s
      else .next ((s.fillArea c x.partner x.tile x.desc).onCh c fun k => k.offersDuplicate id x) := rfl
  rw [hcopy, h]
  exact if_neg (not_not_intro hp)

/-- Settles O11: the copy fills the partner's duplicate area with bytes of its own layout, and the offer follows. -/
theorem sampleCopyOffersTheDuplicate : Obligations.SampleCopyOffersTheDuplicate := by
  unfold Obligations.SampleCopyOffersTheDuplicate
  intro c id x s
  dsimp only
  intro h hp
  refine ⟨_, exec_sampleCopyDone_copied h hp, ?_⟩
  rw [onlyChannelFree, State.ch_onCh, State.onCh_free, State.fillArea, State.tookFree_ch, State.ch_onCh, State.tookFree_free, State.onCh_free]
  refine ⟨rfl, Channel.sample?_onSample (fun _ => rfl) h, fun a ha => ?_, rfl, rfl, rfl, rfl, ?_⟩
  · exact Channel.sramWrite_outside _ _ _ _ (by rwa [freeBytes_length])
  · obtain rfl | rfl := ChanId.cases c <;> rfl

end Sys2Proof.Machine
end

section
/-! PROOFS. Owl's chunks and passes, reports of second paths, and the end of a hold-off (R339, R340, R345, R347, R349). -/

namespace Sys2Proof.Machine

/-! ### Core health -/

@[simp] theorem Channel.health_onHealth_same (ch : Channel) (p : Nat) (f : CoreHealth → CoreHealth) :
    (ch.onHealth p f).health p = f (ch.health p) := smGet_smMod_same _ _ _ _

theorem Channel.health_onHealth_other (ch : Channel) {n p : Nat} (f : CoreHealth → CoreHealth) (h : n ≠ p) :
    (ch.onHealth p f).health n = ch.health n := smGet_smMod_other _ _ _ h

theorem Channel.health_congr {ch k : Channel} (h : k.bdg.cores = ch.bdg.cores) (n : Nat) : k.health n = ch.health n := by
  rw [Channel.health, h]
  rfl

/-! ### Chunks (R339, R340) -/

/-- The channel whose Owl has run one more chunk, on core `p`, whatever came of it. -/
def Channel.chunkRan (ch : Channel) (p : Nat) : Channel :=
  ({ ch with owl := { ch.owl with busy := false, chunksRun := wrapAdd ch.owl.chunksRun 1 } } : Channel).onHealth p
    fun x => { x with owlUrgent := false }

/-- The chunk agreed: core `p` is one chunk further. -/
def Channel.chunkAgreed (ch : Channel) (p : Nat) : Channel :=
  (ch.chunkRan p).onHealth p fun x => { x with owlNext := x.owlNext + 1 }

theorem Channel.chunkAgreed_health (ch : Channel) (p : Nat) :
    (ch.chunkAgreed p).health p = { ch.health p with owlUrgent := false, owlNext := (ch.health p).owlNext + 1 } := by
  rw [Channel.chunkAgreed, Channel.health_onHealth_same, Channel.chunkRan, Channel.health_onHealth_same]
  rfl

theorem Channel.chunkAgreed_health_other (ch : Channel) {n p : Nat} (h : n ≠ p) : (ch.chunkAgreed p).health n = ch.health n := by
  rw [Channel.chunkAgreed, Channel.health_onHealth_other _ _ h, Channel.chunkRan, Channel.health_onHealth_other _ _ h]
  rfl

theorem exec_owlChunkDone_idle {s : State} {c : ChanId} (matches_ rerunsOk : Bool) (h : (s.ch c).owl.busy = false) :
    exec (.owlChunkDone c matches_ rerunsOk) s = .next s := if_pos (by rw [h]; rfl)

theorem exec_owlChunkDone_agrees {s : State} {c : ChanId} {p : Nat} (rerunsOk : Bool) (h : (s.ch c).owl.busy = true)
    (hp : (s.ch c).owl.pcore.toNat = p) : exec (.owlChunkDone c true rerunsOk) s = .next (s.setCh c
      (if (((s.ch c).chunkAgreed p).health p).owlNext.toNat < 64 then (s.ch c).chunkAgreed p
        else if ((s.ch c).health p).retest then (((s.ch c).chunkAgreed p).passDone p).retestEnds c p
          (rerunsOk || !((s.ch c).health p).retestFromPair)
        else ((s.ch c).chunkAgreed p).passDone p)) := by
  subst hp
  refine (if_neg (by rw [h]; decide)).trans ?_
  rw [if_pos rfl]
  exact congrArg Host.Outcome.next (State.onCh_onCh s c _ _)

/-- A chunk that is not the last of its pass. -/
theorem exec_owlChunkDone_counts {s : State} {c : ChanId} {p : Nat} (rerunsOk : Bool) (h : (s.ch c).owl.busy = true)
    (hp : (s.ch c).owl.pcore.toNat = p) (hnext : ((s.ch c).health p).owlNext.toNat < 63) :
    exec (.owlChunkDone c true rerunsOk) s = .next (s.setCh c ((s.ch c).chunkAgreed p)) := by
  have hless : (((s.ch c).chunkAgreed p).health p).owlNext.toNat < 64 := by
    rw [Channel.chunkAgreed_health]
    change (((s.ch c).health p).owlNext + 1).toNat < 64
    bv_omega
  rw [exec_owlChunkDone_agrees rerunsOk h hp, if_pos hless]

/-- The last chunk of the pass of a core that is not in retest. -/
theorem exec_owlChunkDone_passes {s : State} {c : ChanId} {p : Nat} (rerunsOk : Bool) (h : (s.ch c).owl.busy = true)
    (hp : (s.ch c).owl.pcore.toNat = p) (hnext : ((s.ch c).health p).owlNext = 63) (hretest : ((s.ch c).health p).retest = false) :
    exec (.owlChunkDone c true rerunsOk) s = .next (s.setCh c (((s.ch c).chunkAgreed p).passDone p)) := by
  have hlast : ¬ (((s.ch c).chunkAgreed p).health p).owlNext.toNat < 64 := by
    rw [Channel.chunkAgreed_health, hnext]
    exact (by decide : ¬ ((63 : U8) + 1).toNat < 64)
  rw [exec_owlChunkDone_agrees rerunsOk h hp, if_neg hlast, hretest]
  rfl

/-- The health of a core whose verification reaches a beat. -/
def CoreHealth.cleanTo (h : CoreHealth) (beat : Nat) (step : U32) : CoreHealth :=
  if h.beatClean.toNat < beat then
    { h with
      beatClean := BitVec.ofNat 48 beat, stepClean := step, taintOvf := false
      taint := h.taint.filter fun e => !atOrBefore e.2 (BitVec.ofNat 48 beat) }
  else h

theorem Channel.passDone_health (ch : Channel) (p : Nat) : (ch.passDone p).health p =
    ({ ch.health p with owlNext := 0, owlBeat := ch.beat.number } : CoreHealth).cleanTo ch.beat.number.toNat ch.upd.sJob := by
  refine (Channel.health_onHealth_same _ _ _).trans ?_
  exact congrArg (fun h => CoreHealth.cleanTo h ch.beat.number.toNat ch.upd.sJob) (Channel.health_onHealth_same ch p _)

theorem Channel.passDone_health_other (ch : Channel) {n p : Nat} (h : n ≠ p) : (ch.passDone p).health n = ch.health n :=
  (Channel.health_onHealth_other _ _ h).trans (Channel.health_onHealth_other ch _ h)

theorem CoreHealth.cleanTo_owl (h : CoreHealth) (beat : Nat) (step : U32) :
    (h.cleanTo beat step).owlNext = h.owlNext ∧ (h.cleanTo beat step).owlBeat = h.owlBeat := by
  unfold CoreHealth.cleanTo
  split <;> exact ⟨rfl, rfl⟩

theorem CoreHealth.cleanTo_later (h : CoreHealth) (n : U48) (step : U32) (hlt : h.beatClean.toNat < n.toNat) :
    (h.cleanTo n.toNat step).beatClean = n ∧ (h.cleanTo n.toNat step).stepClean = step := by
  rw [CoreHealth.cleanTo, if_pos hlt]
  exact ⟨BitVec.ofNat_toNat .., rfl⟩

theorem CoreHealth.cleanTo_earlier (h : CoreHealth) {n : Nat} (step : U32) (hle : n ≤ h.beatClean.toNat) : h.cleanTo n step = h :=
  if_neg (Nat.not_lt.mpr hle)

/-! ### A core at fault (R344) -/

theorem Channel.raise_keepsCores (ch : Channel) (c : ChanId) (code : Nat) : (ch.raise c code).bdg.cores = ch.bdg.cores := by
  rw [Channel.raise_shape]

theorem Channel.raise_keepsOwl (ch : Channel) (c : ChanId) (code : Nat) : (ch.raise c code).owl = ch.owl := by
  rw [Channel.raise_shape]

theorem Channel.report_keepsCores (ch : Channel) (c : ChanId) (code : Nat) (source : U8) (u : SuspectUnit) (second : Option Nat)
    (pair : Option (Nat × Nat)) (fill : FaultRec → FaultRec) : (ch.report c code source u second pair fill).bdg.cores = ch.bdg.cores :=
  ite_ind (fun k : Channel => k.bdg.cores = ch.bdg.cores) (Channel.raise_keepsCores _ _ _) <|
    ite_ind (fun k : Channel => k.bdg.cores = ch.bdg.cores) rfl <|
    ite_ind (fun k : Channel => k.bdg.cores = ch.bdg.cores) rfl (Channel.raise_keepsCores _ _ _)

/-- A flag changes what its channel's exchange has flagged, and sends. -/
theorem State.flagStep_gxc (s : State) (c : ChanId) (fail : Bool) : ∃ g, (s.flagStep c fail).ch c = { s.ch c with gxc := g } := by
  unfold State.flagStep
  dsimp only
  split
  · exact ⟨_, rfl⟩
  · exact ⟨_, State.ch_setCh s c _⟩

theorem State.flagFail_gxc (s : State) (c : ChanId) : ∃ g, (s.flagFail c).ch c = { s.ch c with gxc := g } := by
  unfold State.flagFail
  split
  · obtain ⟨g, hflag⟩ := State.flagStep_gxc (s.onCh c fun k => { k with gxc := { k.gxc with failFlag := true } }) c true
    exact ⟨g, by rw [hflag, State.onCh, State.ch_setCh]⟩
  · exact ⟨_, rfl⟩

/-- The fault record's place of the taint log, and whether a tainted step is flagged. -/
def State.taintBase (s : State) (c : ChanId) (p : Nat) : Nat :=
  if ((s.ch c).health p).taint.length = 0 then 0 else badgerArea + s.freeVal % 2 ^ 15 * 4096

def Channel.flagsTainted (ch : Channel) (p : Nat) : Bool :=
  ch.bdg.flagEn && decide (0 < (ch.health p).taint.length) && ch.upd.inStep

/-- The channel whose core `p` is to be fenced, with the open incident's record completed. -/
def Channel.toBeFenced (ch : Channel) (p base : Nat) : Channel :=
  (ch.onHealth p fun x => { x with fencePending := true }).onIncident (ofCore p) fun i => { i with
    record := { i.record with
      beatDetect := ch.evBeat, beatClean := (ch.health p).beatClean, stepClean := (ch.health p).stepClean, stepDetect := ch.upd.sJob
      taintN := BitVec.ofNat 32 (ch.health p).taint.length, taintBase := BitVec.ofNat 64 base
      flags := i.record.flags ||| (if (ch.health p).taintOvf then 4 else 0) ||| (if ch.flagsTainted p then 8 else 0) } }

/-- Its taint log is written to memory, and a tainted step marked. -/
def Channel.atFault (ch : Channel) (c : ChanId) (p base : Nat) : Channel :=
  let k := if (ch.health p).taint.length = 0 then ch.toBeFenced p base
    else (ch.toBeFenced p base).hbmWrite base (taintBytes (ch.health p).taint)
  if ch.flagsTainted p then { k with bdg := { k.bdg with flagged := true } }.raise c 0x7007 else k

theorem State.coreAtFault_eq (s : State) (c : ChanId) (p : Nat) : s.coreAtFault c p =
    (let s1 := s.setCh c ((s.ch c).atFault c p (s.taintBase c p))
     let s2 := if ((s.ch c).health p).taint.length = 0 then s1 else s1.tookFree 1
     if (s.ch c).flagsTainted p then s2.flagFail c else s2) := rfl

/-- The health of every core, and Owl, stay. -/
def Channel.keepsJudged (k ch : Channel) : Prop := k.bdg.cores = ch.bdg.cores ∧ k.owl = ch.owl

theorem Channel.keepsJudged.trans {x y z : Channel} (h : x.keepsJudged y) (h' : y.keepsJudged z) : x.keepsJudged z :=
  ⟨h.1.trans h'.1, h.2.trans h'.2⟩

theorem Channel.flagged_keepsJudged (ch : Channel) (c : ChanId) :
    (({ ch with bdg := { ch.bdg with flagged := true } } : Channel).raise c 0x7007).keepsJudged ch :=
  ⟨Channel.raise_keepsCores _ c _, Channel.raise_keepsOwl _ c _⟩

theorem Channel.hbmWrite_keepsJudged (ch : Channel) (a : Nat) (l : List Byte) : (ch.hbmWrite a l).keepsJudged ch := ⟨rfl, rfl⟩

theorem Channel.atFault_kept (ch : Channel) (c : ChanId) (p base : Nat) :
    (ch.atFault c p base).keepsJudged (ch.toBeFenced p base) := by
  unfold Channel.atFault
  dsimp only
  have hmem : (if (ch.health p).taint.length = 0 then ch.toBeFenced p base
      else (ch.toBeFenced p base).hbmWrite base (taintBytes (ch.health p).taint)).keepsJudged (ch.toBeFenced p base) :=
    ite_ind (fun k : Channel => k.keepsJudged (ch.toBeFenced p base)) ⟨rfl, rfl⟩ (Channel.hbmWrite_keepsJudged _ _ _)
  split
  · exact (Channel.flagged_keepsJudged _ c).trans hmem
  · exact hmem

theorem Channel.toBeFenced_health (ch : Channel) (p base : Nat) :
    (ch.toBeFenced p base).health p = { ch.health p with fencePending := true } :=
  Channel.health_onHealth_same ch p fun x => { x with fencePending := true }

theorem Channel.toBeFenced_owl (ch : Channel) (p base : Nat) : (ch.toBeFenced p base).owl = ch.owl := rfl

/-- A core without a taint log is to be fenced, and nothing but the Badger's records knows. -/
theorem State.coreAtFault_untainted {s : State} {c : ChanId} {p : Nat} (h : ((s.ch c).health p).taint = []) :
    s.coreAtFault c p = s.setCh c ((s.ch c).toBeFenced p 0) := by
  have hflag : (s.ch c).flagsTainted p = false := by simp [Channel.flagsTainted, h]
  rw [State.coreAtFault_eq, hflag, Channel.atFault, hflag, State.taintBase, h]
  rfl

/-- A core at fault is to be fenced; the rest of its health, and Owl, stay. -/
theorem State.coreAtFault_health (s : State) (c : ChanId) (p : Nat) :
    ((s.coreAtFault c p).ch c).health p = { (s.ch c).health p with fencePending := true } ∧ ((s.coreAtFault c p).ch c).owl = (s.ch c).owl := by
  obtain ⟨hcores, howl⟩ := (s.ch c).atFault_kept c p (s.taintBase c p)
  have hpending := (Channel.health_congr hcores p).trans (Channel.toBeFenced_health _ _ _)
  rw [State.coreAtFault_eq]
  generalize (s.ch c).atFault c p (s.taintBase c p) = k at *
  have hat : ∃ g, ((let s1 := s.setCh c k
      let s2 := if ((s.ch c).health p).taint.length = 0 then s1 else s1.tookFree 1
      if (s.ch c).flagsTainted p then s2.flagFail c else s2).ch c) = { k with gxc := g } := by
    have hs2 : (if ((s.ch c).health p).taint.length = 0 then s.setCh c k else (s.setCh c k).tookFree 1).ch c = k :=
      ite_ind (fun t : State => t.ch c = k) (State.ch_setCh s c k) (State.ch_setCh s c k)
    dsimp only
    split
    · obtain ⟨g, hg⟩ := State.flagFail_gxc (if ((s.ch c).health p).taint.length = 0 then s.setCh c k else (s.setCh c k).tookFree 1) c
      exact ⟨g, by rw [hg, hs2]⟩
    · exact ⟨k.gxc, hs2⟩
  obtain ⟨g, hg⟩ := hat
  rw [hg]
  exact ⟨hpending, howl.trans ((s.ch c).toBeFenced_owl p _)⟩

/-- The channel after a chunk that disagreed, before its core is at fault. -/
def Channel.chunkFailed (ch : Channel) (p : Nat) : Channel :=
  ({ ch.chunkRan p with owl := { (ch.chunkRan p).owl with fail := true, fails := satAdd ch.owl.fails 1 } } : Channel).onHealth p
    fun x => { x with owlNext := 0 }

theorem Channel.chunkFailed_health (ch : Channel) (p : Nat) :
    (ch.chunkFailed p).health p = { ch.health p with owlUrgent := false, owlNext := 0 } :=
  (Channel.health_onHealth_same _ _ _).trans (congrArg (fun h : CoreHealth => { h with owlNext := 0 }) (Channel.health_onHealth_same _ _ _))

theorem Channel.chunkFailed_owl (ch : Channel) (p : Nat) : (ch.chunkFailed p).owl =
    { ch.owl with busy := false, chunksRun := wrapAdd ch.owl.chunksRun 1, fail := true, fails := satAdd ch.owl.fails 1 } := rfl

theorem Channel.chunkFailed_mem (ch : Channel) (p : Nat) : (ch.chunkFailed p).mem = ch.mem := rfl

/-- The chunk of a core that is not in retest disagrees: it is reported, and its core is at fault. -/
theorem exec_owlChunkDone_fails {s : State} {c : ChanId} {p : Nat} (rerunsOk : Bool) (h : (s.ch c).owl.busy = true)
    (hp : (s.ch c).owl.pcore.toNat = p) (hretest : ((s.ch c).health p).retest = false) :
    exec (.owlChunkDone c false rerunsOk) s =
      .next ((s.setCh c ((((s.ch c).chunkFailed p).raise c 0x700C).report c 0x700C 2 (.core p))).coreAtFault c p) := by
  subst hp
  refine (if_neg (by rw [h]; decide)).trans ?_
  rw [if_neg (by decide), hretest, State.onCh_onCh]
  rfl

/-- A report after an event keeps the health of every core, Owl and the memory. -/
theorem Channel.reported_keeps (ch : Channel) (c : ChanId) (code : Nat) (source : U8) (u : SuspectUnit) :
    let k := (ch.raise c code).report c code source u
    k.bdg.cores = ch.bdg.cores ∧ k.owl = ch.owl ∧ k.mem = ch.mem := by
  intro k
  have hcores : k.bdg.cores = ch.bdg.cores := (Channel.report_keepsCores _ _ _ _ _ _ _ _).trans (Channel.raise_keepsCores _ _ _)
  obtain ⟨y, b, f, evs, rs, hk⟩ := (ch.raise c code).report_eq_withReport c code source u none none id
  obtain ⟨evs', rs', hraise⟩ := ch.raise_eq_withRaised c code
  have hshape : k = (ch.withRaised evs' rs').withReport y b f evs rs := hk.trans (by rw [hraise])
  refine ⟨hcores, ?_, ?_⟩
  · rw [hshape]
    rfl
  · rw [hshape]
    rfl

/-! ### Reports of second paths (R345, R347) -/

/-- The channel with one more report taken in. -/
def Channel.reportTaken (ch : Channel) : Channel :=
  { ch with bdg := { ch.bdg with intake := ch.bdg.intake + 1, reports := satAdd ch.bdg.reports 1 } }

/-- The incident that a report of a second path opens on core `p`. -/
def incidentOnCore (p l opened : Nat) (source : U8) (r : FaultRec) : Incident :=
  { unit := .core p, pair := none, arb := false, opened := opened, source := source, secondPath := some l, record := r }

/-- The channel whose Badger opens an incident, before its event. -/
def Channel.incidentOpened (ch : Channel) (i : Incident) : Channel :=
  ({ ch.reportTaken with bdg := { ch.reportTaken.bdg with
      incidents := (ch.bdg.incidents.filter fun j => ch.inHoldoff j || !j.closed) ++ [i]
      incident := true, incidentsCnt := satAdd ch.bdg.incidentsCnt 1, unitHist := ch.bdg.unitHist } } : Channel).appendRecord i.record

theorem Channel.report_opens {ch : Channel} (c : ChanId) (code : Nat) (source : U8) {p l : Nat} (fill : FaultRec → FaultRec)
    (hroom : ch.bdg.intake < 256)
    (hnew : ∀ j ∈ ch.bdg.incidents, ch.takesIn j = true → incidentNames j (.core p) (some l) = false) (hfree : ch.fencedCore p = false) :
    ch.report c code source (.core p) (some l) none fill =
      (ch.incidentOpened (incidentOnCore p l ch.beat.number.toNat source (fill (ch.reportTaken.mkRecord code source (.core p) 0 1)))).raise c 0x7002 := by
  have hnone : (ch.bdg.incidents.any fun i => ch.takesIn i && incidentNames i (.core p) (some l)) = false := by
    simpa [List.any_eq_false] using hnew
  refine (if_neg (Nat.not_le.mpr hroom)).trans ?_
  refine (if_neg (Bool.not_eq_true _ ▸ hnone)).trans ?_
  exact if_neg (Bool.not_eq_true _ ▸ hfree)

theorem Channel.report_coalesces {ch : Channel} (c : ChanId) (code : Nat) (source : U8) {u : SuspectUnit} {second : Option Nat} (fill : FaultRec → FaultRec)
    (hroom : ch.bdg.intake < 256) (hold : ∃ j ∈ ch.bdg.incidents, ch.takesIn j = true ∧ incidentNames j u second = true) :
    ch.report c code source u second none fill = { ch.reportTaken with bdg := { ch.reportTaken.bdg with
      incidents := coalesceInto (fun i => ch.takesIn i && incidentNames i u second) ch.bdg.incidents
      coalesced := satAdd ch.bdg.coalesced 1 } } := by
  have hsome : (ch.bdg.incidents.any fun i => ch.takesIn i && incidentNames i u second) = true := by
    simpa [List.any_eq_true] using hold
  exact (if_neg (Nat.not_le.mpr hroom)).trans (if_pos hsome)

theorem coalesceInto_length (p : Incident → Bool) (l : List Incident) : (coalesceInto p l).length = l.length := by
  induction l with
  | nil => rfl
  | cons i r ih =>
    rw [coalesceInto]
    split
    · rfl
    · exact congrArg Nat.succ ih

theorem Channel.report_drops {ch : Channel} (c : ChanId) (code : Nat) (source : U8) (u : SuspectUnit) (second : Option Nat) (fill : FaultRec → FaultRec)
    (hfull : 256 ≤ ch.bdg.intake) : ch.report c code source u second none fill =
      ({ ch with bdg := { ch.bdg with dropped := satAdd ch.bdg.dropped 1, intakeDrop := true } } : Channel).raise c 0x7008 := if_pos hfull

theorem regAt_bdgReport : ∃ r, regAt 0x0D0100 = some r ∧ ∀ s c w v, r.write s c w v = s.setCh c ((s.ch c).secondPath c v) :=
  ⟨_, rfl, fun _ _ _ _ => rfl⟩

theorem regWrites_bdgReport {s : State} {c : ChanId} (v : U64) (h : fwReady s c) :
    regWrites (.bdgReportWrite c .firmware v) c s (s.setCh c ((s.ch c).secondPath c v)) := by
  obtain ⟨r, hreg, hwrite⟩ := regAt_bdgReport
  rw [← hwrite s c .firmware]
  exact regWrites_of_regAt rfl hreg (by decide) (by decide) h

/-- What a report of a second path tells beyond its suspect. -/
def secondFill (ch : Channel) (c : ChanId) (v : U64) (r : FaultRec) : FaultRec :=
  { r with
    flags := if !(bits v 20 7 == ch.chn.moduleId.toNat && bits v 21 21 == c.val) then 1 else 0
    reporter := BitVec.ofNat 32 (bits v 20 7 + bits v 21 21 * 2 ^ 14)
    detail := BitVec.ofNat 32 (bits v 33 22 + bits v 63 34 * 2 ^ 12) }

/-- The core a report of a second path names: bound now to the logical core in it. -/
def Channel.namedCore (ch : Channel) (v : U64) : Nat := ch.pcore (bits v 6 0)

theorem Channel.secondPath_eq (ch : Channel) (c : ChanId) (v : U64) : ch.secondPath c v =
    (let k := ch.report c 0x7002 3 (.core (ch.namedCore v)) (some (bits v 6 0)) none (secondFill ch c v)
     if (!ch.opensIncident (.core (ch.namedCore v)) (some (bits v 6 0))) = true then k
     else k.onHealth (ch.namedCore v) fun h => { h with sampleAll := ch.beat.number.toNat + ch.bdg.holdoff.toNat, owlUrgent := true }) := rfl

/-! ### The end of a hold-off (R347, R349) -/

/-- The channel whose open incident of unit `u` is closed with a class, and its record appended. -/
def Channel.incidentClosed (ch : Channel) (u : SuspectUnit) (cls : U8) (r : FaultRec) : Channel :=
  (ch.appendRecord r).onIncident (fun j => !j.closed && j.unit == u) fun j => { j with closed := true, cls := cls }

/-- The record of an incident that closes. -/
def Incident.closing (i : Incident) (cls : U8) : FaultRec := { i.record with cls := cls, count := BitVec.ofNat 16 (min i.count 0xFFFF) }

def Channel.findOpen (ch : Channel) (u : SuspectUnit) : Option Incident := ch.bdg.incidents.find? fun j => !j.closed && j.unit == u

theorem Channel.classify_transient {ch : Channel} {u : SuspectUnit} {i : Incident} (c : ChanId) (h : ch.findOpen u = some i) :
    ch.classify c u 1 = (ch.incidentClosed u 1 (i.closing 1)).raise c 0x7005 := by
  rw [Channel.findOpen] at h
  rw [Channel.classify, h]
  rfl

/-- The channel shows that a unit is permanently at fault. -/
def Channel.showPermanent (ch : Channel) : Channel := { ch with bdg := { ch.bdg with permanent := true } }

theorem Channel.classify_permanent {ch : Channel} {u : SuspectUnit} {i : Incident} (c : ChanId) (h : ch.findOpen u = some i) :
    ch.classify c u 2 = (ch.incidentClosed u 2 (i.closing 2)).showPermanent.raise c 0x7004 := by
  rw [Channel.findOpen] at h
  rw [Channel.classify, h]
  rfl

@[simp] theorem Channel.withRaised_bdg (ch : Channel) (evs : List EvRec) (rs : List U16) : (ch.withRaised evs rs).bdg = ch.bdg := rfl
@[simp] theorem Channel.withRaised_mem (ch : Channel) (evs : List EvRec) (rs : List U16) : (ch.withRaised evs rs).mem = ch.mem := rfl
@[simp] theorem Channel.withRaised_events (ch : Channel) (evs : List EvRec) (rs : List U16) : (ch.withRaised evs rs).events = evs := rfl

/-- A unit's open incidents are all closed. -/
theorem Channel.incidentClosed_closed (ch : Channel) (u : SuspectUnit) (cls : U8) (r : FaultRec) :
    ∀ j ∈ (ch.incidentClosed u cls r).bdg.incidents, j.unit = u → j.closed = true := by
  intro j hj hu
  obtain ⟨i, -, rfl⟩ := List.mem_map.mp hj
  by_cases hopen : (!i.closed && i.unit == u) = true
  · simp [hopen]
  · rw [if_neg hopen] at hu ⊢
    by_contra hj
    exact hopen (by simp [hu, hj])

/-- What the closing of an incident of unit `u` leaves (R349, R350). -/
structure Channel.closesAs (ch k : Channel) (c : ChanId) (u : SuspectUnit) (i : Incident) (cls : U8) : Prop where
  closed : ∀ j ∈ k.bdg.incidents, j.unit = u → j.closed = true
  length : k.bdg.incidents.length = ch.bdg.incidents.length
  record : k.bdg.lastRec = i.closing cls
  events : k.events = (ch.raise c (if cls = 2 then 0x7004 else 0x7005)).events
  mem : k.mem = ch.mem
  cores : k.bdg.cores = ch.bdg.cores

/-- The closed incident with its event is what a class leaves. -/
theorem Channel.incidentClosed_closesAs (ch : Channel) (c : ChanId) (u : SuspectUnit) (i : Incident) {cls : U8} {k : Channel} {evs : List EvRec}
    {rs : List U16} (hk : k.mem = ch.mem) (hbdg : k.bdg = { (ch.incidentClosed u cls (i.closing cls)).bdg with permanent := k.bdg.permanent })
    (hevs : evs = (ch.raise c (if cls = 2 then 0x7004 else 0x7005)).events) : ch.closesAs (k.withRaised evs rs) c u i cls where
  closed := by
    rw [Channel.withRaised_bdg, hbdg]
    exact ch.incidentClosed_closed u cls (i.closing cls)
  length := by
    rw [Channel.withRaised_bdg, hbdg]
    exact List.length_map _
  record := by
    rw [Channel.withRaised_bdg, hbdg]
    rfl
  events := hevs
  mem := hk
  cores := by
    rw [Channel.withRaised_bdg, hbdg]
    rfl

/-- Classification as transient or permanent closes the incident. -/
theorem Channel.classify_closesAs {ch : Channel} {u : SuspectUnit} {i : Incident} (c : ChanId) {cls : U8} (h : ch.findOpen u = some i)
    (hcls : cls = 1 ∨ cls = 2) : ch.closesAs (ch.classify c u cls) c u i cls := by
  obtain rfl | rfl := hcls
  · rw [Channel.classify_transient c h, Channel.raise_as (ch := ch) (k := ch.incidentClosed u 1 (i.closing 1)) c 0x7005 rfl rfl rfl]
    exact ch.incidentClosed_closesAs c u i rfl rfl rfl
  · rw [Channel.classify_permanent c h,
      Channel.raise_as (ch := ch) (k := (ch.incidentClosed u 2 (i.closing 2)).showPermanent) c 0x7004 rfl rfl rfl]
    exact ch.incidentClosed_closesAs c u i rfl rfl rfl

/-- What the end of a hold-off does to the channel, for the incident `i` of unit `u`. -/
def Channel.holdoffEnds (ch : Channel) (c : ChanId) (u : SuspectUnit) (i : Incident) : Channel :=
  match u with
  | .core p =>
    if i.pair.isSome || (ch.health p).fencePending || (ch.health p).retest || (ch.health p).permanent then ch
    else (ch.onHealth p fun x => { x with transients := x.transients ++ [BitVec.ofNat 32 ch.utcNow] }).classify c u 1
  | .remoteCore _ _ => ch.onIncident (fun j => !j.closed && j.unit == u) fun j => { j with closed := true }
  | _ => ch.classify c u (if ch.bdg.k.toNat < ch.unitIncidents u then 2 else 1)

theorem exec_holdoffExpiry_none {s : State} {c : ChanId} {u : SuspectUnit} (h : (s.ch c).findOpen u = none) :
    exec (.holdoffExpiry c u) s = .next s := by
  rw [Channel.findOpen] at h
  change execHoldoffExpiry c u s = .next s
  rw [execHoldoffExpiry, h]

theorem exec_holdoffExpiry_early {s : State} {c : ChanId} {u : SuspectUnit} {i : Incident} (h : (s.ch c).findOpen u = some i)
    (hin : (s.ch c).inHoldoff i = true) : exec (.holdoffExpiry c u) s = .next s := by
  rw [Channel.findOpen] at h
  change execHoldoffExpiry c u s = .next s
  rw [execHoldoffExpiry, h]
  exact if_pos hin

theorem exec_holdoffExpiry_ends {s : State} {c : ChanId} {u : SuspectUnit} {i : Incident} (h : (s.ch c).findOpen u = some i)
    (hpast : ¬ (s.ch c).inHoldoff i = true) : exec (.holdoffExpiry c u) s = .next (s.setCh c ((s.ch c).holdoffEnds c u i)) := by
  rw [Channel.findOpen] at h
  change execHoldoffExpiry c u s = _
  rw [execHoldoffExpiry, h]
  refine (if_neg hpast).trans ?_
  cases u <;> rfl

/-! ### The obligation -/

/-- The incident that a report of a second path opens. -/
def Channel.secondIncident (ch : Channel) (c : ChanId) (v : U64) : Incident :=
  incidentOnCore (ch.namedCore v) (bits v 6 0) ch.beat.number.toNat 3
    (secondFill ch c v (ch.reportTaken.mkRecord 0x7002 3 (.core (ch.namedCore v)) 0 1))

/-- Core `p` is sampled whole for the hold-off, and Owl hurries to it. -/
def Channel.suspects (ch : Channel) (p n : Nat) : Channel := ch.onHealth p fun h => { h with sampleAll := n, owlUrgent := true }

theorem Channel.suspects_health (ch : Channel) (p n : Nat) :
    (ch.suspects p n).health p = { ch.health p with sampleAll := n, owlUrgent := true } :=
  ch.health_onHealth_same p fun h => { h with sampleAll := n, owlUrgent := true }

theorem Channel.suspects_health_other (ch : Channel) {q p : Nat} (n : Nat) (h : q ≠ p) : (ch.suspects p n).health q = ch.health q :=
  ch.health_onHealth_other _ h

/-- The report opens an incident: what BDG_REPORT leaves. -/
theorem Channel.secondPath_opens {ch : Channel} (c : ChanId) {v : U64} (hroom : ch.bdg.intake < 256)
    (hnew : ∀ j ∈ ch.bdg.incidents, ch.takesIn j = true → incidentNames j (.core (ch.namedCore v)) (some (bits v 6 0)) = false)
    (hfree : ch.fencedCore (ch.namedCore v) = false) :
    ch.secondPath c v = ((ch.incidentOpened (ch.secondIncident c v)).withRaised (ch.raise c 0x7002).events (ch.raise c 0x7002).beat.raised).suspects
      (ch.namedCore v) (ch.beat.number.toNat + ch.bdg.holdoff.toNat) := by
  have hnone : (ch.bdg.incidents.any fun i => ch.takesIn i && incidentNames i (.core (ch.namedCore v)) (some (bits v 6 0))) = false := by
    simpa [List.any_eq_false] using hnew
  have hopens : (!ch.opensIncident (.core (ch.namedCore v)) (some (bits v 6 0))) = false := by
    simp [Channel.opensIncident, hnone, hroom, hfree]
  rw [Channel.secondPath_eq, hopens, Channel.report_opens c 0x7002 3 (secondFill ch c v) hroom hnew hfree,
    ← Channel.raise_as (ch := ch) (k := ch.incidentOpened (ch.secondIncident c v)) c 0x7002 rfl rfl rfl]
  rfl

/-- A report that opens nothing leaves no more than the report itself does. -/
theorem Channel.secondPath_only {ch : Channel} (c : ChanId) {v : U64}
    (h : ch.opensIncident (.core (ch.namedCore v)) (some (bits v 6 0)) = false) : ch.secondPath c v =
      ch.report c 0x7002 3 (.core (ch.namedCore v)) (some (bits v 6 0)) none (secondFill ch c v) := by
  rw [Channel.secondPath_eq]
  exact if_pos (by rw [h]; rfl)

/-- A channel with other core health, and another Owl. -/
def Channel.withJudged (ch : Channel) (m : SMap CoreHealth) (o : Owl) : Channel := { ch with bdg := { ch.bdg with cores := m }, owl := o }

/-- Owl after one more chunk. -/
def Owl.ran (o : Owl) : Owl := { o with busy := false, chunksRun := wrapAdd o.chunksRun 1 }

theorem Channel.chunkAgreed_withJudged (ch : Channel) (p : Nat) :
    ch.chunkAgreed p = ch.withJudged (ch.chunkAgreed p).bdg.cores ch.owl.ran := rfl

theorem Channel.passDone_withJudged (ch : Channel) (p : Nat) :
    ch.passDone p = ch.withJudged (ch.passDone p).bdg.cores { ch.owl with passes := satAdd ch.owl.passes 1 } := rfl

theorem Channel.chunkAgreed_passDone (ch : Channel) (p : Nat) : (ch.chunkAgreed p).passDone p =
    ch.withJudged ((ch.chunkAgreed p).passDone p).bdg.cores { ch.owl.ran with passes := satAdd ch.owl.passes 1 } := by
  generalize hk : ch.chunkAgreed p = k
  rw [Channel.chunkAgreed_withJudged] at hk
  rw [Channel.passDone_withJudged, ← hk]
  rfl

/-- The health of a core whose full pass has ended at a beat. -/
def CoreHealth.passed (h : CoreHealth) (n : U48) : CoreHealth := { h with owlUrgent := false, owlNext := 0, owlBeat := n }

theorem Channel.chunkAgreed_passDone_health (ch : Channel) (p : Nat) : ((ch.chunkAgreed p).passDone p).health p =
    ((ch.health p).passed ch.beat.number).cleanTo ch.beat.number.toNat ch.upd.sJob := by
  rw [Channel.passDone_health, Channel.chunkAgreed_health, Channel.chunkAgreed_withJudged]
  rfl

/-- The last chunk of a pass: what the full pass leaves. -/
theorem owlChunk_passes {s : State} {c : ChanId} {q : Nat} (rerunsOk : Bool) (hbusy : (s.ch c).owl.busy = true)
    (hq : (s.ch c).owl.pcore.toNat = q) (hnext : ((s.ch c).health q).owlNext = 63) (hretest : ((s.ch c).health q).retest = false) :
    ∃ t, exec (.owlChunkDone c true rerunsOk) s = .next t ∧
      ((t.ch c).health q).owlNext = 0 ∧ ((t.ch c).health q).owlBeat = (s.ch c).beat.number ∧
      (((s.ch c).health q).beatClean.toNat < (s.ch c).beat.number.toNat → ((t.ch c).health q).beatClean = (s.ch c).beat.number ∧
        ((t.ch c).health q).stepClean = (s.ch c).upd.sJob) ∧
      ((s.ch c).beat.number.toNat ≤ ((s.ch c).health q).beatClean.toNat →
        ((t.ch c).health q).beatClean = ((s.ch c).health q).beatClean) ∧
      (∀ n : Nat, n ≠ q → (t.ch c).health n = (s.ch c).health n) ∧
      t = s.setCh c { s.ch c with bdg := { (s.ch c).bdg with cores := (t.ch c).bdg.cores }
                                  owl := { (s.ch c).owl with
                                    busy := false, chunksRun := wrapAdd (s.ch c).owl.chunksRun 1, passes := satAdd (s.ch c).owl.passes 1 } } := by
  have hexec := exec_owlChunkDone_passes rerunsOk hbusy hq hnext hretest
  have hshape := (s.ch c).chunkAgreed_passDone q
  have hother (n : Nat) (hn : n ≠ q) : (((s.ch c).chunkAgreed q).passDone q).health n = (s.ch c).health n :=
    (Channel.passDone_health_other _ hn).trans (Channel.chunkAgreed_health_other _ hn)
  have hhealth := (s.ch c).chunkAgreed_passDone_health q
  generalize ((s.ch c).chunkAgreed q).passDone q = k at *
  obtain ⟨howlNext, howlBeat⟩ := CoreHealth.cleanTo_owl (((s.ch c).health q).passed (s.ch c).beat.number) (s.ch c).beat.number.toNat (s.ch c).upd.sJob
  refine ⟨_, hexec, ?_⟩
  rw [State.ch_setCh, hhealth]
  refine ⟨howlNext, howlBeat, fun h => CoreHealth.cleanTo_later _ _ _ h, fun h => ?_, hother, congrArg (s.setCh c) hshape⟩
  exact (congrArg CoreHealth.beatClean (CoreHealth.cleanTo_earlier (((s.ch c).health q).passed (s.ch c).beat.number) _ h)).trans rfl

/-- A chunk that disagreed: its core is to be fenced. -/
theorem owlChunk_fails {s : State} {c : ChanId} {q : Nat} (rerunsOk : Bool) (hbusy : (s.ch c).owl.busy = true)
    (hq : (s.ch c).owl.pcore.toNat = q) (hretest : ((s.ch c).health q).retest = false) :
    ∃ t, exec (.owlChunkDone c false rerunsOk) s = .next t ∧ ((t.ch c).health q).fencePending = true ∧ ((t.ch c).health q).owlNext = 0 ∧
      (t.ch c).owl = { (s.ch c).owl with
        busy := false, chunksRun := wrapAdd (s.ch c).owl.chunksRun 1, fail := true, fails := satAdd (s.ch c).owl.fails 1 } ∧
      (((s.ch c).health q).taint = [] → (t.ch c).mem = (s.ch c).mem ∧ onlyChannel c s t) := by
  obtain ⟨hcores, howl, hmem⟩ := ((s.ch c).chunkFailed q).reported_keeps c 0x700C 2 (.core q)
  have hhealth := (Channel.health_congr hcores q).trans (Channel.chunkFailed_health _ _)
  have hexec := exec_owlChunkDone_fails rerunsOk hbusy hq hretest
  generalize (((s.ch c).chunkFailed q).raise c 0x700C).report c 0x700C 2 (.core q) = k at *
  obtain ⟨hpending, hkept⟩ := State.coreAtFault_health (s.setCh c k) c q
  rw [State.ch_setCh, hhealth] at hpending
  rw [State.ch_setCh, howl, Channel.chunkFailed_owl] at hkept
  refine ⟨_, hexec, by rw [hpending], by rw [hpending], hkept, fun htaint => ?_⟩
  rw [State.coreAtFault_untainted (by rw [State.ch_setCh, hhealth]; exact htaint), State.setCh_setCh, State.ch_setCh, State.ch_setCh]
  refine ⟨hmem.trans (Channel.chunkFailed_mem _ _), ?_⟩
  rw [onlyChannel, State.ch_setCh]

/-- The hold-off of an incident of a memory, link or port ends. -/
theorem Channel.holdoffEnds_unit {ch : Channel} {c : ChanId} {u : SuspectUnit} {i : Incident} (hcore : ∀ n : Nat, u ≠ .core n)
    (hremote : ∀ a b : Nat, u ≠ .remoteCore a b) :
    ch.holdoffEnds c u i = ch.classify c u (if ch.bdg.k.toNat < ch.unitIncidents u then 2 else 1) := by
  cases u with
  | core n => exact absurd rfl (hcore n)
  | remoteCore a b => exact absurd rfl (hremote a b)
  | pchan _ => rfl
  | link _ => rfl
  | cxlPort _ => rfl

theorem Channel.holdoffEnds_held {ch : Channel} {c : ChanId} {n : Nat} {i : Incident} (h : i.pair.isSome = true ∨
    (ch.health n).fencePending = true ∨ (ch.health n).retest = true ∨ (ch.health n).permanent = true) : ch.holdoffEnds c (.core n) i = ch :=
  if_pos (by simpa [or_assoc] using h)

/-- A core that nothing else incriminates counts one more transient. -/
theorem Channel.holdoffEnds_core {ch : Channel} {c : ChanId} {n : Nat} {i : Incident} (hpair : i.pair = none)
    (hfence : (ch.health n).fencePending = false) (hretest : (ch.health n).retest = false) (hperm : (ch.health n).permanent = false) :
    ch.holdoffEnds c (.core n) i =
      (ch.onHealth n fun x => { x with transients := x.transients ++ [BitVec.ofNat 32 ch.utcNow] }).classify c (.core n) 1 :=
  if_neg (by simp [hpair, hfence, hretest, hperm])

theorem Channel.secondPath_coalesces {ch : Channel} (c : ChanId) {v : U64} (hroom : ch.bdg.intake < 256)
    (hold : ∃ j ∈ ch.bdg.incidents, ch.takesIn j = true ∧ incidentNames j (.core (ch.namedCore v)) (some (bits v 6 0)) = true) :
    ch.secondPath c v = { ch.reportTaken with bdg := { ch.reportTaken.bdg with
      incidents := coalesceInto (fun i => ch.takesIn i && incidentNames i (.core (ch.namedCore v)) (some (bits v 6 0))) ch.bdg.incidents
      coalesced := satAdd ch.bdg.coalesced 1 } } := by
  have hany : (ch.bdg.incidents.any fun i => ch.takesIn i && incidentNames i (.core (ch.namedCore v)) (some (bits v 6 0))) = true := by
    simpa [List.any_eq_true] using hold
  rw [Channel.secondPath_only c (by simp [Channel.opensIncident, hany]), Channel.report_coalesces c 0x7002 3 _ hroom hold]

/-- The channel whose Badger has dropped a report. -/
def Channel.reportDropped (ch : Channel) : Channel :=
  { ch with bdg := { ch.bdg with dropped := satAdd ch.bdg.dropped 1, intakeDrop := true } }

theorem Channel.secondPath_drops {ch : Channel} (c : ChanId) (v : U64) (hfull : 256 ≤ ch.bdg.intake) :
    ch.secondPath c v = ch.reportDropped.withRaised (ch.raise c 0x7008).events (ch.raise c 0x7008).beat.raised := by
  rw [Channel.secondPath_only c (by simp [Channel.opensIncident, Nat.not_lt.mpr hfull]), Channel.report_drops c 0x7002 3 _ _ _ hfull]
  exact Channel.raise_as (ch := ch) (k := ch.reportDropped) c 0x7008 rfl rfl rfl

/-- What an event reports does not look at core health. -/
theorem Channel.onHealth_raise_events (ch : Channel) (n : Nat) (f : CoreHealth → CoreHealth) (c : ChanId) (code : Nat) :
    ((ch.onHealth n f).raise c code).events = (ch.raise c code).events := (Channel.raise_congr ch (ch.onHealth n f) c code none 0 rfl rfl rfl).1

/-- A core's incident closes as transient after its health has changed. -/
theorem Channel.onHealth_classify_closesAs {ch : Channel} {u : SuspectUnit} {i : Incident} (c : ChanId) (n : Nat) (f : CoreHealth → CoreHealth)
    (h : ch.findOpen u = some i) : (ch.onHealth n f).closesAs ((ch.onHealth n f).classify c u 1) c u i 1 :=
  Channel.classify_closesAs c h (Or.inl rfl)

/-- The full pass of core `p`, bound in a running channel, is due. -/
def Channel.passLate (ch : Channel) (p : Nat) : Prop := ch.running = true ∧ ch.owl.en = true ∧ (ch.lcoreOf p).isSome = true ∧
  ch.passDue p ≤ ch.beat.number.toNat

theorem Channel.passLate_iff (ch : Channel) (p : Nat) : ch.passLate p ↔
    (ch.running && ch.owl.en && (ch.lcoreOf p).isSome && decide (ch.passDue p ≤ ch.beat.number.toNat)) = true := by
  simp only [Channel.passLate, Bool.and_eq_true, decide_eq_true_eq, and_assoc]

theorem exec_owlPassDeadline_early {s : State} {c : ChanId} {p : Nat} (h : ¬ (s.ch c).passLate p) : exec (.owlPassDeadline c p) s = .next s :=
  if_neg (mt ((s.ch c).passLate_iff p).mpr h)

theorem exec_owlPassDeadline_late {s : State} {c : ChanId} {p : Nat} (h : (s.ch c).passLate p) : exec (.owlPassDeadline c p) s =
    .next (s.setCh c (({ s.ch c with owl := { (s.ch c).owl with late := true } } : Channel).raise c 0x700D)) :=
  if_pos (((s.ch c).passLate_iff p).mp h)

/-- Settles O49: the chunks of Owl, the reports of second paths and the ends of hold-offs, each by its own rule. -/
theorem owlAndBadgerJudgeUnits : Obligations.OwlAndBadgerJudgeUnits := by
  unfold Obligations.OwlAndBadgerJudgeUnits
  intro c rerunsOk p v u i s
  dsimp only
  refine ⟨fun h => ⟨exec_owlChunkDone_idle _ _ h, exec_owlChunkDone_idle _ _ h⟩, fun hbusy hnext => ?_,
    fun hbusy hnext hretest => owlChunk_passes rerunsOk hbusy rfl hnext hretest, fun hbusy hretest => owlChunk_fails rerunsOk hbusy rfl hretest,
    fun hlate => exec_owlPassDeadline_early hlate, fun hlate => exec_owlPassDeadline_late hlate,
    fun h hroom hnew hfree => ⟨_, regWrites_bdgReport v h, ?_⟩, fun h hroom hold => ⟨_, regWrites_bdgReport v h, ?_⟩,
    fun h hfull => ⟨_, regWrites_bdgReport v h, ?_⟩,
    fun h => exec_holdoffExpiry_none (List.find?_eq_none.mpr fun j hj => ?_),
    fun hfound hpast => exec_holdoffExpiry_early hfound (decide_eq_true (Nat.not_le.mp hpast)),
    fun hfound hpast hcore hremote => ⟨_, exec_holdoffExpiry_ends hfound (by simpa [Channel.inHoldoff] using hpast), ?_⟩,
    fun n hfound hpast hu hpair hfence hretest hperm => ⟨_, exec_holdoffExpiry_ends hfound (by simpa [Channel.inHoldoff] using hpast), ?_⟩,
    fun n hfound hpast hu hheld => (exec_holdoffExpiry_ends hfound (by simpa [Channel.inHoldoff] using hpast)).trans ?_⟩
  · refine ⟨_, exec_owlChunkDone_counts rerunsOk hbusy rfl hnext, ?_⟩
    rw [State.ch_setCh]
    exact ⟨Channel.chunkAgreed_health _ _, fun n hn => Channel.chunkAgreed_health_other _ hn, rfl⟩
  · have hopens := Channel.secondPath_opens c hroom hnew hfree
    rw [onlyChannel, State.ch_setCh]
    generalize s.ch c = ch at *
    rw [hopens]
    exact ⟨⟨ch.secondIncident c v, rfl, rfl, rfl, rfl, rfl, rfl⟩, rfl, rfl, Channel.suspects_health _ _ _,
      fun n hn => Channel.suspects_health_other _ _ hn, rfl, rfl, rfl, rfl⟩
  · rw [onlyChannel, State.ch_setCh, Channel.secondPath_coalesces c hroom hold]
    exact ⟨rfl, coalesceInto_length _ _, rfl, rfl, rfl⟩
  · rw [onlyChannel, State.ch_setCh, Channel.secondPath_drops c v hfull]
    exact ⟨rfl, rfl, rfl⟩
  · rcases h j hj with hclosed | hother
    · simp [hclosed]
    · simp [hother]
  · have hcls : (if (s.ch c).bdg.k.toNat < (s.ch c).unitIncidents u then 2 else 1 : U8) = 1 ∨
        (if (s.ch c).bdg.k.toNat < (s.ch c).unitIncidents u then 2 else 1 : U8) = 2 :=
      ite_ind (fun x : U8 => x = 1 ∨ x = 2) (Or.inr rfl) (Or.inl rfl)
    have hcloses := Channel.classify_closesAs c hfound hcls
    rw [onlyChannel, State.ch_setCh, Channel.holdoffEnds_unit hcore hremote]
    exact ⟨hcloses.closed, hcloses.length, hcloses.record, hcloses.events, hcloses.mem, rfl⟩
  · subst hu
    have hcloses := Channel.onHealth_classify_closesAs c n (fun x => { x with transients := x.transients ++ [BitVec.ofNat 32 (s.ch c).utcNow] })
      hfound
    rw [onlyChannel, State.ch_setCh, Channel.holdoffEnds_core hpair hfence hretest hperm]
    exact ⟨⟨hcloses.closed, hcloses.length, hcloses.record, hcloses.events.trans (Channel.onHealth_raise_events _ _ _ _ _),
      hcloses.mem, rfl⟩, (Channel.health_congr hcloses.cores n).trans (Channel.health_onHealth_same _ _ _)⟩
  · subst hu
    rw [Channel.holdoffEnds_held hheld, State.setCh_ch]

end Sys2Proof.Machine
end

section
/-! PROOFS. The end of boot, and LEAVE (R361, R364, R406). -/

namespace Sys2Proof.Machine

/-! ### What boot finds -/

/-- Keys, lifecycle, image version and cause, as the serial memory tells them (R361). -/
def Channel.identified (ch : Channel) : Channel := { ch with sec := { ch.sec with
  keys := ch.ser.pufOk, idkHash := if ch.ser.pufOk then ch.ser.pufIdk else 0, lifecycle := ch.ser.lc.lc, recKeyOk := ch.ser.recordValid
  imageSvn := ch.ser.image.svn, cause := ch.ser.bootCause } }

/-- The channel with other settings, other settings status and other events. -/
def Channel.withSettings (ch : Channel) (x : Settings) (g : Cfg) (evs : List EvRec) (rs : List U16) : Channel :=
  ({ ch with sec := { ch.sec with settings := x }, cfg := g } : Channel).withRaised evs rs

/-- Settings touch nothing of the calibration record's status. -/
theorem Channel.bootSettings_eq (ch : Channel) (c : ChanId) :
    ∃ x g evs rs, ch.bootSettings c = ch.withSettings x g evs rs ∧ g.calBad = ch.cfg.calBad := by
  unfold Channel.bootSettings
  split
  · exact ⟨ch.sec.settings, ch.cfg, ch.events, ch.beat.raised, rfl, rfl⟩
  · cases ch.ser.settingsSlot with
    | none =>
      obtain ⟨evs, rs, hraise⟩ := ({ ch with
        sec := { ch.sec with settings := refusedSettings }, cfg := { ch.cfg with settingsBad := true } } : Channel).raise_eq_withRaised c 0x8008
      exact ⟨_, _, evs, rs, hraise, rfl⟩
    | some e =>
      obtain ⟨y, b, old⟩ := e
      cases old
      · exact ⟨y.settings, { ch.cfg with setSeq := y.seq, setSlot := b, settingsOld := false }, ch.events, ch.beat.raised, rfl, rfl⟩
      · obtain ⟨evs, rs, hraise⟩ := ({ ch with
          sec := { ch.sec with settings := y.settings }, cfg := { ch.cfg with setSeq := y.seq, setSlot := b, settingsOld := true } } : Channel).raise_eq_withRaised c 0x8009
        exact ⟨_, _, evs, rs, hraise, rfl⟩

/-! ### Boot that ends in RECOVERY -/

theorem State.boot_early {s : State} {c : ChanId} (ok : Bool)
    (h : ¬ ((s.ch c).chn.state = .boot ∧ (s.ch c).domain.st ≠ .off ∧ (s.ch c).sec.selftestFail = false)) : s.boot c ok = s := by
  refine if_pos ?_
  by_contra hno
  simp only [not_or, not_not, Bool.not_eq_true] at hno
  exact h hno

theorem State.boot_ends {s : State} {c : ChanId}
    (h : (s.ch c).chn.state = .boot ∧ (s.ch c).domain.st ≠ .off ∧ (s.ch c).sec.selftestFail = false) :
    ¬ ((s.ch c).chn.state ≠ .boot ∨ (s.ch c).domain.st = .off ∨ (s.ch c).sec.selftestFail = true) := by
  obtain ⟨hboot, hon, htests⟩ := h
  simp [hboot, hon, htests]

theorem State.boot_selftestFails {s : State} {c : ChanId}
    (h : (s.ch c).chn.state = .boot ∧ (s.ch c).domain.st ≠ .off ∧ (s.ch c).sec.selftestFail = false) :
    s.boot c false = s.setCh c { s.ch c with sec := { (s.ch c).sec with selftestFail := true } } :=
  (if_neg (State.boot_ends h)).trans (if_pos rfl)

/-- The channel that a check has sent to RECOVERY. -/
def Channel.recovers (ch : Channel) (c : ChanId) : Channel :=
  ({ ch.identified.bootSettings c with chn := { (ch.identified.bootSettings c).chn with state := .recovery } } : Channel).raise c 0x8001

theorem State.boot_recovers {s : State} {c : ChanId}
    (h : (s.ch c).chn.state = .boot ∧ (s.ch c).domain.st ≠ .off ∧ (s.ch c).sec.selftestFail = false) (hcause : (s.ch c).ser.bootCause ≠ .none) :
    s.boot c true =
      (let s2 := s.setCh c ((s.ch c).recovers c)
       (s2.notifyBoxes c 0 ((s2.ch c).pendingBits 0)).notifyBoxes c 2 ((s2.ch c).pendingBits 2)) := by
  refine (if_neg (State.boot_ends h)).trans ((if_neg (by decide)).trans ((if_pos hcause).trans ?_))
  rw [State.onCh_onCh]
  rfl

theorem State.notifyBoxes_zero (s : State) (c : ChanId) (g : Nat) : s.notifyBoxes c g 0 = s := if_pos rfl

theorem State.notifyIn_zero (s : State) (c : ChanId) (g : Nat) : s.notifyIn c g 0 = s := by
  unfold State.notifyIn
  exact if_pos (Or.inl rfl)

/-- What RECOVERY leaves of the channel: its state, what it identified, its settings and its events. -/
theorem Channel.recovers_eq (ch : Channel) (c : ChanId) : ∃ x g evs rs,
    ch.recovers c = ({ ch.identified with chn := { ch.chn with state := .recovery } } : Channel).withSettings x g evs rs := by
  obtain ⟨x, g, evs, rs, hset, -⟩ := ch.identified.bootSettings_eq c
  obtain ⟨evs', rs', hraise⟩ := ({ ch.identified.withSettings x g evs rs with
    chn := { (ch.identified.withSettings x g evs rs).chn with state := .recovery } } : Channel).raise_eq_withRaised c 0x8001
  rw [Channel.recovers, hset, hraise]
  exact ⟨x, g, evs', rs', rfl⟩

/-! ### Boot that ends in CALIBRATE -/

/-- A fold over the bad cores makes exactly them bad. -/
theorem Channel.goodCore_foldl_bad (l : List Nat) (ch : Channel) (q : Nat) :
    (l.foldl (fun (h : Channel) p => h.onHealth p fun x => { x with bad := true }) ch).goodCore q = (ch.goodCore q && !decide (q ∈ l)) := by
  induction l generalizing ch with
  | nil => simp
  | cons p r ih =>
    rw [List.foldl_cons, ih]
    rcases eq_or_ne q p with rfl | hne
    · have hbad : (ch.onHealth q fun x => { x with bad := true }).goodCore q = false := by
        rw [Channel.goodCore, Channel.health_onHealth_same]
        rfl
      simp [hbad]
    · have hsame : (ch.onHealth p fun x => { x with bad := true }).goodCore q = ch.goodCore q := by
        rw [Channel.goodCore, Channel.health_onHealth_other _ _ hne, Channel.goodCore]
      simp [hsame, hne]

/-- The repair map changes which cores are bad, and shows how many are good. -/
theorem Channel.loadRepair_eq (ch : Channel) : ∃ b n, ch.loadRepair = { ch with bdg := b, chn := { ch.chn with good := n } } := by
  obtain ⟨b, hb⟩ := Channel.foldl_bdgOnly (fun k p => Channel.onHealth_bdgOnly k p fun x => { x with bad := true }) ch.ser.repair.bad ch
  rw [Channel.loadRepair, hb]
  exact ⟨b, _, rfl⟩

theorem Channel.loadRepair_goodCore (ch : Channel) (q : Nat) :
    ch.loadRepair.goodCore q = (ch.goodCore q && !decide (q ∈ ch.ser.repair.bad)) := Channel.goodCore_foldl_bad _ _ _

/-- The calibration record sets K, or is found bad. -/
theorem Channel.loadCalibration_eq (ch : Channel) : ch.loadCalibration = { ch with
    cfg := { ch.cfg with calBad := ch.ser.calSlot.isNone || ch.cfg.calBad }
    ledg := { ch.ledg with k := (ch.ser.calSlot.map fun e : CalSlot => BitVec.ofNat 18 (e.k.getD 0x10000)).getD ch.ledg.k } } := by
  unfold Channel.loadCalibration
  cases h : ch.ser.calSlot <;> rfl

/-- Measurement register `i`. -/
def Sec.reg (x : Sec) (i : Nat) : U512 := smGet 0 x.mr i

theorem Sec.reg_extend_same (x : Sec) (i : Nat) (v : U512) : (x.extend i v).reg i = extendMr (x.reg i) v :=
  smGet_smMod_same 0 x.mr i fun m => extendMr m v

theorem Sec.reg_extend_other (x : Sec) {i j : Nat} (v : U512) (h : j ≠ i) : (x.extend i v).reg j = x.reg j :=
  smGet_smMod_other 0 x.mr (fun m => extendMr m v) h

/-- An extension that a slot may lack. -/
def Sec.extendBy (x : Sec) (i : Nat) : Option U512 → Sec
  | some v => x.extend i v
  | none => x

theorem Sec.extendBy_reg (x : Sec) {i j : Nat} (v : Option U512) (h : j ≠ i) : (x.extendBy i v).reg j = x.reg j := by
  cases v with
  | none => rfl
  | some v => exact x.reg_extend_other v h

theorem Sec.measureBoot_eq (x : Sec) (y : Serial) : x.measureBoot y =
    ((((((((x.extend 0 y.image.bodyDigest).extend 0 y.image.headerDigest).extend 1 y.repair.digest).extendBy 1
      (y.calSlot.map CalSlot.digest)).extend 1 y.pufDigest).extendBy 2 (y.settingsSlot.map fun e => e.1.digest)).extend 3 y.lc.digest)) := by
  unfold Sec.measureBoot
  cases y.calSlot <;> cases y.settingsSlot <;> rfl

/-- Boot extends MR0 by the image's two digests, MR3 by the lifecycle record's, and leaves MR7. -/
theorem Sec.measureBoot_reg (x : Sec) (y : Serial) :
    (x.measureBoot y).reg 0 = extendMr (extendMr (x.reg 0) y.image.bodyDigest) y.image.headerDigest ∧
    (x.measureBoot y).reg 3 = extendMr (x.reg 3) y.lc.digest ∧ (x.measureBoot y).reg 7 = x.reg 7 := by
  rw [Sec.measureBoot_eq]
  simp [Sec.reg_extend_same, Sec.reg_extend_other, Sec.extendBy_reg]

/-- Nothing but the measurement registers differs. -/
def Sec.mrOnly (x z : Sec) : Prop := ∃ m, z = { x with mr := m }

theorem Sec.mrOnly.extend {x z : Sec} (h : x.mrOnly z) (i : Nat) (v : U512) : x.mrOnly (z.extend i v) := by
  obtain ⟨m, rfl⟩ := h
  exact ⟨_, rfl⟩

theorem Sec.mrOnly.extendBy {x z : Sec} (h : x.mrOnly z) (i : Nat) (v : Option U512) : x.mrOnly (z.extendBy i v) := by
  cases v with
  | none => exact h
  | some v => exact h.extend i v

theorem Sec.measureBoot_mrOnly (x : Sec) (y : Serial) : x.mrOnly (x.measureBoot y) := by
  have hself : x.mrOnly x := ⟨x.mr, rfl⟩
  rw [Sec.measureBoot_eq]
  exact ((((((hself.extend 0 _).extend 0 _).extend 1 _).extendBy 1 _).extend 1 _).extendBy 2 _).extend 3 _

/-- The channel that passes every check, before its limit is granted. `ms` is where its first calibration ends. -/
def Channel.calibrates (ch : Channel) (c : ChanId) (ms : Nat) : Channel :=
  ({ ch.identified.bootSettings c with
    chn := { (ch.identified.bootSettings c).chn with state := .calibrate }
    sec := (ch.identified.bootSettings c).sec.measureBoot ch.ser
    cfg := { (ch.identified.bootSettings c).cfg with calMs := BitVec.ofNat 16 (ms % 73) } } : Channel).loadRepair.loadCalibration

theorem State.boot_calibrates {s : State} {c : ChanId}
    (h : (s.ch c).chn.state = .boot ∧ (s.ch c).domain.st ≠ .off ∧ (s.ch c).sec.selftestFail = false) (hcause : (s.ch c).ser.bootCause = .none) :
    s.boot c true = ((s.setCh c ((s.ch c).calibrates c s.freeVal)).tookFree 1).grantNow c := by
  refine (if_neg (State.boot_ends h)).trans ((if_neg (by decide)).trans ((if_neg (not_not_intro hcause)).trans ?_))
  rw [State.onCh_onCh]
  rfl

/-- The channel before its limit is granted: the parts of it that boot has set. -/
structure Channel.calibratesTo (ch k : Channel) : Prop where
  state : k.chn.state = .calibrate
  cause : k.sec.cause = ch.ser.bootCause
  keys : k.sec.keys = ch.ser.pufOk
  lifecycle : k.sec.lifecycle = ch.ser.lc.lc
  svn : k.sec.imageSvn = ch.ser.image.svn
  mr0 : k.sec.reg 0 = extendMr (extendMr (ch.sec.reg 0) ch.ser.image.bodyDigest) ch.ser.image.headerDigest
  mr3 : k.sec.reg 3 = extendMr (ch.sec.reg 3) ch.ser.lc.digest
  mr7 : k.sec.reg 7 = ch.sec.reg 7
  good : ∀ p : Nat, k.goodCore p = (ch.goodCore p && !decide (p ∈ ch.ser.repair.bad))
  calBad : k.cfg.calBad = (ch.ser.calSlot.isNone || ch.cfg.calBad)
  scale : k.ledg.k = (ch.ser.calSlot.map fun e : CalSlot => BitVec.ofNat 18 (e.k.getD 0x10000)).getD ch.ledg.k
  mem : k.mem = ch.mem
  wrn : k.wrn = ch.wrn
  ser : k.ser = ch.ser
  mbx : k.mbx = ch.mbx

theorem Channel.calibrates_to (ch : Channel) (c : ChanId) (ms : Nat) : ch.calibratesTo (ch.calibrates c ms) := by
  obtain ⟨x, g, evs, rs, hset, hcal⟩ := ch.identified.bootSettings_eq c
  obtain ⟨h0, h3, h7⟩ := (ch.identified.withSettings x g evs rs).sec.measureBoot_reg ch.ser
  obtain ⟨m, hm⟩ := (ch.identified.withSettings x g evs rs).sec.measureBoot_mrOnly ch.ser
  rw [hm] at h0 h3 h7
  rw [Channel.calibrates, hset, hm]
  generalize hk : ({ ch.identified.withSettings x g evs rs with
    chn := { (ch.identified.withSettings x g evs rs).chn with state := .calibrate }
    sec := { (ch.identified.withSettings x g evs rs).sec with mr := m }
    cfg := { (ch.identified.withSettings x g evs rs).cfg with calMs := BitVec.ofNat 16 (ms % 73) } } : Channel) = k
  have hgood := k.loadRepair_goodCore
  obtain ⟨b, n, hb⟩ := k.loadRepair_eq
  rw [hb] at hgood
  rw [hb, Channel.loadCalibration_eq]
  subst hk
  exact { state := rfl, cause := rfl, keys := rfl, lifecycle := rfl, svn := rfl, mr0 := h0, mr3 := h3, mr7 := h7, good := hgood
          calBad := congrArg (ch.ser.calSlot.isNone || ·) hcal, scale := rfl, mem := rfl, wrn := rfl, ser := rfl, mbx := rfl }

/-- The channel with its limit granted beside a sibling, while no boundary is due (R315). -/
def Channel.grantedNow (ch sib : Channel) : Channel := { ch with ledg := { ch.ledg with
  grantedW := BitVec.ofNat 10 (grantLimit (ch.limitAt 0) sib.ledg.grantedW.toNat ch.thermalCap sib.on) } }

theorem State.setCh_grantNow {s : State} {c : ChanId} {k : Channel} (n : Nat) (h : k.running = false) :
    ((s.setCh c k).tookFree n).grantNow c = (s.setCh c (k.grantedNow (s.ch (sibling c)))).tookFree n := by
  have hstop : ¬ (((s.setCh c k).tookFree n).ch c).running = true := by simp [h]
  refine (if_neg hstop).trans ?_
  rw [State.onCh, State.tookFree_ch, State.tookFree_ch, State.ch_setCh, State.ch_setCh_other _ _ (sibling_ne c)]
  obtain rfl | rfl := ChanId.cases c <;> rfl

theorem onlyChannelSent_tookFree (s : State) (c : ChanId) (n : Nat) : onlyChannelSent c s (s.tookFree n) := by
  obtain rfl | rfl := ChanId.cases c <;> rfl

/-- Nothing waits at the inbound doorbells: boot serves nothing at its end. -/
theorem Channel.pendingBits_congr {ch k : Channel} (h : k.mbx = ch.mbx) (g : Nat) : k.pendingBits g = ch.pendingBits g := by
  unfold Channel.pendingBits Channel.db
  rw [h]

theorem exec_bootComplete_eq {s : State} {c : ChanId} {ok : Bool} {t : State} (hboot : s.boot c ok = t)
    (h : (s.ch c).chn.state = .boot → (t.ch c).chn.state = .calibrate → (t.ch c).pendingBits 0 = 0 ∧ (t.ch c).pendingBits 2 = 0) :
    exec (.bootComplete c ok) s = .next t := by
  change execBootComplete c ok s = .next t
  unfold execBootComplete
  dsimp only
  rw [hboot]
  split
  case isTrue hboth =>
    obtain ⟨h0, h2⟩ := h hboth.1 hboth.2
    rw [h0, h2, State.notifyIn_zero, State.notifyIn_zero]
  case isFalse => rfl

/-! ### LEAVE (R406) -/

/-- An event raised while no beats run does not look at the state. -/
theorem Channel.raise_stopped {ch k : Channel} (c : ChanId) (code : Nat) (h : ch.running = false) (hk : k.running = false) (hbeat : k.beat = ch.beat)
    (hevents : k.events = ch.events) : k.raise c code = k.withRaised (ch.raise c code).events (ch.raise c code).beat.raised := by
  simp [Channel.raise, Channel.raiseEach, Channel.evBeat, Channel.withRaised, h, hk, hbeat, hevents]

/-- The channel that leaves at once, with stream state `p`. -/
def Channel.gone (ch : Channel) (p : Pss) : Channel := { ch with
  chn := { ch.chn with state := .leaving }, pss := { p with withdrawn := true, winOpen := false }, cfg := { ch.cfg with left := true } }

/-- The stream state without the load that is VERIFYING. -/
def Pss.givesUp (p : Pss) (phase : Phase) : Pss :=
  if p.phase = .verifying then { p with phase := phase, code := 3, section_ := 0xFFF, detail := 0 } else p

theorem State.leave_calibrate {s : State} {c : ChanId} (h : (s.ch c).chn.state = .calibrate) :
    s.leave c = s.setCh c (((s.ch c).gone (s.ch c).pss).raise c 0x9007) := by
  unfold State.leave
  simp only [h]
  rfl

theorem State.leave_joined {s : State} {c : ChanId} (h : (s.ch c).chn.state = .joined) :
    s.leave c = s.setCh c (((s.ch c).gone ((s.ch c).pss.givesUp .empty)).raise c 0x9007) := by
  unfold State.leave
  simp only [h]
  rw [State.onCh]
  congr 1
  unfold Pss.givesUp
  split <;> rfl

/-- The channel whose stream is to unload before it leaves. -/
def Channel.leavesLater (ch : Channel) : Channel := { ch with
  pss := { ch.pss.givesUp ch.pss.verifyFrom with unloadReq := true }, cfg := { ch.cfg with leaveReq := true } }

theorem State.leave_stream {s : State} {c : ChanId} (h : (s.ch c).chn.state = .loaded ∨ (s.ch c).chn.state = .running)
    (hstep : (s.ch c).upd.inStep = false) : s.leave c = s.setCh c (s.ch c).leavesLater := by
  have hlater : s.leaveAtBoundary c = s.setCh c (s.ch c).leavesLater := by
    have hstay : (if (s.ch c).upd.inStep then s.flagFail c else s) = s := if_neg (by rw [hstep]; decide)
    unfold State.leaveAtBoundary
    rw [hstay, State.onCh]
    by_cases hverify : (s.ch c).pss.phase = .verifying
    · simp only [hverify, if_true, Channel.requestUnload, h, Channel.leavesLater, Pss.givesUp]
    · simp only [hverify, if_false, Channel.requestUnload, h, if_true, Channel.leavesLater, Pss.givesUp]
  unfold State.leave
  rcases h with h | h
  · simp only [h]
    exact hlater
  · simp only [h]
    exact hlater

theorem State.leave_leaving {s : State} {c : ChanId} (h : (s.ch c).chn.state = .leaving) : s.leave c = s := by
  unfold State.leave
  simp only [h]

theorem regAt_cfgCtrl : ∃ r, regAt 0x110000 = some r ∧ ∀ s c w v, r.write s c w v = if bit v 0 then s.leave c else s :=
  ⟨_, rfl, fun _ _ _ _ => rfl⟩

theorem regWrites_cfgLeave {s : State} {c : ChanId} (h : fwReady s c) : regWrites (.cfgLeave c .firmware) c s (s.leave c) := by
  obtain ⟨r, hreg, hwrite⟩ := regAt_cfgCtrl
  have hleave : s.leave c = r.write s c .firmware 1 := ((hwrite s c .firmware 1).trans (if_pos (by decide))).symm
  rw [hleave]
  exact regWrites_of_regAt rfl hreg (by decide) (by decide) h

/-- Settles O47: boot by the check at which it ends, LEAVE by the state it finds. -/
theorem bootAndLeave : Obligations.BootAndLeave := by
  unfold Obligations.BootAndLeave
  intro c testsOk s
  dsimp only
  refine ⟨fun h => ?_, fun h hok => ?_, fun h hok hcause hquiet => ?_, fun h hok hcause hquiet => ?_, fun h hst hstep => ?_,
    fun h hst => ?_, fun h hst => ?_⟩
  · exact exec_bootComplete_eq (State.boot_early testsOk h) fun hboot hcal => absurd (hboot.symm.trans hcal) (by decide)
  · subst hok
    refine exec_bootComplete_eq (State.boot_selftestFails h) fun hboot hcal => ?_
    rw [State.ch_setCh] at hcal
    exact absurd (hboot.symm.trans hcal) (by decide)
  · subst hok
    obtain ⟨hq0, hq2⟩ := hquiet
    obtain ⟨x, g, evs, rs, hrec⟩ := (s.ch c).recovers_eq c
    have hboot : s.boot c true = s.setCh c ((s.ch c).recovers c) := by
      have hmbx : ((s.ch c).recovers c).mbx = (s.ch c).mbx := by rw [hrec]; rfl
      rw [State.boot_recovers h hcause]
      dsimp only
      rw [State.ch_setCh, Channel.pendingBits_congr hmbx, Channel.pendingBits_congr hmbx, hq0, hq2, State.notifyBoxes_zero, State.notifyBoxes_zero]
    refine ⟨_, exec_bootComplete_eq hboot fun _ hcal => ?_, ?_⟩
    · rw [State.ch_setCh, hrec] at hcal
      exact absurd hcal (by simp [Channel.withSettings, Channel.withRaised])
    · rw [State.ch_setCh, hrec]
      exact ⟨rfl, rfl, rfl, rfl, rfl, rfl, rfl, rfl, onlyChannelSent_setCh _ _ _⟩
  · subst hok
    obtain ⟨hq0, hq2⟩ := hquiet
    have hcal := (s.ch c).calibrates_to c s.freeVal
    have hboot := State.boot_calibrates h hcause
    generalize (s.ch c).calibrates c s.freeVal = k at *
    have hstop : k.running = false := by rw [Channel.running, hcal.state]; rfl
    rw [State.setCh_grantNow 1 hstop] at hboot
    have hmbx : (k.grantedNow (s.ch (sibling c))).mbx = (s.ch c).mbx := hcal.mbx
    refine ⟨_, exec_bootComplete_eq hboot fun _ _ => ?_, ?_⟩
    · rw [State.tookFree_ch, State.ch_setCh, Channel.pendingBits_congr hmbx, Channel.pendingBits_congr hmbx]
      exact ⟨hq0, hq2⟩
    · rw [State.tookFree_ch, State.ch_setCh]
      refine ⟨hcal.state, hcal.cause.trans hcause, hcal.keys, hcal.lifecycle, hcal.svn, hcal.mr0, hcal.mr3, hcal.mr7, fun p hp => ?_, fun p hp => ?_,
        fun hnone => ?_, rfl, fun e he => ⟨?_, ?_⟩, hcal.mem, hcal.wrn, hcal.ser,
        (onlyChannelSent_setCh s c _).trans (onlyChannelSent_tookFree _ c 1)⟩
      · exact (hcal.good p).trans (by simp [hp])
      · exact (hcal.good p).trans (by simp [hp])
      · exact hcal.calBad.trans (by simp [hnone])
      · exact hcal.scale.trans (by rw [Option.mem_def.mp he]; rfl)
      · exact hcal.calBad.trans (by rw [Option.mem_def.mp he]; rfl)
  · refine ⟨_, regWrites_cfgLeave h, ?_⟩
    rw [State.leave_stream hst hstep, State.ch_setCh]
    exact ⟨rfl, rfl, rfl, fun hph => by rw [Channel.leavesLater, Pss.givesUp, if_neg hph], fun hph => by
      rw [Channel.leavesLater, Pss.givesUp, if_pos hph], rfl⟩
  · refine ⟨_, regWrites_cfgLeave h, ?_⟩
    obtain ⟨p, hleave⟩ : ∃ p, s.leave c = s.setCh c (((s.ch c).gone p).raise c 0x9007) := by
      rcases hst with hst | hst
      · exact ⟨_, State.leave_calibrate hst⟩
      · exact ⟨_, State.leave_joined hst⟩
    have hstop : (s.ch c).running = false := by
      rcases hst with hst | hst <;> rw [Channel.running, hst] <;> rfl
    rw [hleave, State.ch_setCh, Channel.raise_stopped (ch := s.ch c) (k := (s.ch c).gone p) c 0x9007 hstop rfl rfl rfl]
    generalize s.ch c = ch
    exact ⟨⟨rfl, rfl, rfl, rfl, rfl⟩, rfl⟩
  · have hw := regWrites_cfgLeave h
    rw [State.leave_leaving hst] at hw
    exact hw

end Sys2Proof.Machine
end

section
/-! PROOFS. Entropy, and debug sessions from their request to their end (R357, R369 to R373). -/

namespace Sys2Proof.Machine

/-! ### The island of a channel -/

/-- A channel with other island state. -/
def Channel.withSec (ch : Channel) (x : Sec) : Channel := { ch with sec := x }

theorem State.onSec_unitOf (s : State) (c : ChanId) (f : Sec → Sec) :
    s.onSec (unitOf c) f = s.setCh c ((s.ch c).withSec (f (s.ch c).sec)) := by
  obtain rfl | rfl := ChanId.cases c <;> rfl

theorem State.raiseSec_unitOf (s : State) (c : ChanId) (code : Nat) : s.raiseSec (unitOf c) code = s.setCh c ((s.ch c).raise c code) := by
  obtain rfl | rfl := ChanId.cases c <;> rfl

/-- The island state is no part of what an event reports. -/
theorem Channel.withSec_raise (ch : Channel) (x : Sec) (c : ChanId) (code : Nat) :
    (ch.withSec x).raise c code = (ch.withSec x).withRaised (ch.raise c code).events (ch.raise c code).beat.raised :=
  Channel.raise_as (ch := ch) (k := ch.withSec x) c code rfl rfl rfl

/-- A change of the island's state with its event. -/
theorem State.onSec_raiseSec_unitOf (s : State) (c : ChanId) (f : Sec → Sec) (code : Nat) :
    (s.onSec (unitOf c) f).raiseSec (unitOf c) code =
      s.setCh c (((s.ch c).withSec (f (s.ch c).sec)).withRaised ((s.ch c).raise c code).events ((s.ch c).raise c code).beat.raised) := by
  rw [State.onSec_unitOf, State.raiseSec_unitOf, State.ch_setCh, State.setCh_setCh, Channel.withSec_raise]

/-! ### Entropy (R357) -/

theorem exec_entropyHealthFail_off {s : State} {c : ChanId} (h : (s.ch c).domain.st = .off) : exec (.entropyHealthFail c) s = .next s := if_pos h
theorem exec_entropyRecover_off {s : State} {c : ChanId} (h : (s.ch c).domain.st = .off) : exec (.entropyRecover c) s = .next s := if_pos h

theorem exec_entropyHealthFail_on {s : State} {c : ChanId} (h : (s.ch c).domain.st ≠ .off) :
    exec (.entropyHealthFail c) s = .next (s.setCh c (((s.ch c).withSec { (s.ch c).sec with entropyFail := true }).raise c 0x8002)) := if_neg h

theorem exec_entropyRecover_on {s : State} {c : ChanId} (h : (s.ch c).domain.st ≠ .off) :
    exec (.entropyRecover c) s = .next (s.setCh c ((s.ch c).withSec { (s.ch c).sec with entropyFail := false })) := if_neg h

/-! ### The register (R369) -/

theorem secDbgAt_unitOf (c : ChanId) : secDbgAt (unitOf c) = 0x0F0018 := by
  obtain rfl | rfl := ChanId.cases c <;> rfl

theorem regAt_secDbg : ∃ r, regAt 0x0F0018 = some r ∧ ∀ s c w v, ∃ ok, r.write s c w v = s.writeSecDbg (unitOf c) v ok :=
  ⟨_, rfl, fun _ _ _ _ => ⟨_, rfl⟩⟩

/-- REQ asks for a level, and neither submits nor ends. -/
theorem State.writeSecDbg_req (s : State) (t : Fin 3) (v : U64) (ok : Bool) : s.writeSecDbg t (v &&& 3) ok =
    if v.toNat % 4 = 1 then s.dbgRequest t .observe else if v.toNat % 4 = 2 then s.dbgRequest t .invasive else s := by
  have hand : (v &&& 3).toNat = v.toNat % 4 := (BitVec.toNat_and v 3).trans (Nat.and_two_pow_sub_one_eq_mod v.toNat 2)
  have hlevel : bits (v &&& 3) 1 0 = v.toNat % 4 := by
    rw [bits, hand]
    omega
  have hsubmit : bit (v &&& 3) 3 = false := by
    rw [bit, hand, Nat.div_eq_of_lt (by omega)]
    rfl
  have hlock : bit (v &&& 3) 4 = false := by
    rw [bit, hand, Nat.div_eq_of_lt (by omega)]
    rfl
  unfold State.writeSecDbg
  rw [hlevel, hsubmit, hlock]
  rfl

theorem State.writeSecDbg_lock (s : State) (t : Fin 3) (ok : Bool) : s.writeSecDbg t 16 ok = s.endDebug t := rfl

theorem regWrites_secDbg {i : Instr} {s : State} {c : ChanId} {v : U64} (hi : exec i s = .next (s.writeReg (unitOf c) .firmware (secDbgAt (unitOf c)) v))
    (h : fwReady s c) : ∃ ok, regWrites i c s (s.writeSecDbg (unitOf c) v ok) := by
  rw [secDbgAt_unitOf] at hi
  obtain ⟨r, hreg, hwrite⟩ := regAt_secDbg
  obtain ⟨ok, heq⟩ := hwrite s c .firmware v
  exact ⟨ok, heq ▸ regWrites_of_regAt hi hreg (by decide) (by decide) h⟩

theorem regWrites_dbgReq {s : State} {c : ChanId} (v : U64) (h : fwReady s c) : regWrites (.dbgReq (unitOf c) .firmware v) c s
    (if v.toNat % 4 = 1 then s.dbgRequest (unitOf c) .observe else if v.toNat % 4 = 2 then s.dbgRequest (unitOf c) .invasive else s) := by
  obtain ⟨ok, hreq⟩ := regWrites_secDbg (i := .dbgReq (unitOf c) .firmware v) (s := s) (v := v &&& 3) rfl h
  rwa [State.writeSecDbg_req] at hreq

theorem regWrites_dbgLock {s : State} {c : ChanId} (h : fwReady s c) :
    regWrites (.dbgLock (unitOf c) .firmware) c s (s.endDebug (unitOf c)) := by
  obtain ⟨ok, hlock⟩ := regWrites_secDbg (i := .dbgLock (unitOf c) .firmware) (s := s) (v := 16) rfl h
  rwa [State.writeSecDbg_lock] at hlock

theorem regWrites_dbgSubmit {s : State} {c : ChanId} (ok : Bool) (h : fwReady s c) :
    regWrites (.dbgSubmit (unitOf c) .firmware ok) c s (s.dbgSubmit (unitOf c) ok) := by
  refine congrArg Host.Outcome.next ((State.regDo_firmware s c _ 8 _ _ h).trans ?_)
  rfl

/-- A REQ for a level requests it. -/
theorem regWrites_dbgReq_level {s : State} {c : ChanId} {v : U64} (h : fwReady s c) (hask : v.toNat % 4 = 1 ∨ v.toNat % 4 = 2) :
    regWrites (.dbgReq (unitOf c) .firmware v) c s (s.dbgRequest (unitOf c) (if v.toNat % 4 = 1 then .observe else .invasive)) := by
  have hreq := regWrites_dbgReq v h
  rcases hask with h1 | h2
  · rwa [if_pos h1] at hreq ⊢
  · have h1 : ¬ v.toNat % 4 = 1 := by omega
    rw [if_neg h1, if_pos h2] at hreq
    rwa [if_neg h1]

/-! ### REQ (R369, R370) -/

theorem State.dbgRequest_open {s : State} {c : ChanId} (l : DebugLevel) (hself : (s.ch c).sec.selftestFail = false)
    (hopen : (s.ch c).sec.dbgLevel ≠ .closed) :
    s.dbgRequest (unitOf c) l = s.setCh c ((s.ch c).withSec { (s.ch c).sec with dbgCause := 7 }) := by
  unfold State.dbgRequest
  rw [State.sec_unitOf]
  exact (if_neg (Bool.not_eq_true _ ▸ hself)).trans <| (if_pos hopen).trans (State.onSec_unitOf s c _)

theorem State.dbgRequest_entropy {s : State} {c : ChanId} (l : DebugLevel) (hself : (s.ch c).sec.selftestFail = false)
    (hclosed : (s.ch c).sec.dbgLevel = .closed) (hent : (s.ch c).sec.entropyFail = true) : s.dbgRequest (unitOf c) l =
      s.setCh c ((s.ch c).withSec { (s.ch c).sec with dbgCause := 0xA, nonce := none, reqLevel := none }) := by
  unfold State.dbgRequest
  rw [State.sec_unitOf]
  exact (if_neg (Bool.not_eq_true _ ▸ hself)).trans <| (if_neg (not_not_intro hclosed)).trans <| (if_pos hent).trans (State.onSec_unitOf s c _)

theorem State.dbgRequest_draws {s : State} {c : ChanId} (l : DebugLevel) (hself : (s.ch c).sec.selftestFail = false)
    (hclosed : (s.ch c).sec.dbgLevel = .closed) (hent : (s.ch c).sec.entropyFail = false) : s.dbgRequest (unitOf c) l =
      (s.setCh c ((s.ch c).withSec { (s.ch c).sec with
        nonce := some (BitVec.ofNat 256 (Config.drbg s.free)), reqLevel := some l
        reqInvasive := (s.ch c).sec.settings.invasiveAllow, reqVendor := (s.ch c).sec.settings.vendorObserve })).tookFree 1 := by
  unfold State.dbgRequest
  rw [State.sec_unitOf]
  exact (if_neg (Bool.not_eq_true _ ▸ hself)).trans <| (if_neg (not_not_intro hclosed)).trans <| (if_neg (Bool.not_eq_true _ ▸ hent)).trans <|
    congrArg (State.tookFree · 1) (State.onSec_unitOf s c _)

/-! ### SUBMIT (R371) -/

/-- The checks of a token in their order, each with the cause it refuses under (Table 17-11). -/
def Sec.tokenChecks (x : Sec) (sigOk stateOk powerBad : Bool) : List (Nat × Bool) :=
  let lvl := x.tok 4 1
  let dur := x.tok 8 4
  let signer := x.tok 5 1
  let permitted : Bool := if x.lifecycle = .field ∧ lvl = 1 then (signer == 1 && x.settings.ownerDebug.isSome) || (signer == 0 && x.reqVendor)
    else signer == 0
  [(1, x.tok 0 4 != 0x54444650 || x.tok 6 2 != 0 || x.tok 0xC 4 != 0 || x.tok 0x70 16 != 0 || dur == 0 || decide (86400 < dur)),
    (2, lvl == 0 || x.reqLevel.map (·.code) != some lvl), (3, !permitted), (4, !x.keys || x.tok 0x30 64 != x.idkHash.toNat),
    (5, x.nonce.map (·.toNat) != some (x.tok 0x10 32)), (6, !sigOk), (7, lvl == 2 && !stateOk), (8, powerBad),
    (9, lvl == 2 && x.lifecycle == .field && !x.reqInvasive), (0xA, x.entropyFail)]

theorem find?_map_fst_cons {α : Type} (k : α) (b : Bool) (l : List (α × Bool)) :
    (((k, b) :: l).find? (·.2)).map (·.1) = if b = true then some k else (l.find? (·.2)).map (·.1) := by
  cases b <;> rfl

theorem Sec.signerOk_eq (x : Sec) (signer lvl : Nat) : x.signerOk signer lvl =
    if x.lifecycle = .field ∧ lvl = 1 then (signer == 1 && x.settings.ownerDebug.isSome) || (signer == 0 && x.reqVendor) else signer == 0 := by
  unfold Sec.signerOk
  cases x.lifecycle <;> simp

/-- The cause is that of the first check that fails. -/
theorem Sec.tokenCause_eq_find (x : Sec) (sigOk stateOk powerBad : Bool) :
    x.tokenCause sigOk stateOk powerBad = ((x.tokenChecks sigOk stateOk powerBad).find? (·.2)).map (·.1) := by
  unfold Sec.tokenCause Sec.tokenChecks
  simp only [find?_map_fst_cons, List.find?_nil, Option.map_none, ← Sec.signerOk_eq]
  refine if_congr ?_ rfl (if_congr ?_ rfl (if_congr Iff.rfl rfl (if_congr ?_ rfl (if_congr ?_ rfl (if_congr Iff.rfl rfl (if_congr ?_ rfl
    (if_congr Iff.rfl rfl (if_congr ?_ rfl rfl))))))))
  · simp [or_assoc]
  all_goals simp [and_assoc]

/-- The island state whose nonce and token are consumed. -/
def Sec.spent (x : Sec) : Sec := { x with token := [], nonce := none, reqLevel := none }

/-- The cause under which the channel refuses the token in its buffer. -/
def Channel.submitCause (ch : Channel) (sigOk : Bool) : Option Nat := ch.sec.tokenCause sigOk ch.invasiveState ch.unlockPower

theorem State.dbgSubmit_refused {s : State} {c : ChanId} {ok : Bool} {k : Nat} (hself : (s.ch c).sec.selftestFail = false)
    (hcause : (s.ch c).submitCause ok = some k) : s.dbgSubmit (unitOf c) ok = s.setCh c (((s.ch c).withSec { (s.ch c).sec.spent with
      dbgCause := BitVec.ofNat 8 k, dbgRefused := satAdd (s.ch c).sec.dbgRefused 1 }).withRaised
      ((s.ch c).raise c 0x8004).events ((s.ch c).raise c 0x8004).beat.raised) := by
  rw [Channel.submitCause] at hcause
  unfold State.dbgSubmit
  simp only [State.sec_unitOf, islandChan_unitOf, hself, hcause]
  exact State.onSec_raiseSec_unitOf s c _ _

/-- The island state of an opened session. -/
def Sec.opened (x : Sec) : Sec := ({ x.spent with
  dbgLevel := if x.tok 4 1 = 2 then .invasive else .observe, remainS := BitVec.ofNat 32 (x.tok 8 4)
  dbgOpens := satAdd x.dbgOpens 1 } : Sec).extend 3 x.tokenDigest

/-- The channel of an opened session. -/
def Channel.dbgOpened (ch : Channel) (c : ChanId) : Channel :=
  (ch.withSec ch.sec.opened).withRaised (ch.raise c 0x8003).events (ch.raise c 0x8003).beat.raised

theorem State.dbgSubmit_opens {s : State} {c : ChanId} {ok : Bool} (hself : (s.ch c).sec.selftestFail = false)
    (hcause : (s.ch c).submitCause ok = none) : s.dbgSubmit (unitOf c) ok =
      if (s.ch c).sec.tok 4 1 = 2 then (s.setCh c ((s.ch c).dbgOpened c)).invasiveUnlock (unitOf c) else s.setCh c ((s.ch c).dbgOpened c) := by
  rw [Channel.submitCause] at hcause
  unfold State.dbgSubmit
  simp only [State.sec_unitOf, islandChan_unitOf, hself, hcause]
  rw [State.onSec_raiseSec_unitOf]
  simp only [beq_iff_eq]
  rfl

/-! ### INVASIVE (R371) -/

/-- Links without packets go to DOWN, those that are DOWN already stay, and nothing else changes. -/
theorem State.foldl_linksDown_idle (c : ChanId) (ls : List LinkId) (s : State) (h : ∀ l : LinkId, ((s.ch c).link l.val).queue = []) : ∃ links,
    ls.foldl (fun (r : State) l => if (r.ch c).linkSt l = .down then r else r.linkLeaves c l .down) s = s.setCh c ((s.ch c).withLinks links) ∧
      (∀ l : LinkId, l ∈ ls ∨ (s.ch c).linkSt l = .down → (smGet {} links l.val).st = .down) := by
  induction ls generalizing s with
  | nil => exact ⟨(s.ch c).wrn.links, (s.setCh_ch c).symm, fun l hl => hl.resolve_left List.not_mem_nil⟩
  | cons a ls ih =>
    rw [List.foldl_cons]
    by_cases hdown : (s.ch c).linkSt a = .down
    · rw [if_pos hdown]
      obtain ⟨links, hfold, hdowns⟩ := ih s h
      refine ⟨links, hfold, fun l hl => hdowns l ?_⟩
      rcases hl with hmem | hst
      · exact (List.mem_cons.mp hmem).symm.imp_right fun heq : l = a => heq ▸ hdown
      · exact Or.inr hst
    · have hlink (l : LinkId) : ((s.ch c).onLink a.val Link.down).link l.val =
          if l = a then ((s.ch c).link l.val).down else (s.ch c).link l.val := by
        split
        next heq => rw [heq]; exact smGet_smMod_same ..
        next hne => exact smGet_smMod_other _ _ _ fun hval => hne (Fin.ext hval)
      rw [if_neg hdown, State.linkLeaves_idle (h a)]
      obtain ⟨links, hfold, hdowns⟩ := ih (s.setCh c ((s.ch c).onLink a.val Link.down)) fun l => by
        rw [State.ch_setCh, hlink]
        split
        · rfl
        · exact h l
      rw [State.ch_setCh] at hfold hdowns
      refine ⟨links, ?_, fun l hl => hdowns l ?_⟩
      · rw [hfold, State.setCh_setCh]
        rfl
      · rw [Channel.linkSt, hlink]
        by_cases hmem : l ∈ ls
        · exact Or.inl hmem
        · right
          split
          · rfl
          · rename_i hne
            exact hl.resolve_left fun hin => (List.mem_cons.mp hin).elim hne hmem

theorem State.linksDown_idle {s : State} {c : ChanId} (h : ∀ l : LinkId, ((s.ch c).link l.val).queue = []) : ∃ links,
    s.linksDown c = s.setCh c ((s.ch c).withLinks links) ∧ ∀ l : LinkId, (smGet {} links l.val).st = .down := by
  obtain ⟨links, hfold, hdowns⟩ := State.foldl_linksDown_idle c (List.finRange 48) s h
  exact ⟨links, hfold, fun l => hdowns l (Or.inl (List.mem_finRange l))⟩

theorem State.setChPtd_setCh (s : State) (c : ChanId) (k l : Channel) (p : Ptd) : (s.setChPtd c k p).setCh c l = s.setChPtd c l p := by
  obtain rfl | rfl := ChanId.cases c <;> rfl

/-- The island state after an INVASIVE unlock. -/
def Sec.gated (x : Sec) : Sec := { x with keys := false, session := {}, pufGated := true }

theorem Channel.withBoxes_gated (ch : Channel) (m : Mbx) (x : Session) : (ch.withBoxes m x).withSec
    { (ch.withBoxes m x).sec.zeroise with pufGated := true } = ({ ch with mbx := m } : Channel).withSec ch.sec.gated := rfl

/-- An INVASIVE unlock ends keys, session and links, and unbinds the session's QP. -/
theorem State.invasiveUnlock_idle {s : State} {c : ChanId} (h : ∀ l : LinkId, ((s.ch c).link l.val).queue = []) :
    ∃ (m : Mbx) (links : SMap Link) (p : Ptd), s.invasiveUnlock (unitOf c) =
      s.setChPtd c ((({ s.ch c with mbx := m } : Channel).withSec (s.ch c).sec.gated).withLinks links) p ∧
      (∀ l : LinkId, (smGet {} links l.val).st = .down) ∧ p.events = s.ptd.events := by
  obtain ⟨m, x, hend⟩ := s.endSession_setChPtd c
  generalize hp : (if (s.ch c).sec.session.stage = 0 then s.ptd else s.ptd.onQp (s.ch c).sec.session.qp fun q => { q with bound := false }) = p at hend
  have hevents : p.events = s.ptd.events := by
    rw [← hp]
    split <;> rfl
  have hsec : (s.endSession c).onSec (unitOf c) (fun y => { y.zeroise with pufGated := true }) =
      s.setChPtd c (({ s.ch c with mbx := m } : Channel).withSec (s.ch c).sec.gated) p := by
    rw [State.onSec_unitOf, hend, State.setChPtd_ch, State.setChPtd_setCh, Channel.withBoxes_gated]
  have hunlock : s.invasiveUnlock (unitOf c) =
      ((s.endSession c).onSec (unitOf c) fun y => { y.zeroise with pufGated := true }).linksDown c := by
    unfold State.invasiveUnlock
    rw [islandChan_unitOf]
  obtain ⟨links, hdown, hlinks⟩ := State.linksDown_idle (s := s.setChPtd c (({ s.ch c with mbx := m } : Channel).withSec (s.ch c).sec.gated) p)
    (c := c) (by rw [State.setChPtd_ch]; exact h)
  rw [State.setChPtd_ch] at hdown
  refine ⟨m, links, p, ?_, hlinks, hevents⟩
  rw [hunlock, hsec, hdown]
  exact State.setChPtd_setCh s c _ _ p

/-! ### The end of a session (R372, R373) -/

theorem State.endDebug_closed {s : State} {t : Fin 3} (h : (s.sec t).dbgLevel = .closed) : s.endDebug t = s := if_pos h

theorem State.endDebug_observe {s : State} {t : Fin 3} (h : (s.sec t).dbgLevel = .observe) :
    s.endDebug t = (s.onSec t Sec.close).raiseSec t 0x8005 := (if_neg (by rw [h]; decide)).trans (if_neg (by rw [h]; decide))

theorem State.endDebug_invasive {s : State} {c : ChanId} (h : (s.ch c).sec.dbgLevel = .invasive) : s.endDebug (unitOf c) = s.resetChannel c := by
  rw [← State.sec_unitOf] at h
  refine (if_neg (by rw [h]; decide)).trans ((if_pos h).trans ?_)
  rw [islandChan_unitOf]

/-- The end of a channel's session, by its level. -/
theorem State.endDebug_channel (s : State) (c : ChanId) :
    ((s.ch c).sec.dbgLevel = .closed → s.endDebug (unitOf c) = s) ∧
    ((s.ch c).sec.dbgLevel = .observe → s.endDebug (unitOf c) = s.setCh c (((s.ch c).withSec (s.ch c).sec.close).withRaised
      ((s.ch c).raise c 0x8005).events ((s.ch c).raise c 0x8005).beat.raised)) ∧
    ((s.ch c).sec.dbgLevel = .invasive → s.endDebug (unitOf c) = s.lost c ((s.ch c).afterReset c s.ptd)) := by
  refine ⟨fun h => State.endDebug_closed (by rw [State.sec_unitOf]; exact h), fun h => ?_, fun h => ?_⟩
  · rw [State.endDebug_observe (by rw [State.sec_unitOf]; exact h), State.onSec_raiseSec_unitOf]
  · rw [State.endDebug_invasive h, State.resetChannel_lost]

/-- The channel after the end of a session, by its level. -/
theorem State.endDebug_ends (s : State) (c : ChanId) : let t := s.endDebug (unitOf c)
    ((s.ch c).sec.dbgLevel = .closed → t = s) ∧
    ((s.ch c).sec.dbgLevel = .observe → (t.ch c).sec = (s.ch c).sec.close ∧ (t.ch c).events = ((s.ch c).raise c 0x8005).events ∧
      t = s.setCh c { s.ch c with
        sec := (s.ch c).sec.close, events := (t.ch c).events, beat := { (s.ch c).beat with raised := (t.ch c).beat.raised } }) ∧
    ((s.ch c).sec.dbgLevel = .invasive → t = s.lost c (t.ch c) ∧ (s.ch c).isReset (t.ch c) c s.ptd (s.ch c).resetState) := by
  obtain ⟨hclosed, hobserve, hinvasive⟩ := s.endDebug_channel c
  refine ⟨hclosed, fun h => ?_, fun h => ?_⟩
  · rw [hobserve h, State.ch_setCh]
    exact ⟨rfl, rfl, rfl⟩
  · rw [hinvasive h, State.lost_ch]
    exact ⟨rfl, Channel.afterReset_isReset ..⟩

/-- Settles O50: each command by its checks, and the two ends of a session by the one rule of `State.endDebug_ends`. -/
theorem debugSessionsOpenAndClose : Obligations.DebugSessionsOpenAndClose := by
  unfold Obligations.DebugSessionsOpenAndClose
  intro c v sigOk s
  dsimp only
  refine ⟨fun h => ⟨exec_entropyHealthFail_off h, exec_entropyRecover_off h⟩, fun h => ⟨_, exec_entropyHealthFail_on h, ?_⟩,
    exec_entropyRecover_on, fun h hask hself hopen => ?_, fun h hask hself hclosed hent => ?_, fun h hask hself hclosed hent => ?_,
    fun k h hself hcause => ⟨_, regWrites_dbgSubmit sigOk h, ?_⟩, fun h hself hcause hlvl => ⟨_, regWrites_dbgSubmit sigOk h, ?_⟩,
    fun h hself hcause hlvl hidle => ⟨_, regWrites_dbgSubmit sigOk h, ?_⟩, fun h => ⟨_, regWrites_dbgLock h, s.endDebug_ends c⟩, ⟨_, rfl, s.endDebug_ends c⟩,
    fun h => congrArg Host.Outcome.next (State.endDebug_closed h), fun h => congrArg Host.Outcome.next (State.endDebug_observe h)⟩
  · rw [State.ch_setCh, Channel.withSec_raise]
    exact ⟨rfl, rfl, rfl⟩
  · have hreq := regWrites_dbgReq_level h hask
    rwa [State.dbgRequest_open _ hself hopen] at hreq
  · have hreq := regWrites_dbgReq_level h hask
    rwa [State.dbgRequest_entropy _ hself hclosed hent] at hreq
  · have hreq := regWrites_dbgReq_level h hask
    rw [State.dbgRequest_draws _ hself hclosed hent] at hreq
    obtain rfl | rfl := ChanId.cases c <;> exact hreq
  · rw [State.dbgSubmit_refused hself ((Sec.tokenCause_eq_find ..).trans hcause), State.ch_setCh]
    exact ⟨rfl, rfl, rfl⟩
  · rw [State.dbgSubmit_opens hself ((Sec.tokenCause_eq_find ..).trans hcause), if_neg hlvl, State.ch_setCh]
    exact ⟨rfl, rfl, rfl⟩
  · obtain ⟨m, links, p, hunlock, hdown, hevents⟩ := State.invasiveUnlock_idle (s := s.setCh c ((s.ch c).dbgOpened c)) (c := c)
      (by rw [State.ch_setCh]; exact hidle)
    rw [State.dbgSubmit_opens hself ((Sec.tokenCause_eq_find ..).trans hcause), if_pos hlvl, hunlock, State.ch_setCh, State.setChPtd_ch]
    refine ⟨rfl, hdown, rfl, rfl, ?_, ?_, hevents.trans (by rw [State.setCh_ptd])⟩
    · exact (State.ch_setCh_other _ _ (sibling_ne c)).trans (State.ch_setCh_other _ _ (sibling_ne c))
    · exact (State.setCh_sup _ _ _).trans (State.setCh_sup _ _ _)

end Sys2Proof.Machine
end

section
/-! PROOFS. Requests and answers of the mailboxes (R379 to R383). -/

namespace Sys2Proof.Machine

/-! ### Mailboxes and doorbells -/

@[simp] theorem Channel.box_onBox_same (ch : Channel) (m : Nat) (f : Mailbox → Mailbox) : (ch.onBox m f).box m = f (ch.box m) :=
  smGet_smMod_same _ _ _ _

theorem Channel.box_onBox_other (ch : Channel) {m n : Nat} (f : Mailbox → Mailbox) (h : n ≠ m) : (ch.onBox m f).box n = ch.box n :=
  smGet_smMod_other _ _ _ h

@[simp] theorem Channel.db_onBox (ch : Channel) (m g : Nat) (f : Mailbox → Mailbox) : (ch.onBox m f).db g = ch.db g := rfl

theorem Mbx.onDb_boxes (x : Mbx) (g : Nat) (f : Doorbell → Doorbell) : (x.onDb g f).boxes = x.boxes := by
  unfold Mbx.onDb
  split
  · rfl
  · split
    · rfl
    · split <;> rfl

@[simp] theorem Channel.box_onDb (ch : Channel) (m g : Nat) (f : Doorbell → Doorbell) : (ch.onDb g f).box m = ch.box m := by
  unfold Channel.box Channel.onDb
  rw [Mbx.onDb_boxes]

@[simp] theorem Channel.db_onDb_same (ch : Channel) (g : Nat) (f : Doorbell → Doorbell) : (ch.onDb g f).db g = f (ch.db g) := by
  unfold Channel.db Channel.onDb Mbx.db Mbx.onDb
  split
  · rfl
  · split
    · rfl
    · split <;> rfl

/-! ### Answers (R382) -/

/-- Channel `k` is `ch` as far as an answer in mailbox `m` looks: the header there, the other mailboxes, and the doorbells. -/
def Channel.asksAs (ch k : Channel) (m : Nat) : Prop :=
  (k.box m).hdr = (ch.box m).hdr ∧ (∀ n : Nat, n ≠ m → k.box n = ch.box n) ∧ ∀ g : Nat, k.db g = ch.db g

theorem Channel.asksAs_of_mbx {ch k : Channel} (h : k.mbx = ch.mbx) (m : Nat) : ch.asksAs k m := by
  unfold Channel.asksAs Channel.box Channel.db
  rw [h]
  exact ⟨rfl, fun _ _ => rfl, fun _ => rfl⟩

theorem Channel.asksAs.trans {x y z : Channel} {m : Nat} (h : x.asksAs y m) (h' : y.asksAs z m) : x.asksAs z m :=
  ⟨h'.1.trans h.1, fun n hn => (h'.2.1 n hn).trans (h.2.1 n hn), fun g => (h'.2.2 g).trans (h.2.2 g)⟩

/-- What answers a channel answers any that asks as it does. -/
theorem Channel.asksAs.answered {ch k t : Channel} {m status : Nat} (h : ch.asksAs k m) (hans : k.answered t m status) : ch.answered t m status := by
  obtain ⟨hhdr, hboxes, hdb⟩ := h
  obtain ⟨hst, hflags, hop, hseq, hstatus, hbell, hother⟩ := hans
  refine ⟨hst, hflags, hop.trans (by rw [hhdr]), hseq.trans (by rw [hhdr]), hstatus, ?_, fun n hn => (hother n hn).trans (hboxes n hn)⟩
  rw [← hdb]
  exact hbell

/-- An answer is a matter of the mailboxes and doorbells alone. -/
theorem Channel.answered_of_mbx {ch t u : Channel} {m status : Nat} (h : u.mbx = t.mbx) (hans : ch.answered t m status) : ch.answered u m status := by
  unfold Channel.answered Channel.box Channel.db at *
  rw [h]
  exact hans

theorem Channel.notifyOut_events (ch : Channel) (c : ChanId) (g : Nat) (note : U32) :
    ∃ evs, ch.notifyOut c g note = ch.withRaised evs ch.beat.raised := by
  unfold Channel.notifyOut
  split
  · exact ⟨_, rfl⟩
  · exact ⟨_, rfl⟩

/-- The response that stands in a mailbox, with its counter and tag. -/
def Mailbox.response (b : Mailbox) (status len : Nat) (iv : BitVec 96) (tag : BitVec 128) (body : List Byte) : Mailbox :=
  { b with
    payload := smSetAll 0 b.payload 0 body
    hdr := { st := 3, opcode := b.hdr.opcode, seq := b.hdr.seq, len := BitVec.ofNat 16 len, status := BitVec.ofNat 16 status, iv := iv, gcmTag := tag } }

/-- A response with its doorbell bit answers the request. -/
theorem Channel.setOut_answered (ch : Channel) (c : ChanId) {m : Nat} (status len : Nat) (iv : BitVec 96) (tag : BitVec 128) (body : List Byte)
    (hm : m < 10) : ch.answered ((ch.onBox m fun b => b.response status len iv tag body).setOut c (if m < 8 then 1 else 3) (boxBit m)) m status := by
  have hused : boxBit m &&& usedBits (if m < 8 then 1 else 3) = boxBit m := by
    interval_cases m <;> rfl
  unfold Channel.setOut
  dsimp only
  rw [hused]
  obtain ⟨evs, hnote⟩ := ((ch.onBox m fun b => b.response status len iv tag body).onDb (if m < 8 then 1 else 3)
    fun d => { d with val := d.val ||| boxBit m }).notifyOut_events c (if m < 8 then 1 else 3)
    (boxBit m &&& ~~~((ch.onBox m fun b => b.response status len iv tag body).db (if m < 8 then 1 else 3)).val &&&
      ~~~((ch.onBox m fun b => b.response status len iv tag body).db (if m < 8 then 1 else 3)).mask)
  rw [hnote]
  refine Channel.answered_of_mbx (t := (ch.onBox m fun b => b.response status len iv tag body).onDb (if m < 8 then 1 else 3)
    fun d => { d with val := d.val ||| boxBit m }) rfl ?_
  unfold Channel.answered
  rw [Channel.box_onDb, Channel.box_onBox_same, Channel.db_onDb_same, Channel.db_onBox]
  refine ⟨rfl, rfl, rfl, rfl, rfl, rfl, fun n hn => ?_⟩
  rw [Channel.box_onDb, Channel.box_onBox_other _ _ hn]

/-- The session after an answer in mailbox `m`: over a bound one the outbound counter advances. -/
def Channel.answerSession (ch : Channel) (m : Nat) : Session :=
  if ch.boxBound m then { ch.sec.session with ivOut := ch.sec.session.ivOut + 1 } else ch.sec.session

theorem Channel.setOut_mbx (ch : Channel) (c : ChanId) (g : Nat) (v : U32) :
    ∃ x evs, ch.setOut c g v = (ch.withBoxes x ch.sec.session).withRaised evs ch.beat.raised := by
  obtain ⟨evs, hnote⟩ := (ch.onDb g fun d => { d with val := d.val ||| (v &&& usedBits g) }).notifyOut_events c g
    (v &&& usedBits g &&& ~~~(ch.db g).val &&& ~~~(ch.db g).mask)
  exact ⟨_, evs, hnote⟩

/-- State `t` is `s` with channel `c` made `k`, the session `y`, `n` free values taken, and mailbox `m` answered. -/
def State.replies (s : State) (c : ChanId) (m status : Nat) (k : Channel) (y : Session) (n : Nat) (t : State) : Prop :=
  (s.ch c).answered (t.ch c) m status ∧ ∃ x evs rs, t = (s.setCh c ((k.withBoxes x y).withRaised evs rs)).tookFree n

/-- The channel that writes a response, with the IV, tag and bytes it carries, before its doorbell bit. -/
def Channel.writesResponse (ch : Channel) (m status len : Nat) (iv : BitVec 96) (tag : BitVec 128) (body : List Byte) : Channel :=
  ({ ch with sec := { ch.sec with session := ch.answerSession m } } : Channel).onBox m fun b => b.response status len iv tag body

theorem State.respond_eq (u : State) (c : ChanId) (m status : Nat) (payload : List Byte) : ∃ iv tag body, u.respond c m status payload =
    (u.setCh c (((u.ch c).writesResponse m status payload.length iv tag body).setOut c (if m < 8 then 1 else 3) (boxBit m))).tookFree
      (if (u.ch c).boxBound m then 2 else 0) := by
  unfold State.respond Channel.writesResponse Channel.answerSession
  cases hb : (u.ch c).boxBound m
  · exact ⟨0, 0, payload, rfl⟩
  · refine ⟨BitVec.ofNat 96 (2 + (u.ch c).sec.session.ivOut * 2 ^ 32), BitVec.ofNat 128 (Config.freeValue (u.free + 1)),
      freeBytes u.free payload.length, ?_⟩
    obtain rfl | rfl := ChanId.cases c <;> rfl

theorem State.tookFree_setCh (s : State) (c : ChanId) (k : Channel) (n : Nat) : (s.tookFree n).setCh c k = (s.setCh c k).tookFree n := by
  obtain rfl | rfl := ChanId.cases c <;> rfl

theorem State.tookFree_tookFree (s : State) (n m : Nat) : (s.tookFree n).tookFree m = s.tookFree (n + m) := by
  rw [State.tookFree, State.tookFree, State.tookFree, Nat.add_assoc]

/-- A response is an answer. -/
theorem State.respond_replies {s : State} {c : ChanId} {k : Channel} {m : Nat} (n status : Nat) (payload : List Byte) (hk : (s.ch c).asksAs k m)
    (hm : m < 10) : s.replies c m status k (k.answerSession m) (n + if k.boxBound m then 2 else 0)
      (((s.setCh c k).tookFree n).respond c m status payload) := by
  obtain ⟨iv, tag, body, hresp⟩ := ((s.setCh c k).tookFree n).respond_eq c m status payload
  rw [State.tookFree_ch, State.ch_setCh] at hresp
  obtain ⟨x, evs, hout⟩ := (k.writesResponse m status payload.length iv tag body).setOut_mbx c (if m < 8 then 1 else 3) (boxBit m)
  have hans : k.answered ((k.writesResponse m status payload.length iv tag body).setOut c (if m < 8 then 1 else 3) (boxBit m)) m status :=
    (Channel.asksAs_of_mbx (k := { k with sec := { k.sec with session := k.answerSession m } }) rfl m).answered
      (Channel.setOut_answered _ c status payload.length iv tag body hm)
  rw [hresp]
  refine ⟨?_, x, evs, k.beat.raised, ?_⟩
  · rw [State.tookFree_ch, State.ch_setCh]
    exact hk.answered hans
  · rw [hout, State.tookFree_setCh, State.setCh_setCh, State.tookFree_tookFree]
    rfl

/-- A refusal is an answer. -/
theorem State.refuseBox_replies {s : State} {c : ChanId} {k : Channel} {m : Nat} (n code : Nat) (hk : (s.ch c).asksAs k m) (hm : m < 10) :
    s.replies c m code k (k.answerSession m) (n + if k.boxBound m then 2 else 0) (((s.setCh c k).tookFree n).refuseBox c m code) := by
  have hraise : ∃ evs rs, k.raiseBox c code m = k.withRaised evs rs := by
    unfold Channel.raiseBox
    split
    · exact ⟨_, _, rfl⟩
    · exact ⟨_, _, rfl⟩
  obtain ⟨evs, rs, hraise⟩ := hraise
  have hasks : (s.ch c).asksAs (k.withRaised evs rs) m := hk.trans (Channel.asksAs_of_mbx rfl m)
  have hrefuse : ((s.setCh c k).tookFree n).refuseBox c m code = ((s.setCh c (k.withRaised evs rs)).tookFree n).respond c m code [] := by
    unfold State.refuseBox
    rw [← hraise]
    congr 1
    obtain rfl | rfl := ChanId.cases c <;> rfl
  obtain ⟨hans, x, evs', rs', ht⟩ := State.respond_replies n code [] hasks hm
  rw [hrefuse]
  exact ⟨hans, x, evs', rs', ht⟩

section

variable {s t : State} {c : ChanId} {m status n : Nat} {k : Channel} {y : Session}

theorem State.replies.answered (h : s.replies c m status k y n t) : (s.ch c).answered (t.ch c) m status := h.1

/-- What an answer leaves besides. -/
theorem State.replies.kept (h : s.replies c m status k y n t) : (t.ch c).sec = { k.sec with session := y } ∧ (t.ch c).mem = k.mem ∧
    (t.ch c).ser = k.ser ∧ t.ptd = s.ptd ∧ onlyChannelSent c s t := by
  obtain ⟨-, x, evs, rs, rfl⟩ := h
  rw [State.tookFree_ch, State.ch_setCh]
  exact ⟨rfl, rfl, rfl, s.setCh_ptd c _, (onlyChannelSent_setCh s c _).trans (onlyChannelSent_tookFree _ c n)⟩

end

/-! ### Requests (R382, R383) -/

/-- A mailbox without the request is left alone. -/
theorem State.serve_other {s : State} {c : ChanId} {m op : Nat} (plain : Option (List Byte)) (k : State → List Byte → State)
    (h : ¬ (s.ch c).requested m op) : s.serve c m op plain k = s := by
  refine if_pos ?_
  by_contra hno
  simp only [not_or, not_not, Bool.not_eq_true] at hno
  exact h hno

/-- A request that no session protects is served in the clear. -/
theorem State.serve_plain {s : State} {c : ChanId} {m op : Nat} (plain : Option (List Byte)) (k : State → List Byte → State)
    (h : (s.ch c).requested m op) (hb : (s.ch c).boxBound m = false) : s.serve c m op plain k = k s ((s.ch c).payload m) := by
  obtain ⟨hst, hfrom, hop⟩ := h
  refine (if_neg (by simp [hst, hfrom, hop])).trans (if_neg (by rw [hb]; decide))

/-- The channel that has taken a whole object out of mailbox `m`. -/
def Channel.objectTaken (ch : Channel) (m : Nat) : Channel := ch.onBox m fun x => { x with object := [], nextFrag := none, objOp := 0 }

theorem Channel.objectTaken_asksAs (ch : Channel) (m : Nat) : ch.asksAs (ch.objectTaken m) m := by
  refine ⟨?_, fun n hn => ch.box_onBox_other _ hn, fun g => rfl⟩
  rw [Channel.objectTaken, Channel.box_onBox_same]

/-- A request without fragments is the whole object. -/
theorem State.fragment_single {s : State} {c : ChanId} {m : Nat} (data : List Byte) (k : State → List Byte → State) (h : (s.ch c).single m) :
    s.fragment c m data k = k (s.setCh c ((s.ch c).objectTaken m)) data := by
  obtain ⟨hmore, hnext, hobj⟩ := h
  unfold State.fragment
  simp only [hmore, hnext, hobj]
  rfl

end Sys2Proof.Machine
end

section
/-! PROOFS. Quotes, measurements, firmware opcodes and the session handshake (R364, R365, R382 to R384, R401). -/

namespace Sys2Proof.Machine

/-! ### Requests in the clear -/

section

variable {s : State} {c : ChanId} {m : Nat}

/-- A request in mailbox `m` that no session protects. -/
def Channel.plainRequest (ch : Channel) (m op : Nat) : Prop := ch.requested m op ∧ ch.boxBound m = false

theorem Channel.boxBound_congr {ch k : Channel} (hsec : k.sec = ch.sec) (hqp : (k.box m).qp = (ch.box m).qp) : k.boxBound m = ch.boxBound m := by
  unfold Channel.boxBound
  rw [hsec, hqp]

theorem Channel.answerSession_plain {k : Channel} (h : k.boxBound m = false) : k.answerSession m = k.sec.session := by
  rw [Channel.answerSession, h]
  rfl

/-- A refusal in the clear changes nothing but the mailbox and its events. -/
theorem State.refuseBox_plain {k : Channel} (n code : Nat) (hk : (s.ch c).asksAs k m) (hm : m < 10) (h : k.boxBound m = false) :
    s.replies c m code k k.sec.session n (((s.setCh c k).tookFree n).refuseBox c m code) := by
  have hrefuse := State.refuseBox_replies n code hk hm
  rw [Channel.answerSession_plain h, h] at hrefuse
  exact hrefuse

theorem State.respond_plain {k : Channel} (n status : Nat) (payload : List Byte) (hk : (s.ch c).asksAs k m) (hm : m < 10) (h : k.boxBound m = false) :
    s.replies c m status k k.sec.session n (((s.setCh c k).tookFree n).respond c m status payload) := by
  have hrespond := State.respond_replies n status payload hk hm
  rw [Channel.answerSession_plain h, h] at hrespond
  exact hrespond

theorem State.tookFree_zero (s : State) : s.tookFree 0 = s := rfl

theorem State.setCh_respond_plain {k : Channel} (status : Nat) (payload : List Byte) (hk : (s.ch c).asksAs k m) (hm : m < 10)
    (h : k.boxBound m = false) : s.replies c m status k k.sec.session 0 ((s.setCh c k).respond c m status payload) := by
  have hrespond := State.respond_plain 0 status payload hk hm h
  rwa [State.tookFree_zero] at hrespond

/-- The refusal of a request by a state that has changed nothing yet. -/
theorem State.refuseBox_same (code : Nat) (hm : m < 10) (h : (s.ch c).boxBound m = false) :
    s.replies c m code (s.ch c) (s.ch c).sec.session 0 (s.refuseBox c m code) := by
  have hrefuse := State.refuseBox_plain (s := s) (c := c) (k := s.ch c) 0 code (Channel.asksAs_of_mbx rfl m) hm h
  rw [State.setCh_ch] at hrefuse
  exact hrefuse

end

/-! ### Measurement (R364) -/

section

variable {s : State} {c : ChanId} {box : Fin 10}

theorem leNat_lt (l : List Byte) : leNat l < 256 ^ l.length := by
  induction l with
  | nil => exact Nat.one_pos
  | cons b r ih =>
    have hb := b.isLt
    rw [leNat, List.length_cons, Nat.pow_succ]
    omega

theorem natAt_lt (l : List Byte) (off n : Nat) : natAt l off n < 256 ^ n :=
  (leNat_lt _).trans_le (Nat.pow_le_pow_right (by decide) (List.length_take_le ..))

/-- As many bytes as a word has fit it. -/
theorem toNat_ofNat_natAt (l : List Byte) (off n : Nat) {w : Nat} (hw : w = 8 * n) : (BitVec.ofNat w (natAt l off n)).toNat = natAt l off n := by
  subst hw
  rw [BitVec.toNat_ofNat, Nat.pow_mul]
  exact Nat.mod_eq_of_lt (natAt_lt l off n)

/-- The channel whose island has extended a measurement register. -/
def Channel.extended (ch : Channel) (i : Nat) (v : U512) : Channel := ch.withSec (ch.sec.extend i v)

theorem Channel.extended_mr_other (ch : Channel) {i k : Nat} (v : U512) (h : k ≠ i) (y : Session) :
    smGet 0 ({ (ch.extended i v).sec with session := y } : Sec).mr k = smGet 0 ch.sec.mr k := ch.sec.reg_extend_other v h

theorem Channel.extended_mr (ch : Channel) (i : Nat) (v : U512) (y : Session) :
    smGet 0 ({ (ch.extended i v).sec with session := y } : Sec).mr i = extendMr (smGet 0 ch.sec.mr i) v := ch.sec.reg_extend_same i v

/-- Only the registers change. -/
theorem Channel.extended_eq (ch : Channel) (i : Nat) (v : U512) : ∃ m, ch.extended i v = ch.withSec { ch.sec with mr := m } := ⟨_, rfl⟩

theorem Channel.extended_session (ch : Channel) (i : Nat) (v : U512) : (ch.extended i v).sec.session = ch.sec.session := by
  obtain ⟨m, hm⟩ := ch.extended_eq i v
  rw [hm]
  rfl

theorem Channel.extended_sec (ch : Channel) (i : Nat) (v : U512) : ({ (ch.extended i v).sec with session := ch.sec.session } : Sec) =
    { ch.sec with mr := ({ (ch.extended i v).sec with session := ch.sec.session } : Sec).mr } := by
  obtain ⟨m, hm⟩ := ch.extended_eq i v
  rw [hm]
  rfl

theorem Channel.extended_kept (ch : Channel) (i : Nat) (v : U512) : (ch.extended i v).mbx = ch.mbx ∧ (ch.extended i v).mem = ch.mem := by
  obtain ⟨m, hm⟩ := ch.extended_eq i v
  rw [hm]
  exact ⟨rfl, rfl⟩

theorem Channel.extended_boxBound (ch : Channel) (i : Nat) (v : U512) (m : Nat) : (ch.extended i v).boxBound m = ch.boxBound m := by
  obtain ⟨r, hr⟩ := ch.extended_eq i v
  rw [hr]
  rfl

/-- What MR_EXTEND does with its payload. -/
def State.mrExtend (s : State) (c : ChanId) (m : Nat) (data : List Byte) : State :=
  if data.length ≠ 65 ∨ (natAt data 0 1 ≠ 6 ∧ natAt data 0 1 ≠ 7) then s.refuseBox c m 0xA002
  else (s.onCh c fun ch => ch.extended (natAt data 0 1) (BitVec.ofNat 512 (natAt data 1 64))).respond c m 0 []

theorem exec_mbxMrExtend (h : (s.ch c).plainRequest box.val 2) :
    exec (.mbxMrExtend c box none) s = .next (s.mrExtend c box.val ((s.ch c).payload box.val)) :=
  congrArg Host.Outcome.next (State.serve_plain none (fun s1 data => s1.mrExtend c box.val data) h.1 h.2)

theorem exec_mbxMrExtend_extends (h : (s.ch c).plainRequest box.val 2) (hlen : ((s.ch c).payload box.val).length = 65)
    (hi : natAt ((s.ch c).payload box.val) 0 1 = 6 ∨ natAt ((s.ch c).payload box.val) 0 1 = 7) : ∃ t, exec (.mbxMrExtend c box none) s = .next t ∧
    s.replies c box.val 0 ((s.ch c).extended (natAt ((s.ch c).payload box.val) 0 1) (BitVec.ofNat 512 (natAt ((s.ch c).payload box.val) 1 64)))
      (s.ch c).sec.session 0 t := by
  have hgood : ¬ (((s.ch c).payload box.val).length ≠ 65 ∨
      (natAt ((s.ch c).payload box.val) 0 1 ≠ 6 ∧ natAt ((s.ch c).payload box.val) 0 1 ≠ 7)) := by omega
  refine ⟨_, (exec_mbxMrExtend h).trans (congrArg Host.Outcome.next (if_neg hgood)), ?_⟩
  have hresp := State.setCh_respond_plain (s := s) (k := (s.ch c).extended (natAt ((s.ch c).payload box.val) 0 1)
    (BitVec.ofNat 512 (natAt ((s.ch c).payload box.val) 1 64))) 0 [] (Channel.asksAs_of_mbx ((s.ch c).extended_kept _ _).1 _) box.isLt
    ((Channel.extended_boxBound _ _ _ _).trans h.2)
  rwa [Channel.extended_session] at hresp

theorem exec_mbxMrExtend_refuses (h : (s.ch c).plainRequest box.val 2) (hbad : ((s.ch c).payload box.val).length ≠ 65 ∨
    (natAt ((s.ch c).payload box.val) 0 1 ≠ 6 ∧ natAt ((s.ch c).payload box.val) 0 1 ≠ 7)) : ∃ t, exec (.mbxMrExtend c box none) s = .next t ∧
    s.replies c box.val 0xA002 (s.ch c) (s.ch c).sec.session 0 t :=
  ⟨_, (exec_mbxMrExtend h).trans (congrArg Host.Outcome.next (if_pos hbad)), State.refuseBox_same 0xA002 box.isLt h.2⟩

/-! ### Quotes (R365) -/

theorem Channel.quoteBody_length (ch : Channel) (c : ChanId) {nonce : List Byte} (h : nonce.length = 64) : (ch.quoteBody c nonce).length = 768 := by
  simp [Channel.quoteBody, leBytes_length, h, List.length_flatMap]

/-- The signature of a quote: the island's own bytes, or zeros without an identity key. -/
def State.quoteSig (s : State) (c : ChanId) : List Byte := if (s.ch c).sec.keys then freeBytes s.free 4627 else List.replicate 4627 0

theorem State.quoteSig_length (s : State) (c : ChanId) : (s.quoteSig c).length = 4627 := by
  unfold State.quoteSig
  split
  · exact freeBytes_length _ _
  · exact List.length_replicate

/-- The channel that has written a quote. -/
def Channel.quoted (ch : Channel) (off : Nat) (bytes : List Byte) : Channel :=
  { ch.hbmWrite off bytes with sec := { ch.sec with quotes := satAdd ch.sec.quotes 1 } }

/-- What QUOTE does with its payload. -/
def State.quote (s : State) (c : ChanId) (m : Nat) (data : List Byte) : State :=
  if data.length ≠ 72 ∨ hbmSize < natAt data 64 8 + 5395 then s.refuseBox c m 0xA002
  else ((if (s.ch c).sec.keys then s.tookFree 1 else s).onCh c fun k =>
    { k.hbmWrite (natAt data 64 8) ((s.ch c).quoteBody c (data.take 64) ++ s.quoteSig c) with
      sec := { k.sec with quotes := satAdd k.sec.quotes 1 } }).respond c m 0 []

theorem exec_mbxQuote (h : (s.ch c).plainRequest box.val 1) :
    exec (.mbxQuote c box none) s = .next (s.quote c box.val ((s.ch c).payload box.val)) :=
  congrArg Host.Outcome.next (State.serve_plain none (fun s1 data => s1.quote c box.val data) h.1 h.2)

theorem exec_mbxQuote_quotes (h : (s.ch c).plainRequest box.val 1) (hlen : ((s.ch c).payload box.val).length = 72)
    (hoff : natAt ((s.ch c).payload box.val) 64 8 + 5395 ≤ hbmSize) : ∃ n t, exec (.mbxQuote c box none) s = .next t ∧
    s.replies c box.val 0 ((s.ch c).quoted (natAt ((s.ch c).payload box.val) 64 8)
      ((s.ch c).quoteBody c (((s.ch c).payload box.val).take 64) ++ s.quoteSig c)) (s.ch c).sec.session n t := by
  have hgood : ¬ (((s.ch c).payload box.val).length ≠ 72 ∨ hbmSize < natAt ((s.ch c).payload box.val) 64 8 + 5395) := by omega
  refine ⟨if (s.ch c).sec.keys then 1 else 0, _, (exec_mbxQuote h).trans (congrArg Host.Outcome.next (if_neg hgood)), ?_⟩
  have htook : (if (s.ch c).sec.keys then s.tookFree 1 else s) = s.tookFree (if (s.ch c).sec.keys then 1 else 0) := by
    split <;> rfl
  rw [htook, State.onCh, State.tookFree_ch, State.tookFree_setCh]
  exact State.respond_plain (s := s) (k := (s.ch c).quoted (natAt ((s.ch c).payload box.val) 64 8)
    ((s.ch c).quoteBody c (((s.ch c).payload box.val).take 64) ++ s.quoteSig c)) _ 0 [] (Channel.asksAs_of_mbx rfl box.val) box.isLt h.2

theorem exec_mbxQuote_refuses (h : (s.ch c).plainRequest box.val 1) (hbad : ((s.ch c).payload box.val).length ≠ 72 ∨
    hbmSize < natAt ((s.ch c).payload box.val) 64 8 + 5395) : ∃ t, exec (.mbxQuote c box none) s = .next t ∧
    s.replies c box.val 0xA002 (s.ch c) (s.ch c).sec.session 0 t :=
  ⟨_, (exec_mbxQuote h).trans (congrArg Host.Outcome.next (if_pos hbad)), State.refuseBox_same 0xA002 box.isLt h.2⟩

/-- A quote in HBM: its body, and its signature behind it. -/
theorem Channel.hbmBytes_quoted {ch : Channel} {off : Nat} {body sig : List Byte} (hbody : body.length = 768) (hsig : sig.length = 4627)
    (hclean : ch.mem.hbmPoison = []) : (ch.quoted off (body ++ sig)).hbmBytes off 768 = body ∧
      (ch.quoted off (body ++ sig)).hbmBytes (off + 768) 4627 = sig := by
  have hall : smGetAll 0 (ch.hbmWrite off (body ++ sig)).mem.hbm off (body ++ sig).length = body ++ sig := ch.hbmBytes_hbmWrite off (body ++ sig) hclean
  have hsplit : smGetAll 0 (ch.hbmWrite off (body ++ sig)).mem.hbm off (768 + 4627) =
      smGetAll 0 (ch.hbmWrite off (body ++ sig)).mem.hbm off 768 ++ smGetAll 0 (ch.hbmWrite off (body ++ sig)).mem.hbm (off + 768) 4627 := by
    simp only [smGetAll, List.range_add, List.map_append, List.map_map, Function.comp_def, Nat.add_assoc]
  rw [List.length_append, hbody, hsig, hsplit] at hall
  exact List.append_inj hall ((smGetAll_length ..).trans hbody.symm)

end

section

variable {s : State} {c : ChanId} {box : Fin 10}

/-- A quote is written, counted and answered. -/
theorem exec_mbxQuote_writes (h : (s.ch c).plainRequest box.val 1) (hlen : ((s.ch c).payload box.val).length = 72)
    (hoff : natAt ((s.ch c).payload box.val) 64 8 + 5395 ≤ hbmSize) : let off := natAt ((s.ch c).payload box.val) 64 8
    ∃ t, exec (.mbxQuote c box none) s = .next t ∧ (s.ch c).answered (t.ch c) box.val 0 ∧
      (t.ch c).sec = { (s.ch c).sec with quotes := satAdd (s.ch c).sec.quotes 1 } ∧
      ((s.ch c).mem.hbmPoison = [] → (t.ch c).hbmBytes off 768 = (s.ch c).quoteBody c (((s.ch c).payload box.val).take 64) ∧
        ((s.ch c).sec.keys = false → (t.ch c).hbmBytes (off + 768) 4627 = List.replicate 4627 0)) ∧
      (∀ a : Nat, (a < off ∨ off + 5395 ≤ a) → smGet 0 (t.ch c).mem.hbm a = smGet 0 (s.ch c).mem.hbm a) ∧
      (t.ch c).mem.sram = (s.ch c).mem.sram ∧ onlyChannelSent c s t := by
  obtain ⟨n, t, hexec, hrep⟩ := exec_mbxQuote_quotes h hlen hoff
  obtain ⟨hsec, hmem, -, -, hsent⟩ := hrep.kept
  have hbody := (s.ch c).quoteBody_length c (nonce := ((s.ch c).payload box.val).take 64) (by rw [List.length_take, hlen]; rfl)
  have hsig := s.quoteSig_length c
  have hread (hclean : (s.ch c).mem.hbmPoison = []) := Channel.hbmBytes_quoted (off := natAt ((s.ch c).payload box.val) 64 8) hbody hsig hclean
  have hbytes (a n : Nat) : (t.ch c).hbmBytes a n = ((s.ch c).quoted (natAt ((s.ch c).payload box.val) 64 8)
      ((s.ch c).quoteBody c (((s.ch c).payload box.val).take 64) ++ s.quoteSig c)).hbmBytes a n := by
    rw [Channel.hbmBytes, hmem]
    rfl
  refine ⟨t, hexec, hrep.answered, hsec, fun hclean => ⟨?_, fun hkeys => ?_⟩, fun a ha => ?_, by rw [hmem]; rfl, hsent⟩
  · rw [hbytes]
    exact (hread hclean).1
  · rw [hbytes, (hread hclean).2, State.quoteSig, hkeys]
    rfl
  · rw [hmem]
    exact Channel.hbmWrite_outside _ _ _ (by rw [List.length_append, hbody, hsig]; exact ha)

/-- MR_EXTEND extends its register and leaves the others. -/
theorem exec_mbxMrExtend_measures (h : (s.ch c).plainRequest box.val 2) (hlen : ((s.ch c).payload box.val).length = 65)
    (hi : natAt ((s.ch c).payload box.val) 0 1 = 6 ∨ natAt ((s.ch c).payload box.val) 0 1 = 7) : let i := natAt ((s.ch c).payload box.val) 0 1
    ∃ t, exec (.mbxMrExtend c box none) s = .next t ∧ (s.ch c).answered (t.ch c) box.val 0 ∧
      smGet 0 (t.ch c).sec.mr i = sha3 (leBytes 64 (smGet 0 (s.ch c).sec.mr i).toNat ++ leBytes 64 (natAt ((s.ch c).payload box.val) 1 64)) ∧
      (∀ k : Nat, k ≠ i → smGet 0 (t.ch c).sec.mr k = smGet 0 (s.ch c).sec.mr k) ∧ (t.ch c).mem = (s.ch c).mem ∧
      (t.ch c).sec = { (s.ch c).sec with mr := (t.ch c).sec.mr } ∧ onlyChannelSent c s t := by
  obtain ⟨t, hexec, hrep⟩ := exec_mbxMrExtend_extends h hlen hi
  obtain ⟨hsec, hmem, -, -, hsent⟩ := hrep.kept
  refine ⟨t, hexec, hrep.answered, ?_, fun k hk => ?_, hmem.trans ((s.ch c).extended_kept _ _).2, ?_, hsent⟩
  · rw [hsec, Channel.extended_mr, extendMr, toNat_ofNat_natAt _ _ 64 rfl]
  · rw [hsec]
    exact (s.ch c).extended_mr_other _ hk _
  · rw [hsec]
    exact Channel.extended_sec _ _ _

end

/-! ### Firmware opcodes (R382) -/

section

variable {s : State} {c : ChanId}

theorem exec_mbxFirmwareOpcode_other {box : Fin 8} (h : ∀ op : Nat, 0x8000 ≤ op → ¬ (s.ch c).requested box.val op) :
    exec (.mbxFirmwareOpcode c box) s = .next s := by
  refine if_pos ?_
  by_contra hno
  simp only [not_or, not_not, Bool.not_eq_true, Nat.not_lt] at hno
  obtain ⟨hst, hfrom, hop⟩ := hno
  exact h _ hop ⟨hst, hfrom, rfl⟩

theorem exec_mbxFirmwareOpcode_answers {box : Fin 8} {op : Nat} (hop : 0x8000 ≤ op) (h : (s.ch c).requested box.val op) :
    ∃ status t, exec (.mbxFirmwareOpcode c box) s = .next t ∧ s.replies c box.val status (s.ch c) (s.ch c).sec.session 2 t := by
  obtain ⟨hst, hfrom, hopcode⟩ := h
  have hplain : (s.ch c).boxBound box.val = false := by simp [Channel.boxBound, Nat.not_le.mpr box.isLt]
  refine ⟨s.freeVal % 2 ^ 16, _, if_neg (by simp [hst, hfrom, hopcode, hop]), ?_⟩
  have hresp := State.respond_plain (s := s) (k := s.ch c) 2 (s.freeVal % 2 ^ 16) (freeBytes (s.free + 1) (s.freeVal / 2 ^ 16 % 4097))
    (Channel.asksAs_of_mbx rfl box.val) (by omega) hplain
  rw [State.setCh_ch] at hresp
  exact hresp

/-! ### The handshake (R383, R384, R401) -/

/-- A whole handshake request in S0 that no session protects. -/
def Channel.handshake (ch : Channel) (op : Nat) : Prop := ch.plainRequest 8 op ∧ ch.single 8

theorem Channel.objectTaken_boxBound (ch : Channel) (m : Nat) : (ch.objectTaken m).boxBound m = ch.boxBound m :=
  Channel.boxBound_congr rfl (by rw [Channel.objectTaken, Channel.box_onBox_same])

/-- A whole handshake request is served with the object taken. -/
theorem State.serve_handshake {op : Nat} (k : State → List Byte → State) (h : (s.ch c).handshake op) :
    s.serve c 8 op none (fun s1 data => s1.fragment c 8 data k) = k (s.setCh c ((s.ch c).objectTaken 8)) ((s.ch c).payload 8) := by
  obtain ⟨⟨hreq, hplain⟩, hsingle⟩ := h
  rw [State.serve_plain none _ hreq hplain, State.fragment_single _ _ hsingle]

/-- The handshake's refusals and answers, with the object taken and session `y`. -/
theorem State.refuse_handshake {op : Nat} (code : Nat) (h : (s.ch c).handshake op) :
    s.replies c 8 code ((s.ch c).objectTaken 8) (s.ch c).sec.session 0 ((s.setCh c ((s.ch c).objectTaken 8)).refuseBox c 8 code) :=
  State.refuseBox_plain 0 code ((s.ch c).objectTaken_asksAs 8) (by decide) ((Channel.objectTaken_boxBound _ _).trans h.1.2)

/-- The channel that has taken the object and holds another session, not a bound one. -/
def Channel.shakes (ch : Channel) (y : Session) : Channel := (ch.objectTaken 8).withSec { ch.sec with session := y }

theorem State.respond_handshake {y : Session} (n : Nat) (payload : List Byte) (hy : ((s.ch c).shakes y).boxBound 8 = false) :
    s.replies c 8 0 ((s.ch c).shakes y) y n (((s.setCh c ((s.ch c).shakes y)).tookFree n).respond c 8 0 payload) :=
  State.respond_plain n 0 payload (((s.ch c).objectTaken_asksAs 8).trans (Channel.asksAs_of_mbx rfl 8)) (by decide) hy

/-- A change of the session after an answer stays an answer. -/
theorem State.replies.onSession {m status n : Nat} {k : Channel} {y : Session} {t : State} (h : s.replies c m status k y n t) (f : Session → Session) :
    s.replies c m status k (f y) n (t.onCh c fun ch => { ch with sec := { ch.sec with session := f ch.sec.session } }) := by
  obtain ⟨hans, x, evs, rs, rfl⟩ := h
  refine ⟨Channel.answered_of_mbx ?_ hans, x, evs, rs, ?_⟩
  · rw [State.onCh, State.ch_setCh]
  · rw [State.onCh, State.tookFree_setCh, State.tookFree_ch, State.ch_setCh, State.setCh_setCh]
    rfl

/-- A session opens: the answer's bytes are the island's own. -/
def State.opensSession (s : State) (c : ChanId) (key : Option Key) (v u : Bool) : State :=
  let q := (((s.ch c).box 8).qp).getD 0
  ((s.onCh c fun h => { h with sec := { h.sec with
    session := { stage := 1, qp := q, key := key, vendor := v, unclaimed := u } } }).tookFree 2).respond c 8 0
      (freeBytes s.free (Config.freeValue (s.free + 1) % 4097))

/-- What HELLO does with its object taken: it is refused, or opens a session by the key it names. -/
def State.hello (s : State) (c : ChanId) (vendor : Bool) (index : U8) : State :=
  if (s.ch c).sec.session.stage = 3 then s.refuseBox c 8 0xA003
  else if (s.ch c).sec.entropyFail ∨ (s.ch c).sec.dbgLevel = .invasive ∨ !(s.ch c).sec.keys then s.refuseBox c 8 0xA004
  else match (s.ch c).helloKey vendor index with
    | .refused => s.refuseBox c 8 0xA004
    | .vendor => s.opensSession c none true false
    | .owner k => s.opensSession c (some k) false false
    | .unclaimed => s.opensSession c none false true

theorem exec_sessionHello {vendor : Bool} {index : U8} (h : (s.ch c).handshake 0x10) :
    exec (.sessionHello c vendor index) s = .next ((s.setCh c ((s.ch c).objectTaken 8)).hello c vendor index) :=
  congrArg Host.Outcome.next (State.serve_handshake (fun s2 _ => s2.hello c vendor index) h)

/-- The channel's island opens no session (R383). -/
def Channel.barred (ch : Channel) : Prop := ch.sec.entropyFail = true ∨ ch.sec.dbgLevel = .invasive ∨ ch.sec.keys = false

theorem State.hello_bound {vendor : Bool} {index : U8} (h : (s.ch c).sec.session.stage = 3) :
    s.hello c vendor index = s.refuseBox c 8 0xA003 := if_pos h

theorem State.hello_refuses {vendor : Bool} {index : U8} (h : (s.ch c).sec.session.stage ≠ 3)
    (hbad : (s.ch c).barred ∨ (s.ch c).helloKey vendor index = .refused) : s.hello c vendor index = s.refuseBox c 8 0xA004 := by
  refine (if_neg h).trans ?_
  rcases hbad with hbar | hkey
  · exact if_pos (by simpa [Channel.barred] using hbar)
  · rw [hkey]
    exact ite_self _

/-- HELLO by a key the channel knows opens a session with it. -/
theorem State.hello_opens {vendor : Bool} {index : U8} (h : (s.ch c).sec.session.stage ≠ 3) (hbar : ¬ (s.ch c).barred) :
    ((s.ch c).helloKey vendor index = .vendor → s.hello c vendor index = s.opensSession c none true false) ∧
    ((s.ch c).helloKey vendor index = .unclaimed → s.hello c vendor index = s.opensSession c none false true) ∧
    (∀ k : Key, (s.ch c).helloKey vendor index = .owner k → s.hello c vendor index = s.opensSession c (some k) false false) := by
  have hopen : ¬ ((s.ch c).sec.entropyFail = true ∨ (s.ch c).sec.dbgLevel = .invasive ∨ (!(s.ch c).sec.keys) = true) := by
    simpa [Channel.barred] using hbar
  unfold State.hello
  rw [if_neg h, if_neg hopen]
  refine ⟨fun hkey => ?_, fun hkey => ?_, fun k hkey => ?_⟩ <;> rw [hkey]

theorem State.opensSession_replies (s : State) (c : ChanId) (key : Option Key) (v u : Bool) :
    let y : Session := { stage := 1, qp := (((s.ch c).box 8).qp).getD 0, key := key, vendor := v, unclaimed := u }
    s.replies c 8 0 ((s.ch c).shakes y) y 2 ((s.setCh c ((s.ch c).objectTaken 8)).opensSession c key v u) := by
  intro y
  have hqp : (((s.ch c).objectTaken 8).box 8).qp = ((s.ch c).box 8).qp := by rw [Channel.objectTaken, Channel.box_onBox_same]
  have hresp := State.respond_handshake (s := s) (c := c) (y := y) 2
    (freeBytes s.free (Config.freeValue (s.free + 1) % 4097)) (by simp [Channel.boxBound, Channel.shakes, Channel.withSec, y])
  unfold State.opensSession
  dsimp only
  rw [State.onCh, State.ch_setCh, State.setCh_setCh, State.setCh_free, hqp]
  exact hresp

/-- A handshake that fails leaves no session. -/
theorem State.handshakeBad_replies {op : Nat} (h : (s.ch c).handshake op) (hstage : (s.ch c).sec.session.stage ≠ 3) :
    s.replies c 8 0xA004 ((s.ch c).objectTaken 8) {} 0 ((s.setCh c ((s.ch c).objectTaken 8)).handshakeBad c) := by
  have hst : ¬ ((s.setCh c ((s.ch c).objectTaken 8)).ch c).sec.session.stage = 3 := by
    rw [State.ch_setCh]
    exact hstage
  unfold State.handshakeBad
  dsimp only
  rw [if_neg hst]
  exact (State.refuse_handshake 0xA004 h).onSession fun _ => {}

theorem Channel.objectTaken_inHandshake (ch : Channel) (stage : Nat) : (ch.objectTaken 8).inHandshake stage = ch.inHandshake stage := by
  unfold Channel.inHandshake
  rw [Channel.objectTaken, Channel.box_onBox_same]
  rfl

theorem Channel.inHandshake_iff (ch : Channel) (stage : Nat) :
    ch.inHandshake stage = true ↔ ch.sec.session.stage = stage ∧ (ch.box 8).qp = some ch.sec.session.qp := by
  simp [Channel.inHandshake]

/-- What KEM and FINISH do with their object taken. -/
def State.kem (s : State) (c : ChanId) (sigOk : Bool) : State :=
  if (s.ch c).inHandshake 1 && (sigOk || (s.ch c).sec.session.unclaimed) then
    (s.onCh c fun k => { k with sec := { k.sec with session := { k.sec.session with stage := 2 } } }).respond c 8 0 []
  else s.handshakeBad c

def State.finish (s : State) (c : ChanId) : State :=
  if (s.ch c).inHandshake 2 then
    let s3 := (s.tookFree 1).respond c 8 0 (freeBytes s.free 4627)
    let s4 := s3.onCh c fun k => { k with sec := { k.sec with session := { k.sec.session with stage := 3 } } }
    { s4 with ptd := s4.ptd.onQp (s.ch c).sec.session.qp fun q => { q with bound := true } }
  else s.handshakeBad c

theorem exec_sessionKem {sigOk : Bool} (h : (s.ch c).handshake 0x11) :
    exec (.sessionKem c sigOk) s = .next ((s.setCh c ((s.ch c).objectTaken 8)).kem c sigOk) :=
  congrArg Host.Outcome.next (State.serve_handshake (fun s2 _ => s2.kem c sigOk) h)

theorem exec_sessionFinish (h : (s.ch c).handshake 0x12) :
    exec (.sessionFinish c) s = .next ((s.setCh c ((s.ch c).objectTaken 8)).finish c) :=
  congrArg Host.Outcome.next (State.serve_handshake (fun s2 _ => s2.finish c) h)

/-- KEM in the handshake's first stage, signed or unclaimed, brings it to the second. -/
theorem State.kem_replies {sigOk : Bool} (hmine : (s.ch c).inHandshake 1 = true) (hsig : sigOk = true ∨ (s.ch c).sec.session.unclaimed = true) :
    s.replies c 8 0 ((s.ch c).shakes { (s.ch c).sec.session with stage := 2 }) { (s.ch c).sec.session with stage := 2 } 0
      ((s.setCh c ((s.ch c).objectTaken 8)).kem c sigOk) := by
  have hgo : (((s.ch c).objectTaken 8).inHandshake 1 && (sigOk || ((s.ch c).objectTaken 8).sec.session.unclaimed)) = true := by
    have hsigned : sigOk = true ∨ ((s.ch c).objectTaken 8).sec.session.unclaimed = true := hsig
    rw [Channel.objectTaken_inHandshake, hmine]
    simpa using hsigned
  have hresp := State.respond_handshake (s := s) (c := c) (y := { (s.ch c).sec.session with stage := 2 }) 0 []
    (by simp [Channel.boxBound, Channel.shakes, Channel.withSec])
  unfold State.kem
  rw [State.ch_setCh, if_pos hgo, State.onCh, State.ch_setCh, State.setCh_setCh]
  exact hresp

theorem State.kem_bad {sigOk : Bool} (h : (s.ch c).inHandshake 1 = false ∨ (sigOk = false ∧ (s.ch c).sec.session.unclaimed = false)) :
    (s.setCh c ((s.ch c).objectTaken 8)).kem c sigOk = (s.setCh c ((s.ch c).objectTaken 8)).handshakeBad c := by
  refine if_neg ?_
  rw [State.ch_setCh, Channel.objectTaken_inHandshake]
  rcases h with h | ⟨hsig, hun⟩
  · simp [h]
  · have hunclaimed : ((s.ch c).objectTaken 8).sec.session.unclaimed = false := hun
    simp [hsig, hunclaimed]

theorem State.finish_bad (h : (s.ch c).inHandshake 2 = false) :
    (s.setCh c ((s.ch c).objectTaken 8)).finish c = (s.setCh c ((s.ch c).objectTaken 8)).handshakeBad c := by
  refine if_neg ?_
  rw [State.ch_setCh, Channel.objectTaken_inHandshake, h]
  decide

/-- FINISH in the second stage answers, and the QP is bound to the session. -/
theorem State.finish_replies (h : (s.ch c).handshake 0x12) (hmine : (s.ch c).inHandshake 2 = true) : ∃ t,
    s.replies c 8 0 ((s.ch c).objectTaken 8) { (s.ch c).sec.session with stage := 3 } 1 t ∧
    (s.setCh c ((s.ch c).objectTaken 8)).finish c =
      { t with ptd := t.ptd.onQp (s.ch c).sec.session.qp fun q => { q with bound := true } } := by
  have hgo : ((s.ch c).objectTaken 8).inHandshake 2 = true := (Channel.objectTaken_inHandshake _ _).trans hmine
  have hresp := State.respond_plain (s := s) (c := c) (k := (s.ch c).objectTaken 8) (m := 8) 1 0 (freeBytes s.free 4627)
    ((s.ch c).objectTaken_asksAs 8) (by decide) ((Channel.objectTaken_boxBound _ _).trans h.1.2)
  refine ⟨_, hresp.onSession fun y => { y with stage := 3 }, ?_⟩
  unfold State.finish
  rw [State.ch_setCh, if_pos hgo, State.setCh_free]
  rfl

end

theorem Channel.objectTaken_kept (ch : Channel) (m : Nat) :
    (ch.objectTaken m).sec = ch.sec ∧ (ch.objectTaken m).mem = ch.mem ∧ (ch.objectTaken m).ser = ch.ser := ⟨rfl, rfl, rfl⟩

theorem Channel.shakes_kept (ch : Channel) (y : Session) :
    (ch.shakes y).sec = { ch.sec with session := y } ∧ (ch.shakes y).mem = ch.mem ∧ (ch.shakes y).ser = ch.ser := ⟨rfl, rfl, rfl⟩

section

variable {s t : State} {c : ChanId} {status n : Nat} {y : Session}

/-- What a handshake answer leaves, with the object taken. -/
theorem State.replies.taken (h : s.replies c 8 status ((s.ch c).objectTaken 8) y n t) :
    (s.ch c).answered (t.ch c) 8 status ∧ (t.ch c).sec = { (s.ch c).sec with session := y } ∧ (t.ch c).mem = (s.ch c).mem ∧
      (t.ch c).ser = (s.ch c).ser ∧ t.ptd = s.ptd ∧ onlyChannelSent c s t := by
  obtain ⟨hsec, hmem, hser, hptd, hsent⟩ := h.kept
  obtain ⟨hsec', hmem', hser'⟩ := (s.ch c).objectTaken_kept 8
  exact ⟨h.answered, hsec.trans (by rw [hsec']), hmem.trans hmem', hser.trans hser', hptd, hsent⟩

/-- What a handshake answer leaves, with the session changed before it. -/
theorem State.replies.shaken (h : s.replies c 8 status ((s.ch c).shakes y) y n t) :
    (s.ch c).answered (t.ch c) 8 status ∧ (t.ch c).sec = { (s.ch c).sec with session := y } ∧ (t.ch c).mem = (s.ch c).mem ∧
      (t.ch c).ser = (s.ch c).ser ∧ t.ptd = s.ptd ∧ onlyChannelSent c s t := by
  obtain ⟨hsec, hmem, hser, hptd, hsent⟩ := h.kept
  obtain ⟨hsec', hmem', hser'⟩ := (s.ch c).shakes_kept y
  exact ⟨h.answered, hsec.trans (by rw [hsec']), hmem.trans hmem', hser.trans hser', hptd, hsent⟩

end

/-- Settles O51: each request by what its service does, and its answer by `State.replies`. -/
theorem mailboxServicesAnswer : Obligations.MailboxServicesAnswer := by
  unfold Obligations.MailboxServicesAnswer
  intro c box nb sigOk vendor index s
  dsimp only
  refine ⟨fun h => congrArg Host.Outcome.next (State.serve_other _ _ h), fun h => congrArg Host.Outcome.next (State.serve_other _ _ h),
    fun h => congrArg Host.Outcome.next (State.serve_other _ _ h), fun h => congrArg Host.Outcome.next (State.serve_other _ _ h),
    fun h => congrArg Host.Outcome.next (State.serve_other _ _ h), fun h hlen hoff => ?_, fun h hbad => ?_, fun h hlen hi => ?_, fun h hbad => ?_,
    exec_mbxFirmwareOpcode_other, fun op hop h => ?_, fun h hst => ?_, fun h hst hbad => ?_, fun h hst hbar => ?_, fun h hmine hsig => ?_,
    fun h hst hbad => ?_, fun h hst hmine => ?_, fun h hmine => ?_⟩
  · exact exec_mbxQuote_writes h hlen hoff
  · obtain ⟨t, hexec, hrep⟩ := exec_mbxQuote_refuses h hbad
    obtain ⟨hsec, hmem, -, -, hsent⟩ := hrep.kept
    exact ⟨t, hexec, hrep.answered, hsec, hmem, hsent⟩
  · exact exec_mbxMrExtend_measures h hlen hi
  · obtain ⟨t, hexec, hrep⟩ := exec_mbxMrExtend_refuses h hbad
    obtain ⟨hsec, hmem, -, -, hsent⟩ := hrep.kept
    exact ⟨t, hexec, hrep.answered, hsec, hmem, hsent⟩
  · obtain ⟨status, t, hexec, hrep⟩ := exec_mbxFirmwareOpcode_answers hop h
    obtain ⟨hsec, hmem, -, -, hsent⟩ := hrep.kept
    exact ⟨status, t, hexec, hrep.answered, hmem, hsec, hsent⟩
  · refine ⟨_, (exec_sessionHello h).trans (congrArg Host.Outcome.next (State.hello_bound ?_)),
      (State.refuse_handshake 0xA003 h).taken⟩
    rw [State.ch_setCh]
    exact hst
  · refine ⟨_, (exec_sessionHello h).trans (congrArg Host.Outcome.next (State.hello_refuses ?_ ?_)),
      (State.refuse_handshake 0xA004 h).taken⟩
    · rw [State.ch_setCh]
      exact hst
    · rw [State.ch_setCh]
      exact hbad
  · obtain ⟨hvendor, hunclaimed, howner⟩ := State.hello_opens (s := s.setCh c ((s.ch c).objectTaken 8)) (c := c) (vendor := vendor) (index := index)
      (by rw [State.ch_setCh]; exact hst) (by rw [State.ch_setCh]; exact hbar)
    rw [State.ch_setCh] at hvendor hunclaimed howner
    exact ⟨fun hkey => ⟨_, (exec_sessionHello h).trans (congrArg Host.Outcome.next (hvendor hkey)),
        (s.opensSession_replies c none true false).shaken⟩,
      fun hkey => ⟨_, (exec_sessionHello h).trans (congrArg Host.Outcome.next (hunclaimed hkey)),
        (s.opensSession_replies c none false true).shaken⟩,
      fun k hkey => ⟨_, (exec_sessionHello h).trans (congrArg Host.Outcome.next (howner k hkey)),
        (s.opensSession_replies c (some k) false false).shaken⟩⟩
  · exact ⟨_, exec_sessionKem h, (State.kem_replies (((s.ch c).inHandshake_iff 1).mpr hmine) hsig).shaken⟩
  · refine ⟨_, (exec_sessionKem h).trans (congrArg Host.Outcome.next (State.kem_bad (hbad.imp_left fun hno => ?_))),
      (State.handshakeBad_replies h hst).taken⟩
    exact Bool.eq_false_iff.mpr (mt ((s.ch c).inHandshake_iff 1).mp hno)
  · refine ⟨_, (exec_sessionFinish h).trans (congrArg Host.Outcome.next (State.finish_bad ?_)),
      (State.handshakeBad_replies h hst).taken⟩
    exact Bool.eq_false_iff.mpr (mt ((s.ch c).inHandshake_iff 2).mp hmine)
  · obtain ⟨t, hrep, hfinish⟩ := State.finish_replies h (((s.ch c).inHandshake_iff 2).mpr hmine)
    obtain ⟨hans, hsec, hmem, -, hptd, hsent⟩ := hrep.taken
    refine ⟨_, (exec_sessionFinish h).trans (congrArg Host.Outcome.next hfinish), hans, hsec, hmem, by rw [hptd], ?_, ?_⟩
    · rw [hsent]
      exact State.ch_setCh_other _ _ (sibling_ne c)
    · rw [hsent]
      exact State.setCh_sup _ _ _

end Sys2Proof.Machine
end

section
/-! PROOFS. Objects and settings over a bound session (R360 to R363, R367, R368, R383, R398 to R401). -/

namespace Sys2Proof.Machine

/-! ### Requests of a bound session (R382, R383) -/

/-- The channel that has taken the inbound counter of the request in mailbox `m`. -/
def Channel.counted (ch : Channel) (m : Nat) : Channel :=
  ch.withSec { ch.sec with session := { ch.sec.session with ivIn := (ch.box m).hdr.iv.toNat / 2 ^ 32 } }

/-- The channel that has taken a whole object of its bound session. -/
def Channel.secureTaken (ch : Channel) (m : Nat) : Channel := (ch.counted m).objectTaken m

/-- A request with its object whole, over the bound session. -/
def Channel.secureRequest (ch : Channel) (m op : Nat) : Prop := ch.requested m op ∧ ch.secured m ∧ ch.single m

theorem Channel.counted_asksAs (ch : Channel) (m : Nat) : ch.asksAs (ch.counted m) m := Channel.asksAs_of_mbx rfl m

theorem Channel.secureTaken_asksAs (ch : Channel) (m : Nat) : ch.asksAs (ch.secureTaken m) m :=
  (ch.counted_asksAs m).trans ((ch.counted m).objectTaken_asksAs m)

/-- A counter or an object that is taken leaves the memories, the state and the settings. -/
theorem Channel.counted_kept (ch : Channel) (m : Nat) : (ch.counted m).ser = ch.ser ∧ (ch.counted m).mem = ch.mem ∧
    (ch.counted m).chn = ch.chn ∧ (ch.counted m).sec.settings = ch.sec.settings ∧ (ch.counted m).sec.installBad = ch.sec.installBad :=
  ⟨rfl, rfl, rfl, rfl, rfl⟩

theorem Channel.secureTaken_kept (ch : Channel) (m : Nat) : (ch.secureTaken m).ser = ch.ser ∧ (ch.secureTaken m).mem = ch.mem ∧
    (ch.secureTaken m).chn = ch.chn ∧ (ch.secureTaken m).cfg = ch.cfg ∧ (ch.secureTaken m).sec.settings = ch.sec.settings ∧
    (ch.secureTaken m).sec.installBad = ch.sec.installBad := ⟨rfl, rfl, rfl, rfl, rfl, rfl⟩

section

variable {s : State} {c : ChanId} {m op : Nat} {obj : List Byte} (k : State → List Byte → State)

/-- A request over the bound session is served with what decryption gave. -/
theorem State.serve_secured (h : (s.ch c).requested m op) (hsec : (s.ch c).secured m) :
    s.serve c m op (some obj) k = k (s.setCh c ((s.ch c).counted m)) obj := by
  obtain ⟨hst, hfrom, hop⟩ := h
  obtain ⟨hbound, hiv, hctr⟩ := hsec
  refine (if_neg (by simp [hst, hfrom, hop])).trans ((if_pos hbound).trans (if_pos ⟨hiv, hctr⟩))

/-- A payload that fails GCM ends the session. -/
theorem State.serve_unverified (h : (s.ch c).requested m op) (hbound : (s.ch c).boxBound m = true) : s.serve c m op none k = s.sessionBad c m := by
  obtain ⟨hst, hfrom, hop⟩ := h
  exact (if_neg (by simp [hst, hfrom, hop])).trans (if_pos hbound)

theorem Channel.counted_single {ch : Channel} (h : ch.single m) : (ch.counted m).single m := h

/-- A whole object of the bound session. -/
theorem State.serve_secure_object (h : (s.ch c).secureRequest m op) :
    s.serve c m op (some obj) (fun s1 data => s1.fragment c m data k) = k (s.setCh c ((s.ch c).secureTaken m)) obj := by
  obtain ⟨hreq, hsec, hsingle⟩ := h
  have hone : ((s.setCh c ((s.ch c).counted m)).ch c).single m := by
    rw [State.ch_setCh]
    exact Channel.counted_single hsingle
  rw [State.serve_secured _ hreq hsec, State.fragment_single _ _ hone, State.ch_setCh, State.setCh_setCh]
  rfl

/-- An object that the session may install, in a state that takes it. -/
theorem State.install_takes {lc : Bool} (h : (s.ch c).secureRequest m op) (hclaimed : (s.ch c).sec.session.unclaimed = false)
    (hrec : (s.ch c).chn.state = .recovery → (s.ch c).sec.recKeyOk = true ∨ lc = true) :
    s.install c m op (some obj) lc k = k (s.setCh c ((s.ch c).secureTaken m)) obj := by
  obtain ⟨hreq, hsec, hsingle⟩ := h
  have hone : ((s.setCh c ((s.ch c).counted m)).ch c).single m := by
    rw [State.ch_setCh]
    exact Channel.counted_single hsingle
  have hopen : ¬ ((s.setCh c ((s.ch c).counted m)).ch c).sec.session.unclaimed = true := by
    rw [State.ch_setCh]
    exact Bool.not_eq_true _ ▸ hclaimed
  have hmay : ¬ (((s.setCh c ((s.ch c).secureTaken m)).ch c).chn.state = .recovery ∧
      (!((s.setCh c ((s.ch c).secureTaken m)).ch c).sec.recKeyOk) = true ∧ (!lc) = true) := by
    rw [State.ch_setCh]
    rintro ⟨hst, hkey, hlc⟩
    have hkey' : (s.ch c).sec.recKeyOk = false := (Bool.not_eq_true' _).mp hkey
    rcases hrec hst with hok | hok
    · exact Bool.false_ne_true (hkey'.symm.trans hok)
    · rw [hok] at hlc
      exact Bool.false_ne_true hlc
  have htaken : (s.setCh c ((s.ch c).counted m)).setCh c (((s.setCh c ((s.ch c).counted m)).ch c).objectTaken m) =
      s.setCh c ((s.ch c).secureTaken m) := by
    rw [State.ch_setCh, State.setCh_setCh]
    rfl
  unfold State.install
  rw [State.serve_secured _ hreq hsec, if_neg hopen, State.fragment_single _ _ hone, htaken]
  exact if_neg hmay

/-- An unclaimed session installs nothing. -/
theorem State.install_unclaimed {lc : Bool} (h : (s.ch c).secureRequest m op) (hun : (s.ch c).sec.session.unclaimed = true) :
    s.install c m op (some obj) lc k = (s.setCh c ((s.ch c).counted m)).refuseBox c m 0xA004 := by
  obtain ⟨hreq, hsec, -⟩ := h
  unfold State.install
  rw [State.serve_secured _ hreq hsec]
  refine if_pos ?_
  rw [State.ch_setCh]
  exact hun

end

/-! ### Answers of a bound session -/

section

variable {s : State} {c : ChanId} {m : Nat} {k : Channel}

theorem State.setCh_refuseBox_replies (code : Nat) (hk : (s.ch c).asksAs k m) (hm : m < 10) :
    ∃ y n, s.replies c m code k y n ((s.setCh c k).refuseBox c m code) := ⟨_, _, State.refuseBox_replies 0 code hk hm⟩

theorem State.setCh_respond_replies (status : Nat) (payload : List Byte) (hk : (s.ch c).asksAs k m) (hm : m < 10) :
    ∃ y n, s.replies c m status k y n ((s.setCh c k).respond c m status payload) := ⟨_, _, State.respond_replies 0 status payload hk hm⟩

/-- The channel that counts an installation it refuses. -/
def Channel.countsBad (k : Channel) : Channel := k.withSec { k.sec with installBad := satAdd k.sec.installBad 1 }

theorem Channel.countsBad_kept (k : Channel) : k.countsBad.ser = k.ser ∧ k.countsBad.mem = k.mem ∧ k.countsBad.chn = k.chn ∧
    k.countsBad.sec.settings = k.sec.settings ∧ k.countsBad.sec.installBad = satAdd k.sec.installBad 1 := ⟨rfl, rfl, rfl, rfl, rfl⟩

theorem State.installBad_replies (hk : (s.ch c).asksAs k m) (hm : m < 10) :
    ∃ y n, s.replies c m 0x8006 k.countsBad y n ((s.setCh c k).installBad c m) := by
  unfold State.installBad
  rw [State.onCh, State.ch_setCh, State.setCh_setCh]
  exact State.setCh_refuseBox_replies 0x8006 (hk.trans (Channel.asksAs_of_mbx rfl m)) hm

theorem State.replies.kept_state {t : State} {status n : Nat} {y : Session} (h : s.replies c m status k y n t) :
    (t.ch c).chn = k.chn ∧ (t.ch c).cfg = k.cfg ∧ (t.ch c).refclkOk = k.refclkOk ∧ t.ch (sibling c) = s.ch (sibling c) := by
  obtain ⟨-, x, evs, rs, rfl⟩ := h
  rw [State.tookFree_ch, State.ch_setCh, State.tookFree_ch]
  exact ⟨rfl, rfl, rfl, State.ch_setCh_other _ _ (sibling_ne c)⟩

end

/-! ### What an installation does with its object (R360, R363, R367) -/

section

variable {s t : State} {c : ChanId} {m status n op : Nat} {k : Channel} {y : Session} {obj : List Byte}

/-- A firmware image that verifies starts being written. -/
def State.fwInstalls (s : State) (c : ChanId) (m : Nat) (sigOk : Bool) (obj : List Byte) : State :=
  if (imageOf obj sigOk).headerOk && (imageOf obj sigOk).signatureOk && decide ((s.ch c).ser.fwSvn.toNat ≤ (imageOf obj sigOk).svn.toNat) then
    (s.onCh c fun ch => { ch with
      ser := { ch.ser with image := { headerOk := false }, installing := .image (imageOf obj sigOk) } }).respond c m 0 []
  else s.installBad c m

/-- A repair map that verifies starts being written. -/
def State.repairInstalls (s : State) (c : ChanId) (m : Nat) (bad : List Nat) (sigOk : Bool) (obj : List Byte) : State :=
  if sigOk then
    (s.onCh c fun ch => { ch with ser := { ch.ser with
      repair := { bad := bad, signatureOk := true, digest := sha3 obj }, installing := .other } }).respond c m 0 []
  else s.installBad c m

/-- The serial memory with a lifecycle record in place (Table 17-8). -/
def Serial.withRecord (x : Serial) (r : LcRecord) (digest : U512) : Serial :=
  if r.lc == .return_ then ({ x with lc := r, lcSeq := r.seq } : Serial).eraseSettings digest else { x with lc := r, lcSeq := r.seq }

/-- A lifecycle record that may follow takes its place, and the channel is reset. -/
def State.lifecycleInstalls (s : State) (c : ChanId) (m : Nat) (sigOk : Bool) (obj : List Byte) : State :=
  match (s.ch c).recordOk obj sigOk with
  | none => s.installBad c m
  | some r => ((((s.onCh c fun ch => { ch with ser := ch.ser.withRecord r (BitVec.ofNat 512 s.freeVal) }).tookFree 1).respond c m 0 []).resetChannel c)

theorem exec_fwInstall (box : Fin 2) (plain : Option (List Byte)) (sigOk : Bool) : exec (.fwInstall c box plain sigOk) s =
    .next (s.install c (8 + box.val) 0x20 plain false fun s1 obj => s1.fwInstalls c (8 + box.val) sigOk obj) := rfl

theorem exec_repairInstall (box : Fin 2) (plain : Option (List Byte)) (bad : List Nat) (sigOk : Bool) : exec (.repairInstall c box plain bad sigOk) s =
    .next (s.install c (8 + box.val) 0x21 plain false fun s1 obj => s1.repairInstalls c (8 + box.val) bad sigOk obj) := rfl

theorem exec_lifecycleInstall (box : Fin 2) (plain : Option (List Byte)) (sigOk : Bool) : exec (.lifecycleInstall c box plain sigOk) s =
    .next (s.install c (8 + box.val) 0x22 plain true fun s1 obj => s1.lifecycleInstalls c (8 + box.val) sigOk obj) := rfl

/-- A refusal that has kept memories, state and settings. -/
theorem State.replies.refuses (h : s.replies c m status k y n t) (hser : k.ser = (s.ch c).ser) (hset : k.sec.settings = (s.ch c).sec.settings)
    (hmem : k.mem = (s.ch c).mem) (hchn : k.chn = (s.ch c).chn) : (s.ch c).answered (t.ch c) m status ∧ (t.ch c).ser = (s.ch c).ser ∧
      (t.ch c).sec.installBad = k.sec.installBad ∧ (t.ch c).sec.settings = (s.ch c).sec.settings ∧ (t.ch c).mem = (s.ch c).mem ∧
      (t.ch c).chn = (s.ch c).chn ∧ onlyChannelSent c s t := by
  obtain ⟨hsec, hmem', hser', -, hsent⟩ := h.kept
  obtain ⟨hchn', -⟩ := h.kept_state
  refine ⟨h.answered, hser'.trans hser, ?_, ?_, hmem'.trans hmem, hchn'.trans hchn, hsent⟩
  · rw [hsec]
  · rw [hsec]
    exact hset

/-- An installation that is refused and counted. -/
theorem State.installBad_refuses (s : State) (c : ChanId) (hm : m < 10) : let t := (s.setCh c ((s.ch c).secureTaken m)).installBad c m
    (s.ch c).answered (t.ch c) m 0x8006 ∧ (t.ch c).ser = (s.ch c).ser ∧ (t.ch c).sec.installBad = satAdd (s.ch c).sec.installBad 1 ∧
      (t.ch c).sec.settings = (s.ch c).sec.settings ∧ (t.ch c).mem = (s.ch c).mem ∧ (t.ch c).chn = (s.ch c).chn ∧ onlyChannelSent c s t := by
  obtain ⟨y, n, hrep⟩ := State.installBad_replies ((s.ch c).secureTaken_asksAs m) hm
  obtain ⟨hser, hmem, hchn, -, hset, hbad⟩ := (s.ch c).secureTaken_kept m
  obtain ⟨hser', hmem', hchn', hset', hbad'⟩ := ((s.ch c).secureTaken m).countsBad_kept
  rw [← hbad, ← hbad']
  exact hrep.refuses (hser'.trans hser) (hset'.trans hset) (hmem'.trans hmem) (hchn'.trans hchn)

/-- A refusal of an object that was taken. -/
theorem State.secureTaken_refuses (s : State) (c : ChanId) (code : Nat) (hm : m < 10) :
    let t := (s.setCh c ((s.ch c).secureTaken m)).refuseBox c m code
    (s.ch c).answered (t.ch c) m code ∧ (t.ch c).ser = (s.ch c).ser ∧ (t.ch c).sec.installBad = (s.ch c).sec.installBad ∧
      (t.ch c).sec.settings = (s.ch c).sec.settings ∧ (t.ch c).mem = (s.ch c).mem ∧ (t.ch c).chn = (s.ch c).chn ∧ onlyChannelSent c s t := by
  obtain ⟨y, n, hrep⟩ := State.setCh_refuseBox_replies code ((s.ch c).secureTaken_asksAs m) hm
  obtain ⟨hser, hmem, hchn, -, hset, hbad⟩ := (s.ch c).secureTaken_kept m
  rw [← hbad]
  exact hrep.refuses hser hset hmem hchn

/-- A refusal before the object is taken. -/
theorem State.counted_refuses (s : State) (c : ChanId) (code : Nat) (hm : m < 10) :
    let t := (s.setCh c ((s.ch c).counted m)).refuseBox c m code
    (s.ch c).answered (t.ch c) m code ∧ (t.ch c).ser = (s.ch c).ser ∧ (t.ch c).sec.installBad = (s.ch c).sec.installBad ∧
      (t.ch c).sec.settings = (s.ch c).sec.settings ∧ (t.ch c).mem = (s.ch c).mem ∧ (t.ch c).chn = (s.ch c).chn ∧ onlyChannelSent c s t := by
  obtain ⟨y, n, hrep⟩ := State.setCh_refuseBox_replies code ((s.ch c).counted_asksAs m) hm
  obtain ⟨hser, hmem, hchn, hset, hbad⟩ := (s.ch c).counted_kept m
  rw [← hbad]
  exact hrep.refuses hser hset hmem hchn

/-- The channel whose serial memory takes an installation, with the object taken. -/
def Channel.installs (ch : Channel) (m : Nat) (x : Serial) : Channel := { ch.secureTaken m with ser := x }

theorem Channel.installs_kept (ch : Channel) (m : Nat) (x : Serial) :
    (ch.installs m x).ser = x ∧ (ch.installs m x).mem = ch.mem ∧ (ch.installs m x).chn = ch.chn := ⟨rfl, rfl, rfl⟩

theorem Channel.installs_refclkOk (ch : Channel) (m : Nat) (x : Serial) : (ch.installs m x).refclkOk = ch.refclkOk := rfl

/-- An installation that is answered: serial memory is `x`, and the rest stays. -/
theorem State.installs_answers (s : State) (c : ChanId) (x : Serial) (hm : m < 10) :
    let t := (s.setCh c ((s.ch c).installs m x)).respond c m 0 []
    (s.ch c).answered (t.ch c) m 0 ∧ (t.ch c).ser = x ∧ (t.ch c).mem = (s.ch c).mem ∧ (t.ch c).chn = (s.ch c).chn ∧ onlyChannelSent c s t := by
  obtain ⟨y, n, hrep⟩ := State.setCh_respond_replies (k := (s.ch c).installs m x) 0 []
    (((s.ch c).secureTaken_asksAs m).trans (Channel.asksAs_of_mbx rfl m)) hm
  obtain ⟨-, hmem, hser, -, hsent⟩ := hrep.kept
  obtain ⟨hchn, -⟩ := hrep.kept_state
  obtain ⟨hser', hmem', hchn'⟩ := (s.ch c).installs_kept m x
  exact ⟨hrep.answered, hser.trans hser', hmem.trans hmem', hchn.trans hchn', hsent⟩

/-- The image verifies, and is not older than the channel's. -/
def Channel.imageOk (ch : Channel) (sigOk : Bool) (obj : List Byte) : Prop :=
  (imageOf obj sigOk).headerOk = true ∧ sigOk = true ∧ ch.ser.fwSvn.toNat ≤ (imageOf obj sigOk).svn.toNat

theorem Channel.imageOk_iff (ch : Channel) (sigOk : Bool) (obj : List Byte) : ch.imageOk sigOk obj ↔
    ((imageOf obj sigOk).headerOk && (imageOf obj sigOk).signatureOk && decide (ch.ser.fwSvn.toNat ≤ (imageOf obj sigOk).svn.toNat)) = true := by
  rw [Bool.and_eq_true, Bool.and_eq_true, decide_eq_true_eq, and_assoc]
  rfl

theorem State.fwInstalls_writes {sigOk : Bool} (h : (s.ch c).imageOk sigOk obj) : (s.setCh c ((s.ch c).secureTaken m)).fwInstalls c m sigOk obj =
    (s.setCh c ((s.ch c).installs m { (s.ch c).ser with
      image := { headerOk := false }, installing := .image (imageOf obj sigOk) })).respond c m 0 [] := by
  have hok : ((s.setCh c ((s.ch c).secureTaken m)).ch c).imageOk sigOk obj := by
    rw [State.ch_setCh]
    exact h
  refine (if_pos ((Channel.imageOk_iff _ _ _).mp hok)).trans ?_
  rw [State.onCh, State.ch_setCh, State.setCh_setCh]
  rfl

theorem State.fwInstalls_bad {sigOk : Bool} (h : ¬ (s.ch c).imageOk sigOk obj) : (s.setCh c ((s.ch c).secureTaken m)).fwInstalls c m sigOk obj =
    (s.setCh c ((s.ch c).secureTaken m)).installBad c m := by
  refine if_neg (mt (Channel.imageOk_iff _ _ _).mpr ?_)
  rw [State.ch_setCh]
  exact h

theorem State.repairInstalls_writes (bad : List Nat) : (s.setCh c ((s.ch c).secureTaken m)).repairInstalls c m bad true obj =
    (s.setCh c ((s.ch c).installs m { (s.ch c).ser with
      repair := { bad := bad, signatureOk := true, digest := sha3 obj }, installing := .other })).respond c m 0 [] := by
  refine (if_pos rfl).trans ?_
  rw [State.onCh, State.ch_setCh, State.setCh_setCh]
  rfl

theorem State.repairInstalls_bad (bad : List Nat) : (s.setCh c ((s.ch c).secureTaken m)).repairInstalls c m bad false obj =
    (s.setCh c ((s.ch c).secureTaken m)).installBad c m := rfl

/-! ### A lifecycle record (R367, R368) -/

theorem Channel.secureTaken_recordOk (ch : Channel) (m : Nat) (obj : List Byte) (sigOk : Bool) :
    (ch.secureTaken m).recordOk obj sigOk = ch.recordOk obj sigOk := rfl

theorem State.lifecycleInstalls_bad {sigOk : Bool} (h : (s.ch c).recordOk obj sigOk = none) :
    (s.setCh c ((s.ch c).secureTaken m)).lifecycleInstalls c m sigOk obj = (s.setCh c ((s.ch c).secureTaken m)).installBad c m := by
  unfold State.lifecycleInstalls
  rw [State.ch_setCh, Channel.secureTaken_recordOk, h]

theorem State.lifecycleInstalls_writes {sigOk : Bool} {r : LcRecord} (h : (s.ch c).recordOk obj sigOk = some r) :
    (s.setCh c ((s.ch c).secureTaken m)).lifecycleInstalls c m sigOk obj =
      (((s.setCh c ((s.ch c).installs m ((s.ch c).ser.withRecord r (BitVec.ofNat 512 s.freeVal)))).tookFree 1).respond c m 0 []).resetChannel c := by
  unfold State.lifecycleInstalls
  rw [State.ch_setCh, Channel.secureTaken_recordOk, h]
  dsimp only
  rw [State.onCh, State.ch_setCh, State.setCh_setCh, State.freeVal, State.setCh_free]
  rfl

/-- What a reset leaves of the channel (R329). -/
theorem Channel.afterReset_fresh (ch : Channel) (c : ChanId) (p : Ptd) : (ch.afterReset c p).ser = { ch.ser with installing := .none } ∧
    (ch.afterReset c p).sec.session = {} ∧ (ch.afterReset c p).sec.keys = false ∧ (ch.afterReset c p).mbx = {} ∧
    (ch.afterReset c p).wrn.links = [] := by
  obtain ⟨hreset, -⟩ := ch.afterReset_isReset c p
  rw [hreset]
  exact ⟨rfl, rfl, rfl, rfl, rfl⟩

/-- The channel that a lifecycle record has reset. -/
theorem State.lifecycleInstalls_resets {sigOk : Bool} {r : LcRecord} (h : (s.ch c).recordOk obj sigOk = some r) (hm : m < 10) :
    let t := (s.setCh c ((s.ch c).secureTaken m)).lifecycleInstalls c m sigOk obj
    (t.ch c).ser = { (s.ch c).ser.withRecord r (BitVec.ofNat 512 s.freeVal) with installing := .none } ∧
      (t.ch c).chn.state = (s.ch c).resetState ∧ (t.ch c).sec.session = {} ∧ (t.ch c).pss = {} ∧ (t.ch c).mbx = {} ∧ (t.ch c).mem.sram = [] ∧
      t.ch (sibling c) = s.ch (sibling c) := by
  rw [State.lifecycleInstalls_writes h]
  have hrep := State.respond_replies (s := s) (k := (s.ch c).installs m ((s.ch c).ser.withRecord r (BitVec.ofNat 512 s.freeVal))) 1 0 []
    (((s.ch c).secureTaken_asksAs m).trans (Channel.asksAs_of_mbx rfl m)) hm
  obtain ⟨-, -, hser, -, -⟩ := hrep.kept
  obtain ⟨-, -, href, hsib⟩ := hrep.kept_state
  generalize ((s.setCh c ((s.ch c).installs m ((s.ch c).ser.withRecord r (BitVec.ofNat 512 s.freeVal)))).tookFree 1).respond c m 0 [] = u at *
  obtain ⟨hser', hses, -, hmbx, -⟩ := (u.ch c).afterReset_fresh c u.ptd
  obtain ⟨-, hstate, hmem, hpss⟩ := (u.ch c).afterReset_keeps c u.ptd
  have hreborn : (u.ch c).resetState = (s.ch c).resetState := by
    unfold Channel.resetState
    rw [href, Channel.installs_refclkOk]
  rw [State.resetChannel_lost]
  dsimp only
  rw [State.lost_ch, State.lost_ch_other _ _ _ (sibling_ne c)]
  refine ⟨hser'.trans ?_, hstate.trans hreborn, hses, hpss, hmbx, ?_, hsib⟩
  · rw [hser, ((s.ch c).installs_kept m _).1]
  · rw [hmem]

/-- The parts of serial memory that a record touches. -/
theorem Serial.withRecord_kept (x : Serial) (r : LcRecord) (d : U512) : (x.withRecord r d).lc = r ∧ (x.withRecord r d).lcSeq = r.seq ∧
    (x.withRecord r d).fwSvn = x.fwSvn ∧ (x.withRecord r d).setSeq = x.setSeq ∧
    (r.lc = .return_ → (x.withRecord r d).setA.settings = {} ∧ (x.withRecord r d).setB = {}) ∧
    (r.lc ≠ .return_ → (x.withRecord r d).setA = x.setA ∧ (x.withRecord r d).setB = x.setB) := by
  unfold Serial.withRecord
  by_cases h : r.lc = .return_
  · rw [if_pos (beq_iff_eq.mpr h)]
    exact ⟨rfl, rfl, rfl, rfl, fun _ => ⟨rfl, rfl⟩, fun hne => absurd h hne⟩
  · rw [if_neg (mt beq_iff_eq.mp h)]
    exact ⟨rfl, rfl, rfl, rfl, fun heq => absurd heq h, fun _ => ⟨rfl, rfl⟩⟩

/-! ### A payload that fails GCM (R383) -/

theorem smGet_smDel_twice {α : Type} (d : α) (x : SMap α) (i j : Nat) (h : i ≠ j) :
    smGet d (smDel i (smDel j x)) i = d ∧ smGet d (smDel i (smDel j x)) j = d :=
  ⟨smGet_smDel_same _ _ _, (smGet_smDel_other _ _ h.symm).trans (smGet_smDel_same _ _ _)⟩

/-- The session of the channel ends, and its secure mailboxes are empty. -/
theorem State.sessionBad_ends {s : State} (hm : m < 10) (hbound : (s.ch c).boxBound m = true) : let t := s.sessionBad c m
    (t.ch c).sec.session = {} ∧ (t.ch c).box 8 = {} ∧ (t.ch c).box 9 = {} ∧ (t.ch c).ser = (s.ch c).ser ∧ (t.ch c).mem = (s.ch c).mem := by
  have hrep := State.refuseBox_replies (s := s) (k := s.ch c) 0 0xA004 (Channel.asksAs_of_mbx rfl m) hm
  rw [State.setCh_ch, State.tookFree_zero] at hrep
  obtain ⟨hsec, hmem, hser, -, -⟩ := hrep.kept
  have hstage : ((s.refuseBox c m 0xA004).ch c).sec.session.stage ≠ 0 := by
    have h3 : (s.ch c).sec.session.stage = 3 := by
      simp only [Channel.boxBound, Bool.and_eq_true, beq_iff_eq] at hbound
      exact hbound.1.2
    rw [hsec]
    change ((s.ch c).answerSession m).stage ≠ 0
    rw [Channel.answerSession, if_pos hbound]
    change (s.ch c).sec.session.stage ≠ 0
    rw [h3]
    decide
  unfold State.sessionBad
  generalize s.refuseBox c m 0xA004 = u at *
  have hend : (u.endSession c).ch c = { u.ch c with
      sec := { (u.ch c).sec with session := {} }, mbx := { (u.ch c).mbx with boxes := smDel 8 (smDel 9 (u.ch c).mbx.boxes) } } := by
    unfold State.endSession
    dsimp only
    rw [if_neg hstage]
    exact State.ch_setCh _ _ _
  dsimp only
  rw [hend]
  obtain ⟨h8, h9⟩ := smGet_smDel_twice ({} : Mailbox) (u.ch c).mbx.boxes 8 9 (by decide)
  exact ⟨rfl, h8, h9, hser, hmem⟩

/-! ### The end of a write (R362) -/

/-- Serial memory with the image that was being written in place. -/
def Serial.written (x : Serial) : Serial := { x with installing := .none, image := match x.installing with
  | .image i => i
  | _ => x.image }

theorem exec_installWriteDone_none (h : (s.ch c).ser.installing = .none) : exec (.installWriteDone c) s = .next s := if_pos h

theorem exec_installWriteDone_ends (h : (s.ch c).ser.installing ≠ .none) (hst : (s.ch c).chn.state ≠ .recovery) :
    exec (.installWriteDone c) s = .next (s.setCh c { s.ch c with ser := (s.ch c).ser.written }) :=
  (if_neg h).trans (congrArg Host.Outcome.next (if_neg hst))

theorem exec_installWriteDone_resets (h : (s.ch c).ser.installing ≠ .none) (hst : (s.ch c).chn.state = .recovery) :
    exec (.installWriteDone c) s = .next ((s.setCh c { s.ch c with ser := (s.ch c).ser.written }).resetChannel c) :=
  (if_neg h).trans (congrArg Host.Outcome.next (if_pos hst))

/-! ### Settings (R398 to R401) -/

/-- The channel whose settings are in the slot that was not in effect, and in effect. -/
def Channel.setsTo (ch : Channel) (set : Settings) (x : Sec) (d : U512) : Channel :=
  { ch with
    ser := { ch.ser with
      setSeq := ch.ser.setSeq + 1
      setA := if !ch.cfg.setSlot then ch.ser.setA else { valid := true, seq := ch.ser.setSeq + 1, settings := set, digest := d }
      setB := if !ch.cfg.setSlot then { valid := true, seq := ch.ser.setSeq + 1, settings := set, digest := d } else ch.ser.setB }
    sec := { x with settings := set }
    cfg := { ch.cfg with setSeq := ch.ser.setSeq + 1, setSlot := !ch.cfg.setSlot } }

theorem State.writeSettings_eq (s : State) (c : ChanId) (set : Settings) : ∃ r, s.writeSettings c set =
    (s.setCh c ((s.ch c).setsTo set { (s.ch c).sec with mr := r } (BitVec.ofNat 512 s.freeVal))).tookFree 1 := by
  have hself : (s.ch c).sec.mrOnly (s.ch c).sec := ⟨_, rfl⟩
  obtain ⟨r, hr⟩ := (hself.extend 2 (BitVec.ofNat 512 s.freeVal)).extendBy 5 (set.domainKey.map (BitVec.ofNat 512))
  refine ⟨r, ?_⟩
  rw [← hr, ← State.tookFree_setCh]
  unfold State.writeSettings
  cases set.domainKey <;> rfl

/-- What SETTINGS_WRITE does with its object taken. -/
def State.settingsWrites (s : State) (c : ChanId) (m : Nat) (obj : List Byte) : State :=
  match tlvsOf (obj.length + 1) obj with
  | none => s.refuseBox c m 0x8008
  | some l =>
    if (s.ch c).sec.session.unclaimed ∧ (settingsOf l).ownerHost.isEmpty then s.refuseBox c m 0xA004
    else if !tlvsOk l ∨ !(s.ch c).maySet ∨ 65488 < obj.length ∨ (s.ch c).chn.state = .recovery then s.refuseBox c m 0x8008
    else if (s.ch c).ser.setSeq = BitVec.allOnes 32 then s.installBad c m
    else ((s.writeSettings c (settingsOf l)).onCh c fun k => k.raiseBox c 0x800A m).respond c m 0 []

theorem exec_settingsWrite (box : Fin 2) (plain : Option (List Byte)) : exec (.settingsWrite c box plain) s =
    .next (s.serve c (8 + box.val) 0x30 plain fun s1 data => s1.fragment c (8 + box.val) data fun s2 obj =>
      s2.settingsWrites c (8 + box.val) obj) := rfl

theorem State.settingsWrites_none (h : tlvsOf (obj.length + 1) obj = none) : s.settingsWrites c m obj = s.refuseBox c m 0x8008 := by
  unfold State.settingsWrites
  rw [h]

theorem State.settingsWrites_refuses {l : List (Nat × List Byte)} (h : tlvsOf (obj.length + 1) obj = some l)
    (hclaimed : (s.ch c).sec.session.unclaimed = false) (hbad : tlvsOk l = false ∨ (s.ch c).maySet = false ∨ 65488 < obj.length ∨
      (s.ch c).chn.state = .recovery) : s.settingsWrites c m obj = s.refuseBox c m 0x8008 := by
  unfold State.settingsWrites
  rw [h]
  exact (if_neg (by simp [hclaimed])).trans (if_pos (by simpa using hbad))

theorem State.settingsWrites_takes {l : List (Nat × List Byte)} (h : tlvsOf (obj.length + 1) obj = some l)
    (howner : (s.ch c).sec.session.unclaimed = true → (settingsOf l).ownerHost ≠ []) (hlist : tlvsOk l = true) (hmay : (s.ch c).maySet = true)
    (hlen : obj.length ≤ 65488) (hst : (s.ch c).chn.state ≠ .recovery) (hseq : (s.ch c).ser.setSeq ≠ BitVec.allOnes 32) :
    s.settingsWrites c m obj = ((s.writeSettings c (settingsOf l)).onCh c fun k => k.raiseBox c 0x800A m).respond c m 0 [] := by
  have hopen : ¬ ((s.ch c).sec.session.unclaimed = true ∧ (settingsOf l).ownerHost.isEmpty = true) := by
    rintro ⟨hun, hempty⟩
    exact howner hun (List.isEmpty_iff.mp hempty)
  unfold State.settingsWrites
  rw [h]
  exact (if_neg hopen).trans ((if_neg (by simp [hlist, hmay, hst, hlen])).trans (if_neg hseq))

theorem Channel.raiseBox_eq (ch : Channel) (c : ChanId) (code m : Nat) : ∃ evs rs, ch.raiseBox c code m = ch.withRaised evs rs := by
  unfold Channel.raiseBox
  split
  · exact ⟨_, _, rfl⟩
  · exact ⟨_, _, rfl⟩

/-- What the settings leave of the parts they touch. -/
theorem Channel.setsTo_slots (ch : Channel) (set : Settings) (x : Sec) (d : U512) : let k := ch.setsTo set x d
    k.sec.settings = set ∧ k.ser.setSeq = ch.ser.setSeq + 1 ∧ k.cfg.setSeq = ch.ser.setSeq + 1 ∧ k.cfg.setSlot = !ch.cfg.setSlot ∧
      (let new := if ch.cfg.setSlot then k.ser.setA else k.ser.setB
       new.valid = true ∧ new.seq = ch.ser.setSeq + 1 ∧ new.settings = set) ∧
      (if ch.cfg.setSlot then k.ser.setB = ch.ser.setB else k.ser.setA = ch.ser.setA) ∧ k.mem = ch.mem ∧ k.chn = ch.chn := by
  unfold Channel.setsTo
  cases ch.cfg.setSlot
  · exact ⟨rfl, rfl, rfl, rfl, ⟨rfl, rfl, rfl⟩, rfl, rfl, rfl⟩
  · exact ⟨rfl, rfl, rfl, rfl, ⟨rfl, rfl, rfl⟩, rfl, rfl, rfl⟩

/-- Settings that are taken are written and answered. -/
theorem State.settingsWrites_answers {l : List (Nat × List Byte)} (h : tlvsOf (obj.length + 1) obj = some l)
    (howner : (s.ch c).sec.session.unclaimed = true → (settingsOf l).ownerHost ≠ []) (hlist : tlvsOk l = true) (hmay : (s.ch c).maySet = true)
    (hlen : obj.length ≤ 65488) (hst : (s.ch c).chn.state ≠ .recovery) (hseq : (s.ch c).ser.setSeq ≠ BitVec.allOnes 32) (hm : m < 10) :
    ∃ x d evs rs y n, s.replies c m 0 ((((s.ch c).secureTaken m).setsTo (settingsOf l) x d).withRaised evs rs) y n
      ((s.setCh c ((s.ch c).secureTaken m)).settingsWrites c m obj) := by
  obtain ⟨r, hwrite⟩ := (s.setCh c ((s.ch c).secureTaken m)).writeSettings_eq c (settingsOf l)
  rw [State.ch_setCh, State.setCh_setCh] at hwrite
  obtain ⟨evs, rs, hraise⟩ := (((s.ch c).secureTaken m).setsTo (settingsOf l) { ((s.ch c).secureTaken m).sec with mr := r }
    (BitVec.ofNat 512 (s.setCh c ((s.ch c).secureTaken m)).freeVal)).raiseBox_eq c 0x800A m
  rw [State.settingsWrites_takes (s := s.setCh c ((s.ch c).secureTaken m)) h (by rw [State.ch_setCh]; exact howner) hlist
    (by rw [State.ch_setCh]; exact hmay) hlen (by rw [State.ch_setCh]; exact hst) (by rw [State.ch_setCh]; exact hseq), hwrite, State.onCh,
    State.tookFree_ch, State.ch_setCh, hraise, State.tookFree_setCh, State.setCh_setCh]
  exact ⟨_, _, evs, rs, _, _, State.respond_replies 1 0 [] (((s.ch c).secureTaken_asksAs m).trans (Channel.asksAs_of_mbx rfl m)) hm⟩

/-- What an answer to settings leaves. -/
theorem State.replies.settles {set : Settings} {x : Sec} {d : U512} {evs : List EvRec} {rs : List U16}
    (h : s.replies c m 0 ((((s.ch c).secureTaken m).setsTo set x d).withRaised evs rs) y n t) :
    (s.ch c).answered (t.ch c) m 0 ∧ (t.ch c).sec.settings = set ∧ (t.ch c).ser.setSeq = (s.ch c).ser.setSeq + 1 ∧
      (t.ch c).cfg.setSeq = (s.ch c).ser.setSeq + 1 ∧ (t.ch c).cfg.setSlot = !(s.ch c).cfg.setSlot ∧
      (let new := if (s.ch c).cfg.setSlot then (t.ch c).ser.setA else (t.ch c).ser.setB
       new.valid = true ∧ new.seq = (s.ch c).ser.setSeq + 1 ∧ new.settings = set) ∧
      (if (s.ch c).cfg.setSlot then (t.ch c).ser.setB = (s.ch c).ser.setB else (t.ch c).ser.setA = (s.ch c).ser.setA) ∧
      (t.ch c).mem = (s.ch c).mem ∧ (t.ch c).chn = (s.ch c).chn ∧ onlyChannelSent c s t := by
  obtain ⟨hsec, hmem, hser, -, hsent⟩ := h.kept
  obtain ⟨hchn, hcfg, -⟩ := h.kept_state
  have hslots := ((s.ch c).secureTaken m).setsTo_slots set x d
  obtain ⟨hser0, hmem0, hchn0, hcfg0, -⟩ := (s.ch c).secureTaken_kept m
  rw [hser0, hmem0, hchn0, hcfg0] at hslots
  generalize ((s.ch c).secureTaken m).setsTo set x d = k at *
  rw [hsec, hmem, hser, hchn, hcfg]
  obtain ⟨hset, hseq, hcfgSeq, hslot, hnew, hold, hmem1, hchn1⟩ := hslots
  exact ⟨h.answered, hset, hseq, hcfgSeq, hslot, hnew, hold, hmem1, hchn1, hsent⟩

end

/-- Settles O52: the bound session takes each object whole (`State.install_takes`), what it does with it is stated per kind, and the answer is one
of `State.replies`. -/
theorem installsAreVerifiedFirst : Obligations.InstallsAreVerifiedFirst := by
  unfold Obligations.InstallsAreVerifiedFirst
  intro c box obj bad sigOk r l s
  dsimp only
  have hm : 8 + box.val < 10 := by omega
  refine ⟨fun h hmay hok => ?_, fun h hmay hok => ?_, fun h hmay hok => ?_, fun h hmay hok => ?_, fun h hmay hrec => ?_, fun h hmay hrec => ?_,
    fun hun => ?_, fun hbound => ?_, fun h hlist => ?_, fun h hlist hclaimed hbad => ?_, fun h hlist howner hok hmay hlen hst hseq => ?_,
    exec_installWriteDone_none, exec_installWriteDone_ends, fun h hst => ?_⟩
  · exact ⟨_, (exec_fwInstall box (some obj) sigOk).trans (congrArg Host.Outcome.next ((State.install_takes _ h hmay.1
      fun hst => Or.inl (hmay.2 hst)).trans (State.fwInstalls_writes hok))), s.installs_answers c _ hm⟩
  · exact ⟨_, (exec_fwInstall box (some obj) sigOk).trans (congrArg Host.Outcome.next ((State.install_takes _ h hmay.1
      fun hst => Or.inl (hmay.2 hst)).trans (State.fwInstalls_bad hok))), s.installBad_refuses c hm⟩
  · subst hok
    exact ⟨_, (exec_repairInstall box (some obj) bad true).trans (congrArg Host.Outcome.next ((State.install_takes _ h hmay.1
      fun hst => Or.inl (hmay.2 hst)).trans (State.repairInstalls_writes bad))), s.installs_answers c _ hm⟩
  · subst hok
    exact ⟨_, (exec_repairInstall box (some obj) bad false).trans (congrArg Host.Outcome.next ((State.install_takes _ h hmay.1
      fun hst => Or.inl (hmay.2 hst)).trans (State.repairInstalls_bad bad))), s.installBad_refuses c hm⟩
  · exact ⟨_, (exec_lifecycleInstall box (some obj) sigOk).trans (congrArg Host.Outcome.next ((State.install_takes _ h hmay
      fun _ => Or.inr rfl).trans (State.lifecycleInstalls_bad hrec))), s.installBad_refuses c hm⟩
  · obtain ⟨hser, hstate, hses, hpss, hmbx, hsram, hsib⟩ := State.lifecycleInstalls_resets hrec hm
    obtain ⟨hlc, hseq, hsvn, hset, herase, hkeep⟩ := (s.ch c).ser.withRecord_kept r (BitVec.ofNat 512 s.freeVal)
    refine ⟨_, (exec_lifecycleInstall box (some obj) sigOk).trans (congrArg Host.Outcome.next (State.install_takes _ h hmay
      fun _ => Or.inr rfl)), ?_⟩
    rw [hser]
    exact ⟨hlc, hseq, hsvn, hset, herase, hkeep, hstate, hses, hpss, hmbx, hsram, hsib⟩
  · exact ⟨fun h => ⟨_, (exec_fwInstall box (some obj) sigOk).trans (congrArg Host.Outcome.next (State.install_unclaimed _ h hun)),
        s.counted_refuses c 0xA004 hm⟩,
      fun h => ⟨_, (exec_repairInstall box (some obj) bad sigOk).trans (congrArg Host.Outcome.next (State.install_unclaimed _ h hun)),
        s.counted_refuses c 0xA004 hm⟩,
      fun h => ⟨_, (exec_lifecycleInstall box (some obj) sigOk).trans (congrArg Host.Outcome.next (State.install_unclaimed _ h hun)),
        s.counted_refuses c 0xA004 hm⟩⟩
  · exact ⟨fun h => ⟨_, (exec_fwInstall box none sigOk).trans (congrArg Host.Outcome.next (State.serve_unverified _ h hbound)),
        State.sessionBad_ends hm hbound⟩,
      fun h => ⟨_, (exec_repairInstall box none bad sigOk).trans (congrArg Host.Outcome.next (State.serve_unverified _ h hbound)),
        State.sessionBad_ends hm hbound⟩,
      fun h => ⟨_, (exec_lifecycleInstall box none sigOk).trans (congrArg Host.Outcome.next (State.serve_unverified _ h hbound)),
        State.sessionBad_ends hm hbound⟩,
      fun h => ⟨_, (exec_settingsWrite box none).trans (congrArg Host.Outcome.next (State.serve_unverified _ h hbound)),
        State.sessionBad_ends hm hbound⟩⟩
  · exact ⟨_, (exec_settingsWrite box (some obj)).trans (congrArg Host.Outcome.next ((State.serve_secure_object _ h).trans
      (State.settingsWrites_none hlist))), s.secureTaken_refuses c 0x8008 hm⟩
  · exact ⟨_, (exec_settingsWrite box (some obj)).trans (congrArg Host.Outcome.next ((State.serve_secure_object _ h).trans
      (State.settingsWrites_refuses hlist (by rw [State.ch_setCh]; exact hclaimed) (by rw [State.ch_setCh]; exact hbad)))),
      s.secureTaken_refuses c 0x8008 hm⟩
  · obtain ⟨x, d, evs, rs, y, n, hrep⟩ := State.settingsWrites_answers hlist howner hok hmay hlen hst hseq hm
    exact ⟨_, (exec_settingsWrite box (some obj)).trans (congrArg Host.Outcome.next (State.serve_secure_object _ h)), hrep.settles⟩
  · obtain ⟨hser, -, hkeys, -, hlinks⟩ := ({ s.ch c with ser := (s.ch c).ser.written } : Channel).afterReset_fresh c s.ptd
    obtain ⟨-, hstate, -⟩ := ({ s.ch c with ser := (s.ch c).ser.written } : Channel).afterReset_keeps c s.ptd
    refine ⟨_, exec_installWriteDone_resets h hst, ?_⟩
    rw [State.resetChannel_lost, State.lost_ch, State.lost_ch_other _ _ _ (sibling_ne c), State.ch_setCh, State.setCh_ptd,
      State.ch_setCh_other _ _ (sibling_ne c)]
    exact ⟨hser, hstate, hkeys, hlinks, rfl⟩

end Sys2Proof.Machine
end

section
/-! PROOFS. Telemetry, the thermal trip and the reference clock (R409, R415 to R417, R421). -/

namespace Sys2Proof.Machine

/-! ### Records of the module management controller, and of a lost channel -/

/-- The port die with an event of the management controller, which records while it has power. -/
def Ptd.mmc (p : Ptd) (code : Nat) : Ptd := if p.up then p.raise code else p

theorem State.mmcEvent_eq (s : State) (code : Nat) : s.mmcEvent code = { s with ptd := s.ptd.mmc code } := by
  unfold State.mmcEvent Ptd.mmc
  split <;> rfl

/-- What a channel without power keeps of the port die is the slot, which no event moves. -/
theorem Channel.unpowered_mmc (ch : Channel) (p : Ptd) (code : Nat) : ch.unpowered (p.mmc code) = ch.unpowered p := by
  unfold Ptd.mmc
  split <;> rfl

theorem Ptd.foldl_abort_events (c : ChanId) (l : List (Nat × Nat)) (p : Ptd) :
    (l.foldl (fun (q : Ptd) e => q.abort c e.1 e.2) p).events =
      l.foldl (fun l e => l ++ [mkEvent 0xA001 (chanSrc c) 0 (some e.2) e.1]) p.events := by
  induction l generalizing p with
  | nil => rfl
  | cons e r ih => exact ih (p.abort c e.1 e.2)

theorem State.lost_events (s : State) (c : ChanId) (k : Channel) : (s.lost c k).ptd.events =
    (s.ch c).mbx.lostWork.foldl (fun l e => l ++ [mkEvent 0xA001 (chanSrc c) 0 (some e.2) e.1]) s.ptd.events := by
  rw [← Ptd.foldl_abort_events]
  unfold State.lost
  dsimp only
  split <;> rfl

theorem State.lost_free (s : State) (c : ChanId) (k : Channel) : (s.lost c k).free = s.free := s.setCh_free c k

section

variable {s : State} {c : ChanId}

/-! ### Telemetry (R409, R415, R416) -/

/-- What the sensors measure: the temperatures given, the rest from one free value. -/
def Tlm.measured (hbm jct : U16) (v : Nat) : Tlm where
  hbmMax := hbm
  jctMax := jct
  jctPcore := BitVec.ofNat 8 (v / 2 ^ 32 % 136)
  railMw := BitVec.ofNat 32 (v / 2 ^ 40)
  inputMw := BitVec.ofNat 32 (v / 2 ^ 72)
  vin := BitVec.ofNat 16 v
  iin := BitVec.ofNat 16 (v / 2 ^ 16)

theorem Tlm.measured_pcore_lt (hbm jct : U16) (v : Nat) : (Tlm.measured hbm jct v).jctPcore.toNat < 136 := by
  have hmod : v / 2 ^ 32 % 136 < 136 := Nat.mod_lt _ (by decide)
  rw [show (Tlm.measured hbm jct v).jctPcore = BitVec.ofNat 8 (v / 2 ^ 32 % 136) from rfl, BitVec.toNat_ofNat]
  exact (Nat.mod_le _ _).trans_lt hmod

/-- A channel with new temperatures and the levels they are at. -/
def Channel.heated (ch : Channel) (hbm jct : U16) (v : Nat) : Channel :=
  { ch with tlm := .measured hbm jct v, thermDerate := derateAt jct hbm, thermClear := clearAt jct hbm }

/-- The module with a channel's new telemetry, before any warning. -/
def State.heated (s : State) (c : ChanId) (hbm jct : U16) : State :=
  { s.setCh c ((s.ch c).heated hbm jct s.freeVal) with
    sup := { s.sup with vin := BitVec.ofNat 16 s.freeVal, iin := BitVec.ofNat 16 (s.freeVal / 2 ^ 16) }, free := s.free + 1 }

/-- The warning level is reached that the last update did not show. -/
def Channel.warns (ch : Channel) (hbm jct : U16) : Bool := warnAt jct hbm && !warnAt ch.tlm.jctMax ch.tlm.hbmMax

/-- The port die with the temperature alert and its record. -/
def Ptd.tempAlert (p : Ptd) : Ptd := { p with alertTemp := true }.raise 0x900B

theorem exec_tlmUpdate_gone (hbm jct : U16) (h : (s.ch c).domain.st = .off ∨ (s.ch c).chn.state = .reset) :
    exec (.tlmUpdate c hbm jct) s = .next s := if_pos h

theorem State.heated_alert (u : State) : ({ u with ptd := { u.ptd with alertTemp := u.ptd.alertTemp || u.ptd.up } } : State).mmcEvent 0x900B =
    { u with ptd := if u.ptd.up then u.ptd.tempAlert else u.ptd } := by
  rw [State.mmcEvent_eq]
  cases hup : u.ptd.up
  · rw [Bool.or_false, Ptd.mmc, if_neg (Bool.eq_false_iff.mp hup), if_neg Bool.false_ne_true]
  · rw [Bool.or_true, Ptd.mmc, if_pos hup, if_pos rfl]
    rfl

theorem exec_tlmUpdate_measures (hbm jct : U16) (h : ¬ ((s.ch c).domain.st = .off ∨ (s.ch c).chn.state = .reset)) :
    exec (.tlmUpdate c hbm jct) s = .next { s.heated c hbm jct with
      ptd := if (s.ch c).warns hbm jct && s.ptd.up then s.ptd.tempAlert else s.ptd } := by
  have hexec : exec (.tlmUpdate c hbm jct) s = .next (if (s.ch c).warns hbm jct then
      ({ s.heated c hbm jct with ptd := { (s.heated c hbm jct).ptd with
        alertTemp := (s.heated c hbm jct).ptd.alertTemp || (s.heated c hbm jct).ptd.up } } : State).mmcEvent 0x900B
      else s.heated c hbm jct) := by
    refine (if_neg h).trans ?_
    obtain rfl | rfl := ChanId.cases c <;> rfl
  have hptd : (s.heated c hbm jct).ptd = s.ptd := s.setCh_ptd c _
  rw [hexec, State.heated_alert, hptd]
  cases (s.ch c).warns hbm jct
  · obtain rfl | rfl := ChanId.cases c <;> rfl
  · rfl

/-! ### The thermal trip (R417) -/

theorem exec_thermTripTimer_void (h : (s.ch c).domain.st = .off ∨ ¬ tripAt (s.ch c).tlm.jctMax (s.ch c).tlm.hbmMax = true) :
    exec (.thermTripTimer c) s = .next s := if_pos (by simpa using h)

theorem exec_thermTripTimer_trips (hon : (s.ch c).domain.st ≠ .off) (htrip : tripAt (s.ch c).tlm.jctMax (s.ch c).tlm.hbmMax = true) :
    exec (.thermTripTimer c) s = .next (({ s with ptd := s.ptd.mmc 0x900D } : State).lost c
      { (s.ch c).unpowered s.ptd with tripLock := true }) := by
  have hexec : exec (.thermTripTimer c) s = .next (((s.mmcEvent 0x900D).channelOff c).onCh c fun k => { k with tripLock := true }) :=
    if_neg (by simp [hon, htrip])
  rw [hexec, State.mmcEvent_eq, State.channelOff_lost, ← (s.ch c).unpowered_mmc s.ptd 0x900D]
  obtain rfl | rfl := ChanId.cases c <;> rfl

/-! ### The reference clock (R421) -/

theorem exec_refclkSysLoss_gone (h : (s.ch c).domain.st = .off ∨ (s.ch c).chn.state = .reset) :
    exec (.refclkSysLoss c) s = .next (s.setCh c { s.ch c with refclkOk := false }) := if_pos h

theorem exec_refclkSysLoss_removes (h : ¬ ((s.ch c).domain.st = .off ∨ (s.ch c).chn.state = .reset)) :
    exec (.refclkSysLoss c) s = .next ((s.lost c { (s.ch c).unpowered s.ptd with refclkOk := false }).mmcEvent 0x900E) := by
  have hexec : exec (.refclkSysLoss c) s = .next (((s.setCh c { s.ch c with refclkOk := false }).channelOff c).mmcEvent 0x900E) := if_neg h
  rw [hexec, State.channelOff_lost]
  obtain rfl | rfl := ChanId.cases c <;> rfl

end

/-- Settles O56: a lost channel by the layer of the channel domain; telemetry and the clocks by what each sets. -/
theorem temperatureAndClocksStopChannels : Obligations.TemperatureAndClocksStopChannels := by
  unfold Obligations.TemperatureAndClocksStopChannels
  intro c hbm jct s
  dsimp only
  refine ⟨exec_tlmUpdate_gone hbm jct, fun hlive => ?_, exec_thermTripTimer_void, fun hon htrip => ?_, exec_refclkSysLoss_gone,
    fun hlive => ?_, rfl⟩
  · refine ⟨_, exec_tlmUpdate_measures hbm jct hlive, ?_⟩
    have hch : (s.heated c hbm jct).ch c = (s.ch c).heated hbm jct s.freeVal := s.ch_setCh c _
    have hshown : ({ s.heated c hbm jct with
        ptd := if (s.ch c).warns hbm jct && s.ptd.up then s.ptd.tempAlert else s.ptd } : State).ch c =
        (s.ch c).heated hbm jct s.freeVal := hch
    rw [hshown]
    exact ⟨rfl, rfl, Tlm.measured_pcore_lt .., rfl, rfl, rfl, rfl⟩
  · refine ⟨_, exec_thermTripTimer_trips hon htrip, State.lost_ch .., State.lost_ch_other _ _ _ (sibling_ne c), State.lost_sup ..,
      State.lost_free .., State.lost_events ..⟩
  · refine ⟨_, exec_refclkSysLoss_removes hlive, ?_⟩
    rw [State.mmcEvent_eq]
    exact ⟨State.lost_ch .., State.lost_ch_other _ _ _ (sibling_ne c), State.lost_sup .., State.lost_free .., rfl⟩

end Sys2Proof.Machine
end

section
/-! PROOFS. Doorbells and ring indices (R379, R380, R385). -/

namespace Sys2Proof.Machine

/-! ### Registers of the MBX block -/

theorem regAt_mbx {o : Nat} (hword : o % 8 = 0) (ho : o < 0x10000) : regAt (mbxBlock + o) = mbxReg o := by
  have halign : (mbxBlock + o) % 8 = 0 := by unfold mbxBlock; omega
  have hblock : (mbxBlock + o) / 0x10000 = 0x10 := by unfold mbxBlock; omega
  have hoff : (mbxBlock + o) % 0x10000 = o := by unfold mbxBlock; omega
  rw [regAt, if_pos halign, hblock, hoff]
  rfl

/-- The registers lie before the mailbox buffers. -/
theorem inMailbox_mbx {o : Nat} (ho : o + 8 ≤ 0x1000) : inMailbox (mbxBlock + o) 8 = false := by
  have hbefore : ¬ 0x1000 ≤ o ∧ ¬ 0x2000 ≤ o := by omega
  simp [inMailbox, inBoxes, hbefore]

/-- A write of an MBX register by running firmware does what the register's own write does. -/
theorem regWrites_mbx {i : Instr} {s : State} {c : ChanId} {o : Nat} {v : U64} {r : Reg}
    (hi : exec i s = .next (s.writeReg (unitOf c) .firmware (mbxBlock + o) v)) (hr : mbxReg o = some r) (hword : o % 8 = 0)
    (ho : o + 8 ≤ 0x1000) (h : fwReady s c) : regWrites i c s (r.write s c .firmware v) :=
  regWrites_of_regAt hi ((regAt_mbx hword (by omega)).trans hr) (by unfold mbxBlock; omega) (inMailbox_mbx ho) h

theorem mbxReg_bell (g k : Fin 4) : mbxReg (0x100 + 32 * g.val + 8 * k.val) = dbReg g.val (8 * k.val) := by
  have hgroup : (0x100 + 32 * g.val + 8 * k.val - 0x100) / 32 = g.val := by omega
  have hoff : (0x100 + 32 * g.val + 8 * k.val - 0x100) % 32 = 8 * k.val := by omega
  rw [mbxReg, if_neg (by omega), if_neg (by omega), if_pos (by omega), hgroup, hoff]

theorem mbxReg_ringPi (n : Fin 8) : mbxReg (0x208 + 32 * n.val) = ringReg n.val 8 := by
  have hring : (0x208 + 32 * n.val - 0x200) / 32 = n.val := by omega
  have hoff : (0x208 + 32 * n.val - 0x200) % 32 = 8 := by omega
  rw [mbxReg, if_neg (by omega), if_neg (by omega), if_neg (by omega), if_pos (by omega), hring, hoff]

theorem bv_setWidth (v : U32) : bv 32 (v.setWidth 64) 31 0 = v := by
  apply BitVec.eq_of_toNat_eq
  simp only [bv, bits, BitVec.toNat_ofNat, BitVec.toNat_setWidth]
  omega

/-! ### Notifications (R379, R380) -/

/-- The events of a channel after an outbound notification of a group in a beat. -/
def Channel.notified (ch : Channel) (c : ChanId) (beat : U48) (g : Nat) (note : U32) : List EvRec :=
  if note &&& 0xFF00FFFF = 0 then ch.events else
    ch.events ++ [mkEvent 0xA006 (chanSrc c) beat (some ((ch.db g).val.toNat + if g = 3 then 2 ^ 32 else 0)) 0]

theorem Channel.notifyOut_eq (ch : Channel) (c : ChanId) (g : Nat) (note : U32) :
    ch.notifyOut c g note = { ch with events := ch.notified c ch.evBeat g note } := by
  unfold Channel.notifyOut Channel.notified
  split <;> rfl

theorem Mbx.onDb_const (x : Mbx) (g : Nat) (f : Doorbell → Doorbell) : (x.onDb g fun _ => f (x.db g)) = x.onDb g f := by
  unfold Mbx.onDb Mbx.db
  split
  · rfl
  · split
    · rfl
    · split <;> rfl

/-- A doorbell that changes and notifies changes alone, and posts what the change left. -/
theorem Channel.onDb_notifyOut (ch : Channel) (c : ChanId) (g : Nat) (f : Doorbell → Doorbell) (note : U32) :
    ∃ k, (ch.onDb g f).notifyOut c g note = k ∧ k.db g = f (ch.db g) ∧
      k.events = ({ k with events := ch.events } : Channel).notified c ch.evBeat g note ∧
      k = { ch with mbx := ch.mbx.onDb g fun _ => k.db g, events := k.events } := by
  obtain ⟨k, hk⟩ : ∃ k, k = { ch.onDb g f with events := (ch.onDb g f).notified c ch.evBeat g note } := ⟨_, rfl⟩
  have hdb : k.db g = f (ch.db g) := by
    rw [hk]
    exact ch.db_onDb_same g f
  refine ⟨k, (Channel.notifyOut_eq ..).trans hk.symm, hdb, ?_, ?_⟩
  · rw [hk]
    rfl
  · have hmbx : (ch.mbx.onDb g fun _ => k.db g) = ch.mbx.onDb g f := by
      rw [hdb]
      exact ch.mbx.onDb_const g f
    rw [hmbx, hk]
    rfl

/-! ### Writes of the doorbell registers -/

section

variable {s : State} {c : ChanId}

/-- A doorbell register that is written with a 32-bit value. -/
theorem regWrites_bell {i : Instr} {g k : Fin 4} {v : U32} {f : State → ChanId → Writer → U32 → State}
    (hi : exec i s = .next (s.writeReg (unitOf c) .firmware (bellAt g k.val) (v.setWidth 64)))
    (hr : ∃ r, dbReg g.val (8 * k.val) = some r ∧ ∀ s c w x, r.write s c w x = f s c w (bv 32 x 31 0)) (h : fwReady s c) :
    regWrites i c s (f s c .firmware v) := by
  obtain ⟨r, hreg, hwrite⟩ := hr
  have hat : bellAt g k.val = mbxBlock + (0x100 + 32 * g.val + 8 * k.val) := by unfold bellAt; omega
  rw [hat] at hi
  have hw := regWrites_mbx hi ((mbxReg_bell g k).trans hreg) (by omega) (by omega) h
  rwa [hwrite, bv_setWidth] at hw

theorem regWrites_dbSet (g : Fin 4) (v : U32) (h : fwReady s c) :
    regWrites (.dbSet c .firmware g v) c s (s.writeDbSet c .firmware g.val v) :=
  regWrites_bell (k := 1) (f := fun s c w v => s.writeDbSet c w g.val v) rfl ⟨_, rfl, fun _ _ _ _ => rfl⟩ h

theorem regWrites_dbClr (g : Fin 4) (v : U32) (h : fwReady s c) :
    regWrites (.dbClr c .firmware g v) c s (s.writeDbClr c .firmware g.val v) :=
  regWrites_bell (k := 2) (f := fun s c w v => s.writeDbClr c w g.val v) rfl ⟨_, rfl, fun _ _ _ _ => rfl⟩ h

theorem regWrites_dbMask (g : Fin 4) (v : U32) (h : fwReady s c) :
    regWrites (.dbMask c .firmware g v) c s (s.writeDbMask c .firmware g.val v) :=
  regWrites_bell (k := 3) (f := fun s c w v => s.writeDbMask c w g.val v) rfl ⟨_, rfl, fun _ _ _ _ => rfl⟩ h

/-! ### Writes of a ring's PI -/

theorem ringReg_pi (n : Nat) : ∃ r, ringReg n 8 = some r ∧
    ∀ s c w v, r.write s c w v = s.setCh c ((s.ch c).writeRingPi c n (BitVec.ofNat 16 (bits v 15 0))) :=
  ⟨_, rfl, fun _ _ _ _ => rfl⟩

theorem regWrites_ringPi (n : Fin 8) (w : U64) (h : fwReady s c) :
    regWrites (.mbxRingPiWrite c .firmware n w) c s (s.setCh c ((s.ch c).writeRingPi c n.val (BitVec.ofNat 16 (bits w 15 0)))) := by
  obtain ⟨r, hreg, hwrite⟩ := ringReg_pi n.val
  have hi : exec (.mbxRingPiWrite c .firmware n w) s = .next (s.writeReg (unitOf c) .firmware (mbxBlock + (0x208 + 32 * n.val)) w) := by
    rw [← Nat.add_assoc]
    rfl
  rw [← hwrite s c .firmware w]
  exact regWrites_mbx hi ((mbxReg_ringPi n).trans hreg) (by omega) (by omega) h

theorem Channel.writeRingPi_taken {ch : Channel} {n : Nat} {pi : U16} (h : (pi - (ch.ring n).ci).toNat ≤ 2 ^ (ch.ring n).log) :
    ch.writeRingPi c n pi = ch.onRing n fun x => { x with pi := pi } := if_neg (not_lt.mpr h)

theorem Channel.writeRingPi_beyond {ch : Channel} {n : Nat} {pi : U16} (h : 2 ^ (ch.ring n).log < (pi - (ch.ring n).ci).toNat) :
    ch.writeRingPi c n pi = { ch with events := ch.events ++
      [{ mkEvent 0xA005 (chanSrc c) ch.evBeat (some n) 0 with cls := 0 }] } := if_pos h

theorem Channel.ring_onRing_same (ch : Channel) (n : Nat) (f : Ring → Ring) : (ch.onRing n f).ring n = f (ch.ring n) := smGet_smMod_same ..

theorem Channel.ring_onRing_other (ch : Channel) {n m : Nat} (f : Ring → Ring) (h : m ≠ n) : (ch.onRing n f).ring m = ch.ring m :=
  smGet_smMod_other _ _ _ h

end

/-- Settles O31: a doorbell's notification posts what the write left, and a ring's PI is a matter of its ring alone. -/
theorem doorbellAndRingWrites : Obligations.DoorbellAndRingWrites := by
  unfold Obligations.DoorbellAndRingWrites
  intro c g ring v w s
  dsimp only
  intro h
  have hinbound (hg : ¬ (g.val = 1 ∨ g.val = 3)) : g.val = 0 ∨ g.val = 2 := by omega
  have houtbound (hg : g.val = 1 ∨ g.val = 3) : ¬ (g.val = 0 ∨ g.val = 2) := by omega
  have hset := regWrites_dbSet g v h
  have hclr := regWrites_dbClr g v h
  have hmask := regWrites_dbMask g v h
  refine ⟨fun hg => ?_, fun hg => ?_, ?_, fun hg => ?_, fun hg hnote => ?_, fun hfits => ?_, fun hbeyond => ?_⟩
  · rw [State.writeDbSet, if_neg (houtbound hg), if_pos rfl] at hset
    obtain ⟨k, hk, hdb, hevents, hframe⟩ := (s.ch c).onDb_notifyOut c g.val
      (fun d => { d with val := d.val ||| v &&& usedBits g.val }) (v &&& usedBits g.val &&& ~~~((s.ch c).db g.val).val &&& ~~~((s.ch c).db g.val).mask)
    have hout : s.onCh c (fun ch => ch.setOut c g.val v) = s.setCh c k := congrArg (s.setCh c) hk
    rw [hout] at hset
    refine ⟨_, hset, ?_⟩
    rw [State.ch_setCh]
    exact ⟨hdb, hevents, congrArg (s.setCh c) hframe⟩
  · rw [State.writeDbSet, if_pos (hinbound hg)] at hset
    exact hset
  · rw [State.writeDbClr, if_neg (by simp)] at hclr
    exact hclr
  · rw [State.writeDbMask, if_neg (by decide)] at hmask
    dsimp only at hmask
    rw [if_neg (houtbound hg), State.onCh_onCh] at hmask
    obtain ⟨k, hk, hdb, hevents, hframe⟩ := (s.ch c).onDb_notifyOut c g.val
      (fun d => { d with mask := v &&& usedBits g.val }) (((s.ch c).db g.val).val &&& ((s.ch c).db g.val).mask &&& ~~~(v &&& usedBits g.val))
    have hout : s.onCh c (fun ch => (ch.onDb g.val fun d => { d with mask := v &&& usedBits g.val }).notifyOut c g.val
        (((s.ch c).db g.val).val &&& ((s.ch c).db g.val).mask &&& ~~~(v &&& usedBits g.val))) = s.setCh c k := congrArg (s.setCh c) hk
    rw [hout] at hmask
    refine ⟨_, hmask, ?_⟩
    rw [State.ch_setCh]
    exact ⟨hdb, hevents, congrArg (s.setCh c) hframe⟩
  · rw [State.writeDbMask, if_neg (by decide)] at hmask
    dsimp only at hmask
    rw [if_pos (hinbound hg), hnote, State.notifyIn_zero] at hmask
    exact hmask
  · have hpi := regWrites_ringPi ring w h
    rw [Channel.writeRingPi_taken hfits] at hpi
    refine ⟨_, hpi, ?_⟩
    rw [State.ch_setCh]
    exact ⟨Channel.ring_onRing_same .., fun n hn => Channel.ring_onRing_other _ _ hn, rfl⟩
  · have hpi := regWrites_ringPi ring w h
    rw [Channel.writeRingPi_beyond hbeyond] at hpi
    exact hpi

end Sys2Proof.Machine
end

section
/-! PROOFS. Event records: posted, retained, dropped (R387 to R389). -/

namespace Sys2Proof.Machine

/-! ### A queue that takes a record -/

section

variable {q : EvQueue} {p : Ptd} {target : Option Nat} {ch : Option ChanId} {module : BitVec 14}

theorem EvQueue.ready_iff : q.ready p target = true ↔
    q.en = true ∧ (q.pi - q.ci).toNat < q.size ∧ p.qpCarries q.qpn.toNat target = true := by
  simp [EvQueue.ready, and_assoc]

theorem EvQueue.flush_empty (h : q.retained = []) : EvQueue.flush p target ch module q.retained q = (q, []) := by
  obtain ⟨⟩ := q
  cases h
  rfl

theorem EvQueue.flush_notReady (h : q.ready p target = false) : EvQueue.flush p target ch module q.retained q = (q, []) := by
  cases hret : q.retained with
  | nil => rw [← hret, EvQueue.flush_empty hret]
  | cons e r =>
    have hstay : EvQueue.flush p target ch module (e :: r) q = ({ q with retained := e :: r }, []) := if_neg (Bool.eq_false_iff.mp h)
    rw [hstay, ← hret]

theorem EvQueue.take_ready (e : EvRec) (hret : q.retained = []) (h : q.ready p target = true) :
    EvQueue.take p target ch module q e = ((q.post ch e false module).1, [(q.post ch e false module).2], false) := by
  have hflush := EvQueue.flush_empty (p := p) (target := target) (ch := ch) (module := module) hret
  rw [EvQueue.take, hflush]
  exact if_pos (by simp [hret, h])

theorem EvQueue.take_notReady (e : EvRec) (h : q.ready p target = false) :
    EvQueue.take p target ch module q e = ((q.keep e).1, [], (q.keep e).2) := by
  have hflush := EvQueue.flush_notReady (ch := ch) (module := module) h
  rw [EvQueue.take, hflush]
  exact if_neg (by simp [h])

theorem EvQueue.keep_room (e : EvRec) (h : q.retained.length < 1024) : q.keep e = ({ q with retained := q.retained ++ [e] }, false) := if_pos h

theorem EvQueue.keep_full (e : EvRec) (h : 1024 ≤ q.retained.length) : q.keep e = ({ q with loss := true }, true) := if_neg (not_lt.mpr h)

end

/-! ### Queues of a channel -/

theorem Channel.queue_setQueue_same (ch : Channel) (n : Nat) (q : EvQueue) : (ch.setQueue n q).queue n = q := smGet_smSet_same ..

theorem Channel.queue_setQueue_other (ch : Channel) {n m : Nat} (q : EvQueue) (h : m ≠ n) : (ch.setQueue n q).queue m = ch.queue m :=
  smGet_smSet_other _ _ _ h

/-- A channel whose oldest event has gone to the queue of its class, which has become `x.1`, sent `x.2.1`, and dropped it when `x.2.2`. -/
def Channel.tookEvent (ch : Channel) (rest : List EvRec) (n : Nat) (x : EvQueue × List Out × Bool) : Channel :=
  { ch with
    events := rest
    mbx := { ch.mbx with
      queues := smSet {} ch.mbx.queues n x.1
      db1 := if x.2.1.isEmpty then ch.mbx.db1 else { ch.mbx.db1 with val := ch.mbx.db1.val ||| BitVec.ofNat 32 (2 ^ (16 + n)) }
      eqDrop := if x.2.2 then satAdd ch.mbx.eqDrop 1 else ch.mbx.eqDrop } }

/-- The class bit is set when something was sent. -/
theorem Channel.tookEvent_eq (ch : Channel) (rest : List EvRec) (n : Nat) (x : EvQueue × List Out × Bool) :
    (let k := ({ ch with events := rest }.setQueue n x.1).classBit n (!x.2.1.isEmpty)
     { k with mbx := { k.mbx with eqDrop := if x.2.2 then satAdd k.mbx.eqDrop 1 else k.mbx.eqDrop } }) = ch.tookEvent rest n x := by
  unfold Channel.tookEvent Channel.classBit
  cases x.2.1 <;> rfl

section

variable {s : State} {c : ChanId}

theorem State.emitAll_nil (t : State) : t.emitAll [] = t := by
  rw [State.emitAll, List.append_nil]

theorem State.flushQueue_dead (n : Nat) (h : (s.ch c).dead = true) : s.flushQueue c n = s := if_pos h

/-- Nothing retained: the queue is as it was, and nothing is sent. -/
theorem State.flushQueue_empty {n : Nat} (h : ((s.ch c).queue n).retained = []) : ∃ k, s.flushQueue c n = s.setCh c k ∧
    (∀ m : Nat, k.queue m = (s.ch c).queue m) ∧ k.mem = (s.ch c).mem := by
  by_cases hdead : (s.ch c).dead = true
  · exact ⟨s.ch c, (State.flushQueue_dead n hdead).trans (s.setCh_ch c).symm, fun _ => rfl, rfl⟩
  · refine ⟨(s.ch c).setQueue n ((s.ch c).queue n), ?_, fun m => ?_, rfl⟩
    · have hflush := EvQueue.flush_empty (p := s.ptd) (target := some c.val) (ch := some c) (module := (s.ch c).chn.moduleId) h
      rw [State.flushQueue]
      dsimp only
      rw [if_neg hdead, hflush]
      exact State.emitAll_nil _
    · rcases eq_or_ne m n with rfl | hne
      · exact Channel.queue_setQueue_same ..
      · exact Channel.queue_setQueue_other _ _ hne

theorem State.postChannel_dead (h : (s.ch c).dead = true) : s.postChannel c = s := by
  unfold State.postChannel
  dsimp only
  cases (s.ch c).events with
  | nil => exact List.foldl_fixed' (f := fun (r : State) n => r.flushQueue c n) (fun n => State.flushQueue_dead n h) _
  | cons e rest => exact if_pos h

theorem State.postChannel_takes {e : EvRec} {rest : List EvRec} {d : U64} (hdead : (s.ch c).dead = false) (hevents : (s.ch c).events = e :: rest)
    (hdetail : e.detail = some d) {x : EvQueue × List Out × Bool}
    (hx : EvQueue.take s.ptd (some c.val) (some c) (s.ch c).chn.moduleId ((s.ch c).queue e.cls) e = x) :
    s.postChannel c = (s.setCh c ((s.ch c).tookEvent rest e.cls x)).emitAll x.2.1 := by
  have hfree : ¬ e.detail.isNone = true := by simp [hdetail]
  unfold State.postChannel
  dsimp only
  rw [hevents]
  dsimp only
  rw [if_neg (Bool.eq_false_iff.mp hdead), if_neg hfree, if_neg hfree, hx]
  exact congrArg (fun k => (s.setCh c k).emitAll x.2.1) (Channel.tookEvent_eq (s.ch c) rest e.cls x)

/-- What becomes of an event that a channel takes, whether its queue sends it or not. -/
theorem State.postChannel_took {ch : Channel} (hch : s.ch c = ch) {rest : List EvRec} {n : Nat} {x : EvQueue × List Out × Bool} {t : State}
    (ht : t = (s.setCh c (ch.tookEvent rest n x)).emitAll x.2.1) :
    ((t.ch c).events = rest ∧ (t.ch c).queue n = x.1 ∧ (∀ m : Nat, m ≠ n → (t.ch c).queue m = ch.queue m) ∧ (t.ch c).mem = ch.mem ∧
      (t.ch c).tsk = ch.tsk ∧ onlyChannelSent c s t) ∧ t.out = s.out ++ x.2.1 ∧
      (t.ch c).mbx.eqDrop = (if x.2.2 then satAdd ch.mbx.eqDrop 1 else ch.mbx.eqDrop) ∧
      (x.2.1 ≠ [] → ((t.ch c).db 1).val = (ch.db 1).val ||| BitVec.ofNat 32 (2 ^ (16 + n))) := by
  have htch : t.ch c = ch.tookEvent rest n x := by rw [ht, State.emitAll_ch, State.ch_setCh]
  have hout : t.out = s.out ++ x.2.1 := by rw [ht, State.emitAll, State.setCh_out]
  have honly : onlyChannelSent c s t := by
    rw [ht]
    obtain rfl | rfl := ChanId.cases c <;> rfl
  rw [htch]
  refine ⟨⟨rfl, smGet_smSet_same .., fun m hm => smGet_smSet_other _ _ _ hm, rfl, rfl, honly⟩, hout, rfl, fun hsent => ?_⟩
  have hne : ¬ x.2.1.isEmpty = true := by simpa using hsent
  exact congrArg Doorbell.val (if_neg hne)

/-! ### A write of CI (R388) -/

theorem State.writeEqCi_unitOf (n : Nat) (v : U32) : s.writeEqCi (chanIsland c) n v =
    (s.setCh c ((s.ch c).setQueue n { (s.ch c).queue n with ci := v })).flushQueue c n := by
  rw [State.writeEqCi, chanIsland_unitOf, islandChan_unitOf]
  rfl

theorem mbxReg_eqIndex (n : Fin 8) : mbxReg (0x410 + 32 * n.val) = eqReg n.val 16 := by
  have hqueue : (0x410 + 32 * n.val - 0x400) / 32 = n.val := by omega
  have hoff : (0x410 + 32 * n.val - 0x400) % 32 = 16 := by omega
  rw [mbxReg, if_neg (by omega), if_neg (by omega), if_neg (by omega), if_neg (by omega), if_pos (by omega), hqueue, hoff]

theorem regWrites_eqCi (n : Fin 8) (v : U64) (h : fwReady s c) :
    regWrites (.mbxEqCiWrite (unitOf c) .firmware (n.castLE (by decide)) v) c s
      (s.writeEqCi (chanIsland c) n.val (BitVec.ofNat 32 (bits v 31 0))) := by
  obtain ⟨r, hreg, hwrite⟩ : ∃ r, eqReg n.val 16 = some r ∧
      ∀ s c w v, r.write s c w v = s.writeEqCi (chanIsland c) n.val (BitVec.ofNat 32 (bits v 31 0)) := ⟨_, rfl, fun _ _ _ _ => rfl⟩
  have hunit : ¬ unitOf c = 2 := by obtain rfl | rfl := ChanId.cases c <;> decide
  have hi : exec (.mbxEqCiWrite (unitOf c) .firmware (n.castLE (by decide)) v) s =
      .next (s.writeReg (unitOf c) .firmware (mbxBlock + (0x410 + 32 * n.val)) v) := by
    rw [← Nat.add_assoc]
    exact if_neg hunit
  rw [← hwrite s c .firmware v]
  exact regWrites_mbx hi ((mbxReg_eqIndex n).trans hreg) (by omega) (by omega) h

/-- A CI write to a queue that retains nothing. -/
theorem State.writeEqCi_empty {n : Nat} (v : U32) (h : ((s.ch c).queue n).retained = []) : ∃ k,
    s.writeEqCi (chanIsland c) n v = s.setCh c k ∧ k.queue n = { (s.ch c).queue n with ci := v } ∧
      (∀ m : Nat, m ≠ n → k.queue m = (s.ch c).queue m) ∧ k.mem = (s.ch c).mem := by
  set l := (s.ch c).setQueue n { (s.ch c).queue n with ci := v } with hl
  have hempty : (((s.setCh c l).ch c).queue n).retained = [] := by
    rw [State.ch_setCh, hl, Channel.queue_setQueue_same]
    exact h
  obtain ⟨k, hflush, hqueues, hmem⟩ := State.flushQueue_empty hempty
  rw [State.ch_setCh] at hqueues hmem
  refine ⟨k, ?_, ?_, fun m hm => ?_, hmem⟩
  · rw [State.writeEqCi_unitOf, hflush, State.setCh_setCh]
  · rw [hqueues, hl, Channel.queue_setQueue_same]
  · rw [hqueues, hl, Channel.queue_setQueue_other _ _ hm]

end

/-- Settles O32: what the oldest event becomes is what its queue takes; a CI write moves the index alone where nothing is retained. -/
theorem eventRecordsArePosted : Obligations.EventRecordsArePosted := by
  unfold Obligations.EventRecordsArePosted
  intro c e rest v cls d s
  dsimp only
  have hpost : exec (.eventRecordPost (unitOf c)) s = .next (s.postChannel c) := by
    obtain rfl | rfl := ChanId.cases c <;> rfl
  have hready : ((s.ch c).queue e.cls).ready s.ptd (some c.val) = true ↔ _ := EvQueue.ready_iff
  rw [hpost]
  refine ⟨fun hdead => congrArg _ (State.postChannel_dead hdead), fun hdead hevents hdetail hret htake => ?_,
    fun hdead hevents hdetail hroom hwait => ?_, fun hdead hevents hdetail hfull hwait => ?_, fun h hret => ?_, fun h => if_pos h,
    fun hon hst => if_neg (not_or.mpr ⟨hon, hst⟩)⟩
  · have hx := EvQueue.take_ready (ch := some c) (module := (s.ch c).chn.moduleId) e hret (hready.mpr htake)
    obtain ⟨htook, hout, -, hbit⟩ := State.postChannel_took rfl (State.postChannel_takes hdead hevents hdetail hx)
    exact ⟨_, rfl, htook, hout, hbit (List.cons_ne_nil _ _)⟩
  · have hx := EvQueue.take_notReady (ch := some c) (module := (s.ch c).chn.moduleId) e (Bool.eq_false_iff.mpr (mt hready.mp hwait))
    rw [EvQueue.keep_room e hroom] at hx
    obtain ⟨htook, hout, hdrop, -⟩ := State.postChannel_took rfl (State.postChannel_takes hdead hevents hdetail hx)
    exact ⟨_, rfl, htook, hout.trans (List.append_nil _), hdrop⟩
  · have hx := EvQueue.take_notReady (ch := some c) (module := (s.ch c).chn.moduleId) e (Bool.eq_false_iff.mpr (mt hready.mp hwait))
    rw [EvQueue.keep_full e hfull] at hx
    obtain ⟨htook, hout, hdrop, -⟩ := State.postChannel_took rfl (State.postChannel_takes hdead hevents hdetail hx)
    exact ⟨_, rfl, htook, hout.trans (List.append_nil _), hdrop⟩
  · obtain ⟨k, hwrite, hqueue, hothers, hmem⟩ := State.writeEqCi_empty (BitVec.ofNat 32 (bits v 31 0)) hret
    have hexec := regWrites_eqCi cls v h
    rw [hwrite] at hexec
    have hch : ((s.setCh c k).emit (.csrStatus (unitOf c) .ok)).ch c = k := s.ch_setCh c k
    refine ⟨_, hexec, ?_, ?_⟩
    · rw [State.emit_out, State.setCh_out]
    · rw [hch]
      exact ⟨hqueue, hothers, hmem, (onlyChannelSent_setCh s c k).trans (onlyChannelSent_emit _ c _)⟩

end Sys2Proof.Machine
end
